-- ==== Sys2Proof/Word.lean ====
section
/-! DEFINITION. The machine words of the TD-1680: bytes, 32-bit registers, and the 40-bit uptime. -/

namespace Sys2Proof

/-- One byte of a store or of a frame. -/
abbrev Byte := BitVec 8

/-- One register of the window; every register is 32 bits wide (R87). -/
abbrev Word := BitVec 32

/-- SYS uptime in microseconds, 40 bits wide (R84). -/
abbrev Time := BitVec 40

/-- Bits `[lo + w - 1 : lo]` of a number. -/
def bitsOf (x lo w : Nat) : Nat := x / 2 ^ lo % 2 ^ w

/-- Bit `k` of a number, as a Boolean. -/
def bitAt (x k : Nat) : Bool := x / 2 ^ k % 2 == 1

/-- A number as `n` bytes, most significant first. -/
def bytesBE : Nat → Nat → List Byte
  | 0, _ => []
  | n + 1, x => BitVec.ofNat 8 (x / 2 ^ (8 * n)) :: bytesBE n x

/-- The number that a list of bytes spells, most significant first. -/
def natBE (bs : List Byte) : Nat := bs.foldl (fun a b => a * 256 + b.toNat) 0

/-- A number as `n` bytes, least significant first. -/
def bytesLE : Nat → Nat → List Byte
  | 0, _ => []
  | n + 1, x => BitVec.ofNat 8 x :: bytesLE n (x / 256)

/-- The number that a list of bytes spells, least significant first. -/
def natLE : List Byte → Nat
  | [] => 0
  | b :: bs => b.toNat + 256 * natLE bs

/-- `x + 1`, held at the largest value of `w` bits (a saturating counter). -/
def satInc (w x : Nat) : Nat := if x + 1 < 2 ^ w then x + 1 else 2 ^ w - 1

/-- `x + k`, held at the largest value of `w` bits. -/
def satAdd (w x k : Nat) : Nat := if x + k < 2 ^ w then x + k else 2 ^ w - 1

/-- Exactly `n` bytes: the list cut short, or filled with zero bytes. -/
def padTo (n : Nat) (bs : List Byte) : List Byte := (bs ++ List.replicate (n - bs.length) 0).take n

end Sys2Proof
end

