-- ==== Sys2Proof/Syntax.lean ====
section
/-! DEFINITION. The commands of the TD-1680: one constructor per row of spec/opcode_table.json, with the
operands the spec gives the step.  A command is whole and indivisible; what the outside world decides
(levels on balls, frames and units received, results of the flash dies, host memory) is an operand. -/

namespace Sys2Proof

/-- The MRAM write pulse that a pull cut (R25): the request, by its place in the order of arrival; for each word it
writes, the bits that have taken their new value; and, bit by bit, the words that read uncorrectable. -/
structure TornLine where
  req : Nat
  masks : List Nat
  bad : Nat
  deriving DecidableEq, Repr

/-- What a pull leaves of a block whose program or erase it cut (R25): the LUN; the pages that then do not decode.
The pages lie on the target wordline of a program and the one below it, or anywhere in the block of an erase. -/
structure CutBlock where
  lun : Nat
  pages : List Nat
  deriving DecidableEq, Repr

/-- A command frame of a Spantoen port after its start, direction and opcode (R174): instance, tag,
48-bit argument, epoch and the 24-bit MAC. -/
structure Cmd where
  inst : Nat
  tag : Nat
  arg : Nat
  epoch : Nat
  mac : Nat
  deriving DecidableEq, Repr

/-- A line frame as it is received (R152): its start bit, its 514 bytes, its check, and its end bit. -/
structure LineIn where
  start : Bool
  bytes : List Byte
  check : Nat
  fin : Bool
  deriving DecidableEq, Repr

/-- A unit as received: the line frames of SDAT_0 to SDAT_7. -/
structure UnitIn where
  lines : List LineIn
  deriving DecidableEq, Repr

/-- What the flash path returns for one unit of a read (R324): 0 hard decode, 1 after read retry,
2 soft decode, 3 failed; the retry step used; whether soft decode needed the 6-read set; the corrected bits per 1 KiB;
whether a rebuild from parity succeeds; and, when the flash holds something else than the card programmed there, the 4096 data
bytes and 32 metadata bytes it returns. -/
structure MediaRead where
  ladder : Nat := 0
  step : Nat := 0
  wide : Bool := false
  corrected : Nat := 0
  rebuilt : Bool := true
  other : Option (List Byte × List Byte) := none
  deriving DecidableEq, Repr

/-- A response frame with its card status frame, as the dock receives them (R176, R178). -/
structure RespIn where
  tag : Nat
  st : Nat
  info : Nat
  flags : Nat
  kind : Nat
  token : Nat
  rseq : Nat
  rmac : Nat
  deriving DecidableEq, Repr

/-- A register of the configuration space of a function by its name (R201, R204): the spec gives no offsets of
capabilities. Log 160 (DESIGN CHOICE). -/
inductive CfgReg where
  /-- Vendor ID `[15:0]` and Device ID `[31:16]` -/
  | ids
  /-- Revision ID `[7:0]` and class code `[31:8]` -/
  | revClass
  /-- Subsystem Vendor ID `[15:0]` and Subsystem ID `[31:16]` -/
  | subsystem
  /-- Device Control: Max Payload Size `[7:5]`, Max Read Request Size `[14:12]` -/
  | devCtl
  /-- Device Control 2: Completion Timeout Value `[3:0]`, Completion Timeout Disable `[4]` -/
  | devCtl2
  /-- Power Management Control/Status: PowerState `[1:0]` -/
  | pmCsr
  /-- MSI-X Message Control in `[31:16]`: Table Size `[26:16]`, Function Mask `[30]`, MSI-X Enable `[31]` -/
  | msixCtl
  /-- MSI-X table offset and BAR indicator -/
  | msixTable
  /-- Pending Bit Array offset and BAR indicator -/
  | msixPba
  /-- SR-IOV: InitialVFs `[15:0]` and TotalVFs `[31:16]` -/
  | vfTotals
  /-- SR-IOV: First VF Offset `[15:0]` and VF Stride `[31:16]` -/
  | vfStride
  /-- SR-IOV: VF Device ID `[31:16]` -/
  | vfDevice
  /-- SR-IOV: Supported Page Sizes -/
  | pageSizes
  /-- AER Capabilities and Control: ECRC Generation Enable `[6]`, ECRC Check Enable `[8]` -/
  | aerCtl
  /-- AER header log, dword `i` -/
  | aerHeader (i : Nat)
  deriving DecidableEq, Repr

/-- The path a register access takes (R88, R205): the register window in BAR0 of the PF, BAR2 of the PF, the BAR of
VF n, a configuration register of a function, the card's Spantoen link, or the Counlet channel.  An offset counts
from the start of the BAR, or of the register window. -/
inductive Path where
  | pf
  | pf2
  | vf (n : Nat)
  | cfg (fn : Nat) (r : CfgReg)
  | link
  | counlet
  deriving DecidableEq, Repr

/-- What a tuning sweep meets on one mode (R161): for each of the 64 taps the tuning frames that the dock received on
the eight lines, and INFO of the card's answer to TUNE_WR; then INFO of the last TUNE_WR. -/
structure Sweep where
  rd : List (List Nat)
  wr : List Nat
  finalInfo : Nat
  deriving DecidableEq, Repr

/-- What the host answers a memory read with (R212): the bytes, an unsuccessful completion, or
poisoned data. -/
inductive HostData where
  | data (bytes : List Byte)
  | unsuccessful
  | poisoned
  deriving DecidableEq, Repr

/-- What one LUN answers during media attach (R318): it reads ready within 5 ms of its RESET, it identifies within the
limits of R289, R317 and the parameter record, and `sys` are its good system blocks that may hold firmware copies, the
parameter record's own left out (R443). -/
structure LunIn where
  ready : Bool
  fits : Bool
  sys : List Nat := [1, 2, 3]
  deriving DecidableEq, Repr

/-- What a bring-up step finds outside the part: only the fields of the step that ends are used.
`loop` holds the 32 half samples of each of the sixteen words of step 5; `pages` says, for each page
read-verified by the recovery of R30, whether it decodes; `blockPages` is P, `blocks` the blocks of a LUN, `good` the good blocks of
the two halves, `param` whether a parameter record is valid and `retries` its read-retry steps, `rates` for each channel the
rates that all its LUNs advertise, as bits by the codes of MAX_RATE, and `taps` the centres its read and write deskew find,
as DESKEW_RD and DESKEW_WR hold them. -/
structure StepIn where
  pllLocked : Bool := true
  fuseOk : Bool := true
  loop : List Nat := []
  switchHigh : Bool := false
  katOk : Bool := true
  luns : List LunIn := []
  pages : List Bool := []
  blockPages : Nat := 384
  blocks : Nat := 0
  good : Nat × Nat := (0, 0)
  param : Bool := true
  retries : Nat := 15
  rates : List Nat := []
  taps : List (Nat × Nat) := []
  deriving DecidableEq, Repr

/-- Log 1 (DESIGN CHOICE). -/
inductive Instr where
  /-- Power vanishes with no warning through a pull or a loss of supply; only the line or wordline being written may be damaged, and volatile contents are lost. (R25) -/
  | supplyLoss (served : List Nat) (torn : Option TornLine) (hurt : List CutBlock)
  /-- The power-on clear releases 21 to 30 ms after VDD_AON and VDDIO_AUX rise, ROLE_SEL is sampled and bring-up starts at step 1. (R48) -/
  | powerOnClearRelease
  /-- A filtered low level on RST_N is honoured as a chip reset that holds the chip in step 0. (R68) -/
  | rstNLow (ns : Nat) (served : List Nat) (pulse : Bool)
  /-- Release of an honoured RST_N samples ROLE_SEL and starts bring-up once the deferral has ended. (R68) -/
  | rstNRelease
  /-- A pending reset takes effect once the MRAM write pulse or fuse burn in progress has ended, at most 12 µs after it arrived. (R72) -/
  | resetDeferEnd (tenNs : Nat)
  /-- A level change on ROLE_SEL while running keeps the latched role and fires EV_SYS_STRAP_MISMATCH. (R84) -/
  | roleSelChange (level : Bool)
  /-- The current bring-up step ends and the sequencer starts the next step, up to READY or READY_LOCKED. (R61) -/
  | bringupStepDone (e : StepIn)
  /-- Writing 0xD1E5 to RST.CHIP_RST starts a chip reset after the carrying write completes, acting as a RST_N pulse. (R69) -/
  | chipRst (key : Nat) (served : List Nat) (pulse : Bool)
  /-- A bridge handshake waits 4096 cycles of its own clock without completing, so the bridge enters DISCONNECTED and the far island is fenced and reset. (R12) -/
  | bridgeTimeout (waiting far : Nat)
  /-- The reset of an island behind a DISCONNECTED bridge ends, and the bridge reconnects. (R12) -/
  | islandResetDone (isl : Nat)
  /-- An island with idle gating enabled gates its clock after 64 idle cycles, and ungates within 2 cycles of a request. (R424) -/
  | islandIdleGate (i : Nat) (gate : Bool)
  /-- The main PLL loses lock, so the PLL-clocked islands are held with their bridges parked while relock is attempted. (R427) -/
  | pllLockLoss
  /-- A relock attempt ends: on success the islands resume, and after a third failure the parks are released, leading to the safe state. (R427) -/
  | pllRelockResult (locked : Bool)
  /-- Every 1 ms AON measures its own and the FLT oscillator against the reference and fires drift events. (R426) -/
  | oscMeasure (aonKhz flt100Khz : Nat) (xin : Bool)
  /-- Writing PG_CTRL.BLK_RST_REQ resets the block if it is quiesced; otherwise RST_REFUSED is set. (R76) -/
  | blkRstReq (page : Nat)
  /-- A block reset ends after at most 100 µs, clearing RST_BUSY and firing EV_RST_BLK_DONE. (R76) -/
  | blockResetDone (page : Nat)
  /-- Writing PG_CTRL.ENABLE takes the block out of service by quiescing and gating it, or restarts it. (R96) -/
  | pgCtrlEnable (page : Nat) (on : Bool)
  /-- Writing PG_CTRL.QUIESCE_REQ makes the block stop accepting new work and finish the work in flight, or resume. (R96) -/
  | quiesceReq (page : Nat) (on : Bool)
  /-- A quiescing block finishes its work in flight and sets QUIESCED. (R96) -/
  | blockQuiesced (page : Nat)
  /-- Writing PG_CTRL.FENCE_REQ sets or ends a software fence of the block without recording a fault. (R96) -/
  | fenceReq (page : Nat) (on : Bool)
  /-- Setting PG_LOCK.LOCK makes every RWL field of the page read-only until the page next resets. (R101) -/
  | pgLock (page : Nat)
  /-- Writing 1 to an EVT_PEND bit clears both the PEND bit and the RAW bit. (R98) -/
  | evtPendClear (page mask : Nat)
  /-- Setting an EVT_MASK bit while RAW is set and PEND is clear delivers the event once. (R98) -/
  | evtMaskWrite (page mask : Nat)
  /-- Writing EVT_SET fires the event with its TEST bit set in the ring record. (R98) -/
  | evtSet (page mask : Nat)
  /-- Writing 0x5A1D to INJ_ARM arms the next write of INJ_CTRL for 1 ms. (R100) -/
  | injArm (page key : Nat)
  /-- An injection arm lapses 1 ms after the arming write. (R100) -/
  | injArmExpiry (page : Nat)
  /-- An armed write of INJ_CTRL selects a checker whose next check bits are inverted. (R100) -/
  | injCtrl (page word : Nat)
  /-- Writing EVT.RING_TAIL consumes event records, clamped at RING_HEAD. (R110) -/
  | ringTail (index : Nat)
  /-- Writing 0xC1EA to RING_CLR empties the event ring. (R110) -/
  | ringClr (key : Nat)
  /-- Reading the low word of a wide register, such as SYS.UPTIME_LO, latches its high word. (R90) -/
  | uptimeLoRead (path : Path) (off bytes : Nat)
  /-- The 40-bit uptime counter passes from all ones to zero and fires EV_SYS_UPTIME_WRAP. (R84) -/
  | uptimeWrap
  /-- A change on an enabled GPIO input raises EV_SYS_GPIO_EDGE. (R84) -/
  | gpioEdge (levels : Nat)
  /-- A full-word write to a register with no row of its own sets its writable fields by access type. (R91) -/
  | registerWrite (path : Path) (off value be : Nat)
  /-- An I²C write to address 0x56 sets the status-block pointer, and further bytes are not acknowledged. (R54) -/
  | i2cWrite (bytes : List Nat)
  /-- An I²C read returns status-block bytes from the pointer, wrapping from 0x0F to 0x00. (R54) -/
  | i2cRead (n : Nat)
  /-- An instruction loaded through the JTAG port selects boundary scan, identification or bypass, with EXTEST, CLAMP and HIGHZ acting only while RST_N is low. (R53) -/
  | jtagInstruction (code : Nat) (scan : List Bool)
  /-- A lease reaches 2 ms without renewal and expires; the standby takes over if one is present. (R79) -/
  | leaseExpiry (n us : Nat)
  /-- The standby processor misses its heartbeat for 2 ms, so it is fenced and reset. (R78) -/
  | standbyHeartbeatMiss
  /-- A management processor passes its self-check and becomes ACTIVE or STANDBY, or fails and is reset. (R78) -/
  | mpSelfCheckDone (mp : Bool) (pass : Bool) (slotOk : Nat)
  /-- With no processor ACTIVE holding every lease for the watchdog period, the chip resets and bring-up restarts at step 5. (R82) -/
  | mpWatchdogExpiry (served : List Nat) (pulse : Bool)
  /-- A fault source detects its cause, so the collector sets STATUS, writes history, fences the fence unit and drives FAULT_N low. (R404) -/
  | faultDetected (src x syn : Nat) (injected : Bool)
  /-- The fence action of a fault ends and FENCING clears. (R413) -/
  | fenceActionDone (src : Nat) (holds : Bool)
  /-- The lull timer of a source reaches its lull, so the source recovers and its unit is restored, or it latches when the window limit is exceeded. (R410) -/
  | lullExpiry (src : Nat)
  /-- A keyed write of FLT.CLEAR clears one source if its cause is deasserted and its fence action has ended, or refuses. (R410) -/
  | fltClearSource (key src : Nat)
  /-- A keyed write of FLT.CLEAR with ALL tries to clear every source with STATUS set, in ascending order. (R410) -/
  | fltClearAll (key : Nat)
  /-- Each loop period a 16-bit code word is sent on TMP_EXC and checked on TAMPER_A, and MISS bad words latch a tamper. (R376) -/
  | tamperLoopWord (halves : Nat) (served : List Nat)
  /-- TAMPER_B reads high for the debounce time and latches a tamper. (R377) -/
  | tamperSwitchOpen (served : List Nat)
  /-- Counlet TAMPER_ACK clears a card's tamper when the loop, switch and password allow it, then runs steps 6 to 10 to READY. (R383) -/
  | tamperAck (seq : Nat) (pw : List Byte) (switchLow : Bool)
  /-- A keyed write of TMP.CTRL.CLEAR clears a dock's tamper and runs bring-up steps 6 to 9. (R385) -/
  | tmpCtrlClear (word : Nat) (switchLow : Bool)
  /-- Every 1 ms the four thermal sensors are sampled, and the die temperature and throttle level are updated. (R435) -/
  | thsSample (t0 t1 t2 t3 : BitVec 16)
  /-- A DOZE command to a card answers OK and starts the entry, or BUSY_RETRY or NOT_PERMITTED. (R430) -/
  | spDoze (c : Cmd)
  /-- A keyed write of PWR.CTRL.DOZE makes a dock enter DOZE if it is idle, or refuses. (R431) -/
  | pwrCtrlDoze (word : Nat)
  /-- The work in flight has ended, so the islands gate, the PLL stops and EV_PWR_DOZE_ENTER fires. (R430) -/
  | dozeEntryDone (ms : Nat)
  /-- A wake cause ends DOZE, or abandons an entry in progress, and the PLL relocks. (R432) -/
  | dozeWake (cause : Nat)
  /-- The islands are restored and their parks released, so the part is in RUN and EV_PWR_DOZE_EXIT fires. (R433) -/
  | dozeWakeDone (us : Nat)
  /-- A filtered low on CRST_N resets the card's Counlet engine and ends the management credential. (R68) -/
  | crstNLow (ns : Nat) (pulse : Bool)
  /-- CRST_N is released, so the etu returns to 372 and the answer to reset is due. (R118) -/
  | crstNRelease
  /-- The card sends its 20-character answer to reset carrying the Card Parameter String. (R119) -/
  | answerToReset
  /-- A PPS request as the first transmission after the answer to reset is echoed with a new etu, or answered FF 0E F1. (R117) -/
  | ppsRequest (pps0 pps1 pck : Nat)
  /-- More than 960 etu pass between characters of one frame, so the frame is discarded. (R115) -/
  | charWaitTimeout (port op index : Nat)
  /-- A Counlet request with a bad CRC or length is discarded without a response, and an unknown OP answers NOT_PERMITTED. (R124) -/
  | counletBadFrame (port refused parity op index : Nat) (bytes : List Byte)
  /-- A request with the same OP and SEQ as the last one processed gets the last response again without re-execution. (R123) -/
  | counletRepeatedRequest (op seq : Nat)
  /-- Counlet IDENT returns part, serial, capacity, instance and firmware identity. (R125) -/
  | counletIdent (seq : Nat)
  /-- Counlet STATUS returns bring-up step, flags, temperature, counts and the oldest event record without consuming it. (R125) -/
  | counletStatus (seq : Nat)
  /-- Counlet HEALTH returns the 80-byte health record. (R450) -/
  | counletHealth (seq : Nat)
  /-- Counlet HIST_READ returns fault-history entries. (R417) -/
  | histRead (seq start count : Nat)
  /-- Counlet LOCK_SET sets, changes or removes a scope's password lock. (R388) -/
  | counletLockSet (seq scope action : Nat) (old new : List Byte)
  /-- Counlet UNLOCK ends a scope's lock in force if the password verifies, counting failed attempts. (R389) -/
  | counletUnlock (seq scope : Nat) (pw : List Byte)
  /-- Counlet FORCE_ERASE_ARM with a matching serial arms the erase for 10 s and returns a token. (R135) -/
  | forceEraseArm (seq serial : Nat)
  /-- Counlet FORCE_ERASE_CONFIRM with the token and serial commits the erase intent, then runs the forced erase. (R135) -/
  | forceEraseConfirm (seq token serial : Nat)
  /-- A forced-erase arm lapses 10 s after the arm. (R135) -/
  | eraseArmExpiry
  /-- After the erase-done record, the physical block erase runs in the background with progress kept in metadata. (R36) -/
  | forceEraseBackground (blocks : Nat)
  /-- PAIR_BEGIN in prove mode returns a card nonce, or NOT_PAIRED for a stepping other than B0. (R129) -/
  | pairBeginProve (seq stepping : Nat) (nonce : List Byte)
  /-- PAIR_BEGIN in enrol mode names the slot to fill and returns a card nonce. (R132) -/
  | pairBeginEnrol (seq slot stepping : Nat) (nonce : List Byte)
  /-- PAIR_PROOF in prove mode checks the host proof against P_0 and P_1 and, on success, returns the card proof and starts a session. (R130) -/
  | pairProofProve (seq : Nat) (proof : List Byte)
  /-- PAIR_PROOF in enrol mode stores the pairing key in an empty slot, under the lock and credential conditions. (R132) -/
  | pairProofEnrol (seq : Nat) (key : List Byte)
  /-- PAIR_DROP overwrites both records of a pairing slot. (R133) -/
  | pairDrop (seq slot : Nat)
  /-- Counlet REG_RD returns one register word, given the management credential. (R137) -/
  | counletRegRd (seq off : Nat)
  /-- FW_SLOT_WRITE writes a chunk into the inactive firmware slot, and a chunk with LAST checks the image. (R138) -/
  | fwSlotWrite (seq control off : Nat) (data : List Byte)
  /-- Counlet LINK_RESET answers OK, then resets the card's Spantoen link layer. (R139) -/
  | counletLinkReset (seq : Nat)
  /-- CD_N low for 1 ms declares a card present, and Counlet link-up begins. (R170) -/
  | cardInsertion (port : Nat)
  /-- INS_DELAY after CD_N falls, the dock starts CCLK and releases CRST_N 1000 cycles later. (R140) -/
  | insDelayExpiry (port : Nat)
  /-- The dock receives an answer to reset and sends a PPS, or refuses to pair with an A0 or non-CARD peer. (R140) -/
  | atrReceived (port : Nat) (bytes : List Byte)
  /-- No valid answer to reset ends within 25 ms, so the dock holds CRST_N low for 100 ms and retries, failing after three tries. (R140) -/
  | atrTimeout (port : Nat)
  /-- The 100 ms CRST_N hold after a failed answer to reset ends, and the dock tries again. (R140) -/
  | linkupRetryExpiry (port : Nat)
  /-- The dock receives a Counlet response during its own link-up and proceeds to the next pairing step. (R140) -/
  | dockCounletResponse (port op seq : Nat) (payload : List Byte)
  /-- Writing MBX_CTRL.GO sends the mailbox request as a Counlet frame when the port is open. (R142) -/
  | mbxGo (port op len : Nat)
  /-- The response to a mailbox request arrives and sets MBX_STAT.DONE. (R142) -/
  | mbxResponse (port op seq : Nat) (payload : List Byte)
  /-- No mailbox response arrives within RESP_TIMEOUT, so the request is resent with the same SEQ, at most twice. (R142) -/
  | mbxRespTimeout (port : Nat)
  /-- Writing DOCK_CTRL.RESTART restarts the Counlet link-up of the port. (R141) -/
  | cnRestart (port : Nat)
  /-- Writing DOCK_CTRL.ENROL_REQ enrols the dock's P_0 into a slot of the paired card. (R132) -/
  | enrolReq (port slot : Nat)
  /-- Writing DOCK_CTRL.HOLD_RESET holds CRST_N low with CCLK stopped, or releases it. (R143) -/
  | holdReset (port : Nat) (on : Bool)
  /-- CD_N high for 10 µs declares the card REMOVED, so the dock releases the port lines and handles outstanding commands. (R170) -/
  | cardRemoval (port highUs : Nat)
  /-- 100 ms after a removal with CD_N still low, the dock reruns Counlet link-up, stopping after three removals in 10 s. (R172) -/
  | relinkExpiry (port : Nat)
  /-- SCMD held low for 256 SCLK cycles resets the port's link layer, ends the session and returns the port to SPD_0. (R71) -/
  | linkResetDetect (port : Nat) (pulse : Bool)
  /-- A frame that fails its CRC-7 or framing is discarded without an answer. (R175) -/
  | spantoenBadFrame (port : Nat)
  /-- A command frame with an unlisted opcode or a forbidden instance answers NOT_PERMITTED after the frame and MAC checks. (R188) -/
  | spantoenUnknownOp (op : Nat) (c : Cmd)
  /-- A command whose FC was already accepted is dropped, answered OK_REPLAYED or answered REPLAY_REJECTED. (R189) -/
  | duplicateFc (op : Nat) (c : Cmd)
  /-- PING returns the state of eight command FCs from Q, ahead of other responses. (R194) -/
  | spPing (c : Cmd)
  /-- IDENTIFY returns one unit holding the IDENT payload and the Card Parameter String. (R181) -/
  | spIdentify (c : Cmd)
  /-- READ returns the newest committed data of each unit, from the journal or from flash through the decode and integrity checks. (R16) -/
  | spRead (c : Cmd) (env : List MediaRead)
  /-- WRITE is accepted, its records are reserved, its units are journaled and each unit is acknowledged after its commit word. (R15) -/
  | spWrite (c : Cmd)
  /-- A host unit's line frames end on the card, which checks the CRCs and GCM tag, commits or asks for a resend, and returns a status token. (R190) -/
  | hostUnitReceived (u : UnitIn) (readback : Bool) (lat : Nat) (env : List MediaRead)
  /-- DISCARD journals a range record, after which the units read as zeros. (R301) -/
  | spDiscard (c : Cmd) (readback : Bool)
  /-- BARRIER orders the instance's later commands after its earlier ones, and leaves no durable trace. (R226) -/
  | spBarrier (c : Cmd)
  /-- SETTLE is accepted and completes once the instance's earlier records are released and the anchor is rewritten. (R277) -/
  | spSettle (c : Cmd)
  /-- The last awaited record of a SETTLE is released and the anchor rewritten, so SETTLE answers OK. (R277) -/
  | settleComplete (tag : Nat)
  /-- SEG_OPEN commits an open segment record at FIRST after the earlier commands of its instance complete. (R393) -/
  | segOpen (c : Cmd)
  /-- SEG_CLOSE finalises the hash, commits the seal record with the next counter and returns the seal. (R396) -/
  | segClose (c : Cmd)
  /-- SEG_VERIFY checks a seal record's HMAC and recomputes the range hash. (R399) -/
  | segVerify (c : Cmd) (u : UnitIn) (env : List MediaRead)
  /-- Spantoen REG_RD from instance 0 returns consecutive register words in one unit. (R181) -/
  | regRd (c : Cmd)
  /-- Spantoen REG_WR from instance 0 writes consecutive register words as full-word writes. (R181) -/
  | regWr (c : Cmd) (u : UnitIn)
  /-- TUNE_RD makes the card send a tuning frame on every line. (R158) -/
  | tuneRd (c : Cmd)
  /-- TUNE_WR applies the receive taps, receives tuning frames and reports per-line passes, tuning or untuning the card. (R158) -/
  | tuneWr (c : Cmd) (frames : List Nat)
  /-- SPEED_SET answers at the old mode and both ends discard their trims for the switch to the new mode. (R163) -/
  | speedSet (c : Cmd)
  /-- LINK_KEY derives the next epoch's session key and opens a rekey window. (R195) -/
  | linkKey (c : Cmd)
  /-- INST_CFG CREATE configures a new instance with a fresh IMK and empty content. (R234) -/
  | instCfgCreate (c : Cmd) (u : UnitIn)
  /-- INST_CFG RESIZE changes an instance's size, discarding units beyond a shrink. (R234) -/
  | instCfgResize (c : Cmd) (u : UnitIn)
  /-- INST_CFG SCHED sets an instance's CMD arbiter class and weight. (R249) -/
  | instCfgSched (c : Cmd) (u : UnitIn)
  /-- INST_CFG DELETE commits a delete intent, destroys the instance key and unmaps its range. (R236) -/
  | instCfgDelete (c : Cmd) (u : UnitIn)
  /-- INST_CFG RECLAIM aborts the instance's uncommitted commands and releases its held resources on the card. (R254) -/
  | instCfgReclaim (c : Cmd) (u : UnitIn)
  /-- Spantoen HEALTH returns the health record in one unit. (R450) -/
  | spHealth (c : Cmd)
  /-- LOG_READ returns event records and advances RING_TAIL once the host's token is all-pass. (R181) -/
  | logRead (c : Cmd)
  /-- FW_STAGE writes units of an image into the inactive slot and checks it at LAST. (R445) -/
  | fwStage (c : Cmd)
  /-- FW_ACTIVATE has the standby load and check the named slot, then hands over and commits the slot pointer. (R447) -/
  | fwActivate (c : Cmd)
  /-- The standby's check of the new image ends, and the handover pause runs to the slot pointer commit, or activation fails. (R447) -/
  | activationSelfCheckDone (pass leaseKept : Bool)
  /-- After activating an image that raises the floor, fuses are burned one at a time until the floor equals ROLLBACK. (R448) -/
  | floorBurn
  /-- A fuse burn ends within 12 µs and fires EV_KEY_OTP_BURN_DONE. (R343) -/
  | fuseBurnDone
  /-- LOCK_CTL with action LOCK_SET sets, changes or removes a password lock over Spantoen. (R388) -/
  | lockCtlLockSet (c : Cmd) (u : UnitIn)
  /-- LOCK_CTL with action UNLOCK ends a lock in force over Spantoen if the password verifies. (R389) -/
  | lockCtlUnlock (c : Cmd) (u : UnitIn)
  /-- FORCE_ERASE arm with matching serial bits arms the erase for 10 s and returns a token. (R182) -/
  | spantoenForceEraseArm (c : Cmd)
  /-- FORCE_ERASE confirm, sent next from instance 0 with the token, commits the erase intent and runs the erase. (R182) -/
  | spantoenForceEraseConfirm (c : Cmd)
  /-- A status frame arrives after a unit, and a failed token makes the sender resend the unit. (R179) -/
  | statusFrameReceived (port : Nat) (good : Bool) (token ntoken : Nat)
  /-- No status frame arrives within TOKEN_WAIT, so the unit is resent, and retries are exhausted after 1 + MAX sendings. (R190) -/
  | tokenWaitExpiry (port : Nat)
  /-- After retries are exhausted, the dock holds commands, drops to SPD_0 and retunes, or resets the link at SPD_0. (R192) -/
  | dockRetrain (port : Nat) (sweep : Sweep)
  /-- The dock receives a card response, verifies its RMAC under the reconstructed FC, and posts or carries the completion. (R187) -/
  | responseReceived (port : Nat) (r : RespIn)
  /-- The dock receives a unit sent by the card, checks it and returns a host status frame. (R180) -/
  | cardUnitReceived (port tag index : Nat) (u : UnitIn)
  /-- Each PING interval with commands outstanding, the dock sends a PING and resends or reissues lost FCs. (R194) -/
  | pingInterval (port : Nat)
  /-- No start bit arrives from the card for SPx.TIMEOUT, so the card is declared REMOVED. (R194) -/
  | responseTimeout (port : Nat)
  /-- The port has been IDLE for STOP_DELAY cycles, so the dock stops SCLK. (R166) -/
  | sclkStop (port : Nat)
  /-- No SCLK edge reaches the card for 1 µs while the port is IDLE, so EV_SPA_CLK_STOPPED fires. (R166) -/
  | cardClkStopDetect
  /-- At the first IDLE after retune advice, the dock holds new commands and retunes the port. (R169) -/
  | autoRetune (port : Nat) (sweep : Sweep)
  /-- The dock sweeps its read trims with TUNE_RD and the card's write trims with TUNE_WR, falling to a lower mode on failure. (R161) -/
  | tunePort (port mode : Nat) (sweep : Sweep)
  /-- At the next IDLE after REKEY_DUE, or after LSE.CTRL.REKEY, the dock sends LINK_KEY. (R196) -/
  | autoRekey (port : Nat)
  /-- Writing SPx.CTRL.RETRAIN retrains the port. (R192) -/
  | retrain (port : Nat)
  /-- Writing SPx.CTRL.LINK_RESET holds SCMD low for 256 SCLK cycles. (R199) -/
  | linkReset (port : Nat)
  /-- Writing SPx.CTRL.RETUNE runs tune_port at the current mode at the next IDLE. (R199) -/
  | retune (port : Nat)
  /-- Writing LSE.CTRL.REKEY sends LINK_KEY at the next IDLE. (R200) -/
  | rekey (port : Nat)
  /-- Writing LSE.CTRL.END_SESSION zeroizes the session keys and ends the session. (R200) -/
  | endSession (port : Nat)
  /-- PERST_N falls, so the dock stops its memory requests and clears the PCIE island. (R202) -/
  | perstNFall (pulse : Bool)
  /-- PERST_N rises, so the endpoint starts link training. (R202) -/
  | perstNRise
  /-- The PCIe link comes up, goes down or trains degraded, and the link events fire. (R201) -/
  | pcieLinkChange (speed width : Nat) (up : Bool) (ltssm : Nat)
  /-- A function level reset stops the function's fetching and resets its queue, ITU and QOS state within 100 ms. (R203) -/
  | pceFlr (fn : Nat)
  /-- VF Enable is set or cleared, and clearing it acts as a function level reset of every VF. (R230) -/
  | vfEnable (on : Bool) (num : Nat) (ari : Bool)
  /-- A write to an SQ doorbell sets the new tail, or is ignored with EV_PCE_DOORBELL_ERR. (R206) -/
  | sqDoorbell (fn sq value : Nat)
  /-- A write to a CQ doorbell sets the new head and frees slots. (R206) -/
  | cqDoorbell (fn cq value : Nat)
  /-- The dock fetches a burst of SQ entries when a CQ slot can be reserved. (R210) -/
  | sqFetch (inst sq : Nat)
  /-- The QOS grants a quantum to the next eligible instance in the highest class by deficit round robin. (R247) -/
  | qosGrant
  /-- A WRITE or DISCARD in MIRROR or ROTATE is committed to the bridge journal, sent to the targets and completed under the bridge rules. (R223) -/
  | dockWrite (inst sq cid : Nat)
  /-- A READ in MIRROR or ROTATE is served unit by unit from the bridge journal or a card holding the current copy. (R224) -/
  | dockRead (inst sq cid : Nat)
  /-- Any other card command is routed to its target port in RUN, or completed with REMOVED or NOT_PAIRED. (R221) -/
  | dockForwardCommand (inst sq cid : Nat)
  /-- A PING from a function is completed by the dock with OK. (R217) -/
  | dockPing (inst sq cid : Nat)
  /-- A BARRIER completes at the dock once every earlier command of its instance has completed. (R225) -/
  | dockBarrier (inst sq cid : Nat)
  /-- An opcode not accepted from the function completes with NOT_PERMITTED and REASON OP_FUNCTION. (R217) -/
  | dockOpcodeRefused (inst sq cid : Nat)
  /-- COAL_TIME after the first unsignalled entry, an MSI-X message is sent on the CQ's vector. (R211) -/
  | cqCoalesceTimer (inst cq : Nat)
  /-- 1 ms after a card answers a bridged write BUSY_RETRY, the dock sends the record again as a new command. (R223) -/
  | bridgeBusyResend (port : Nat)
  /-- BRG_MODE waits for every earlier command, then applies and commits the mode, ACTIVE and PORT_MAP. (R455) -/
  | brgMode (sq cid : Nat)
  /-- PORT_DRAIN stops new commands to a port and completes once it has nothing outstanding. (R219) -/
  | portDrain (sq cid : Nat)
  /-- PORT_DRAIN with RESUME ends the drain of a port. (R219) -/
  | portDrainResume (sq cid : Nat)
  /-- INST_QUIESCE QUIESCE stops an instance's fetching and completes when it reaches QUIESCED. (R252) -/
  | instQuiesceQuiesce (sq cid : Nat)
  /-- INST_QUIESCE RESUME returns a QUIESCED instance to RUN. (R252) -/
  | instQuiesceResume (sq cid : Nat)
  /-- INST_QUIESCE RECLAIM aborts an instance's unstarted work and sends INST_CFG RECLAIM to the cards. (R253) -/
  | instQuiesceReclaim (sq cid : Nat)
  /-- A quiescing or reclaiming instance has nothing outstanding, so it enters QUIESCED and its INST_QUIESCE completes. (R251) -/
  | instanceQuiesced (inst : Nat)
  /-- Writing ITU.INVAL_CTRL.GO invalidates TLB entries in the scope. (R242) -/
  | invalGo (word : Nat)
  /-- Every entry in the scope is removed and its memory requests complete, so GO clears. (R242) -/
  | invalidationDone
  /-- A write of an instance's class or weight takes effect at the next decision, moving the waiting request and clamping its deficit. (R249) -/
  | qosSchedWrite (inst word : Nat)
  /-- Writing BRG.CTRL.SWITCH switches the active port in ROTATE. (R451) -/
  | brgSwitch (key : Nat)
  /-- Writing BRG.CTRL.RESUME_CARRY resumes delivery to the blocked card with the blocked record. (R454) -/
  | resumeCarry (key : Nat)
  /-- Writing BRG.CTRL.DROP_BLOCKED releases the blocked record without effect and resumes with the next. (R454) -/
  | dropBlocked (key : Nat)
  /-- Writing BRG.CTRL.DROP_TRACK_t clears a resync track's bits and IN_USE. (R461) -/
  | dropTrack (key t : Nat)
  /-- The dock copies a 256-unit chunk of a set region from the source card to the lacking card, then delivers later records. (R459) -/
  | resyncChunk (t : Nat)
  /-- After a dock bring-up, the indexed bridge records are delivered in SEQ order once a card is READY. (R452) -/
  | bridgeReplayDelivery (port : Nat)
  /-- A keyed write of DFW_CTRL.BEGIN starts staging the dock's inactive firmware slot. (R446) -/
  | dfwBegin (key slot : Nat)
  /-- A write of DFW_DATA stores an image word and advances DFW_ADDR. (R446) -/
  | dfwData (word : Nat)
  /-- A keyed write of DFW_CTRL.END checks the staged dock image and reports the result. (R446) -/
  | dfwEnd (key : Nat)
  /-- A keyed write of DFW_CTRL.ACTIVATE activates the dock's other firmware slot. (R447) -/
  | dfwActivate (key slot : Nat)
  /-- A keyed KEY.CTRL write with action PAIR_GEN commits a random P_0 on a dock. (R372) -/
  | pairGen (key : Nat)
  /-- A keyed KEY.CTRL write with action PAIR_IMPORT commits P_0 from the IMPORT registers. (R372) -/
  | pairImport (key : Nat)
  /-- 1 s after the last IMPORT write, the import registers are zeroed. (R372) -/
  | importTimeout
  /-- A keyed write of LCK.CTRL.RELOCK puts the locks of the named scopes in force again. (R391) -/
  | relock (key scope : Nat)
  /-- Writing MED.CTRL.RETIRE_GO retires a LUN after moving its units. (R335) -/
  | retireGo (lun : Nat)
  /-- Writing MED.CTRL.SCAN_NOW starts a retention scan pass if none runs. (R334) -/
  | scanNow
  /-- Writing TRE.CTRL.CKPT_NOW starts a checkpoint, subject to the 100 ms spacing. (R364) -/
  | ckptNow
  /-- The card runs stages 5 to 8 for a journal record: allocation, counter, encryption, parity fold and program issue. (R28) -/
  | recordPlacement (seq : Nat) (loc : Nat)
  /-- A flash channel arbiter grants its bus for one operation, with aging and reclaim-pressure exceptions. (R323) -/
  | flashChannelGrant (ch : Nat) (waiting : Nat)
  /-- A LUN reports its program, erase or read ended, and its in-flight entry is cleared or the failure handled. (R320) -/
  | flashOpComplete (lun : Nat) (ok : Bool)
  /-- When R27 holds, word 1 of the commit line is written and the record's ring space can be reused. (R272) -/
  | recordRelease (seq : Nat)
  /-- The anchor record is rewritten 100 ms after its last rewrite if the anchor moved, or when the head reaches the named line. (R272) -/
  | anchorRewrite
  /-- A delta line is written when five deltas are pending, a release waits, or 1 ms has passed. (R295) -/
  | deltaLineWrite
  /-- A dirty map or directory page is written back as a snapshot and a DIR delta retires its covered deltas. (R296) -/
  | mapWriteback (page : Nat)
  /-- The dirty tree units and L3 bank are written and a new root record is committed. (R364) -/
  | checkpoint
  /-- 1 s with no new unit in a half, a waiting page is padded to the end of its wordline and issued. (R305) -/
  | pagePadTimer (half : Nat)
  /-- A closed superblock is read-verified, rebuilt where needed, and its parity slots are released. (R309) -/
  | superblockVerify (k : Nat)
  /-- When the erase spread exceeds SPREAD_LIMIT, the units of the least-worn DATA superblock are moved. (R330) -/
  | wearMove
  /-- When a half's free superblocks fall to START, the lowest-VALID superblock's current units are moved and it is freed. (R331) -/
  | medReclaim (half : Nat)
  /-- A member's read count reaching REFRESH_LIMIT schedules a refresh move of the superblock. (R333) -/
  | readRefresh (k : Nat)
  /-- The retention scan reads the next DATA superblock when the elapsed share of the period exceeds the share done. (R334) -/
  | retentionScan (reads : List MediaRead)
  /-- Gathered read-counter increments are added to the MRAM table entry at most every 100 ms. (R327) -/
  | readCountFlush
  /-- A LUN stays busy beyond TMO_MULT times its maximum time, so FCH_n_DIE_TIMEOUT is raised and the channel seizes its bus. (R337) -/
  | dieTimeout (lun : Nat) (ready busHeld : Bool) (read : Nat × Nat)
  /-- Patrol scrub reads the next MRAM line and rewrites correctable words according to their area. (R284) -/
  | lndScrub
  /-- The lifetime records are rewritten at most every 10 s, and at SETTLE and DOZE entry. (R449) -/
  | lifeRecordRewrite
  /-- A source's recovery window ends LULL_WINDOW seconds after it started, so its WINDOW_CNT returns to zero and the next recovery opens a new window. (R411) -/
  | lullWindowEnd (src : Nat)
  /-- A request held because KEY is quiescing is still held after 10 ms, so it completes with BUSY_RETRY. (R370) -/
  | keyQuiesceHoldExpiry
  /-- The part has been in STOPPED for 1 s without a break, so EV_PWR_CLKSTOP_ALL fires. (R428) -/
  | clkstopAll
  /-- A completion arrives from the host for a dock memory read of an SQ entry, unit list, page table or data unit; it may be successful, unsuccessful or poisoned. (R212) -/
  | pcieReadCompletion (id : Nat) (r : HostData)
  /-- A dock memory read request gets no completion within the PCIe completion timeout, so the fetch or command ends as an unsuccessful completion. (R212) -/
  | completionTimeout (id : Nat)
  /-- The function level reset of a function ends within 100 ms, so FLR_STAT.BUSY clears and EV_PCE_FLR fires. (R203) -/
  | flrDone (fn : Nat)
  /-- Each 1 µs the byte and operation buckets of every instance refill, so a held instance can become eligible again. (R245) -/
  | qosBucketRefill
  deriving DecidableEq, Repr

end Sys2Proof
end

