-- ==== Sys2Proof/Decode.lean ====
section
/-! DEFINITION. The reading of a word as a command.  The table of the spec gives its rows no bits: a
command is not a word of any memory, so no word spells one. -/

namespace Sys2Proof

/-- The command a word spells by the table's bits: none, since no row has bits. Log 4 (DEDUCED). -/
def decodeTableWord (_nbits _w : Nat) : Option Instr := none

end Sys2Proof
end

