-- ==== Sys2Proof/Config.lean ====
section
/-! DEFINITION. The free values: what the spec leaves open and the machine goes on with.  Each is an
opaque constant without a body, so nothing can be proved about its value; the step applies it to the
counter `State.freeCtr`, which it then advances.  Each has its entry in the assumption log. -/

namespace Sys2Proof.Config

/-- Byte `i` of draw `n` of the random source (R350). Log 15 (DESIGN CHOICE). -/
opaque randByte : Nat → Nat → Byte

/-- Whether a low pulse between 200 ns and 500 ns on RST_N or CRST_N is honoured (R68). Log 16 (DESIGN CHOICE). -/
opaque pulseHonoured : Nat → Bool

/-- Whether a CD_N high pulse between 8 µs and 10 µs declares a removal (R170). Log 16 (DESIGN CHOICE). -/
opaque cdPulseRemoves : Nat → Bool

/-- The seed the tamper loop's LFSR takes at step 5 from the oscillators' count (R376). Log 17 (DESIGN CHOICE). -/
opaque loopSeed : Nat → BitVec 31

/-- The sixteen code bits the tamper loop's LFSR gives next, and the LFSR after them (R376): the manual names no
polynomial. Log 17 (DESIGN CHOICE). -/
opaque loopCode : BitVec 31 → BitVec 16 × BitVec 31

/-- The wordline of a page index, from the card maker's parameter record (R317, R319). Log 19 (DESIGN CHOICE). -/
opaque wordlineOf : Nat → Nat

/-- The die temperature when every sensor is excluded (R435), in the format of TEMP. Log 21 (DESIGN CHOICE). -/
opaque noSensorTemp : Nat → BitVec 16

/-- CCLK as the card measures it, in kHz (R145). Log 22 (DESIGN CHOICE). -/
opaque cclkKhz : Nat → BitVec 15

/-- `n` bytes of draw `ctr` of the random source. -/
def randBytes (ctr n : Nat) : List Byte := (List.range n).map (randByte ctr)

/-- The instance that an event marked I carries when EVT_SET fires it: the spec names none. Log 54 (DESIGN CHOICE). -/
opaque testInst : Nat → BitVec 4

/-- The ID in the record that EVT_SET on an instance's page writes into that instance's ring. Log 54 (DESIGN CHOICE). -/
opaque testId : Nat → BitVec 8

/-- Bit `i` of the boundary-scan register as draw `n` captures it: the levels at the balls, in the order of a BSDL file
that the manual does not give (R53). Log 172 (DESIGN CHOICE). -/
opaque sampledBit : Nat → Nat → Bool

/-- Dword `i` of the header of a poisoned packet that the host sent (R201). Log 138 (PRESUMED). -/
opaque tlpHeader : Nat → Nat → BitVec 32

end Sys2Proof.Config
end

