-- ==== Sys2Proof/Machine/Crypto.lean ====
section
/-! DEFINITION. The checks and ciphers the spec names, as plain functions of bytes: CRC-7 (R175),
CRC-16 (R122), CRC-32 (R264), SHA-256 and HMAC-SHA-256, AES-256, GCM and GMAC.  The functions named
`aes256`, `gcm…`, `sha256` and `hmac` are irreducible: statements use them as they stand. -/

namespace Sys2Proof.Crypto

/-- The bits of a byte string, most significant first. -/
def bitsBE (bs : List Byte) : List Bool :=
  bs.flatMap (fun b => (List.range 8).map (fun i => b.getLsbD (7 - i)))

/-- The `n` low bits of a number, most significant first. -/
def natBits (n x : Nat) : List Bool := (List.range n).map (fun i => x.testBit (n - 1 - i))

/-- One step of a CRC of width `w` with generator `poly`, over one bit. -/
def crcStep (w poly : Nat) (r : Nat) (b : Bool) : Nat :=
  let top := r.testBit (w - 1)
  let sh := (r * 2) % 2 ^ w
  if top != b then sh ^^^ poly else sh

/-- A CRC over bits, most significant first, no reflection and no final XOR. -/
def crc (w poly init : Nat) (bits : List Bool) : Nat := bits.foldl (crcStep w poly) init

/-- The frame check of a Spantoen frame (R175): generator x^7 + x^3 + 1, initial value zero. -/
def crc7 (bits : List Bool) : Nat := crc 7 0x09 0 bits

/-- CRC-16 of a Counlet frame or a line frame (R122, R155). -/
def crc16 (bs : List Byte) : Nat := crc 16 0x1021 0xFFFF (bitsBE bs)

/-- CRC-32 of the landing store's records (R264). -/
def crc32 (bs : List Byte) : Nat := crc 32 0x04C11DB7 0xFFFFFFFF (bitsBE bs)

/-! ## SHA-256 and HMAC -/

/-- The eight words that a 256-bit number spells, highest first. -/
def eightWords (x : Nat) : List Word := (List.range 8).map (fun i => BitVec.ofNat 32 (x / 2 ^ (32 * (7 - i))))

/-- The round constants of SHA-256, eight to a number. -/
def shaK : List Word := List.flatMap eightWords
  [0x428A2F9871374491B5C0FBCFE9B5DBA53956C25B59F111F1923F82A4AB1C5ED5,
   0xD807AA9812835B01243185BE550C7DC372BE5D7480DEB1FE9BDC06A7C19BF174,
   0xE49B69C1EFBE47860FC19DC6240CA1CC2DE92C6F4A7484AA5CB0A9DC76F988DA,
   0x983E5152A831C66DB00327C8BF597FC7C6E00BF3D5A7914706CA635114292967,
   0x27B70A852E1B21384D2C6DFC53380D13650A7354766A0ABB81C2C92E92722C85,
   0xA2BFE8A1A81A664BC24B8B70C76C51A3D192E819D6990624F40E3585106AA070,
   0x19A4C1161E376C082748774C34B0BCB5391C0CB34ED8AA4A5B9CCA4F682E6FF3,
   0x748F82EE78A5636F84C878148CC7020890BEFFFAA4506CEBBEF9A3F7C67178F2]

/-- The chaining value SHA-256 starts from. -/
def shaH0 : List Word := eightWords 0x6A09E667BB67AE853C6EF372A54FF53A510E527F9B05688C1F83D9AB5BE0CD19

/-- Two rotations of a word and a third term, added without carries. -/
def shaMix (x : Word) (a b : Nat) (c : Word) : Word := x.rotateRight a ^^^ x.rotateRight b ^^^ c

/-- The message schedule, newest word first. -/
def shaSchedule : Nat → List Word → List Word
  | 0, w => w
  | n + 1, w =>
    let old := fun (i : Nat) => w.getD i 0
    let next := old 15 + shaMix (old 14) 7 18 (old 14 >>> 3) + old 6 + shaMix (old 1) 17 19 (old 1 >>> 10)
    shaSchedule n (next :: w)

/-- The eight working words of a block after one more round: all but two move one place down. -/
def shaRound (v : List Word) (kw : Word × Word) : List Word :=
  let x := fun (i : Nat) => v.getD i 0
  let choice := (x 4 &&& (x 5 ^^^ x 6)) ^^^ x 6
  let most := (x 0 &&& (x 1 ||| x 2)) ||| (x 1 &&& x 2)
  let add := x 7 + shaMix (x 4) 6 11 ((x 4).rotateRight 25) + choice + kw.1 + kw.2
  let top := add + shaMix (x 0) 2 13 ((x 0).rotateRight 22) + most
  [top] ++ v.take 3 ++ [x 3 + add] ++ (v.drop 4).take 3

def chunks (n : Nat) : Nat → List Byte → List (List Byte)
  | 0, _ => []
  | k + 1, bs => if bs.isEmpty then [] else bs.take n :: chunks n k (bs.drop n)

/-- Compress one 64-byte block into the chaining value. -/
def shaBlock (h : List Word) (blk : List Byte) : List Word :=
  let w0 := (chunks 4 16 blk).map (fun b => BitVec.ofNat 32 (natBE b))
  let w := (shaSchedule 48 w0.reverse).reverse
  List.zipWith (· + ·) h ((shaK.zip w).foldl shaRound h)

/-- The padding of a message of `n` bytes. -/
def shaPad (n : Nat) : List Byte :=
  0x80 :: (List.replicate ((119 - n % 64) % 64) 0 ++ bytesBE 8 (8 * n))

/-- SHA-256 from a chaining value over whole blocks, then the words as bytes. -/
def shaFold (h : List Word) (bs : List Byte) : List Word :=
  (chunks 64 (bs.length / 64 + 1) bs).foldl shaBlock h

def shaOut (h : List Word) : List Byte := h.flatMap (fun w => bytesBE 4 w.toNat)

@[irreducible] def sha256 (bs : List Byte) : List Byte :=
  shaOut (shaFold shaH0 (bs ++ shaPad bs.length))

/-- HMAC-SHA-256 under a key of at most 64 bytes. -/
@[irreducible] def hmac (key msg : List Byte) : List Byte :=
  let k := padTo 64 key
  sha256 (k.map (· ^^^ 0x5C) ++ sha256 (k.map (· ^^^ 0x36) ++ msg))

/-! ## AES-256 -/

def sboxTable : List Nat :=
  [
    0x63, 0x7c, 0x77, 0x7b, 0xf2, 0x6b, 0x6f, 0xc5, 0x30, 0x1, 0x67, 0x2b, 0xfe, 0xd7, 0xab, 0x76,
    0xca, 0x82, 0xc9, 0x7d, 0xfa, 0x59, 0x47, 0xf0, 0xad, 0xd4, 0xa2, 0xaf, 0x9c, 0xa4, 0x72, 0xc0,
    0xb7, 0xfd, 0x93, 0x26, 0x36, 0x3f, 0xf7, 0xcc, 0x34, 0xa5, 0xe5, 0xf1, 0x71, 0xd8, 0x31, 0x15,
    0x4, 0xc7, 0x23, 0xc3, 0x18, 0x96, 0x5, 0x9a, 0x7, 0x12, 0x80, 0xe2, 0xeb, 0x27, 0xb2, 0x75] ++ [
    0x9, 0x83, 0x2c, 0x1a, 0x1b, 0x6e, 0x5a, 0xa0, 0x52, 0x3b, 0xd6, 0xb3, 0x29, 0xe3, 0x2f, 0x84,
    0x53, 0xd1, 0x0, 0xed, 0x20, 0xfc, 0xb1, 0x5b, 0x6a, 0xcb, 0xbe, 0x39, 0x4a, 0x4c, 0x58, 0xcf,
    0xd0, 0xef, 0xaa, 0xfb, 0x43, 0x4d, 0x33, 0x85, 0x45, 0xf9, 0x2, 0x7f, 0x50, 0x3c, 0x9f, 0xa8,
    0x51, 0xa3, 0x40, 0x8f, 0x92, 0x9d, 0x38, 0xf5, 0xbc, 0xb6, 0xda, 0x21, 0x10, 0xff, 0xf3, 0xd2] ++ [
    0xcd, 0xc, 0x13, 0xec, 0x5f, 0x97, 0x44, 0x17, 0xc4, 0xa7, 0x7e, 0x3d, 0x64, 0x5d, 0x19, 0x73,
    0x60, 0x81, 0x4f, 0xdc, 0x22, 0x2a, 0x90, 0x88, 0x46, 0xee, 0xb8, 0x14, 0xde, 0x5e, 0xb, 0xdb,
    0xe0, 0x32, 0x3a, 0xa, 0x49, 0x6, 0x24, 0x5c, 0xc2, 0xd3, 0xac, 0x62, 0x91, 0x95, 0xe4, 0x79,
    0xe7, 0xc8, 0x37, 0x6d, 0x8d, 0xd5, 0x4e, 0xa9, 0x6c, 0x56, 0xf4, 0xea, 0x65, 0x7a, 0xae, 0x8] ++ [
    0xba, 0x78, 0x25, 0x2e, 0x1c, 0xa6, 0xb4, 0xc6, 0xe8, 0xdd, 0x74, 0x1f, 0x4b, 0xbd, 0x8b, 0x8a,
    0x70, 0x3e, 0xb5, 0x66, 0x48, 0x3, 0xf6, 0xe, 0x61, 0x35, 0x57, 0xb9, 0x86, 0xc1, 0x1d, 0x9e,
    0xe1, 0xf8, 0x98, 0x11, 0x69, 0xd9, 0x8e, 0x94, 0x9b, 0x1e, 0x87, 0xe9, 0xce, 0x55, 0x28, 0xdf,
    0x8c, 0xa1, 0x89, 0xd, 0xbf, 0xe6, 0x42, 0x68, 0x41, 0x99, 0x2d, 0xf, 0xb0, 0x54, 0xbb, 0x16]

def subByte (b : Byte) : Byte := BitVec.ofNat 8 (sboxTable.getD b.toNat 0)

def xtime (b : Byte) : Byte := (b <<< 1) ^^^ (if b.msb then 0x1B else 0)

def xorBytes (a b : List Byte) : List Byte := List.zipWith (· ^^^ ·) a b

def shiftRows (s : List Byte) : List Byte :=
  (List.range 16).map (fun i => s.getD ((i + 4 * (i % 4)) % 16) 0)

def mixColumn : List Byte → List Byte
  | [a, b, c, d] =>
    [xtime a ^^^ (xtime b ^^^ b) ^^^ c ^^^ d, a ^^^ xtime b ^^^ (xtime c ^^^ c) ^^^ d,
     a ^^^ b ^^^ xtime c ^^^ (xtime d ^^^ d), (xtime a ^^^ a) ^^^ b ^^^ c ^^^ xtime d]
  | x => x

def mixColumns (s : List Byte) : List Byte := (chunks 4 4 s).flatMap mixColumn

/-- The key schedule: words newest first, `n` more to make, `i` the index of the next word. -/
def keyExpand : Nat → Nat → Byte → List (List Byte) → List (List Byte)
  | 0, _, _, w => w
  | n + 1, i, rc, w =>
    let t := w.getD 0 []
    let t' := if i % 8 = 0 then
        xorBytes ((t.drop 1 ++ t.take 1).map subByte) [rc, 0, 0, 0]
      else if i % 8 = 4 then t.map subByte else t
    keyExpand n (i + 1) (if i % 8 = 0 then xtime rc else rc) (xorBytes (w.getD 7 []) t' :: w)

/-- The fifteen round keys of a 32-byte key. -/
def roundKeys (key : List Byte) : List (List Byte) :=
  let w := (keyExpand 52 8 1 (chunks 4 8 (padTo 32 key)).reverse).reverse
  (List.range 15).map (fun r => ((w.drop (4 * r)).take 4).flatten)

def aesRounds : List (List Byte) → List Byte → List Byte
  | [], s => s
  | [last], s => xorBytes (shiftRows (s.map subByte)) last
  | k :: ks, s => aesRounds ks (xorBytes (mixColumns (shiftRows (s.map subByte))) k)

/-- AES-256 of one 16-byte block. -/
@[irreducible] def aes256 (key block : List Byte) : List Byte :=
  match roundKeys key with
  | [] => block
  | k :: ks => aesRounds ks (xorBytes (padTo 16 block) k)

/-! ## GCM and GMAC -/

/-- Multiplication in GF(2^128) as GCM numbers it. -/
def gfMul (x y : Nat) : Nat :=
  ((List.range 128).foldl (fun (zv : Nat × Nat) i =>
    let z := if x.testBit (127 - i) then zv.1 ^^^ zv.2 else zv.1
    let v := if zv.2.testBit 0 then (zv.2 / 2) ^^^ (0xE1 * 2 ^ 120) else zv.2 / 2
    (z, v)) (0, y)).1

def ghash (h : Nat) (bs : List Byte) : Nat :=
  (chunks 16 (bs.length / 16 + 1) bs).foldl (fun a b => gfMul (a ^^^ natBE (padTo 16 b)) h) 0

def pad16 (bs : List Byte) : List Byte := bs ++ List.replicate ((16 - bs.length % 16) % 16) 0

/-- The counter block of a 12-byte IV. -/
def gcmCtr (iv : List Byte) (n : Nat) : List Byte := padTo 12 iv ++ bytesBE 4 n

/-- Counter-mode key stream of `n` blocks from counter `c`. -/
def ctrStream (key iv : List Byte) (c : Nat) : Nat → List Byte
  | 0 => []
  | n + 1 => aes256 key (gcmCtr iv c) ++ ctrStream key iv (c + 1) n

/-- GCM encryption; the same function decrypts. -/
@[irreducible] def gcmCrypt (key iv data : List Byte) : List Byte :=
  xorBytes data (ctrStream key iv 2 (data.length / 16 + 1))

/-- The 16-byte GCM tag over associated data and ciphertext. -/
@[irreducible] def gcmTag (key iv aad ct : List Byte) : List Byte :=
  let h := natBE (aes256 key (List.replicate 16 0))
  let s := ghash h (pad16 aad ++ pad16 ct ++ bytesBE 8 (8 * aad.length) ++ bytesBE 8 (8 * ct.length))
  xorBytes (bytesBE 16 s) (aes256 key (gcmCtr iv 1))

/-- GMAC: the GCM tag over associated data alone. -/
@[irreducible] def gmac (key iv msg : List Byte) : List Byte := gcmTag key iv msg []

/-- AES-256 counter mode from a full 16-byte initial block. -/
def ctrFrom (key : List Byte) (block : Nat) : Nat → List Byte
  | 0 => []
  | n + 1 => aes256 key (bytesBE 16 block) ++ ctrFrom key (block + 1) n

/-- Counter-mode encryption from a full initial block; the same function decrypts. -/
@[irreducible] def ctrCrypt (key block data : List Byte) : List Byte :=
  xorBytes data (ctrFrom key (natBE block) (data.length / 16 + 1))

end Sys2Proof.Crypto
end

