-- ==== Sys2Proof/Machine/Sparse.lean ====
section
/-! DEFINITION. Sparse stores: a list of (key, value) pairs with strictly rising keys in which no pair
holds the value an unlisted key reads as.  Registers, MRAM bytes and every other large store of the
machine are held in this one canonical form, so equal stores are equal data. -/

namespace Sys2Proof.Machine

/-- What key `k` reads as, `d` giving the value of an unlisted key. -/
def Sparse.get {V : Type} (d : Nat → V) : List (Nat × V) → Nat → V
  | [], k => d k
  | p :: rest, k => if p.1 = k then p.2 else if k < p.1 then d k else Sparse.get d rest k

/-- Put `v` at key `k`, ignoring whether it is the default. -/
def Sparse.insert {V : Type} : List (Nat × V) → Nat → V → List (Nat × V)
  | [], k, v => [(k, v)]
  | p :: rest, k, v =>
    if p.1 = k then (k, v) :: rest
    else if k < p.1 then (k, v) :: p :: rest
    else p :: Sparse.insert rest k v

/-- Remove key `k`. -/
def Sparse.erase {V : Type} : List (Nat × V) → Nat → List (Nat × V)
  | [], _ => []
  | p :: rest, k =>
    if p.1 = k then rest else if k < p.1 then p :: rest else p :: Sparse.erase rest k

/-- Write `v` at key `k`, keeping the canonical form. -/
def Sparse.set {V : Type} [DecidableEq V] (d : Nat → V) (m : List (Nat × V)) (k : Nat) (v : V) :
    List (Nat × V) :=
  if v = d k then Sparse.erase m k else Sparse.insert m k v

/-- Return every key that `p` picks to its default. -/
def Sparse.clear {V : Type} (m : List (Nat × V)) (p : Nat → Bool) : List (Nat × V) :=
  m.filter (fun e => !p e.1)

/-- Write a run of values at rising keys from `k`. -/
def Sparse.setRun {V : Type} [DecidableEq V] (d : Nat → V) (m : List (Nat × V)) (k : Nat) :
    List V → List (Nat × V)
  | [] => m
  | v :: vs => Sparse.setRun d (Sparse.set d m k v) (k + 1) vs

/-- Every key of `m` is above `k`, when a bound is given. -/
def Sparse.above {V : Type} (b : Option Nat) (m : List (Nat × V)) : Bool :=
  match b, m with
  | some k, p :: _ => decide (k < p.1)
  | _, _ => true

/-- The canonical form: strictly rising keys and no default value listed. -/
def Sparse.wf {V : Type} [DecidableEq V] (d : Nat → V) : List (Nat × V) → Bool
  | [] => true
  | p :: rest => decide (p.2 ≠ d p.1) && Sparse.above (some p.1) rest && Sparse.wf d rest

end Sys2Proof.Machine
end

