-- ==== Sys2Proof/Machine/Fields.lean ====
section
/-! DEFINITION. The fields of the register window by the spec's names: `PAGE_REGISTER_FIELD`, and
`rPAGE_REGISTER` for a register as a whole.  `n` is the replica of a page that has several (port,
flash channel, instance); `i` is the index of a register that repeats inside its page.  Each entry is
the bit range the register tables of spec/ give. -/

namespace Sys2Proof.Machine

/-- A field of a register of the window: the register's window offset (R87), the field's lowest bit
and its width. -/
structure Fld where
  off : Nat
  lo : Nat
  w : Nat
  deriving DecidableEq, Repr

/-! ## The common header (R93) -/

/-- The window offset of register `o` of page `p` (R87). -/
abbrev pageOff (p o : Nat) : Nat := 4096 * p + o

abbrev rPG_CTRL (p : Nat) : Fld := ⟨pageOff p 8, 0, 32⟩
abbrev PG_CTRL_ENABLE (p : Nat) : Fld := ⟨pageOff p 8, 0, 1⟩
abbrev PG_CTRL_QUIESCE_REQ (p : Nat) : Fld := ⟨pageOff p 8, 1, 1⟩
abbrev PG_CTRL_BLK_RST_REQ (p : Nat) : Fld := ⟨pageOff p 8, 2, 1⟩
abbrev PG_CTRL_FENCE_REQ (p : Nat) : Fld := ⟨pageOff p 8, 3, 1⟩
abbrev rPG_STAT (p : Nat) : Fld := ⟨pageOff p 12, 0, 32⟩
abbrev PG_STAT_IDLE (p : Nat) : Fld := ⟨pageOff p 12, 0, 1⟩
abbrev PG_STAT_QUIESCED (p : Nat) : Fld := ⟨pageOff p 12, 1, 1⟩
abbrev PG_STAT_FENCED (p : Nat) : Fld := ⟨pageOff p 12, 2, 1⟩
abbrev PG_STAT_RST_BUSY (p : Nat) : Fld := ⟨pageOff p 12, 3, 1⟩
abbrev PG_STAT_RST_REFUSED (p : Nat) : Fld := ⟨pageOff p 12, 4, 1⟩
abbrev PG_STAT_ABSENT (p : Nat) : Fld := ⟨pageOff p 12, 5, 1⟩
abbrev rEVT_RAW (p : Nat) : Fld := ⟨pageOff p 16, 0, 32⟩
abbrev rEVT_PEND (p : Nat) : Fld := ⟨pageOff p 20, 0, 32⟩
abbrev rEVT_MASK (p : Nat) : Fld := ⟨pageOff p 24, 0, 32⟩
abbrev rEVT_SET (p : Nat) : Fld := ⟨pageOff p 28, 0, 32⟩
abbrev rFLT_STAT (p : Nat) : Fld := ⟨pageOff p 32, 0, 32⟩
abbrev rINJ_CTRL (p : Nat) : Fld := ⟨pageOff p 36, 0, 32⟩
abbrev INJ_CTRL_CHECKER (p : Nat) : Fld := ⟨pageOff p 36, 0, 8⟩
abbrev INJ_CTRL_CONTINUOUS (p : Nat) : Fld := ⟨pageOff p 36, 8, 1⟩
abbrev INJ_CTRL_ACTIVE (p : Nat) : Fld := ⟨pageOff p 36, 9, 1⟩
abbrev INJ_CTRL_INVERT (p : Nat) : Fld := ⟨pageOff p 36, 16, 8⟩
abbrev rINJ_ARM (p : Nat) : Fld := ⟨pageOff p 40, 0, 32⟩
abbrev rPG_LOCK (p : Nat) : Fld := ⟨pageOff p 44, 0, 32⟩
abbrev PG_LOCK_LOCK (p : Nat) : Fld := ⟨pageOff p 44, 0, 1⟩

/-! ## Block registers -/

/-! ### SYS (R84) -/

abbrev rSYS_BRINGUP : Fld := ⟨64, 0, 32⟩
abbrev SYS_BRINGUP_STEP : Fld := ⟨64, 0, 4⟩
abbrev SYS_BRINGUP_READY_LOCKED : Fld := ⟨64, 8, 1⟩
abbrev SYS_BRINGUP_ERASE_COMPLETED : Fld := ⟨64, 9, 1⟩
abbrev SYS_BRINGUP_TREE_FAIL : Fld := ⟨64, 10, 1⟩
abbrev SYS_BRINGUP_KEY_FAIL : Fld := ⟨64, 11, 1⟩
abbrev SYS_BRINGUP_DEGRADED : Fld := ⟨64, 12, 1⟩
abbrev SYS_BRINGUP_RESTARTS : Fld := ⟨64, 16, 8⟩
abbrev rSYS_BRINGUP_TIME : Fld := ⟨68, 0, 32⟩
abbrev SYS_BRINGUP_TIME_TIME_US : Fld := ⟨68, 0, 32⟩
abbrev rSYS_REPLAY_STAT : Fld := ⟨72, 0, 32⟩
abbrev SYS_REPLAY_STAT_VALID : Fld := ⟨72, 0, 16⟩
abbrev SYS_REPLAY_STAT_DISCARDED : Fld := ⟨72, 16, 16⟩
abbrev rSYS_ROLE : Fld := ⟨76, 0, 32⟩
abbrev SYS_ROLE_ROLE : Fld := ⟨76, 0, 1⟩
abbrev SYS_ROLE_STRAP_LEVEL : Fld := ⟨76, 1, 1⟩
abbrev rSYS_SERIAL_LO : Fld := ⟨80, 0, 32⟩
abbrev SYS_SERIAL_LO_SERIAL : Fld := ⟨80, 0, 32⟩
abbrev rSYS_SERIAL_HI : Fld := ⟨84, 0, 32⟩
abbrev SYS_SERIAL_HI_SERIAL : Fld := ⟨84, 0, 32⟩
abbrev rSYS_UPTIME_LO : Fld := ⟨88, 0, 32⟩
abbrev SYS_UPTIME_LO_US_LO : Fld := ⟨88, 0, 32⟩
abbrev rSYS_UPTIME_HI : Fld := ⟨92, 0, 32⟩
abbrev SYS_UPTIME_HI_US_HI : Fld := ⟨92, 0, 8⟩
abbrev rSYS_GPIO_CTRL : Fld := ⟨96, 0, 32⟩
abbrev SYS_GPIO_CTRL_OE : Fld := ⟨96, 0, 4⟩
abbrev SYS_GPIO_CTRL_OUT : Fld := ⟨96, 4, 4⟩
abbrev SYS_GPIO_CTRL_PD_EN : Fld := ⟨96, 8, 4⟩
abbrev SYS_GPIO_CTRL_EDGE_EN : Fld := ⟨96, 16, 4⟩
abbrev rSYS_GPIO_IN : Fld := ⟨100, 0, 32⟩
abbrev SYS_GPIO_IN_IN : Fld := ⟨100, 0, 4⟩

/-! ### RST (R85) -/

abbrev rRST_CAUSE : Fld := ⟨4160, 0, 32⟩
abbrev RST_CAUSE_POC : Fld := ⟨4160, 0, 1⟩
abbrev RST_CAUSE_RST_N : Fld := ⟨4160, 1, 1⟩
abbrev RST_CAUSE_CHIP_SW : Fld := ⟨4160, 2, 1⟩
abbrev RST_CAUSE_MP_WDOG : Fld := ⟨4160, 3, 1⟩
abbrev RST_CAUSE_DEFERRED : Fld := ⟨4160, 4, 1⟩
abbrev RST_CAUSE_IN_BRINGUP : Fld := ⟨4160, 5, 1⟩
abbrev rRST_CHIP_RST : Fld := ⟨4164, 0, 32⟩
abbrev RST_CHIP_RST_KEY : Fld := ⟨4164, 0, 16⟩
abbrev rRST_COUNT0 : Fld := ⟨4168, 0, 32⟩
abbrev RST_COUNT0_RST_N_CNT : Fld := ⟨4168, 0, 16⟩
abbrev RST_COUNT0_CHIP_SW_CNT : Fld := ⟨4168, 16, 16⟩
abbrev rRST_COUNT1 : Fld := ⟨4172, 0, 32⟩
abbrev RST_COUNT1_WDOG_CNT : Fld := ⟨4172, 0, 16⟩
abbrev RST_COUNT1_PERST_CNT : Fld := ⟨4172, 16, 16⟩
abbrev rRST_LINK_RST : Fld := ⟨4176, 0, 32⟩
abbrev RST_LINK_RST_PORT_A : Fld := ⟨4176, 0, 16⟩
abbrev RST_LINK_RST_PORT_B : Fld := ⟨4176, 16, 16⟩
abbrev rRST_BLK_RST_LAST : Fld := ⟨4180, 0, 32⟩
abbrev RST_BLK_RST_LAST_PAGE : Fld := ⟨4180, 0, 8⟩
abbrev RST_BLK_RST_LAST_REFUSED : Fld := ⟨4180, 8, 1⟩
abbrev RST_BLK_RST_LAST_COUNT : Fld := ⟨4180, 16, 16⟩
abbrev rRST_DEFER_MAX : Fld := ⟨4184, 0, 32⟩
abbrev RST_DEFER_MAX_LONGEST : Fld := ⟨4184, 0, 11⟩
abbrev RST_DEFER_MAX_BY_FUSE : Fld := ⟨4184, 11, 1⟩

/-! ### MPC (R86) -/

abbrev rMPC_MP_STAT : Fld := ⟨147520, 0, 32⟩
abbrev MPC_MP_STAT_ACTIVE : Fld := ⟨147520, 0, 1⟩
abbrev MPC_MP_STAT_MP_A_STATE : Fld := ⟨147520, 4, 3⟩
abbrev MPC_MP_STAT_MP_B_STATE : Fld := ⟨147520, 8, 3⟩
abbrev MPC_MP_STAT_TAKEOVERS : Fld := ⟨147520, 16, 16⟩
abbrev rMPC_LEASE_VALID : Fld := ⟨147524, 0, 32⟩
abbrev MPC_LEASE_VALID_VALID : Fld := ⟨147524, 0, 32⟩
abbrev rMPC_LEASE_EXPIRED : Fld := ⟨147528, 0, 32⟩
abbrev MPC_LEASE_EXPIRED_EXPIRED : Fld := ⟨147528, 0, 32⟩
abbrev rMPC_LEASE_PERIOD : Fld := ⟨147532, 0, 32⟩
abbrev MPC_LEASE_PERIOD_PERIOD_US : Fld := ⟨147532, 0, 16⟩
abbrev rMPC_WDOG_CFG : Fld := ⟨147536, 0, 32⟩
abbrev MPC_WDOG_CFG_PERIOD : Fld := ⟨147536, 0, 8⟩
abbrev MPC_WDOG_CFG_ENABLE : Fld := ⟨147536, 8, 1⟩
abbrev rMPC_WDOG_STAT : Fld := ⟨147540, 0, 32⟩
abbrev MPC_WDOG_STAT_COUNT_MS : Fld := ⟨147540, 0, 16⟩
abbrev rMPC_TAKEOVER_TIME : Fld := ⟨147544, 0, 32⟩
abbrev MPC_TAKEOVER_TIME_TIME_US : Fld := ⟨147544, 0, 20⟩
abbrev rMPC_FW_STAT : Fld := ⟨147548, 0, 32⟩
abbrev MPC_FW_STAT_RUN_SLOT : Fld := ⟨147548, 0, 1⟩
abbrev MPC_FW_STAT_OTHER_VALID : Fld := ⟨147548, 1, 1⟩
abbrev MPC_FW_STAT_RUN_VERSION : Fld := ⟨147548, 16, 16⟩

/-! ### EVT (R110) -/

abbrev rEVT_SUM_LO : Fld := ⟨16448, 0, 32⟩
abbrev EVT_SUM_LO_PAGE : Fld := ⟨16448, 0, 32⟩
abbrev rEVT_SUM_HI : Fld := ⟨16452, 0, 32⟩
abbrev EVT_SUM_HI_PAGE : Fld := ⟨16452, 0, 5⟩
abbrev rEVT_RING_HEAD : Fld := ⟨16456, 0, 32⟩
abbrev EVT_RING_HEAD_INDEX : Fld := ⟨16456, 0, 6⟩
abbrev EVT_RING_HEAD_NEXT_SEQ : Fld := ⟨16456, 16, 16⟩
abbrev rEVT_RING_TAIL : Fld := ⟨16460, 0, 32⟩
abbrev EVT_RING_TAIL_INDEX : Fld := ⟨16460, 0, 6⟩
abbrev rEVT_RING_CFG : Fld := ⟨16464, 0, 32⟩
abbrev EVT_RING_CFG_HIGH_MARK : Fld := ⟨16464, 0, 7⟩
abbrev rEVT_RING_STAT : Fld := ⟨16468, 0, 32⟩
abbrev EVT_RING_STAT_COUNT : Fld := ⟨16468, 0, 7⟩
abbrev EVT_RING_STAT_DROPPED : Fld := ⟨16468, 16, 16⟩
abbrev rEVT_DELIVER_CFG : Fld := ⟨16472, 0, 32⟩
abbrev EVT_DELIVER_CFG_RING_EN : Fld := ⟨16472, 0, 1⟩
abbrev EVT_DELIVER_CFG_MSIX_EN : Fld := ⟨16472, 1, 1⟩
abbrev EVT_DELIVER_CFG_FLAG_EN : Fld := ⟨16472, 2, 1⟩
abbrev rEVT_RING_CLR : Fld := ⟨16476, 0, 32⟩
abbrev EVT_RING_CLR_KEY : Fld := ⟨16476, 0, 16⟩
abbrev rEVT_VEC_SEL (i : Nat) : Fld := ⟨16480 + 4 * i, 0, 32⟩
abbrev rEVT_RING (i : Nat) : Fld := ⟨17408 + 4 * i, 0, 32⟩

/-! ### CN (R145) -/

abbrev rCN_CFG (n : Nat) : Fld := ⟨53312 + 4096 * n, 0, 32⟩
abbrev CN_CFG_REPEAT_MAX (n : Nat) : Fld := ⟨53312 + 4096 * n, 0, 3⟩
abbrev CN_CFG_PPS_TARGET (n : Nat) : Fld := ⟨53312 + 4096 * n, 4, 8⟩
abbrev CN_CFG_AUTO_LINKUP (n : Nat) : Fld := ⟨53312 + 4096 * n, 12, 1⟩
abbrev CN_CFG_CCLK_STOP (n : Nat) : Fld := ⟨53312 + 4096 * n, 13, 1⟩
abbrev CN_CFG_RESP_TIMEOUT (n : Nat) : Fld := ⟨53312 + 4096 * n, 16, 8⟩
abbrev CN_CFG_INS_DELAY (n : Nat) : Fld := ⟨53312 + 4096 * n, 24, 8⟩
abbrev rCN_STAT (n : Nat) : Fld := ⟨53316 + 4096 * n, 0, 32⟩
abbrev CN_STAT_STATE (n : Nat) : Fld := ⟨53316 + 4096 * n, 0, 4⟩
abbrev CN_STAT_FIDI (n : Nat) : Fld := ⟨53316 + 4096 * n, 8, 8⟩
abbrev CN_STAT_CRED (n : Nat) : Fld := ⟨53316 + 4096 * n, 16, 1⟩
abbrev CN_STAT_PAIR_SLOT (n : Nat) : Fld := ⟨53316 + 4096 * n, 17, 1⟩
abbrev CN_STAT_ERASE_ARMED (n : Nat) : Fld := ⟨53316 + 4096 * n, 18, 1⟩
abbrev CN_STAT_LAST_SEQ (n : Nat) : Fld := ⟨53316 + 4096 * n, 24, 8⟩
abbrev rCN_ETU (n : Nat) : Fld := ⟨53320 + 4096 * n, 0, 32⟩
abbrev CN_ETU_ETU (n : Nat) : Fld := ⟨53320 + 4096 * n, 0, 12⟩
abbrev rCN_CCLK_KHZ (n : Nat) : Fld := ⟨53324 + 4096 * n, 0, 32⟩
abbrev CN_CCLK_KHZ_KHZ (n : Nat) : Fld := ⟨53324 + 4096 * n, 0, 15⟩
abbrev rCN_ERR_CNT (n : Nat) : Fld := ⟨53328 + 4096 * n, 0, 32⟩
abbrev CN_ERR_CNT_REPEATS (n : Nat) : Fld := ⟨53328 + 4096 * n, 0, 16⟩
abbrev CN_ERR_CNT_CHANNEL (n : Nat) : Fld := ⟨53328 + 4096 * n, 16, 8⟩
abbrev CN_ERR_CNT_FRAME (n : Nat) : Fld := ⟨53328 + 4096 * n, 24, 8⟩
abbrev rCN_PAIR_STAT (n : Nat) : Fld := ⟨53332 + 4096 * n, 0, 32⟩
abbrev CN_PAIR_STAT_SLOTS (n : Nat) : Fld := ⟨53332 + 4096 * n, 0, 2⟩
abbrev CN_PAIR_STAT_FAILS (n : Nat) : Fld := ⟨53332 + 4096 * n, 8, 8⟩
abbrev CN_PAIR_STAT_REFUSED (n : Nat) : Fld := ⟨53332 + 4096 * n, 16, 1⟩
abbrev rCN_DOCK_CTRL (n : Nat) : Fld := ⟨53336 + 4096 * n, 0, 32⟩
abbrev CN_DOCK_CTRL_RESTART (n : Nat) : Fld := ⟨53336 + 4096 * n, 0, 1⟩
abbrev CN_DOCK_CTRL_ENROL_REQ (n : Nat) : Fld := ⟨53336 + 4096 * n, 1, 1⟩
abbrev CN_DOCK_CTRL_ENROL_SLOT (n : Nat) : Fld := ⟨53336 + 4096 * n, 2, 1⟩
abbrev CN_DOCK_CTRL_HOLD_RESET (n : Nat) : Fld := ⟨53336 + 4096 * n, 3, 1⟩
abbrev rCN_DOCK_STAT (n : Nat) : Fld := ⟨53340 + 4096 * n, 0, 32⟩
abbrev CN_DOCK_STAT_LINKUP_RESULT (n : Nat) : Fld := ⟨53340 + 4096 * n, 0, 8⟩
abbrev CN_DOCK_STAT_ENROL_RESULT (n : Nat) : Fld := ⟨53340 + 4096 * n, 8, 8⟩
abbrev CN_DOCK_STAT_ATR_TRIES (n : Nat) : Fld := ⟨53340 + 4096 * n, 16, 2⟩
abbrev CN_DOCK_STAT_CPS_VALID (n : Nat) : Fld := ⟨53340 + 4096 * n, 18, 1⟩
abbrev rCN_CPS (n i : Nat) : Fld := ⟨53344 + 4096 * n + 4 * i, 0, 32⟩
abbrev CN_CPS_BYTES (n i : Nat) : Fld := ⟨53344 + 4096 * n + 4 * i, 0, 32⟩
abbrev rCN_MBX_CTRL (n : Nat) : Fld := ⟨53360 + 4096 * n, 0, 32⟩
abbrev CN_MBX_CTRL_OP (n : Nat) : Fld := ⟨53360 + 4096 * n, 0, 8⟩
abbrev CN_MBX_CTRL_LEN (n : Nat) : Fld := ⟨53360 + 4096 * n, 8, 8⟩
abbrev CN_MBX_CTRL_GO (n : Nat) : Fld := ⟨53360 + 4096 * n, 16, 1⟩
abbrev rCN_MBX_STAT (n : Nat) : Fld := ⟨53364 + 4096 * n, 0, 32⟩
abbrev CN_MBX_STAT_BUSY (n : Nat) : Fld := ⟨53364 + 4096 * n, 0, 1⟩
abbrev CN_MBX_STAT_DONE (n : Nat) : Fld := ⟨53364 + 4096 * n, 1, 1⟩
abbrev CN_MBX_STAT_RESULT (n : Nat) : Fld := ⟨53364 + 4096 * n, 4, 4⟩
abbrev CN_MBX_STAT_RESP_LEN (n : Nat) : Fld := ⟨53364 + 4096 * n, 8, 8⟩
abbrev CN_MBX_STAT_ST (n : Nat) : Fld := ⟨53364 + 4096 * n, 16, 8⟩
abbrev CN_MBX_STAT_SEQ (n : Nat) : Fld := ⟨53364 + 4096 * n, 24, 8⟩
abbrev rCN_MBX_TX (n i : Nat) : Fld := ⟨53504 + 4096 * n + 4 * i, 0, 32⟩
abbrev CN_MBX_TX_DATA (n i : Nat) : Fld := ⟨53504 + 4096 * n + 4 * i, 0, 32⟩
abbrev rCN_MBX_RX (n i : Nat) : Fld := ⟨53760 + 4096 * n + 4 * i, 0, 32⟩
abbrev CN_MBX_RX_DATA (n i : Nat) : Fld := ⟨53760 + 4096 * n + 4 * i, 0, 32⟩

/-! ### SP (R199) -/

abbrev rSP_STAT (n : Nat) : Fld := ⟨45120 + 4096 * n, 0, 32⟩
abbrev SP_STAT_MODE (n : Nat) : Fld := ⟨45120 + 4096 * n, 0, 2⟩
abbrev SP_STAT_LAST_GOOD (n : Nat) : Fld := ⟨45120 + 4096 * n, 2, 2⟩
abbrev SP_STAT_TUNED (n : Nat) : Fld := ⟨45120 + 4096 * n, 4, 1⟩
abbrev SP_STAT_IDLE (n : Nat) : Fld := ⟨45120 + 4096 * n, 5, 1⟩
abbrev SP_STAT_CLK_STOPPED (n : Nat) : Fld := ⟨45120 + 4096 * n, 6, 1⟩
abbrev SP_STAT_CARD_PRESENT (n : Nat) : Fld := ⟨45120 + 4096 * n, 7, 1⟩
abbrev SP_STAT_LINK_STATE (n : Nat) : Fld := ⟨45120 + 4096 * n, 8, 3⟩
abbrev SP_STAT_OUTSTANDING (n : Nat) : Fld := ⟨45120 + 4096 * n, 16, 8⟩
abbrev rSP_TIMEOUT (n : Nat) : Fld := ⟨45124 + 4096 * n, 0, 32⟩
abbrev SP_TIMEOUT_TIMEOUT_US (n : Nat) : Fld := ⟨45124 + 4096 * n, 0, 16⟩
abbrev rSP_RETRY_CFG (n : Nat) : Fld := ⟨45128 + 4096 * n, 0, 32⟩
abbrev SP_RETRY_CFG_MAX (n : Nat) : Fld := ⟨45128 + 4096 * n, 0, 3⟩
abbrev SP_RETRY_CFG_TOKEN_WAIT (n : Nat) : Fld := ⟨45128 + 4096 * n, 8, 8⟩
abbrev rSP_PING_CFG (n : Nat) : Fld := ⟨45132 + 4096 * n, 0, 32⟩
abbrev SP_PING_CFG_INTERVAL_US (n : Nat) : Fld := ⟨45132 + 4096 * n, 0, 16⟩
abbrev rSP_CLK_CFG (n : Nat) : Fld := ⟨45136 + 4096 * n, 0, 32⟩
abbrev SP_CLK_CFG_STOP_EN (n : Nat) : Fld := ⟨45136 + 4096 * n, 0, 1⟩
abbrev SP_CLK_CFG_STOP_DELAY (n : Nat) : Fld := ⟨45136 + 4096 * n, 4, 12⟩
abbrev rSP_TUNE_CFG (n : Nat) : Fld := ⟨45140 + 4096 * n, 0, 32⟩
abbrev SP_TUNE_CFG_AUTO_RETUNE (n : Nat) : Fld := ⟨45140 + 4096 * n, 0, 1⟩
abbrev SP_TUNE_CFG_TARGET_MODE (n : Nat) : Fld := ⟨45140 + 4096 * n, 4, 2⟩
abbrev rSP_TRIM_LO (n : Nat) : Fld := ⟨45144 + 4096 * n, 0, 32⟩
abbrev rSP_TRIM_HI (n : Nat) : Fld := ⟨45148 + 4096 * n, 0, 32⟩
abbrev rSP_TUNE_TEMP (n : Nat) : Fld := ⟨45152 + 4096 * n, 0, 32⟩
abbrev SP_TUNE_TEMP_TEMP (n : Nat) : Fld := ⟨45152 + 4096 * n, 0, 16⟩
abbrev rSP_LINE_ERR_LO (n : Nat) : Fld := ⟨45156 + 4096 * n, 0, 32⟩
abbrev rSP_LINE_ERR_HI (n : Nat) : Fld := ⟨45160 + 4096 * n, 0, 32⟩
abbrev rSP_RETRY_CNT (n : Nat) : Fld := ⟨45164 + 4096 * n, 0, 32⟩
abbrev SP_RETRY_CNT_RESENT (n : Nat) : Fld := ⟨45164 + 4096 * n, 0, 16⟩
abbrev SP_RETRY_CNT_EXHAUSTED (n : Nat) : Fld := ⟨45164 + 4096 * n, 16, 16⟩
abbrev rSP_RETRAIN_CNT (n : Nat) : Fld := ⟨45168 + 4096 * n, 0, 32⟩
abbrev SP_RETRAIN_CNT_RETRAINS (n : Nat) : Fld := ⟨45168 + 4096 * n, 0, 16⟩
abbrev SP_RETRAIN_CNT_FRAME_CRC (n : Nat) : Fld := ⟨45168 + 4096 * n, 16, 16⟩
abbrev rSP_CTRL (n : Nat) : Fld := ⟨45172 + 4096 * n, 0, 32⟩
abbrev SP_CTRL_RETRAIN (n : Nat) : Fld := ⟨45172 + 4096 * n, 0, 1⟩
abbrev SP_CTRL_LINK_RESET (n : Nat) : Fld := ⟨45172 + 4096 * n, 1, 1⟩
abbrev SP_CTRL_RETUNE (n : Nat) : Fld := ⟨45172 + 4096 * n, 2, 1⟩

/-! ### LSE (R200) -/

abbrev rLSE_CFG (n : Nat) : Fld := ⟨36928 + 4096 * n, 0, 32⟩
abbrev LSE_CFG_AUTO_REKEY (n : Nat) : Fld := ⟨36928 + 4096 * n, 0, 1⟩
abbrev LSE_CFG_AUTH_LIMIT (n : Nat) : Fld := ⟨36928 + 4096 * n, 8, 8⟩
abbrev rLSE_STAT (n : Nat) : Fld := ⟨36932 + 4096 * n, 0, 32⟩
abbrev LSE_STAT_SESSION (n : Nat) : Fld := ⟨36932 + 4096 * n, 0, 1⟩
abbrev LSE_STAT_EPOCH (n : Nat) : Fld := ⟨36932 + 4096 * n, 1, 2⟩
abbrev LSE_STAT_NEXT_HELD (n : Nat) : Fld := ⟨36932 + 4096 * n, 3, 1⟩
abbrev LSE_STAT_NEXT_EPOCH (n : Nat) : Fld := ⟨36932 + 4096 * n, 4, 2⟩
abbrev LSE_STAT_AUTH_FAILS (n : Nat) : Fld := ⟨36932 + 4096 * n, 8, 8⟩
abbrev rLSE_CMD_FC_LO (n : Nat) : Fld := ⟨36936 + 4096 * n, 0, 32⟩
abbrev rLSE_CMD_FC_HI (n : Nat) : Fld := ⟨36940 + 4096 * n, 0, 32⟩
abbrev rLSE_RSP_FC_LO (n : Nat) : Fld := ⟨36944 + 4096 * n, 0, 32⟩
abbrev rLSE_RSP_FC_HI (n : Nat) : Fld := ⟨36948 + 4096 * n, 0, 32⟩
abbrev rLSE_UNIT_CNT_LO (n : Nat) : Fld := ⟨36952 + 4096 * n, 0, 32⟩
abbrev rLSE_UNIT_CNT_HI (n : Nat) : Fld := ⟨36956 + 4096 * n, 0, 32⟩
abbrev rLSE_CTRL (n : Nat) : Fld := ⟨36960 + 4096 * n, 0, 32⟩
abbrev LSE_CTRL_REKEY (n : Nat) : Fld := ⟨36960 + 4096 * n, 0, 1⟩
abbrev LSE_CTRL_END_SESSION (n : Nat) : Fld := ⟨36960 + 4096 * n, 1, 1⟩
abbrev rLSE_CNT (n : Nat) : Fld := ⟨36964 + 4096 * n, 0, 32⟩
abbrev LSE_CNT_AUTH_FAIL (n : Nat) : Fld := ⟨36964 + 4096 * n, 0, 16⟩
abbrev LSE_CNT_REPLAY (n : Nat) : Fld := ⟨36964 + 4096 * n, 16, 16⟩

/-! ### PCE (R229) -/

abbrev rPCE_LINK_STAT : Fld := ⟨131136, 0, 32⟩
abbrev PCE_LINK_STAT_SPEED : Fld := ⟨131136, 0, 2⟩
abbrev PCE_LINK_STAT_WIDTH : Fld := ⟨131136, 2, 2⟩
abbrev PCE_LINK_STAT_DL_ACTIVE : Fld := ⟨131136, 4, 1⟩
abbrev PCE_LINK_STAT_LTSSM : Fld := ⟨131136, 5, 3⟩
abbrev rPCE_LINK_CFG : Fld := ⟨131140, 0, 32⟩
abbrev PCE_LINK_CFG_MAX_SPEED : Fld := ⟨131140, 0, 2⟩
abbrev PCE_LINK_CFG_L1_ALLOW : Fld := ⟨131140, 2, 1⟩
abbrev rPCE_FUNC_STAT : Fld := ⟨131144, 0, 32⟩
abbrev PCE_FUNC_STAT_ENABLED : Fld := ⟨131144, 0, 16⟩
abbrev PCE_FUNC_STAT_VF_ENABLE : Fld := ⟨131144, 16, 1⟩
abbrev PCE_FUNC_STAT_ARI : Fld := ⟨131144, 17, 1⟩
abbrev rPCE_FLR_STAT : Fld := ⟨131148, 0, 32⟩
abbrev PCE_FLR_STAT_BUSY : Fld := ⟨131148, 0, 16⟩
abbrev rPCE_XFER_STAT : Fld := ⟨131152, 0, 32⟩
abbrev PCE_XFER_STAT_MPS : Fld := ⟨131152, 0, 3⟩
abbrev PCE_XFER_STAT_MRRS : Fld := ⟨131152, 4, 3⟩
abbrev rPCE_AER_CNT : Fld := ⟨131156, 0, 32⟩
abbrev PCE_AER_CNT_CORR : Fld := ⟨131156, 0, 16⟩
abbrev PCE_AER_CNT_UNCORR : Fld := ⟨131156, 16, 16⟩
abbrev rPCE_CPL_CNT : Fld := ⟨131160, 0, 32⟩
abbrev PCE_CPL_CNT_TIMEOUT : Fld := ⟨131160, 0, 16⟩
abbrev PCE_CPL_CNT_POISONED : Fld := ⟨131160, 16, 16⟩
abbrev rPCE_DB_ERR : Fld := ⟨131164, 0, 32⟩
abbrev PCE_DB_ERR_INST : Fld := ⟨131164, 0, 4⟩
abbrev PCE_DB_ERR_DOORBELL : Fld := ⟨131164, 4, 3⟩
abbrev PCE_DB_ERR_CAUSE : Fld := ⟨131164, 8, 2⟩
abbrev PCE_DB_ERR_COUNT : Fld := ⟨131164, 16, 16⟩
abbrev rPCE_OUTSTANDING : Fld := ⟨131168, 0, 32⟩
abbrev PCE_OUTSTANDING_COUNT : Fld := ⟨131168, 0, 13⟩
abbrev rPCE_FETCH_CFG : Fld := ⟨131172, 0, 32⟩
abbrev PCE_FETCH_CFG_BURST : Fld := ⟨131172, 0, 4⟩

/-! ### ITU (R256) -/

abbrev rITU_CFG : Fld := ⟨135232, 0, 32⟩
abbrev ITU_CFG_THRASH_LIMIT : Fld := ⟨135232, 0, 16⟩
abbrev rITU_STAT : Fld := ⟨135236, 0, 32⟩
abbrev ITU_STAT_VALID : Fld := ⟨135236, 0, 9⟩
abbrev ITU_STAT_MISSES : Fld := ⟨135236, 16, 16⟩
abbrev rITU_INVAL_CTRL : Fld := ⟨135240, 0, 32⟩
abbrev ITU_INVAL_CTRL_INST : Fld := ⟨135240, 0, 4⟩
abbrev ITU_INVAL_CTRL_SCOPE : Fld := ⟨135240, 4, 2⟩
abbrev ITU_INVAL_CTRL_GO : Fld := ⟨135240, 8, 1⟩
abbrev rITU_INVAL_ADDR_LO : Fld := ⟨135244, 0, 32⟩
abbrev ITU_INVAL_ADDR_LO_IOVA : Fld := ⟨135244, 12, 20⟩
abbrev rITU_INVAL_ADDR_HI : Fld := ⟨135248, 0, 32⟩
abbrev ITU_INVAL_ADDR_HI_IOVA : Fld := ⟨135248, 0, 16⟩
abbrev rITU_FAULT_INFO : Fld := ⟨135252, 0, 32⟩
abbrev ITU_FAULT_INFO_VALID : Fld := ⟨135252, 0, 1⟩
abbrev ITU_FAULT_INFO_OVERRUN : Fld := ⟨135252, 1, 1⟩
abbrev ITU_FAULT_INFO_INST : Fld := ⟨135252, 2, 4⟩
abbrev ITU_FAULT_INFO_ACCESS : Fld := ⟨135252, 6, 2⟩
abbrev ITU_FAULT_INFO_CAUSE : Fld := ⟨135252, 8, 2⟩
abbrev ITU_FAULT_INFO_QUEUE : Fld := ⟨135252, 10, 2⟩
abbrev ITU_FAULT_INFO_CID : Fld := ⟨135252, 16, 16⟩
abbrev rITU_FAULT_ADDR_LO : Fld := ⟨135256, 0, 32⟩
abbrev ITU_FAULT_ADDR_LO_IOVA : Fld := ⟨135256, 0, 32⟩
abbrev rITU_FAULT_ADDR_HI : Fld := ⟨135260, 0, 32⟩
abbrev ITU_FAULT_ADDR_HI_IOVA : Fld := ⟨135260, 0, 32⟩
abbrev rITU_ROOT_LO (i : Nat) : Fld := ⟨135424 + 16 * i, 0, 32⟩
abbrev ITU_ROOT_LO_ROOT (i : Nat) : Fld := ⟨135424 + 16 * i, 12, 20⟩
abbrev rITU_ROOT_HI (i : Nat) : Fld := ⟨135428 + 16 * i, 0, 32⟩
abbrev ITU_ROOT_HI_ROOT (i : Nat) : Fld := ⟨135428 + 16 * i, 0, 32⟩
abbrev rITU_XCFG (i : Nat) : Fld := ⟨135432 + 16 * i, 0, 32⟩
abbrev ITU_XCFG_MODE (i : Nat) : Fld := ⟨135432 + 16 * i, 0, 2⟩
abbrev ITU_XCFG_L1_SIZE (i : Nat) : Fld := ⟨135432 + 16 * i, 2, 5⟩
abbrev ITU_XCFG_TLB_MAX (i : Nat) : Fld := ⟨135432 + 16 * i, 8, 8⟩

/-! ### QOS (R257) -/

abbrev rQOS_STAT : Fld := ⟨139328, 0, 32⟩
abbrev QOS_STAT_INST : Fld := ⟨139328, 0, 4⟩
abbrev QOS_STAT_CLASS : Fld := ⟨139328, 4, 2⟩
abbrev QOS_STAT_GRANTS : Fld := ⟨139328, 16, 16⟩
abbrev rQOS_RATE (i : Nat) : Fld := ⟨139520 + 16 * i, 0, 32⟩
abbrev QOS_RATE_BYTE_RATE (i : Nat) : Fld := ⟨139520 + 16 * i, 0, 16⟩
abbrev QOS_RATE_OPS_RATE (i : Nat) : Fld := ⟨139520 + 16 * i, 16, 16⟩
abbrev rQOS_GUST (i : Nat) : Fld := ⟨139524 + 16 * i, 0, 32⟩
abbrev QOS_GUST_BYTE_GUST (i : Nat) : Fld := ⟨139524 + 16 * i, 0, 8⟩
abbrev QOS_GUST_OPS_GUST (i : Nat) : Fld := ⟨139524 + 16 * i, 8, 12⟩
abbrev rQOS_SCHED (i : Nat) : Fld := ⟨139528 + 16 * i, 0, 32⟩
abbrev QOS_SCHED_CLASS (i : Nat) : Fld := ⟨139528 + 16 * i, 0, 2⟩
abbrev QOS_SCHED_WEIGHT (i : Nat) : Fld := ⟨139528 + 16 * i, 8, 8⟩
abbrev rQOS_BUCKET (i : Nat) : Fld := ⟨139532 + 16 * i, 0, 32⟩
abbrev QOS_BUCKET_BYTES (i : Nat) : Fld := ⟨139532 + 16 * i, 0, 16⟩
abbrev QOS_BUCKET_OPS (i : Nat) : Fld := ⟨139532 + 16 * i, 16, 16⟩

/-! ### INS (R258) -/

abbrev rINS_STATE (n : Nat) : Fld := ⟨262208 + 4096 * n, 0, 32⟩
abbrev INS_STATE_STATE (n : Nat) : Fld := ⟨262208 + 4096 * n, 0, 3⟩
abbrev INS_STATE_OUTSTANDING (n : Nat) : Fld := ⟨262208 + 4096 * n, 16, 13⟩
abbrev INS_STATE_CSTATE (n : Nat) : Fld := ⟨262208 + 4096 * n, 0, 3⟩
abbrev rINS_EVT_VEC (n : Nat) : Fld := ⟨262212 + 4096 * n, 0, 32⟩
abbrev INS_EVT_VEC_VEC (n : Nat) : Fld := ⟨262212 + 4096 * n, 0, 3⟩
abbrev rINS_RING_HEAD (n : Nat) : Fld := ⟨262216 + 4096 * n, 0, 32⟩
abbrev INS_RING_HEAD_INDEX (n : Nat) : Fld := ⟨262216 + 4096 * n, 0, 4⟩
abbrev INS_RING_HEAD_NEXT_SEQ (n : Nat) : Fld := ⟨262216 + 4096 * n, 16, 16⟩
abbrev rINS_RING_TAIL (n : Nat) : Fld := ⟨262220 + 4096 * n, 0, 32⟩
abbrev INS_RING_TAIL_INDEX (n : Nat) : Fld := ⟨262220 + 4096 * n, 0, 4⟩
abbrev rINS_RING_STAT (n : Nat) : Fld := ⟨262224 + 4096 * n, 0, 32⟩
abbrev INS_RING_STAT_COUNT (n : Nat) : Fld := ⟨262224 + 4096 * n, 0, 5⟩
abbrev INS_RING_STAT_DROPPED (n : Nat) : Fld := ⟨262224 + 4096 * n, 16, 16⟩
abbrev rINS_SQ_BASE_LO (n i : Nat) : Fld := ⟨262272 + 4096 * n + 16 * i, 0, 32⟩
abbrev INS_SQ_BASE_LO_BASE (n i : Nat) : Fld := ⟨262272 + 4096 * n + 16 * i, 12, 20⟩
abbrev rINS_SQ_BASE_HI (n i : Nat) : Fld := ⟨262276 + 4096 * n + 16 * i, 0, 32⟩
abbrev INS_SQ_BASE_HI_BASE (n i : Nat) : Fld := ⟨262276 + 4096 * n + 16 * i, 0, 16⟩
abbrev rINS_SQ_CFG (n i : Nat) : Fld := ⟨262280 + 4096 * n + 16 * i, 0, 32⟩
abbrev INS_SQ_CFG_ENABLE (n i : Nat) : Fld := ⟨262280 + 4096 * n + 16 * i, 0, 1⟩
abbrev INS_SQ_CFG_SIZE (n i : Nat) : Fld := ⟨262280 + 4096 * n + 16 * i, 1, 3⟩
abbrev INS_SQ_CFG_CQ (n i : Nat) : Fld := ⟨262280 + 4096 * n + 16 * i, 4, 1⟩
abbrev rINS_SQ_STAT (n i : Nat) : Fld := ⟨262284 + 4096 * n + 16 * i, 0, 32⟩
abbrev INS_SQ_STAT_HEAD (n i : Nat) : Fld := ⟨262284 + 4096 * n + 16 * i, 0, 12⟩
abbrev INS_SQ_STAT_TAIL (n i : Nat) : Fld := ⟨262284 + 4096 * n + 16 * i, 16, 12⟩
abbrev INS_SQ_STAT_ERR (n i : Nat) : Fld := ⟨262284 + 4096 * n + 16 * i, 28, 2⟩
abbrev INS_SQ_STAT_LIVE (n i : Nat) : Fld := ⟨262284 + 4096 * n + 16 * i, 30, 1⟩
abbrev rINS_CQ_BASE_LO (n i : Nat) : Fld := ⟨262336 + 4096 * n + 16 * i, 0, 32⟩
abbrev INS_CQ_BASE_LO_BASE (n i : Nat) : Fld := ⟨262336 + 4096 * n + 16 * i, 12, 20⟩
abbrev rINS_CQ_BASE_HI (n i : Nat) : Fld := ⟨262340 + 4096 * n + 16 * i, 0, 32⟩
abbrev INS_CQ_BASE_HI_BASE (n i : Nat) : Fld := ⟨262340 + 4096 * n + 16 * i, 0, 16⟩
abbrev rINS_CQ_CFG (n i : Nat) : Fld := ⟨262344 + 4096 * n + 16 * i, 0, 32⟩
abbrev INS_CQ_CFG_ENABLE (n i : Nat) : Fld := ⟨262344 + 4096 * n + 16 * i, 0, 1⟩
abbrev INS_CQ_CFG_SIZE (n i : Nat) : Fld := ⟨262344 + 4096 * n + 16 * i, 1, 3⟩
abbrev INS_CQ_CFG_VECTOR (n i : Nat) : Fld := ⟨262344 + 4096 * n + 16 * i, 4, 3⟩
abbrev INS_CQ_CFG_COAL_CNT (n i : Nat) : Fld := ⟨262344 + 4096 * n + 16 * i, 8, 8⟩
abbrev INS_CQ_CFG_COAL_TIME (n i : Nat) : Fld := ⟨262344 + 4096 * n + 16 * i, 16, 8⟩
abbrev rINS_CQ_STAT (n i : Nat) : Fld := ⟨262348 + 4096 * n + 16 * i, 0, 32⟩
abbrev INS_CQ_STAT_TAIL (n i : Nat) : Fld := ⟨262348 + 4096 * n + 16 * i, 0, 12⟩
abbrev INS_CQ_STAT_PHASE (n i : Nat) : Fld := ⟨262348 + 4096 * n + 16 * i, 12, 1⟩
abbrev INS_CQ_STAT_ERR (n i : Nat) : Fld := ⟨262348 + 4096 * n + 16 * i, 13, 1⟩
abbrev INS_CQ_STAT_HEAD (n i : Nat) : Fld := ⟨262348 + 4096 * n + 16 * i, 16, 12⟩
abbrev rINS_BASE (n : Nat) : Fld := ⟨262400 + 4096 * n, 0, 32⟩
abbrev INS_BASE_EXTENT (n : Nat) : Fld := ⟨262400 + 4096 * n, 0, 32⟩
abbrev rINS_SIZE (n : Nat) : Fld := ⟨262404 + 4096 * n, 0, 32⟩
abbrev INS_SIZE_EXTENTS (n : Nat) : Fld := ⟨262404 + 4096 * n, 0, 32⟩
abbrev rINS_SCHED (n : Nat) : Fld := ⟨262408 + 4096 * n, 0, 32⟩
abbrev INS_SCHED_CLASS (n : Nat) : Fld := ⟨262408 + 4096 * n, 0, 2⟩
abbrev INS_SCHED_WEIGHT (n : Nat) : Fld := ⟨262408 + 4096 * n, 8, 8⟩
abbrev rINS_IMK_GEN (n : Nat) : Fld := ⟨262412 + 4096 * n, 0, 32⟩
abbrev INS_IMK_GEN_GEN (n : Nat) : Fld := ⟨262412 + 4096 * n, 0, 32⟩
abbrev rINS_CMD_CNT (n : Nat) : Fld := ⟨262416 + 4096 * n, 0, 32⟩
abbrev INS_CMD_CNT_OUTSTANDING (n : Nat) : Fld := ⟨262416 + 4096 * n, 0, 16⟩
abbrev INS_CMD_CNT_DEDUP (n : Nat) : Fld := ⟨262416 + 4096 * n, 16, 16⟩
abbrev rINS_RING (n i : Nat) : Fld := ⟨264192 + 4096 * n + 4 * i, 0, 32⟩

/-! ### LND (R287) -/

abbrev rLND_JCFG : Fld := ⟨65600, 0, 32⟩
abbrev LND_JCFG_HIGH_MARK : Fld := ⟨65600, 0, 7⟩
abbrev LND_JCFG_RESUME_MARK : Fld := ⟨65600, 8, 7⟩
abbrev rLND_JSTAT : Fld := ⟨65604, 0, 32⟩
abbrev LND_JSTAT_USED : Fld := ⟨65604, 0, 19⟩
abbrev LND_JSTAT_FULL : Fld := ⟨65604, 19, 1⟩
abbrev rLND_JHEAD : Fld := ⟨65608, 0, 32⟩
abbrev LND_JHEAD_LINE : Fld := ⟨65608, 0, 19⟩
abbrev rLND_JANCHOR : Fld := ⟨65612, 0, 32⟩
abbrev LND_JANCHOR_LINE : Fld := ⟨65612, 0, 19⟩
abbrev rLND_JRECS : Fld := ⟨65616, 0, 32⟩
abbrev LND_JRECS_COUNT : Fld := ⟨65616, 0, 16⟩
abbrev rLND_SEQ_LO : Fld := ⟨65620, 0, 32⟩
abbrev LND_SEQ_LO_SEQ : Fld := ⟨65620, 0, 32⟩
abbrev rLND_SEQ_HI : Fld := ⟨65624, 0, 32⟩
abbrev LND_SEQ_HI_SEQ : Fld := ⟨65624, 0, 32⟩
abbrev rLND_LAP : Fld := ⟨65628, 0, 32⟩
abbrev LND_LAP_LAP : Fld := ⟨65628, 0, 32⟩
abbrev rLND_LAT : Fld := ⟨65632, 0, 32⟩
abbrev LND_LAT_LAST : Fld := ⟨65632, 0, 8⟩
abbrev LND_LAT_MAX : Fld := ⟨65632, 8, 8⟩
abbrev rLND_ECC_CNT : Fld := ⟨65636, 0, 32⟩
abbrev LND_ECC_CNT_CORRECTED : Fld := ⟨65636, 0, 16⟩
abbrev LND_ECC_CNT_UNCORR : Fld := ⟨65636, 16, 16⟩
abbrev rLND_ECC_ADDR : Fld := ⟨65640, 0, 32⟩
abbrev LND_ECC_ADDR_WORD : Fld := ⟨65640, 0, 22⟩
abbrev LND_ECC_ADDR_UNCORR : Fld := ⟨65640, 22, 1⟩
abbrev LND_ECC_ADDR_POISON : Fld := ⟨65640, 23, 1⟩
abbrev rLND_POISON_CNT : Fld := ⟨65644, 0, 32⟩
abbrev LND_POISON_CNT_SET : Fld := ⟨65644, 0, 16⟩
abbrev LND_POISON_CNT_CLEARED : Fld := ⟨65644, 16, 16⟩
abbrev rLND_SCRUB_CFG : Fld := ⟨65648, 0, 32⟩
abbrev LND_SCRUB_CFG_EN : Fld := ⟨65648, 0, 1⟩
abbrev LND_SCRUB_CFG_PERIOD : Fld := ⟨65648, 8, 8⟩
abbrev rLND_SCRUB_STAT : Fld := ⟨65652, 0, 32⟩
abbrev LND_SCRUB_STAT_NEXT : Fld := ⟨65652, 0, 19⟩
abbrev rLND_WEAR : Fld := ⟨65656, 0, 32⟩
abbrev LND_WEAR_JOURNAL_PCT : Fld := ⟨65656, 0, 8⟩
abbrev rLND_BAD_LINES : Fld := ⟨65660, 0, 32⟩
abbrev LND_BAD_LINES_COUNT : Fld := ⟨65660, 0, 7⟩

/-! ### MAP (R314) -/

abbrev rMAP_CFG : Fld := ⟨69696, 0, 32⟩
abbrev MAP_CFG_WB_MARK : Fld := ⟨69696, 0, 7⟩
abbrev MAP_CFG_RESERVE_LOW : Fld := ⟨69696, 8, 8⟩
abbrev MAP_CFG_WB_AGE : Fld := ⟨69696, 16, 8⟩
abbrev rMAP_CAP : Fld := ⟨69700, 0, 32⟩
abbrev MAP_CAP_EXTENTS : Fld := ⟨69700, 0, 21⟩
abbrev rMAP_CACHE_STAT : Fld := ⟨69704, 0, 32⟩
abbrev MAP_CACHE_STAT_VALID : Fld := ⟨69704, 0, 10⟩
abbrev MAP_CACHE_STAT_DIRTY : Fld := ⟨69704, 16, 9⟩
abbrev rMAP_CACHE_CNT : Fld := ⟨69708, 0, 32⟩
abbrev MAP_CACHE_CNT_MISSES : Fld := ⟨69708, 0, 16⟩
abbrev MAP_CACHE_CNT_WRITEBACKS : Fld := ⟨69708, 16, 16⟩
abbrev rMAP_DLOG_STAT : Fld := ⟨69712, 0, 32⟩
abbrev MAP_DLOG_STAT_USED : Fld := ⟨69712, 0, 15⟩
abbrev MAP_DLOG_STAT_FULL : Fld := ⟨69712, 15, 1⟩
abbrev rMAP_DLOG_HEAD : Fld := ⟨69716, 0, 32⟩
abbrev MAP_DLOG_HEAD_LINE : Fld := ⟨69716, 0, 15⟩
abbrev rMAP_DLOG_TAIL : Fld := ⟨69720, 0, 32⟩
abbrev MAP_DLOG_TAIL_LINE : Fld := ⟨69720, 0, 15⟩
abbrev rMAP_DSN_LO : Fld := ⟨69724, 0, 32⟩
abbrev MAP_DSN_LO_DSN : Fld := ⟨69724, 0, 32⟩
abbrev rMAP_DSN_HI : Fld := ⟨69728, 0, 32⟩
abbrev MAP_DSN_HI_DSN : Fld := ⟨69728, 0, 32⟩
abbrev rMAP_RESERVE : Fld := ⟨69732, 0, 32⟩
abbrev MAP_RESERVE_HALF0 : Fld := ⟨69732, 0, 10⟩
abbrev MAP_RESERVE_HALF1 : Fld := ⟨69732, 16, 10⟩

/-! ### PAR (R315) -/

abbrev rPAR_CFG : Fld := ⟨90176, 0, 32⟩
abbrev PAR_CFG_SET_WIDTH : Fld := ⟨90176, 0, 1⟩
abbrev rPAR_GEOM : Fld := ⟨90180, 0, 32⟩
abbrev PAR_GEOM_PAGES : Fld := ⟨90180, 0, 10⟩
abbrev PAR_GEOM_N_OPEN : Fld := ⟨90180, 10, 3⟩
abbrev PAR_GEOM_SET_WIDTH : Fld := ⟨90180, 16, 1⟩
abbrev rPAR_SLOT_STAT : Fld := ⟨90184, 0, 32⟩
abbrev PAR_SLOT_STAT_FREE : Fld := ⟨90184, 0, 10⟩
abbrev PAR_SLOT_STAT_HELD : Fld := ⟨90184, 16, 10⟩
abbrev rPAR_SB_STAT : Fld := ⟨90188, 0, 32⟩
abbrev PAR_SB_STAT_OPEN : Fld := ⟨90188, 0, 3⟩
abbrev PAR_SB_STAT_CLOSING : Fld := ⟨90188, 3, 3⟩
abbrev rPAR_VERIFY_CNT : Fld := ⟨90192, 0, 32⟩
abbrev PAR_VERIFY_CNT_PASS : Fld := ⟨90192, 0, 16⟩
abbrev PAR_VERIFY_CNT_FAIL : Fld := ⟨90192, 16, 16⟩
abbrev rPAR_REBUILD_CNT : Fld := ⟨90196, 0, 32⟩
abbrev PAR_REBUILD_CNT_PAGES : Fld := ⟨90196, 0, 16⟩
abbrev PAR_REBUILD_CNT_UNRECOVERED : Fld := ⟨90196, 16, 16⟩
abbrev rPAR_SB (i : Nat) : Fld := ⟨90208 + 4 * i, 0, 32⟩
abbrev PAR_SB_SET (i : Nat) : Fld := ⟨90208 + 4 * i, 0, 4⟩
abbrev PAR_SB_HALF (i : Nat) : Fld := ⟨90208 + 4 * i, 4, 1⟩
abbrev PAR_SB_BLOCK_PAIR (i : Nat) : Fld := ⟨90208 + 4 * i, 5, 15⟩
abbrev PAR_SB_STATE (i : Nat) : Fld := ⟨90208 + 4 * i, 20, 3⟩
abbrev PAR_SB_FILL (i : Nat) : Fld := ⟨90208 + 4 * i, 23, 7⟩

/-! ### MED (R340) -/

abbrev rMED_WEAR_CFG : Fld := ⟨86080, 0, 32⟩
abbrev MED_WEAR_CFG_SPREAD_LIMIT : Fld := ⟨86080, 0, 11⟩
abbrev MED_WEAR_CFG_MOVE_EN : Fld := ⟨86080, 16, 1⟩
abbrev rMED_READ_CFG : Fld := ⟨86084, 0, 32⟩
abbrev MED_READ_CFG_REFRESH_LIMIT : Fld := ⟨86084, 0, 20⟩
abbrev MED_READ_CFG_REWRITE_THRESHOLD : Fld := ⟨86084, 24, 7⟩
abbrev rMED_SCAN_CFG : Fld := ⟨86088, 0, 32⟩
abbrev MED_SCAN_CFG_PERIOD : Fld := ⟨86088, 0, 6⟩
abbrev MED_SCAN_CFG_STRIDE : Fld := ⟨86088, 8, 4⟩
abbrev MED_SCAN_CFG_EN : Fld := ⟨86088, 16, 1⟩
abbrev MED_SCAN_CFG_ON_INSERT : Fld := ⟨86088, 17, 1⟩
abbrev rMED_RECLAIM_CFG : Fld := ⟨86092, 0, 32⟩
abbrev MED_RECLAIM_CFG_START : Fld := ⟨86092, 0, 8⟩
abbrev MED_RECLAIM_CFG_PRESSURE : Fld := ⟨86092, 8, 8⟩
abbrev rMED_SPARE_CFG : Fld := ⟨86096, 0, 32⟩
abbrev MED_SPARE_CFG_LOW : Fld := ⟨86096, 0, 10⟩
abbrev MED_SPARE_CFG_DIE_LIMIT : Fld := ⟨86096, 16, 10⟩
abbrev rMED_ARB_0 : Fld := ⟨86100, 0, 32⟩
abbrev MED_ARB_0_HOST_RD_CLASS : Fld := ⟨86100, 0, 2⟩
abbrev MED_ARB_0_HOST_RD_WEIGHT : Fld := ⟨86100, 8, 8⟩
abbrev MED_ARB_0_HOST_WR_CLASS : Fld := ⟨86100, 16, 2⟩
abbrev MED_ARB_0_HOST_WR_WEIGHT : Fld := ⟨86100, 24, 8⟩
abbrev rMED_ARB_1 : Fld := ⟨86104, 0, 32⟩
abbrev MED_ARB_1_SYS_CLASS : Fld := ⟨86104, 0, 2⟩
abbrev MED_ARB_1_SYS_WEIGHT : Fld := ⟨86104, 8, 8⟩
abbrev MED_ARB_1_MOVE_CLASS : Fld := ⟨86104, 16, 2⟩
abbrev MED_ARB_1_MOVE_WEIGHT : Fld := ⟨86104, 24, 8⟩
abbrev rMED_ARB_2 : Fld := ⟨86108, 0, 32⟩
abbrev MED_ARB_2_SCAN_CLASS : Fld := ⟨86108, 0, 2⟩
abbrev MED_ARB_2_SCAN_WEIGHT : Fld := ⟨86108, 8, 8⟩
abbrev rMED_CTRL : Fld := ⟨86112, 0, 32⟩
abbrev MED_CTRL_LUN : Fld := ⟨86112, 0, 7⟩
abbrev MED_CTRL_RETIRE_GO : Fld := ⟨86112, 7, 1⟩
abbrev MED_CTRL_SCAN_NOW : Fld := ⟨86112, 8, 1⟩
abbrev rMED_STAT : Fld := ⟨86116, 0, 32⟩
abbrev MED_STAT_MOVE_BUSY : Fld := ⟨86116, 0, 1⟩
abbrev MED_STAT_SCAN_BUSY : Fld := ⟨86116, 1, 1⟩
abbrev MED_STAT_WRITE_FENCED : Fld := ⟨86116, 2, 1⟩
abbrev MED_STAT_RETIRING : Fld := ⟨86116, 3, 1⟩
abbrev MED_STAT_SCAN_PCT : Fld := ⟨86116, 8, 7⟩
abbrev rMED_WEAR_STAT : Fld := ⟨86120, 0, 32⟩
abbrev MED_WEAR_STAT_MIN : Fld := ⟨86120, 0, 16⟩
abbrev MED_WEAR_STAT_MAX : Fld := ⟨86120, 16, 16⟩
abbrev rMED_SPARE_STAT : Fld := ⟨86124, 0, 32⟩
abbrev MED_SPARE_STAT_HALF0 : Fld := ⟨86124, 0, 10⟩
abbrev MED_SPARE_STAT_HALF1 : Fld := ⟨86124, 16, 10⟩
abbrev rMED_RETIRED : Fld := ⟨86128, 0, 32⟩
abbrev MED_RETIRED_BLOCKS : Fld := ⟨86128, 0, 24⟩
abbrev MED_RETIRED_DIES : Fld := ⟨86128, 24, 8⟩
abbrev rMED_MOVE_CNT : Fld := ⟨86132, 0, 32⟩
abbrev MED_MOVE_CNT_WEAR : Fld := ⟨86132, 0, 16⟩
abbrev MED_MOVE_CNT_REPAIR : Fld := ⟨86132, 16, 16⟩
abbrev rMED_TABLE_STAT : Fld := ⟨86136, 0, 32⟩
abbrev MED_TABLE_STAT_RESIDENT : Fld := ⟨86136, 0, 6⟩
abbrev MED_TABLE_STAT_MISSES : Fld := ⟨86136, 16, 16⟩
abbrev rMED_LUN_USE (i : Nat) : Fld := ⟨86144 + 4 * i, 0, 32⟩
abbrev MED_LUN_USE_USE (i : Nat) : Fld := ⟨86144 + 4 * i, 0, 32⟩

/-! ### FCH (R341) -/

abbrev rFCH_CFG (n : Nat) : Fld := ⟨98368 + 4096 * n, 0, 32⟩
abbrev FCH_CFG_MAX_RATE (n : Nat) : Fld := ⟨98368 + 4096 * n, 0, 3⟩
abbrev FCH_CFG_TMO_MULT (n : Nat) : Fld := ⟨98368 + 4096 * n, 8, 4⟩
abbrev rFCH_TIMING (n : Nat) : Fld := ⟨98372 + 4096 * n, 0, 32⟩
abbrev FCH_TIMING_RATE (n : Nat) : Fld := ⟨98372 + 4096 * n, 0, 3⟩
abbrev FCH_TIMING_DDR3 (n : Nat) : Fld := ⟨98372 + 4096 * n, 3, 1⟩
abbrev FCH_TIMING_TRAINED (n : Nat) : Fld := ⟨98372 + 4096 * n, 4, 1⟩
abbrev rFCH_LUN_STAT (n : Nat) : Fld := ⟨98376 + 4096 * n, 0, 32⟩
abbrev rFCH_READ_CNT (n : Nat) : Fld := ⟨98380 + 4096 * n, 0, 32⟩
abbrev FCH_READ_CNT_RETRY (n : Nat) : Fld := ⟨98380 + 4096 * n, 0, 16⟩
abbrev FCH_READ_CNT_SOFT (n : Nat) : Fld := ⟨98380 + 4096 * n, 16, 16⟩
abbrev rFCH_FAIL_CNT (n : Nat) : Fld := ⟨98384 + 4096 * n, 0, 32⟩
abbrev FCH_FAIL_CNT_PROGRAM (n : Nat) : Fld := ⟨98384 + 4096 * n, 0, 16⟩
abbrev FCH_FAIL_CNT_ERASE (n : Nat) : Fld := ⟨98384 + 4096 * n, 16, 16⟩
abbrev rFCH_CB_STAT (n : Nat) : Fld := ⟨98388 + 4096 * n, 0, 32⟩
abbrev FCH_CB_STAT_MAX (n : Nat) : Fld := ⟨98388 + 4096 * n, 0, 8⟩
abbrev FCH_CB_STAT_UNRECOVERED (n : Nat) : Fld := ⟨98388 + 4096 * n, 16, 16⟩
abbrev rFCH_SEIZE_STAT (n : Nat) : Fld := ⟨98392 + 4096 * n, 0, 32⟩
abbrev FCH_SEIZE_STAT_COUNT (n : Nat) : Fld := ⟨98392 + 4096 * n, 0, 16⟩
abbrev FCH_SEIZE_STAT_LAST_LUN (n : Nat) : Fld := ⟨98392 + 4096 * n, 16, 7⟩
abbrev FCH_SEIZE_STAT_CE_FENCED (n : Nat) : Fld := ⟨98392 + 4096 * n, 23, 1⟩
abbrev rFCH_DESKEW_RD (n : Nat) : Fld := ⟨98396 + 4096 * n, 0, 32⟩
abbrev FCH_DESKEW_RD_DQ (n : Nat) : Fld := ⟨98396 + 4096 * n, 0, 32⟩
abbrev rFCH_DESKEW_WR (n : Nat) : Fld := ⟨98400 + 4096 * n, 0, 32⟩
abbrev FCH_DESKEW_WR_DQ (n : Nat) : Fld := ⟨98400 + 4096 * n, 0, 32⟩

/-! ### KEY (R372) -/

abbrev rKEY_STAT : Fld := ⟨28736, 0, 32⟩
abbrev KEY_STAT_KAT_PASS : Fld := ⟨28736, 0, 1⟩
abbrev KEY_STAT_RNG_OK : Fld := ⟨28736, 1, 1⟩
abbrev KEY_STAT_LADDER_READY : Fld := ⟨28736, 2, 1⟩
abbrev KEY_STAT_ZEROIZED : Fld := ⟨28736, 3, 1⟩
abbrev rKEY_LOADED : Fld := ⟨28740, 0, 32⟩
abbrev KEY_LOADED_IMK : Fld := ⟨28740, 0, 16⟩
abbrev KEY_LOADED_JNK : Fld := ⟨28740, 16, 1⟩
abbrev KEY_LOADED_TRK : Fld := ⟨28740, 17, 1⟩
abbrev KEY_LOADED_SLK : Fld := ⟨28740, 18, 1⟩
abbrev KEY_LOADED_P_0 : Fld := ⟨28740, 19, 1⟩
abbrev KEY_LOADED_P_1 : Fld := ⟨28740, 20, 1⟩
abbrev rKEY_FAIL : Fld := ⟨28744, 0, 32⟩
abbrev KEY_FAIL_IMK : Fld := ⟨28744, 0, 16⟩
abbrev KEY_FAIL_JNK : Fld := ⟨28744, 16, 1⟩
abbrev KEY_FAIL_TRK : Fld := ⟨28744, 17, 1⟩
abbrev KEY_FAIL_SLK : Fld := ⟨28744, 18, 1⟩
abbrev KEY_FAIL_P_0 : Fld := ⟨28744, 19, 1⟩
abbrev KEY_FAIL_P_1 : Fld := ⟨28744, 20, 1⟩
abbrev rKEY_OP_STAT : Fld := ⟨28748, 0, 32⟩
abbrev KEY_OP_STAT_OP : Fld := ⟨28748, 0, 4⟩
abbrev KEY_OP_STAT_RESULT : Fld := ⟨28748, 4, 4⟩
abbrev KEY_OP_STAT_PAIR : Fld := ⟨28748, 8, 8⟩
abbrev KEY_OP_STAT_COUNT : Fld := ⟨28748, 16, 16⟩
abbrev rKEY_BOOTS : Fld := ⟨28752, 0, 32⟩
abbrev KEY_BOOTS_BOOTS : Fld := ⟨28752, 0, 32⟩
abbrev rKEY_LINK_STAT : Fld := ⟨28756, 0, 32⟩
abbrev rKEY_CTRL : Fld := ⟨28760, 0, 32⟩
abbrev KEY_CTRL_KEY : Fld := ⟨28760, 0, 16⟩
abbrev KEY_CTRL_ACTION : Fld := ⟨28760, 16, 2⟩
abbrev rKEY_RNG_STAT : Fld := ⟨28764, 0, 32⟩
abbrev KEY_RNG_STAT_FAILS : Fld := ⟨28764, 0, 16⟩
abbrev KEY_RNG_STAT_HEALTHY : Fld := ⟨28764, 16, 1⟩
abbrev rKEY_IMPORT (i : Nat) : Fld := ⟨28768 + 4 * i, 0, 32⟩
abbrev KEY_IMPORT_BYTES (i : Nat) : Fld := ⟨28768 + 4 * i, 0, 32⟩
abbrev rKEY_OTP_SEL : Fld := ⟨28800, 0, 32⟩
abbrev KEY_OTP_SEL_WORD : Fld := ⟨28800, 0, 6⟩
abbrev rKEY_OTP_LO : Fld := ⟨28804, 0, 32⟩
abbrev rKEY_OTP_HI : Fld := ⟨28808, 0, 32⟩

/-! ### CRY (R373) -/

abbrev rCRY_STAT : Fld := ⟨77888, 0, 32⟩
abbrev CRY_STAT_MEDIA_UP : Fld := ⟨77888, 0, 1⟩
abbrev CRY_STAT_JOURNAL_UP : Fld := ⟨77888, 1, 1⟩
abbrev CRY_STAT_KAT_PASS : Fld := ⟨77888, 2, 1⟩
abbrev rCRY_MEDIA_CNT : Fld := ⟨77892, 0, 32⟩
abbrev CRY_MEDIA_CNT_TAG_FAIL : Fld := ⟨77892, 0, 16⟩
abbrev CRY_MEDIA_CNT_KEYID_MISMATCH : Fld := ⟨77892, 16, 16⟩
abbrev rCRY_STALL_CFG : Fld := ⟨77896, 0, 32⟩
abbrev CRY_STALL_CFG_LIMIT : Fld := ⟨77896, 0, 8⟩
abbrev rCRY_STALL_CNT : Fld := ⟨77900, 0, 32⟩
abbrev CRY_STALL_CNT_MEDIA : Fld := ⟨77900, 0, 16⟩
abbrev CRY_STALL_CNT_JOURNAL : Fld := ⟨77900, 16, 16⟩

/-! ### TRE (R374) -/

abbrev rTRE_CFG : Fld := ⟨73792, 0, 32⟩
abbrev TRE_CFG_CKPT_AGE : Fld := ⟨73792, 0, 8⟩
abbrev TRE_CFG_DIRTY_MARK : Fld := ⟨73792, 8, 7⟩
abbrev TRE_CFG_HIGH_LOG : Fld := ⟨73792, 16, 6⟩
abbrev TRE_CFG_DELTA_MARK : Fld := ⟨73792, 24, 8⟩
abbrev rTRE_STAT : Fld := ⟨73796, 0, 32⟩
abbrev TRE_STAT_ROOT_OK : Fld := ⟨73796, 0, 1⟩
abbrev TRE_STAT_BANK : Fld := ⟨73796, 1, 1⟩
abbrev TRE_STAT_CKPT_BUSY : Fld := ⟨73796, 2, 1⟩
abbrev rTRE_ROOT_GEN : Fld := ⟨73800, 0, 32⟩
abbrev TRE_ROOT_GEN_GEN : Fld := ⟨73800, 0, 32⟩
abbrev rTRE_CKPT_DSN_LO : Fld := ⟨73804, 0, 32⟩
abbrev TRE_CKPT_DSN_LO_DSN : Fld := ⟨73804, 0, 32⟩
abbrev rTRE_CKPT_DSN_HI : Fld := ⟨73808, 0, 32⟩
abbrev TRE_CKPT_DSN_HI_DSN : Fld := ⟨73808, 0, 32⟩
abbrev rTRE_CACHE_STAT : Fld := ⟨73812, 0, 32⟩
abbrev TRE_CACHE_STAT_VALID : Fld := ⟨73812, 0, 10⟩
abbrev TRE_CACHE_STAT_DIRTY : Fld := ⟨73812, 16, 9⟩
abbrev rTRE_CKPT_CNT : Fld := ⟨73816, 0, 32⟩
abbrev TRE_CKPT_CNT_CHECKPOINTS : Fld := ⟨73816, 0, 16⟩
abbrev TRE_CKPT_CNT_MISSES : Fld := ⟨73816, 16, 16⟩
abbrev rTRE_CHECK_CNT : Fld := ⟨73820, 0, 32⟩
abbrev TRE_CHECK_CNT_REPLAY : Fld := ⟨73820, 0, 16⟩
abbrev TRE_CHECK_CNT_NODE_TAG : Fld := ⟨73820, 16, 16⟩
abbrev rTRE_MAX_CTR_LO : Fld := ⟨73824, 0, 32⟩
abbrev TRE_MAX_CTR_LO_CTR : Fld := ⟨73824, 0, 32⟩
abbrev rTRE_MAX_CTR_HI : Fld := ⟨73828, 0, 32⟩
abbrev TRE_MAX_CTR_HI_CTR : Fld := ⟨73828, 0, 32⟩
abbrev rTRE_CTRL : Fld := ⟨73832, 0, 32⟩
abbrev TRE_CTRL_CKPT_NOW : Fld := ⟨73832, 0, 1⟩

/-! ### TMP (R401) -/

abbrev rTMP_LOOP_CFG : Fld := ⟨24640, 0, 32⟩
abbrev TMP_LOOP_CFG_PERIOD : Fld := ⟨24640, 0, 8⟩
abbrev TMP_LOOP_CFG_MISS : Fld := ⟨24640, 8, 4⟩
abbrev rTMP_SW_CFG : Fld := ⟨24644, 0, 32⟩
abbrev TMP_SW_CFG_DEBOUNCE : Fld := ⟨24644, 0, 8⟩
abbrev rTMP_STAT : Fld := ⟨24648, 0, 32⟩
abbrev TMP_STAT_LATCHED : Fld := ⟨24648, 0, 1⟩
abbrev TMP_STAT_LOOP_OPEN_NOW : Fld := ⟨24648, 1, 1⟩
abbrev TMP_STAT_LOOP_CODE_NOW : Fld := ⟨24648, 2, 1⟩
abbrev TMP_STAT_SWITCH_OPEN_NOW : Fld := ⟨24648, 3, 1⟩
abbrev TMP_STAT_CAUSE : Fld := ⟨24648, 4, 3⟩
abbrev TMP_STAT_AT_STEP5 : Fld := ⟨24648, 7, 1⟩
abbrev rTMP_LATCH_TIME_LO : Fld := ⟨24652, 0, 32⟩
abbrev TMP_LATCH_TIME_LO_US : Fld := ⟨24652, 0, 32⟩
abbrev rTMP_LATCH_TIME_HI : Fld := ⟨24656, 0, 32⟩
abbrev TMP_LATCH_TIME_HI_US : Fld := ⟨24656, 0, 8⟩
abbrev rTMP_COUNT : Fld := ⟨24660, 0, 32⟩
abbrev TMP_COUNT_ALARMS : Fld := ⟨24660, 0, 16⟩
abbrev TMP_COUNT_CLEARS : Fld := ⟨24660, 16, 16⟩
abbrev rTMP_CODE : Fld := ⟨24664, 0, 32⟩
abbrev TMP_CODE_SENT : Fld := ⟨24664, 0, 16⟩
abbrev TMP_CODE_RECEIVED : Fld := ⟨24664, 16, 16⟩
abbrev rTMP_CTRL : Fld := ⟨24668, 0, 32⟩
abbrev TMP_CTRL_KEY : Fld := ⟨24668, 0, 16⟩
abbrev TMP_CTRL_CLEAR : Fld := ⟨24668, 16, 1⟩

/-! ### LCK (R402) -/

abbrev rLCK_SET : Fld := ⟨32832, 0, 32⟩
abbrev LCK_SET_SCOPES : Fld := ⟨32832, 0, 17⟩
abbrev rLCK_FORCE : Fld := ⟨32836, 0, 32⟩
abbrev LCK_FORCE_SCOPES : Fld := ⟨32836, 0, 17⟩
abbrev rLCK_FAILS_LO : Fld := ⟨32840, 0, 32⟩
abbrev rLCK_FAILS_HI : Fld := ⟨32844, 0, 32⟩
abbrev rLCK_FAILS_CARD : Fld := ⟨32848, 0, 32⟩
abbrev LCK_FAILS_CARD_FAILS : Fld := ⟨32848, 0, 4⟩
abbrev rLCK_CTRL : Fld := ⟨32852, 0, 32⟩
abbrev LCK_CTRL_KEY : Fld := ⟨32852, 0, 16⟩
abbrev LCK_CTRL_SCOPE : Fld := ⟨32852, 16, 5⟩
abbrev LCK_CTRL_RELOCK : Fld := ⟨32852, 21, 1⟩
abbrev rLCK_ERASE_STAT : Fld := ⟨32856, 0, 32⟩
abbrev LCK_ERASE_STAT_STATE : Fld := ⟨32856, 0, 2⟩
abbrev LCK_ERASE_STAT_BY_SPANTOEN : Fld := ⟨32856, 2, 1⟩
abbrev LCK_ERASE_STAT_PROGRESS : Fld := ⟨32856, 16, 10⟩

/-! ### SEG (R403) -/

abbrev rSEG_OPEN : Fld := ⟨81984, 0, 32⟩
abbrev SEG_OPEN_INST : Fld := ⟨81984, 0, 16⟩
abbrev rSEG_COUNTER : Fld := ⟨81988, 0, 32⟩
abbrev SEG_COUNTER_COUNTER : Fld := ⟨81988, 0, 32⟩
abbrev rSEG_SEL : Fld := ⟨81992, 0, 32⟩
abbrev SEG_SEL_INST : Fld := ⟨81992, 0, 4⟩
abbrev rSEG_FIRST_LO : Fld := ⟨81996, 0, 32⟩
abbrev SEG_FIRST_LO_UNIT : Fld := ⟨81996, 0, 32⟩
abbrev rSEG_FIRST_HI : Fld := ⟨82000, 0, 32⟩
abbrev SEG_FIRST_HI_UNIT : Fld := ⟨82000, 0, 4⟩
abbrev rSEG_NEXT_LO : Fld := ⟨82004, 0, 32⟩
abbrev SEG_NEXT_LO_UNIT : Fld := ⟨82004, 0, 32⟩
abbrev rSEG_NEXT_HI : Fld := ⟨82008, 0, 32⟩
abbrev SEG_NEXT_HI_UNIT : Fld := ⟨82008, 0, 4⟩
abbrev rSEG_SEL_STAT : Fld := ⟨82012, 0, 32⟩
abbrev SEG_SEL_STAT_OPEN : Fld := ⟨82012, 0, 1⟩
abbrev SEG_SEL_STAT_CLOSING : Fld := ⟨82012, 1, 1⟩
abbrev SEG_SEL_STAT_PENDING : Fld := ⟨82012, 8, 8⟩
abbrev rSEG_OTHER : Fld := ⟨82016, 0, 32⟩
abbrev SEG_OTHER_OTHER : Fld := ⟨82016, 0, 24⟩
abbrev rSEG_CNT : Fld := ⟨82020, 0, 32⟩
abbrev SEG_CNT_SEALS : Fld := ⟨82020, 0, 16⟩
abbrev SEG_CNT_VERIFY_FAILED : Fld := ⟨82020, 16, 16⟩

/-! ### FLT (R422) -/

abbrev rFLT_STATUS (i : Nat) : Fld := ⟨20544 + 4 * i, 0, 32⟩
abbrev rFLT_ASSERT (i : Nat) : Fld := ⟨20560 + 4 * i, 0, 32⟩
abbrev rFLT_CLEAR : Fld := ⟨20576, 0, 32⟩
abbrev FLT_CLEAR_KEY : Fld := ⟨20576, 0, 16⟩
abbrev FLT_CLEAR_SOURCE : Fld := ⟨20576, 16, 7⟩
abbrev FLT_CLEAR_ALL : Fld := ⟨20576, 23, 1⟩
abbrev rFLT_LULL_CFG : Fld := ⟨20580, 0, 32⟩
abbrev FLT_LULL_CFG_PERIOD : Fld := ⟨20580, 0, 4⟩
abbrev FLT_LULL_CFG_LIMIT : Fld := ⟨20580, 8, 8⟩
abbrev rFLT_LULL_WINDOW : Fld := ⟨20584, 0, 32⟩
abbrev FLT_LULL_WINDOW_SECONDS : Fld := ⟨20584, 0, 16⟩
abbrev rFLT_BREEZE_CFG : Fld := ⟨20588, 0, 32⟩
abbrev FLT_BREEZE_CFG_RATE : Fld := ⟨20588, 0, 14⟩
abbrev FLT_BREEZE_CFG_FREEZE_ON_FAULT : Fld := ⟨20588, 14, 1⟩
abbrev rFLT_SAFE_STAT : Fld := ⟨20592, 0, 32⟩
abbrev FLT_SAFE_STAT_SAFE : Fld := ⟨20592, 0, 1⟩
abbrev FLT_SAFE_STAT_SOURCE : Fld := ⟨20592, 8, 7⟩
abbrev rFLT_HIST_HEAD : Fld := ⟨20596, 0, 32⟩
abbrev FLT_HIST_HEAD_INDEX : Fld := ⟨20596, 0, 4⟩
abbrev FLT_HIST_HEAD_WRAPPED : Fld := ⟨20596, 4, 1⟩
abbrev FLT_HIST_HEAD_NEXT_SEQ : Fld := ⟨20596, 16, 16⟩
abbrev rFLT_SUMMARY : Fld := ⟨20600, 0, 32⟩
abbrev FLT_SUMMARY_STATUSES : Fld := ⟨20600, 0, 8⟩
abbrev FLT_SUMMARY_FENCES : Fld := ⟨20600, 8, 8⟩
abbrev FLT_SUMMARY_LATCHED : Fld := ⟨20600, 16, 8⟩
abbrev rFLT_COUNT : Fld := ⟨20604, 0, 32⟩
abbrev FLT_COUNT_RAISED : Fld := ⟨20604, 0, 16⟩
abbrev FLT_COUNT_MERGED : Fld := ⟨20604, 16, 16⟩
abbrev rFLT_SRC_CFG (i : Nat) : Fld := ⟨21504 + 4 * i, 0, 32⟩
abbrev FLT_SRC_CFG_EXIT (i : Nat) : Fld := ⟨21504 + 4 * i, 0, 1⟩
abbrev FLT_SRC_CFG_SAFE (i : Nat) : Fld := ⟨21504 + 4 * i, 1, 1⟩
abbrev FLT_SRC_CFG_LULL (i : Nat) : Fld := ⟨21504 + 4 * i, 4, 4⟩
abbrev rFLT_SRC_STAT (i : Nat) : Fld := ⟨22016 + 4 * i, 0, 32⟩
abbrev FLT_SRC_STAT_RECOVERIES (i : Nat) : Fld := ⟨22016 + 4 * i, 0, 16⟩
abbrev FLT_SRC_STAT_STATUS (i : Nat) : Fld := ⟨22016 + 4 * i, 16, 1⟩
abbrev FLT_SRC_STAT_ASSERTED (i : Nat) : Fld := ⟨22016 + 4 * i, 17, 1⟩
abbrev FLT_SRC_STAT_LATCHED (i : Nat) : Fld := ⟨22016 + 4 * i, 18, 1⟩
abbrev FLT_SRC_STAT_FENCING (i : Nat) : Fld := ⟨22016 + 4 * i, 19, 1⟩
abbrev FLT_SRC_STAT_WINDOW_CNT (i : Nat) : Fld := ⟨22016 + 4 * i, 24, 8⟩
abbrev rFLT_HIST (i : Nat) : Fld := ⟨22528 + 4 * i, 0, 32⟩

/-! ### CLK (R440) -/

abbrev rCLK_PLL_STAT : Fld := ⟨8256, 0, 32⟩
abbrev CLK_PLL_STAT_LOCKED : Fld := ⟨8256, 0, 1⟩
abbrev CLK_PLL_STAT_REF_PRESENT : Fld := ⟨8256, 1, 1⟩
abbrev CLK_PLL_STAT_RELOCKING : Fld := ⟨8256, 2, 1⟩
abbrev CLK_PLL_STAT_ATTEMPT : Fld := ⟨8256, 3, 2⟩
abbrev rCLK_ISL_STAT (i : Nat) : Fld := ⟨8260 + 4 * i, 0, 32⟩
abbrev rCLK_BRIDGE_DISC : Fld := ⟨8272, 0, 32⟩
abbrev CLK_BRIDGE_DISC_ISLANDS : Fld := ⟨8272, 0, 21⟩
abbrev rCLK_GATE_CFG : Fld := ⟨8276, 0, 32⟩
abbrev CLK_GATE_CFG_ISLANDS : Fld := ⟨8276, 2, 19⟩
abbrev rCLK_DIV : Fld := ⟨8280, 0, 32⟩
abbrev CLK_DIV_STORE_HALF : Fld := ⟨8280, 0, 1⟩
abbrev CLK_DIV_FCH_HALF : Fld := ⟨8280, 1, 1⟩
abbrev rCLK_OSC : Fld := ⟨8284, 0, 32⟩
abbrev CLK_OSC_AON_KHZ : Fld := ⟨8284, 0, 16⟩
abbrev CLK_OSC_FLT_100KHZ : Fld := ⟨8284, 16, 16⟩
abbrev rCLK_CNT : Fld := ⟨8288, 0, 32⟩
abbrev CLK_CNT_PLL_LOSSES : Fld := ⟨8288, 0, 16⟩
abbrev CLK_CNT_BRIDGE_TIMEOUTS : Fld := ⟨8288, 16, 16⟩
abbrev rCLK_LAST_BRIDGE : Fld := ⟨8292, 0, 32⟩
abbrev CLK_LAST_BRIDGE_WAITING : Fld := ⟨8292, 0, 5⟩
abbrev CLK_LAST_BRIDGE_FAR : Fld := ⟨8292, 8, 5⟩

/-! ### PWR (R440) -/

abbrev rPWR_STAT : Fld := ⟨12352, 0, 32⟩
abbrev PWR_STAT_STATE : Fld := ⟨12352, 0, 3⟩
abbrev PWR_STAT_WAKE_CAUSE : Fld := ⟨12352, 8, 4⟩
abbrev PWR_STAT_PORT_DOZE : Fld := ⟨12352, 12, 2⟩
abbrev rPWR_CFG : Fld := ⟨12356, 0, 32⟩
abbrev PWR_CFG_DOZE_EN : Fld := ⟨12356, 0, 1⟩
abbrev rPWR_CTRL : Fld := ⟨12360, 0, 32⟩
abbrev PWR_CTRL_KEY : Fld := ⟨12360, 0, 16⟩
abbrev PWR_CTRL_DOZE : Fld := ⟨12360, 16, 1⟩
abbrev rPWR_DOZE_CNT : Fld := ⟨12364, 0, 32⟩
abbrev PWR_DOZE_CNT_ENTRIES : Fld := ⟨12364, 0, 16⟩
abbrev PWR_DOZE_CNT_REFUSALS : Fld := ⟨12364, 16, 16⟩
abbrev rPWR_DOZE_TIME : Fld := ⟨12368, 0, 32⟩
abbrev PWR_DOZE_TIME_SECONDS : Fld := ⟨12368, 0, 32⟩
abbrev rPWR_WAKE_TIME : Fld := ⟨12372, 0, 32⟩
abbrev PWR_WAKE_TIME_WAKE_US : Fld := ⟨12372, 0, 16⟩
abbrev PWR_WAKE_TIME_ENTRY_MS : Fld := ⟨12372, 16, 16⟩

/-! ### THS (R440) -/

abbrev rTHS_TEMP : Fld := ⟨94272, 0, 32⟩
abbrev THS_TEMP_TEMP : Fld := ⟨94272, 0, 16⟩
abbrev rTHS_SENSOR_01 : Fld := ⟨94276, 0, 32⟩
abbrev THS_SENSOR_01_LOW : Fld := ⟨94276, 0, 16⟩
abbrev THS_SENSOR_01_HIGH : Fld := ⟨94276, 16, 16⟩
abbrev rTHS_SENSOR_23 : Fld := ⟨94280, 0, 32⟩
abbrev THS_SENSOR_23_LOW : Fld := ⟨94280, 0, 16⟩
abbrev THS_SENSOR_23_HIGH : Fld := ⟨94280, 16, 16⟩
abbrev rTHS_STAT : Fld := ⟨94284, 0, 32⟩
abbrev THS_STAT_LEVEL : Fld := ⟨94284, 0, 2⟩
abbrev THS_STAT_EXCLUDED : Fld := ⟨94284, 4, 4⟩
abbrev THS_STAT_OVER : Fld := ⟨94284, 8, 1⟩
abbrev rTHS_THROTTLE_CFG : Fld := ⟨94288, 0, 32⟩
abbrev THS_THROTTLE_CFG_ON : Fld := ⟨94288, 0, 8⟩
abbrev THS_THROTTLE_CFG_HYST : Fld := ⟨94288, 8, 8⟩
abbrev THS_THROTTLE_CFG_EN : Fld := ⟨94288, 16, 1⟩
abbrev rTHS_DOCK_CAP : Fld := ⟨94292, 0, 32⟩
abbrev THS_DOCK_CAP_LEVEL1 : Fld := ⟨94292, 0, 16⟩
abbrev THS_DOCK_CAP_LEVEL2 : Fld := ⟨94292, 16, 16⟩
abbrev rTHS_PEAK : Fld := ⟨94296, 0, 32⟩
abbrev THS_PEAK_HIGHEST : Fld := ⟨94296, 0, 16⟩
abbrev THS_PEAK_LOWEST : Fld := ⟨94296, 16, 16⟩
abbrev rTHS_CNT : Fld := ⟨94300, 0, 32⟩
abbrev THS_CNT_THROTTLE : Fld := ⟨94300, 0, 16⟩
abbrev THS_CNT_OVER_LIMIT : Fld := ⟨94300, 16, 16⟩

/-! ### BRG (R461) -/

abbrev rBRG_MODE : Fld := ⟨143424, 0, 32⟩
abbrev BRG_MODE_MODE : Fld := ⟨143424, 0, 2⟩
abbrev BRG_MODE_ACTIVE : Fld := ⟨143424, 2, 1⟩
abbrev BRG_MODE_PORT_MAP : Fld := ⟨143424, 16, 16⟩
abbrev rBRG_STAT : Fld := ⟨143428, 0, 32⟩
abbrev BRG_STAT_CARRYING : Fld := ⟨143428, 0, 1⟩
abbrev BRG_STAT_RESYNC_BUSY : Fld := ⟨143428, 1, 1⟩
abbrev BRG_STAT_CARRY_BLOCKED : Fld := ⟨143428, 2, 1⟩
abbrev BRG_STAT_NO_TRACK : Fld := ⟨143428, 3, 1⟩
abbrev BRG_STAT_NO_ACTIVE : Fld := ⟨143428, 4, 1⟩
abbrev BRG_STAT_BLOCKED_INST : Fld := ⟨143428, 8, 4⟩
abbrev BRG_STAT_BLOCKED_PORT : Fld := ⟨143428, 12, 1⟩
abbrev BRG_STAT_BLOCK_ST : Fld := ⟨143428, 16, 8⟩
abbrev rBRG_JSTAT : Fld := ⟨143432, 0, 32⟩
abbrev BRG_JSTAT_RECORDS : Fld := ⟨143432, 0, 16⟩
abbrev BRG_JSTAT_PCT : Fld := ⟨143432, 16, 7⟩
abbrev rBRG_ROTATE_CFG : Fld := ⟨143436, 0, 32⟩
abbrev BRG_ROTATE_CFG_UNITS_LIMIT : Fld := ⟨143436, 0, 24⟩
abbrev BRG_ROTATE_CFG_AUTO_SWITCH : Fld := ⟨143436, 24, 1⟩
abbrev rBRG_RESYNC_CFG : Fld := ⟨143440, 0, 32⟩
abbrev BRG_RESYNC_CFG_RATE : Fld := ⟨143440, 0, 16⟩
abbrev BRG_RESYNC_CFG_EN : Fld := ⟨143440, 16, 1⟩
abbrev rBRG_TRACK_0_SER_LO : Fld := ⟨143444, 0, 32⟩
abbrev BRG_TRACK_0_SER_LO_SERIAL : Fld := ⟨143444, 0, 32⟩
abbrev rBRG_TRACK_0_SER_HI : Fld := ⟨143448, 0, 32⟩
abbrev BRG_TRACK_0_SER_HI_SERIAL : Fld := ⟨143448, 0, 32⟩
abbrev rBRG_TRACK_1_SER_LO : Fld := ⟨143452, 0, 32⟩
abbrev BRG_TRACK_1_SER_LO_SERIAL : Fld := ⟨143452, 0, 32⟩
abbrev rBRG_TRACK_1_SER_HI : Fld := ⟨143456, 0, 32⟩
abbrev BRG_TRACK_1_SER_HI_SERIAL : Fld := ⟨143456, 0, 32⟩
abbrev rBRG_TRACK_STAT : Fld := ⟨143460, 0, 32⟩
abbrev BRG_TRACK_STAT_IN_USE : Fld := ⟨143460, 0, 2⟩
abbrev rBRG_TRACK_0_CNT : Fld := ⟨143464, 0, 32⟩
abbrev BRG_TRACK_0_CNT_BITS : Fld := ⟨143464, 0, 24⟩
abbrev rBRG_TRACK_1_CNT : Fld := ⟨143468, 0, 32⟩
abbrev BRG_TRACK_1_CNT_BITS : Fld := ⟨143468, 0, 24⟩
abbrev rBRG_ROT_UNITS : Fld := ⟨143472, 0, 32⟩
abbrev BRG_ROT_UNITS_UNITS : Fld := ⟨143472, 0, 32⟩
abbrev rBRG_CTRL : Fld := ⟨143476, 0, 32⟩
abbrev BRG_CTRL_KEY : Fld := ⟨143476, 0, 16⟩
abbrev BRG_CTRL_SWITCH : Fld := ⟨143476, 16, 1⟩
abbrev BRG_CTRL_DROP_TRACK_0 : Fld := ⟨143476, 17, 1⟩
abbrev BRG_CTRL_DROP_TRACK_1 : Fld := ⟨143476, 18, 1⟩
abbrev BRG_CTRL_RESUME_CARRY : Fld := ⟨143476, 19, 1⟩
abbrev BRG_CTRL_DROP_BLOCKED : Fld := ⟨143476, 20, 1⟩
abbrev rBRG_CNT : Fld := ⟨143480, 0, 32⟩
abbrev BRG_CNT_SWITCHES : Fld := ⟨143480, 0, 16⟩
abbrev BRG_CNT_CARRIES : Fld := ⟨143480, 16, 16⟩
abbrev rBRG_DFW_CTRL : Fld := ⟨143488, 0, 32⟩
abbrev BRG_DFW_CTRL_KEY : Fld := ⟨143488, 0, 16⟩
abbrev BRG_DFW_CTRL_BEGIN : Fld := ⟨143488, 16, 1⟩
abbrev BRG_DFW_CTRL_END : Fld := ⟨143488, 17, 1⟩
abbrev BRG_DFW_CTRL_ACTIVATE : Fld := ⟨143488, 18, 1⟩
abbrev BRG_DFW_CTRL_SLOT : Fld := ⟨143488, 19, 1⟩
abbrev rBRG_DFW_ADDR : Fld := ⟨143492, 0, 32⟩
abbrev BRG_DFW_ADDR_WORD : Fld := ⟨143492, 2, 18⟩
abbrev rBRG_DFW_DATA : Fld := ⟨143496, 0, 32⟩
abbrev BRG_DFW_DATA_DATA : Fld := ⟨143496, 0, 32⟩
abbrev rBRG_DFW_STAT : Fld := ⟨143500, 0, 32⟩
abbrev BRG_DFW_STAT_BUSY : Fld := ⟨143500, 0, 1⟩
abbrev BRG_DFW_STAT_RESULT : Fld := ⟨143500, 1, 3⟩
abbrev BRG_DFW_STAT_STAGING : Fld := ⟨143500, 4, 1⟩
abbrev BRG_DFW_STAT_FLOOR : Fld := ⟨143500, 8, 8⟩

end Sys2Proof.Machine
end

