-- ==== Sys2Proof/Machine/Regs.lean ====
section
/-! DEFINITION. The register map: for every register of every page its offset, the roles it is present
in, its reset value and which of its bits software may write, as the register tables of spec/ give
them (R93, R94, R102 and each chapter's page). -/

namespace Sys2Proof.Machine

/-- One row of a page's register table.  `role`: 0 both roles, 1 CARD only, 2 DOCK only.  `rw`, `rwl`
and `w1c` are the bits of access RW (or RWH), RWL and RW1C (R91); every other bit ignores writes. -/
structure RegRow where
  off : Nat
  count : Nat
  stride : Nat
  role : Nat
  reset : Nat
  rw : Nat
  rwl : Nat
  w1c : Nat
  readable : Bool
  deriving DecidableEq, Repr

/-- The SYS page (R84). -/
def rowsSYS : List RegRow := [
  ⟨0x40, 1, 4, 0, 0, 0, 0, 0, true⟩,
  ⟨0x44, 1, 4, 0, 0, 0, 0, 0, true⟩,
  ⟨0x48, 1, 4, 0, 0, 0, 0, 0, true⟩,
  ⟨0x4c, 1, 4, 0, 0, 0, 0, 0, true⟩,
  ⟨0x50, 1, 4, 0, 0, 0, 0, 0, true⟩,
  ⟨0x54, 1, 4, 0, 0, 0, 0, 0, true⟩,
  ⟨0x58, 1, 4, 0, 0, 0, 0, 0, true⟩,
  ⟨0x5c, 1, 4, 0, 0, 0, 0, 0, true⟩,
  ⟨0x60, 1, 4, 0, 0xf00, 0, 0xf0fff, 0, true⟩,
  ⟨0x64, 1, 4, 0, 0, 0, 0, 0, true⟩]

/-- The RST page (R85). -/
def rowsRST : List RegRow := [
  ⟨0x40, 1, 4, 0, 1, 0, 0, 0x3f, true⟩,
  ⟨0x44, 1, 4, 0, 0, 0, 0, 0, false⟩,
  ⟨0x48, 1, 4, 0, 0, 0, 0, 0, true⟩,
  ⟨0x4c, 1, 4, 0, 0, 0, 0, 0, true⟩,
  ⟨0x50, 1, 4, 0, 0, 0, 0, 0, true⟩,
  ⟨0x54, 1, 4, 0, 0, 0, 0, 0, true⟩,
  ⟨0x58, 1, 4, 0, 0, 0, 0, 0, true⟩]

/-- The MPC page (R86). -/
def rowsMPC : List RegRow := [
  ⟨0x40, 1, 4, 0, 0, 0, 0, 0, true⟩,
  ⟨0x44, 1, 4, 0, 0, 0, 0, 0, true⟩,
  ⟨0x48, 1, 4, 0, 0, 0, 0, 0xffffffff, true⟩,
  ⟨0x4c, 1, 4, 0, 0x7d0, 0, 0, 0, true⟩,
  ⟨0x50, 1, 4, 0, 0x114, 0, 0x1ff, 0, true⟩,
  ⟨0x54, 1, 4, 0, 0, 0, 0, 0, true⟩,
  ⟨0x58, 1, 4, 0, 0, 0, 0, 0, true⟩,
  ⟨0x5c, 1, 4, 0, 0, 0, 0, 0, true⟩]

/-- The EVT page (R110). -/
def rowsEVT : List RegRow := [
  ⟨0x40, 1, 4, 0, 0, 0, 0, 0, true⟩,
  ⟨0x44, 1, 4, 0, 0, 0, 0, 0, true⟩,
  ⟨0x48, 1, 4, 0, 0, 0, 0, 0, true⟩,
  ⟨0x4c, 1, 4, 0, 0, 0x3f, 0, 0, true⟩,
  ⟨0x50, 1, 4, 0, 0x30, 0, 0x7f, 0, true⟩,
  ⟨0x54, 1, 4, 0, 0, 0, 0, 0, true⟩,
  ⟨0x58, 1, 4, 0, 7, 0, 7, 0, true⟩,
  ⟨0x5c, 1, 4, 0, 0, 0, 0, 0, false⟩,
  ⟨0x60, 4, 4, 0, 0, 0, 0x77777777, 0, true⟩,
  ⟨0x70, 1, 4, 0, 0, 0, 0x77777, 0, true⟩,
  ⟨0x400, 256, 4, 0, 0, 0, 0, 0, true⟩]

/-- The CN page (R145). -/
def rowsCN : List RegRow := [
  ⟨0x40, 1, 4, 0, 0x3c641964, 0, 0xffff3ff7, 0, true⟩,
  ⟨0x44, 1, 4, 0, 0x1100, 0, 0, 0, true⟩,
  ⟨0x48, 1, 4, 0, 0x174, 0, 0, 0, true⟩,
  ⟨0x4c, 1, 4, 0, 0, 0, 0, 0, true⟩,
  ⟨0x50, 1, 4, 0, 0, 0, 0, 0, true⟩,
  ⟨0x54, 1, 4, 0, 0, 0, 0, 0, true⟩,
  ⟨0x58, 1, 4, 0, 0, 0xf, 0, 0, true⟩,
  ⟨0x5c, 1, 4, 0, 0, 0, 0, 0, true⟩,
  ⟨0x60, 4, 4, 0, 0, 0, 0, 0, true⟩,
  ⟨0x70, 1, 4, 0, 0, 0x1ffff, 0, 0, true⟩,
  ⟨0x74, 1, 4, 0, 0, 0, 0, 0, true⟩,
  ⟨0x100, 64, 4, 0, 0, 0xffffffff, 0, 0, true⟩,
  ⟨0x200, 64, 4, 0, 0, 0, 0, 0, true⟩]

/-- The SP page (R199). -/
def rowsSP : List RegRow := [
  ⟨0x40, 1, 4, 0, 0, 0, 0, 0, true⟩,
  ⟨0x44, 1, 4, 0, 0x7d0, 0, 0xffff, 0, true⟩,
  ⟨0x48, 1, 4, 0, 0x1403, 0, 0xff07, 0, true⟩,
  ⟨0x4c, 1, 4, 0, 0x1f4, 0, 0xffff, 0, true⟩,
  ⟨0x50, 1, 4, 0, 0x401, 0, 0xfff1, 0, true⟩,
  ⟨0x54, 1, 4, 0, 0x31, 0, 0x31, 0, true⟩,
  ⟨0x58, 1, 4, 0, 0, 0, 0, 0, true⟩,
  ⟨0x5c, 1, 4, 0, 0, 0, 0, 0, true⟩,
  ⟨0x60, 1, 4, 0, 0, 0, 0, 0, true⟩,
  ⟨0x64, 1, 4, 0, 0, 0, 0, 0, true⟩,
  ⟨0x68, 1, 4, 0, 0, 0, 0, 0, true⟩,
  ⟨0x6c, 1, 4, 0, 0, 0, 0, 0, true⟩,
  ⟨0x70, 1, 4, 0, 0, 0, 0, 0, true⟩,
  ⟨0x74, 1, 4, 0, 0, 0, 0, 0, false⟩]

/-- The LSE page (R200). -/
def rowsLSE : List RegRow := [
  ⟨0x40, 1, 4, 0, 0x4001, 0, 0xff01, 0, true⟩,
  ⟨0x44, 1, 4, 0, 0, 0, 0, 0, true⟩,
  ⟨0x48, 1, 4, 0, 0, 0, 0, 0, true⟩,
  ⟨0x4c, 1, 4, 0, 0, 0, 0, 0, true⟩,
  ⟨0x50, 1, 4, 0, 0, 0, 0, 0, true⟩,
  ⟨0x54, 1, 4, 0, 0, 0, 0, 0, true⟩,
  ⟨0x58, 1, 4, 0, 0, 0, 0, 0, true⟩,
  ⟨0x5c, 1, 4, 0, 0, 0, 0, 0, true⟩,
  ⟨0x60, 1, 4, 0, 0, 0, 0, 0, false⟩,
  ⟨0x64, 1, 4, 0, 0, 0, 0, 0, true⟩]

/-- The PCE page (R229). -/
def rowsPCE : List RegRow := [
  ⟨0x40, 1, 4, 0, 0, 0, 0, 0, true⟩,
  ⟨0x44, 1, 4, 0, 7, 0, 7, 0, true⟩,
  ⟨0x48, 1, 4, 0, 1, 0, 0, 0, true⟩,
  ⟨0x4c, 1, 4, 0, 0, 0, 0, 0, true⟩,
  ⟨0x50, 1, 4, 0, 0, 0, 0, 0, true⟩,
  ⟨0x54, 1, 4, 0, 0, 0, 0, 0, true⟩,
  ⟨0x58, 1, 4, 0, 0, 0, 0, 0, true⟩,
  ⟨0x5c, 1, 4, 0, 0, 0, 0, 0, true⟩,
  ⟨0x60, 1, 4, 0, 0, 0, 0, 0, true⟩,
  ⟨0x64, 1, 4, 0, 8, 0, 0xf, 0, true⟩]

/-- The ITU page (R256). -/
def rowsITU : List RegRow := [
  ⟨0x40, 1, 4, 0, 0x3e8, 0, 0xffff, 0, true⟩,
  ⟨0x44, 1, 4, 0, 0, 0, 0, 0, true⟩,
  ⟨0x48, 1, 4, 0, 0, 0x13f, 0, 0, true⟩,
  ⟨0x4c, 1, 4, 0, 0, 0xfffff000, 0, 0, true⟩,
  ⟨0x50, 1, 4, 0, 0, 0xffff, 0, 0, true⟩,
  ⟨0x54, 1, 4, 0, 0, 0, 0, 3, true⟩,
  ⟨0x58, 1, 4, 0, 0, 0, 0, 0, true⟩,
  ⟨0x5c, 1, 4, 0, 0, 0, 0, 0, true⟩,
  ⟨0x100, 16, 16, 0, 0, 0, 0xfffff000, 0, true⟩,
  ⟨0x104, 16, 16, 0, 0, 0, 0xffffffff, 0, true⟩,
  ⟨0x108, 16, 16, 0, 0x4000, 0, 0xff7f, 0, true⟩]

/-- The QOS page (R257). Log 61 (DEDUCED). -/
def rowsQOS : List RegRow := [
  ⟨0x40, 1, 4, 0, 0, 0, 0, 0, true⟩,
  ⟨0x100, 16, 16, 0, 0, 0, 0xffffffff, 0, true⟩,
  ⟨0x104, 16, 16, 0, 0x4010, 0, 0xfffff, 0, true⟩,
  ⟨0x108, 16, 16, 0, 0x1002, 0, 0xff03, 0, true⟩,
  ⟨0x10c, 16, 16, 0, 0, 0, 0, 0, true⟩]

/-- The INS page (R258). -/
def rowsINS : List RegRow := [
  ⟨0x40, 1, 4, 0, 0, 0, 0, 0, true⟩,
  ⟨0x44, 1, 4, 2, 0, 7, 0, 0, true⟩,
  ⟨0x48, 1, 4, 2, 0, 0, 0, 0, true⟩,
  ⟨0x4c, 1, 4, 2, 0, 0xf, 0, 0, true⟩,
  ⟨0x50, 1, 4, 2, 0, 0, 0, 0, true⟩,
  ⟨0x80, 4, 16, 2, 0, 0xfffff000, 0, 0, true⟩,
  ⟨0x84, 4, 16, 2, 0, 0xffff, 0, 0, true⟩,
  ⟨0x88, 4, 16, 2, 0, 0x1f, 0, 0, true⟩,
  ⟨0x8c, 4, 16, 2, 0, 0, 0, 0, true⟩,
  ⟨0xc0, 2, 16, 2, 0, 0xfffff000, 0, 0, true⟩,
  ⟨0xc4, 2, 16, 2, 0, 0xffff, 0, 0, true⟩,
  ⟨0xc8, 2, 16, 2, 0x100, 0xffff7f, 0, 0, true⟩,
  ⟨0xcc, 2, 16, 2, 0x1000, 0, 0, 0, true⟩,
  ⟨0x100, 1, 4, 1, 0, 0, 0, 0, true⟩,
  ⟨0x104, 1, 4, 1, 0, 0, 0, 0, true⟩,
  ⟨0x108, 1, 4, 1, 0, 0, 0, 0, true⟩,
  ⟨0x10c, 1, 4, 1, 0, 0, 0, 0, true⟩,
  ⟨0x110, 1, 4, 1, 0, 0, 0, 0, true⟩,
  ⟨0x800, 64, 4, 2, 0, 0, 0, 0, true⟩]

/-- The LND page (R287). -/
def rowsLND : List RegRow := [
  ⟨0x40, 1, 4, 0, 0x324b, 0, 0x7f7f, 0, true⟩,
  ⟨0x44, 1, 4, 0, 0, 0, 0, 0, true⟩,
  ⟨0x48, 1, 4, 0, 0, 0, 0, 0, true⟩,
  ⟨0x4c, 1, 4, 0, 0, 0, 0, 0, true⟩,
  ⟨0x50, 1, 4, 0, 0, 0, 0, 0, true⟩,
  ⟨0x54, 1, 4, 0, 0, 0, 0, 0, true⟩,
  ⟨0x58, 1, 4, 0, 0, 0, 0, 0, true⟩,
  ⟨0x5c, 1, 4, 0, 0, 0, 0, 0, true⟩,
  ⟨0x60, 1, 4, 0, 0, 0, 0, 0, true⟩,
  ⟨0x64, 1, 4, 0, 0, 0, 0, 0, true⟩,
  ⟨0x68, 1, 4, 0, 0, 0, 0, 0, true⟩,
  ⟨0x6c, 1, 4, 0, 0, 0, 0, 0, true⟩,
  ⟨0x70, 1, 4, 0, 0x1801, 0, 0xff01, 0, true⟩,
  ⟨0x74, 1, 4, 0, 0, 0, 0, 0, true⟩,
  ⟨0x78, 1, 4, 0, 0, 0, 0, 0, true⟩,
  ⟨0x7c, 1, 4, 0, 0, 0, 0, 0, true⟩]

/-- The MAP page (R314). -/
def rowsMAP : List RegRow := [
  ⟨0x40, 1, 4, 0, 0x3c2832, 0, 0xffff7f, 0, true⟩,
  ⟨0x44, 1, 4, 0, 0, 0, 0, 0, true⟩,
  ⟨0x48, 1, 4, 0, 0, 0, 0, 0, true⟩,
  ⟨0x4c, 1, 4, 0, 0, 0, 0, 0, true⟩,
  ⟨0x50, 1, 4, 0, 0, 0, 0, 0, true⟩,
  ⟨0x54, 1, 4, 0, 0, 0, 0, 0, true⟩,
  ⟨0x58, 1, 4, 0, 0, 0, 0, 0, true⟩,
  ⟨0x5c, 1, 4, 0, 0, 0, 0, 0, true⟩,
  ⟨0x60, 1, 4, 0, 0, 0, 0, 0, true⟩,
  ⟨0x64, 1, 4, 0, 0, 0, 0, 0, true⟩]

/-- The PAR page (R315). -/
def rowsPAR : List RegRow := [
  ⟨0x40, 1, 4, 0, 0, 0, 1, 0, true⟩,
  ⟨0x44, 1, 4, 0, 0, 0, 0, 0, true⟩,
  ⟨0x48, 1, 4, 0, 0x3f8, 0, 0, 0, true⟩,
  ⟨0x4c, 1, 4, 0, 0, 0, 0, 0, true⟩,
  ⟨0x50, 1, 4, 0, 0, 0, 0, 0, true⟩,
  ⟨0x54, 1, 4, 0, 0, 0, 0, 0, true⟩,
  ⟨0x60, 4, 4, 0, 0, 0, 0, 0, true⟩]

/-- The MED page (R340). -/
def rowsMED : List RegRow := [
  ⟨0x40, 1, 4, 0, 0x1012c, 0, 0x107ff, 0, true⟩,
  ⟨0x44, 1, 4, 0, 0x300186a0, 0, 0x7f0fffff, 0, true⟩,
  ⟨0x48, 1, 4, 0, 0x30807, 0, 0x30f3f, 0, true⟩,
  ⟨0x4c, 1, 4, 0, 0x308, 0, 0xffff, 0, true⟩,
  ⟨0x50, 1, 4, 0, 0x64001e, 0, 0x3ff03ff, 0, true⟩,
  ⟨0x54, 1, 4, 0, 0x20012000, 0, 0xff03ff03, 0, true⟩,
  ⟨0x58, 1, 4, 0, 0x10021000, 0, 0xff03ff03, 0, true⟩,
  ⟨0x5c, 1, 4, 0, 0x803, 0, 0xff03, 0, true⟩,
  ⟨0x60, 1, 4, 0, 0, 0, 0, 0, false⟩,
  ⟨0x64, 1, 4, 0, 0, 0, 0, 0, true⟩,
  ⟨0x68, 1, 4, 0, 0, 0, 0, 0, true⟩,
  ⟨0x6c, 1, 4, 0, 0, 0, 0, 0, true⟩,
  ⟨0x70, 1, 4, 0, 0, 0, 0, 0, true⟩,
  ⟨0x74, 1, 4, 0, 0, 0, 0, 0, true⟩,
  ⟨0x78, 1, 4, 0, 0, 0, 0, 0, true⟩,
  ⟨0x80, 4, 4, 0, 0, 0, 0, 0, true⟩]

/-- The FCH page (R341). -/
def rowsFCH : List RegRow := [
  ⟨0x40, 1, 4, 0, 0x407, 0, 0xf07, 0, true⟩,
  ⟨0x44, 1, 4, 0, 0, 0, 0, 0, true⟩,
  ⟨0x48, 1, 4, 0, 0, 0, 0, 0, true⟩,
  ⟨0x4c, 1, 4, 0, 0, 0, 0, 0, true⟩,
  ⟨0x50, 1, 4, 0, 0, 0, 0, 0, true⟩,
  ⟨0x54, 1, 4, 0, 0, 0, 0, 0, true⟩,
  ⟨0x58, 1, 4, 0, 0, 0, 0, 0, true⟩,
  ⟨0x5c, 1, 4, 0, 0, 0, 0, 0, true⟩,
  ⟨0x60, 1, 4, 0, 0, 0, 0, 0, true⟩]

/-- The KEY page (R372). -/
def rowsKEY : List RegRow := [
  ⟨0x40, 1, 4, 0, 0, 0, 0, 0, true⟩,
  ⟨0x44, 1, 4, 0, 0, 0, 0, 0, true⟩,
  ⟨0x48, 1, 4, 0, 0, 0, 0, 0, true⟩,
  ⟨0x4c, 1, 4, 0, 0, 0, 0, 0, true⟩,
  ⟨0x50, 1, 4, 0, 0, 0, 0, 0, true⟩,
  ⟨0x54, 1, 4, 0, 0, 0, 0, 0, true⟩,
  ⟨0x58, 1, 4, 0, 0, 0, 0, 0, false⟩,
  ⟨0x5c, 1, 4, 0, 0, 0, 0, 0, true⟩,
  ⟨0x60, 8, 4, 0, 0, 0, 0, 0, false⟩,
  ⟨0x80, 1, 4, 0, 4, 0x3f, 0, 0, true⟩,
  ⟨0x84, 1, 4, 0, 0, 0, 0, 0, true⟩,
  ⟨0x88, 1, 4, 0, 0, 0, 0, 0, true⟩]

/-- The CRY page (R373). -/
def rowsCRY : List RegRow := [
  ⟨0x40, 1, 4, 0, 0, 0, 0, 0, true⟩,
  ⟨0x44, 1, 4, 0, 0, 0, 0, 0, true⟩,
  ⟨0x48, 1, 4, 0, 0x14, 0, 0xff, 0, true⟩,
  ⟨0x4c, 1, 4, 0, 0, 0, 0, 0, true⟩]

/-- The TRE page (R374). -/
def rowsTRE : List RegRow := [
  ⟨0x40, 1, 4, 0, 0x1e304b1e, 0, 0xff3f7fff, 0, true⟩,
  ⟨0x44, 1, 4, 0, 0, 0, 0, 0, true⟩,
  ⟨0x48, 1, 4, 0, 0, 0, 0, 0, true⟩,
  ⟨0x4c, 1, 4, 0, 0, 0, 0, 0, true⟩,
  ⟨0x50, 1, 4, 0, 0, 0, 0, 0, true⟩,
  ⟨0x54, 1, 4, 0, 0, 0, 0, 0, true⟩,
  ⟨0x58, 1, 4, 0, 0, 0, 0, 0, true⟩,
  ⟨0x5c, 1, 4, 0, 0, 0, 0, 0, true⟩,
  ⟨0x60, 1, 4, 0, 0, 0, 0, 0, true⟩,
  ⟨0x64, 1, 4, 0, 0, 0, 0, 0, true⟩,
  ⟨0x68, 1, 4, 0, 0, 0, 0, 0, false⟩]

/-- The TMP page (R401). -/
def rowsTMP : List RegRow := [
  ⟨0x40, 1, 4, 0, 0x20a, 0, 0xfff, 0, true⟩,
  ⟨0x44, 1, 4, 0, 1, 0, 0xff, 0, true⟩,
  ⟨0x48, 1, 4, 0, 0, 0, 0, 0, true⟩,
  ⟨0x4c, 1, 4, 0, 0, 0, 0, 0, true⟩,
  ⟨0x50, 1, 4, 0, 0, 0, 0, 0, true⟩,
  ⟨0x54, 1, 4, 0, 0, 0, 0, 0, true⟩,
  ⟨0x58, 1, 4, 0, 0, 0, 0, 0, true⟩,
  ⟨0x5c, 1, 4, 0, 0, 0, 0, 0, false⟩]

/-- The LCK page (R402). -/
def rowsLCK : List RegRow := [
  ⟨0x40, 1, 4, 0, 0, 0, 0, 0, true⟩,
  ⟨0x44, 1, 4, 0, 0, 0, 0, 0, true⟩,
  ⟨0x48, 1, 4, 0, 0, 0, 0, 0, true⟩,
  ⟨0x4c, 1, 4, 0, 0, 0, 0, 0, true⟩,
  ⟨0x50, 1, 4, 0, 0, 0, 0, 0, true⟩,
  ⟨0x54, 1, 4, 0, 0, 0, 0, 0, false⟩,
  ⟨0x58, 1, 4, 0, 0, 0, 0, 0, true⟩]

/-- The SEG page (R403). -/
def rowsSEG : List RegRow := [
  ⟨0x40, 1, 4, 0, 0, 0, 0, 0, true⟩,
  ⟨0x44, 1, 4, 0, 0, 0, 0, 0, true⟩,
  ⟨0x48, 1, 4, 0, 0, 0xf, 0, 0, true⟩,
  ⟨0x4c, 1, 4, 0, 0, 0, 0, 0, true⟩,
  ⟨0x50, 1, 4, 0, 0, 0, 0, 0, true⟩,
  ⟨0x54, 1, 4, 0, 0, 0, 0, 0, true⟩,
  ⟨0x58, 1, 4, 0, 0, 0, 0, 0, true⟩,
  ⟨0x5c, 1, 4, 0, 0, 0, 0, 0, true⟩,
  ⟨0x60, 1, 4, 0, 0, 0, 0, 0, true⟩,
  ⟨0x64, 1, 4, 0, 0, 0, 0, 0, true⟩]

/-- The FLT page (R422). -/
def rowsFLT : List RegRow := [
  ⟨0x40, 4, 4, 0, 0, 0, 0, 0, true⟩,
  ⟨0x50, 4, 4, 0, 0, 0, 0, 0, true⟩,
  ⟨0x60, 1, 4, 0, 0, 0, 0, 0, false⟩,
  ⟨0x64, 1, 4, 0, 0x80a, 0, 0xff0f, 0, true⟩,
  ⟨0x68, 1, 4, 0, 0xe10, 0, 0xffff, 0, true⟩,
  ⟨0x6c, 1, 4, 0, 0x3e8, 0, 0x7fff, 0, true⟩,
  ⟨0x70, 1, 4, 0, 0, 0, 0, 0, true⟩,
  ⟨0x74, 1, 4, 0, 0, 0, 0, 0, true⟩,
  ⟨0x78, 1, 4, 0, 0, 0, 0, 0, true⟩,
  ⟨0x7c, 1, 4, 0, 0, 0, 0, 0, true⟩,
  ⟨0x400, 128, 4, 0, 0, 0, 0xf1, 0, true⟩,
  ⟨0x600, 128, 4, 0, 0, 0, 0, 0, true⟩,
  ⟨0x800, 64, 4, 0, 0, 0, 0, 0, true⟩]

/-- The CLK page (R440). -/
def rowsCLK : List RegRow := [
  ⟨0x40, 1, 4, 0, 0, 0, 0, 0, true⟩,
  ⟨0x44, 3, 4, 0, 0, 0, 0, 0, true⟩,
  ⟨0x50, 1, 4, 0, 0, 0, 0, 0, true⟩,
  ⟨0x54, 1, 4, 0, 0x1ffffc, 0, 0x1ffffc, 0, true⟩,
  ⟨0x58, 1, 4, 0, 0, 0, 0, 0, true⟩,
  ⟨0x5c, 1, 4, 0, 0, 0, 0, 0, true⟩,
  ⟨0x60, 1, 4, 0, 0, 0, 0, 0, true⟩,
  ⟨0x64, 1, 4, 0, 0, 0, 0, 0, true⟩]

/-- The PWR page (R440). -/
def rowsPWR : List RegRow := [
  ⟨0x40, 1, 4, 0, 0, 0, 0, 0, true⟩,
  ⟨0x44, 1, 4, 0, 1, 0, 1, 0, true⟩,
  ⟨0x48, 1, 4, 0, 0, 0, 0, 0, false⟩,
  ⟨0x4c, 1, 4, 0, 0, 0, 0, 0, true⟩,
  ⟨0x50, 1, 4, 0, 0, 0, 0, 0, true⟩,
  ⟨0x54, 1, 4, 0, 0, 0, 0, 0, true⟩]

/-- The THS page (R440). -/
def rowsTHS : List RegRow := [
  ⟨0x40, 1, 4, 0, 0, 0, 0, 0, true⟩,
  ⟨0x44, 1, 4, 0, 0, 0, 0, 0, true⟩,
  ⟨0x48, 1, 4, 0, 0, 0, 0, 0, true⟩,
  ⟨0x4c, 1, 4, 0, 0, 0, 0, 0, true⟩,
  ⟨0x50, 1, 4, 0, 0x10a64, 0, 0x1ffff, 0, true⟩,
  ⟨0x54, 1, 4, 0, 0x640190, 0, 0xffffffff, 0, true⟩,
  ⟨0x58, 1, 4, 0, 0, 0, 0, 0, true⟩,
  ⟨0x5c, 1, 4, 0, 0, 0, 0, 0, true⟩]

/-- The BRG page (R461). -/
def rowsBRG : List RegRow := [
  ⟨0x40, 1, 4, 0, 0, 0, 0, 0, true⟩,
  ⟨0x44, 1, 4, 0, 0, 0, 0, 0, true⟩,
  ⟨0x48, 1, 4, 0, 0, 0, 0, 0, true⟩,
  ⟨0x4c, 1, 4, 0, 0x1000000, 0, 0x1ffffff, 0, true⟩,
  ⟨0x50, 1, 4, 0, 0x10064, 0, 0x1ffff, 0, true⟩,
  ⟨0x54, 1, 4, 0, 0, 0, 0, 0, true⟩,
  ⟨0x58, 1, 4, 0, 0, 0, 0, 0, true⟩,
  ⟨0x5c, 1, 4, 0, 0, 0, 0, 0, true⟩,
  ⟨0x60, 1, 4, 0, 0, 0, 0, 0, true⟩,
  ⟨0x64, 1, 4, 0, 0, 0, 0, 0, true⟩,
  ⟨0x68, 1, 4, 0, 0, 0, 0, 0, true⟩,
  ⟨0x6c, 1, 4, 0, 0, 0, 0, 0, true⟩,
  ⟨0x70, 1, 4, 0, 0, 0, 0, 0, true⟩,
  ⟨0x74, 1, 4, 0, 0, 0, 0, 0, false⟩,
  ⟨0x78, 1, 4, 0, 0, 0, 0, 0, true⟩,
  ⟨0x80, 1, 4, 0, 0, 0, 0, 0, false⟩,
  ⟨0x84, 1, 4, 0, 0, 0xffffc, 0, 0, true⟩,
  ⟨0x88, 1, 4, 0, 0, 0, 0, 0, false⟩,
  ⟨0x8c, 1, 4, 0, 0, 0, 0, 0, true⟩]
/-! ## Pages (R14, R94) -/

/-- The role of the part: which end of the link the die is (R8). -/
inductive Role where
  | card
  | dock
  deriving DecidableEq, Repr

/-- The islands, by the numbers R407 gives them. -/
abbrev islAON := 0
abbrev islFLT := 1
abbrev islMP := 2
abbrev islHOSTA := 3
abbrev islHOSTB := 4
abbrev islPCIE := 5
abbrev islLSE := 6
abbrev islCMD := 7
abbrev islLAND := 8
abbrev islMAP := 9
abbrev islTREE := 10
abbrev islMEDIA := 11
abbrev islPAR := 12

/-- The page indices of R94. -/
abbrev pSYS := 0x00
abbrev pRST := 0x01
abbrev pCLK := 0x02
abbrev pPWR := 0x03
abbrev pEVT := 0x04
abbrev pFLT := 0x05
abbrev pTMP := 0x06
abbrev pKEY := 0x07
abbrev pLCK := 0x08
abbrev pLSE (n : Nat) := 0x09 + n
abbrev pSP (n : Nat) := 0x0B + n
abbrev pCN (n : Nat) := 0x0D + n
abbrev pCMD := 0x0F
abbrev pLND := 0x10
abbrev pMAP := 0x11
abbrev pTRE := 0x12
abbrev pCRY := 0x13
abbrev pSEG := 0x14
abbrev pMED := 0x15
abbrev pPAR := 0x16
abbrev pTHS := 0x17
abbrev pFCH (n : Nat) := 0x18 + n
abbrev pPCE := 0x20
abbrev pITU := 0x21
abbrev pQOS := 0x22
abbrev pBRG := 0x23
abbrev pMPC := 0x24
abbrev pINS (n : Nat) := 0x40 + n

/-- The register rows of a page; a reserved page has none (R94). -/
def pageRows (p : Nat) : List RegRow :=
  match p with
  | 0x00 => rowsSYS | 0x01 => rowsRST | 0x02 => rowsCLK | 0x03 => rowsPWR
  | 0x04 => rowsEVT | 0x05 => rowsFLT | 0x06 => rowsTMP | 0x07 => rowsKEY
  | 0x08 => rowsLCK | 0x09 => rowsLSE | 0x0A => rowsLSE | 0x0B => rowsSP
  | 0x0C => rowsSP | 0x0D => rowsCN | 0x0E => rowsCN | 0x0F => [] | 0x10 => rowsLND
  | 0x11 => rowsMAP | 0x12 => rowsTRE | 0x13 => rowsCRY | 0x14 => rowsSEG
  | 0x15 => rowsMED | 0x16 => rowsPAR | 0x17 => rowsTHS | 0x20 => rowsPCE
  | 0x21 => rowsITU | 0x22 => rowsQOS | 0x23 => rowsBRG | 0x24 => rowsMPC
  | p => if 0x18 ≤ p ∧ p ≤ 0x1F then rowsFCH else if 0x40 ≤ p ∧ p ≤ 0x4F then rowsINS else []

/-- PG_ID[31:16] and [15:8] of a page, or none for a reserved page (R94). -/
def pageCode (p : Nat) : Option (Nat × Nat) :=
  match p with
  | 0x00 => some (0x5359, 0) | 0x01 => some (0x5253, 0) | 0x02 => some (0x434B, 0)
  | 0x03 => some (0x5057, 0) | 0x04 => some (0x4556, 0) | 0x05 => some (0x464C, 0)
  | 0x06 => some (0x5450, 0) | 0x07 => some (0x4B59, 0) | 0x08 => some (0x4C4B, 0)
  | 0x09 => some (0x4C53, 0) | 0x0A => some (0x4C53, 1) | 0x0B => some (0x5350, 0)
  | 0x0C => some (0x5350, 1) | 0x0D => some (0x434E, 0) | 0x0E => some (0x434E, 1)
  | 0x0F => some (0x434D, 0) | 0x10 => some (0x4C44, 0) | 0x11 => some (0x4D41, 0)
  | 0x12 => some (0x5452, 0) | 0x13 => some (0x4359, 0) | 0x14 => some (0x5347, 0)
  | 0x15 => some (0x4D45, 0) | 0x16 => some (0x5041, 0) | 0x17 => some (0x5448, 0)
  | 0x20 => some (0x5043, 0) | 0x21 => some (0x4954, 0) | 0x22 => some (0x5153, 0)
  | 0x23 => some (0x4247, 0) | 0x24 => some (0x4D50, 0)
  | p =>
    if 0x18 ≤ p ∧ p ≤ 0x1F then some (0x4643, p - 0x18)
    else if 0x40 ≤ p ∧ p ≤ 0x4F then some (0x494E, p - 0x40)
    else none

/-- PG_ID of a page; zero on a reserved page (R93, R94). -/
def pageId (p : Nat) : Nat :=
  match pageCode p with
  | some (b, r) => b * 65536 + r * 256 + 1
  | none => 0

/-- PG_VER of every page that is not reserved (R93). -/
def pageVer (p : Nat) : Nat := if (pageCode p).isSome then 0x1B0 else 0

/-- Whether page `p` is present in role `r` (R14). -/
def pagePresent (r : Role) (p : Nat) : Bool :=
  match r with
  | .card =>
    (p ≤ 0x09 || p == 0x0B || p == 0x0D || (0x0F ≤ p && p ≤ 0x1F) || p == 0x24 ||
      (0x40 ≤ p && p ≤ 0x4F))
  | .dock =>
    (p ≤ 0x07 || (0x09 ≤ p && p ≤ 0x0E) || p == 0x10 || p == 0x13 || p == 0x17 ||
      (0x20 ≤ p && p ≤ 0x24) || (0x40 ≤ p && p ≤ 0x4F))

/-- The island that hosts page `p` (R14). -/
def pageIsland (r : Role) (p : Nat) : Nat :=
  match p with
  | 0x04 => islMP | 0x24 => islMP | 0x05 => islFLT
  | 0x07 => islLSE | 0x08 => islCMD | 0x09 => islLSE | 0x0A => islLSE
  | 0x0B => islHOSTA | 0x0C => islHOSTB | 0x0F => islCMD | 0x10 => islLAND
  | 0x11 => islMAP | 0x12 => islTREE | 0x13 => islTREE | 0x14 => islTREE
  | 0x15 => islMEDIA | 0x16 => islPAR
  | 0x20 => islPCIE | 0x21 => islPCIE | 0x22 => islPCIE | 0x23 => islCMD
  | p =>
    if 0x18 ≤ p ∧ p ≤ 0x1F then 13 + (p - 0x18)
    else if 0x40 ≤ p ∧ p ≤ 0x4F then (match r with | .card => islCMD | .dock => islPCIE)
    else islAON

/-- Whether island `i` runs in role `r` (R11). -/
def islandRuns (r : Role) (i : Nat) : Bool :=
  match r with
  | .card => i ≤ 20 && i != islHOSTB && i != islPCIE
  | .dock => i ≤ 8 || i == islTREE

/-- The pages on which ENABLE and FENCE_REQ are ignored (R96). -/
def pageFixed (p : Nat) : Bool :=
  p ≤ 7 || p == pTHS || p == pMPC || p == pLND

/-- The pages without a block reset (R77). -/
def pageNoBlockReset (p : Nat) : Bool :=
  p ≤ 6 || p == pTHS || p == pMPC

/-! ## Events (R102) -/

/-- The number of event bits of a page. -/
def evtCount (p : Nat) : Nat :=
  match p with
  | 0x00 => 8 | 0x01 => 6 | 0x02 => 14 | 0x03 => 4 | 0x04 => 2 | 0x05 => 8 | 0x06 => 6
  | 0x07 => 8 | 0x08 => 6 | 0x09 => 8 | 0x0A => 8 | 0x0B => 12 | 0x0C => 12 | 0x0D => 6
  | 0x0E => 6 | 0x0F => 10 | 0x10 => 10 | 0x11 => 8 | 0x12 => 8 | 0x13 => 4 | 0x14 => 4
  | 0x15 => 12 | 0x16 => 6 | 0x17 => 4 | 0x20 => 8 | 0x21 => 6 | 0x22 => 4 | 0x23 => 6
  | 0x24 => 4
  | p =>
    if 0x18 ≤ p ∧ p ≤ 0x1F then 6 else if 0x40 ≤ p ∧ p ≤ 0x4F then 1 else 0

/-- The event ID of bit 0 of a page. -/
def evtBase (p : Nat) : Nat :=
  match p with
  | 0x00 => 0 | 0x01 => 8 | 0x02 => 14 | 0x03 => 28 | 0x04 => 32 | 0x05 => 34 | 0x06 => 42
  | 0x07 => 48 | 0x08 => 56 | 0x09 => 62 | 0x0A => 70 | 0x0B => 78 | 0x0C => 90 | 0x0D => 102
  | 0x0E => 108 | 0x0F => 114 | 0x10 => 124 | 0x11 => 134 | 0x12 => 142 | 0x13 => 150
  | 0x14 => 154 | 0x15 => 158 | 0x16 => 170 | 0x17 => 176 | 0x20 => 228 | 0x21 => 236
  | 0x22 => 242 | 0x23 => 246 | 0x24 => 252
  | p => if 0x18 ≤ p ∧ p ≤ 0x1F then 180 + 6 * (p - 0x18) else 0

/-- The events that concern one instance, marked I (R102). -/
def evtOfInst (p k : Nat) : Bool :=
  match p with
  | 0x08 => k < 4
  | 0x09 | 0x0A => k < 2
  | 0x0F => k < 8 || k == 9
  | 0x11 => k == 4 || k == 5
  | 0x12 => k == 3
  | 0x13 => k < 2
  | 0x14 => k < 3
  | 0x20 => k == 3 || k == 7
  | 0x21 => k < 5
  | 0x22 => k < 4
  | _ => false

/-- The events that fire in one role only, although their page is present in both (R102, R84–R86). -/
def evtInRole (r : Role) (p k : Nat) : Bool :=
  pagePresent r p && k < evtCount p &&
  (match r with
   | .card => !((p == pSP 0 && k < 3) || (p == pRST && (k == 4 || k == 5)) ||
       (0x40 ≤ p))
   | .dock => !((p == pKEY && k == 0) || (p == pCRY && k < 2)))

/-! ## Fault sources (R408) -/

/-- A fence unit (R407). -/
inductive FenceUnit where
  | none
  | die (lun : Nat)
  | ce (index : Nat)
  | channel (n : Nat)
  | port (p part : Nat)
  | inst (n : Nat)
  | island (i : Nat)
  | engine (page part : Nat)
  | element (page index : Nat)
  deriving DecidableEq, Repr

/-- The 16-bit FENCE code of a history entry: kind, then index (R407, R417). -/
def FenceUnit.code : FenceUnit → Nat
  | .none => 0
  | .die l => 0x1000 + l
  | .ce i => 0x2000 + i
  | .channel n => 0x3000 + n
  | .port p part => 0x4000 + p + 4 * part
  | .inst n => 0x5000 + n
  | .island i => 0x6000 + i
  | .engine pg part => 0x7000 + pg + 256 * part
  | .element pg _ => 0x8000 + pg

/-- Sources of the flash channels: the channel and the row of R408 (0 BUF_ECC … 4 FSM). Log 62 (DEDUCED). -/
def srcFch (n : Nat) : Option (Nat × Nat) :=
  if 6 ≤ n ∧ n < 46 then some ((n - 6) / 5, (n - 6) % 5) else none

/-- The page of a source (R408). Log 62 (DEDUCED). -/
def srcPage (n : Nat) : Nat :=
  if n < 6 then pLND
  else if n < 46 then pFCH ((n - 6) / 5)
  else if n < 50 then pMAP
  else if n < 56 then pTRE
  else if n < 60 then pCRY
  else if n < 68 then pLSE ((n - 60) / 4)
  else if n < 76 then pSP ((n - 68) / 4)
  else if n < 80 then pCN ((n - 76) / 2)
  else if n < 84 then pCMD
  else if n < 88 then pPAR
  else if n < 92 then pMED
  else if n < 96 then pKEY
  else if n < 102 then pMPC
  else if n < 106 then pPCE
  else if n < 110 then pITU
  else if n < 112 then pQOS
  else if n < 116 then pBRG
  else if n < 122 then pCLK
  else if n < 124 then pTHS
  else pFLT

/-- The fence unit of source `n` for a detection about element, LUN, instance, island or part `x`
(R408). -/
def srcUnit (n x : Nat) : FenceUnit :=
  if n < 3 then .element pLND x
  else if n < 5 then .engine pLND 2
  else if n = 5 then .engine pLND 1
  else if n < 46 then
    (match (n - 6) % 5 with
     | 1 => .die x
     | 2 => .ce x
     | _ => .channel ((n - 6) / 5))
  else match n with
  | 46 => .element pMAP x | 47 => .inst x | 48 => .engine pMAP 0 | 49 => .engine pMAP 0
  | 50 => .engine pTRE 0 | 51 => .element pTRE x | 52 => .element pTRE x
  | 53 => .element pTRE x | 54 => .engine pTRE 0 | 55 => .engine pTRE 0
  | 56 => .element pCRY x | 57 => .engine pCRY x | 58 => .engine pCRY 1 | 59 => .engine pCRY 2
  | 80 => .inst x | 81 => .inst x | 82 => .inst x | 83 => .engine pCMD 0
  | 84 => .element pPAR x | 85 => .element pPAR x | 86 => .engine pPAR 0 | 87 => .engine pPAR 0
  | 88 => .element pMED x | 89 => .engine pMED 0 | 90 => .none | 91 => .engine pMED 0
  | 92 => .element pKEY x | 93 => .engine pKEY 1 | 94 => .engine pKEY 2 | 95 => .engine pKEY 0
  | 96 => .engine pMPC 1 | 97 => .engine pMPC 2 | 98 => .engine pMPC 1 | 99 => .engine pMPC 2
  | 100 => .engine pMPC x | 101 => .element pMPC x
  | 102 => .inst x | 103 => .inst x | 104 => .engine pPCE 1 | 105 => .engine pPCE 0
  | 106 => .element pITU x | 107 => .inst x | 108 => .inst x | 109 => .engine pITU 0
  | 110 => .inst x | 111 => .engine pQOS 0
  | 112 => .engine pBRG 0 | 113 => .engine pBRG 0 | 114 => .port x 0 | 115 => .engine pBRG 0
  | 122 => .engine pTHS (1 + x) | 123 => .engine pTHS 0
  | n =>
    if n < 68 then .port ((n - 60) / 4) 1
    else if n < 76 then .port ((n - 68) / 4) 0
    else if n < 80 then .port ((n - 76) / 2) 2
    else if 116 ≤ n ∧ n < 122 then .island x
    else .none

/-- Sources with a level cause (R409); `KEY_SLOT_ECC` has both parts. -/
def srcLevel (n : Nat) : Bool :=
  n == 3 || n == 4 || (6 ≤ n && n < 46 && ((n - 6) % 5 == 1 || (n - 6) % 5 == 2)) ||
  n == 48 || n == 50 || n == 90 || n == 92 || n == 93 || n == 122

/-- The default lull code of a source whose default exit is LULL; none where it is SW_CLEAR (R408). -/
def srcLull (n : Nat) : Option Nat :=
  if n < 3 then some 10
  else if n < 5 then none
  else if n = 5 then some 4
  else if n < 46 then (match (n - 6) % 5 with | 1 => some 12 | 2 => some 14 | _ => some 7)
  else match n with
  | 46 => some 4 | 47 => none | 48 => none | 49 => some 7
  | 50 => none | 51 => none | 52 => none | 53 => some 4 | 54 => none | 55 => some 7
  | 56 => some 4 | 57 => none | 58 => some 7 | 59 => some 7
  | 76 => some 7 | 77 => some 4 | 78 => some 7 | 79 => some 4
  | 80 => some 10 | 81 => some 10 | 82 => some 4 | 83 => some 7
  | 84 => some 10 | 85 => some 10 | 86 => some 7 | 87 => some 7
  | 88 => some 10 | 89 => some 7 | 90 => none | 91 => some 7
  | 92 => some 4 | 93 => some 10 | 94 => none | 95 => some 7
  | 101 => some 4 | 102 => some 4 | 103 => some 4 | 104 => some 7 | 105 => none
  | 106 => some 4 | 107 => some 4 | 108 => none | 109 => some 7 | 110 => some 4 | 111 => some 7
  | 112 => some 7 | 113 => none | 114 => none | 115 => some 7
  | 122 => some 10 | 123 => some 7
  | n =>
    if n < 68 then (if (n - 60) % 4 = 3 then some 7 else some 4)
    else if n < 76 then (if (n - 68) % 4 = 1 ∨ (n - 68) % 4 = 3 then some 7 else some 4)
    else if 96 ≤ n ∧ n < 101 then some 7
    else if 116 ≤ n ∧ n < 122 then some 4
    else none

/-- Reset value of SRC_CFG_nnn (R408, R412).  DEDUCED: the collector's own sources, which exit by
neither mode, take the LULL code of a SW_CLEAR source. -/
def srcCfgReset (n : Nat) : Nat :=
  match srcLull n with
  | some k => 1 + 16 * k
  | none => 16 * 10 + (if 124 ≤ n then 2 else 0)

/-! ## Look-ups -/

/-- The row and the index within it of the register at offset `o` of page `p`. -/
def findRow (rows : List RegRow) (o : Nat) : Option (RegRow × Nat) :=
  match rows with
  | [] => none
  | r :: rest =>
    if r.off ≤ o ∧ (o - r.off) % r.stride = 0 ∧ (o - r.off) / r.stride < r.count then
      some (r, (o - r.off) / r.stride)
    else findRow rest o

/-- The reset value of the register at a window offset: the value an unlisted register reads as.
Log 10 (DESIGN CHOICE), 62 (DEDUCED). -/
def regReset (off : Nat) : Word :=
  let p := off / 4096
  let o := off % 4096
  if (pageCode p).isNone then 0
  else if o < 0x40 then
    (match o with
     | 0x00 => BitVec.ofNat 32 (pageId p)
     | 0x04 => BitVec.ofNat 32 (pageVer p)
     | 0x08 => 1
     | 0x18 => BitVec.ofNat 32 (2 ^ evtCount p - 1)
     | _ => 0)
  else if p = pFLT ∧ 0x400 ≤ o ∧ o < 0x600 then BitVec.ofNat 32 (srcCfgReset ((o - 0x400) / 4))
  else match findRow (pageRows p) o with
  | some (r, _) => BitVec.ofNat 32 r.reset
  | none => 0

/-- A row's role number admits role `r`. -/
def rowInRole (r : Role) (n : Nat) : Bool :=
  match r with
  | .card => n != 2
  | .dock => n != 1

/-- The bits of access RW (or RWH), RWL and RW1C of the register at a window offset, for the
registers that have no action of their own behind them. -/
def regMasks (r : Role) (off : Nat) : Nat × Nat × Nat :=
  let p := off / 4096
  let o := off % 4096
  match findRow (pageRows p) o with
  | some (row, i) =>
    if rowInRole r row.role then
      (row.rw, if p = pFLT ∧ o = 0x400 + 4 * i ∧ 124 ≤ i then 0xF0 else row.rwl, row.w1c)
    else (0, 0, 0)
  | none => (0, 0, 0)

end Sys2Proof.Machine
end

