-- ==== Sys2Proof/Machine/State.lean ====
section
/-! DEFINITION. The state of one TD-1680 as plain data, the faults and refusals of a step, and the
state after reset.  Every register of the window has its one home in `regs`; what is not a register
(stores, queues, volatile keys, link state) has a field of its own. -/

namespace Sys2Proof.Machine

/-! ## AON: bring-up, resets, tamper -/

/-- A reset that can wait for a pulse or a burn to end (R67, R72); island and block resets wait by ending later. -/
inductive ResetKind where
  | rstN
  | chipSw
  | mpWdog
  | crstN
  | perstN
  | link (port : Nat)
  deriving DecidableEq, Repr

/-- The bring-up and reset sequencer of the AON island (chapter 04). -/
structure Boot where
  /-- the power-on clear is in force -/
  poc : Bool := true
  /-- an honoured RST_N pulse holds the chip in step 0 -/
  rstLow : Bool := false
  /-- the resets that wait for a pulse or a burn to end (R72) -/
  waiting : List ResetKind := []
  /-- ROLE_SEL as sampled when RST_N was released while a reset waited (R68) -/
  roleAt : Option Bool := none
  /-- the floor bit whose fuse is being burned (R343) -/
  fuse : Option Nat := none
  /-- the floor burns are under way until the floor reaches this version (R448) -/
  floorTo : Option Nat := none
  /-- uptime at the start of the latest bring-up -/
  started : Time := 0
  /-- the latest bring-up was started by the power-on clear -/
  fromPoc : Bool := true
  /-- the latest bring-up was started by the MP watchdog -/
  fromWdog : Bool := false
  /-- step 5 chose the locked path (R63) -/
  locked : Bool := false
  /-- PLL lock attempts used (R64, R427) -/
  pllTries : Nat := 0
  /-- bring-up stays at the present step (R64) -/
  stuck : Bool := false
  /-- bring-up was restarted by a tamper clear (R383, R385): it ends by READY -/
  fromTamper : Bool := false
  deriving DecidableEq, Repr

/-- An event that has fired and has not been delivered: kept back until bring-up step 11 (R103), or hidden by its
mask until the mask is set (R98). -/
structure HeldEvent where
  page : Nat
  bit : Nat
  inst : Option Nat
  detailA : Nat
  detailB : Nat
  test : Bool
  ts : Time
  /-- the ID its record carries -/
  id : Nat
  /-- hidden by its mask -/
  hidden : Bool := false
  deriving DecidableEq, Repr

/-- One fence unit held by one source, with the history entry of the fault that fenced it. -/
structure Hold where
  src : Nat
  unit : FenceUnit
  hist : Nat
  deriving DecidableEq, Repr

/-- A fault that arrived during a software block reset of its own unit (R414). -/
structure LateFault where
  src : Nat
  x : Nat
  syn : Nat
  injected : Bool
  deriving DecidableEq, Repr

/-- The fault collector beside its registers (chapter 16). -/
structure Flt where
  /-- the fence units in force -/
  holds : List Hold := []
  /-- faults waiting for a block reset to end -/
  late : List LateFault := []
  /-- the sources whose recovery window runs (R411) -/
  windows : List Nat := []
  /-- BREEZE is high -/
  breeze : Bool := false
  deriving DecidableEq, Repr

/-- The tamper monitor (chapter 15). -/
structure Tamper where
  /-- consecutive bad loop words -/
  missRun : Nat := 0
  /-- consecutive good loop words -/
  goodRun : Nat := 0
  /-- the loop code's LFSR -/
  lfsr : BitVec 31 := 1
  /-- TAMPER_B reads high after its filter -/
  switchHigh : Bool := false
  deriving DecidableEq, Repr

/-- The thermal sensors beside their registers (R435–R437): a temperature has been sampled since the power-on
clear, and EV_THS_OVER_LIMIT has fired and T has not fallen below 105 °C since. -/
structure Ths where
  seen : Bool := false
  hot : Bool := false
  deriving DecidableEq, Repr

/-- Levels of balls the part takes in, as last seen. -/
structure Pins where
  /-- ROLE_SEL -/
  strap : Bool := false
  /-- GPIO_0 to GPIO_3, bit n for GPIO_n -/
  gpio : Nat := 0
  /-- PERST_N reads high -/
  perstHigh : Bool := false
  /-- CRST_N reads high (card) -/
  crstHigh : Bool := false
  /-- WAKE_N is driven low -/
  wakeLow : Bool := false
  /-- the I²C status-block pointer -/
  i2cPtr : Nat := 0
  /-- the JTAG instruction in force -/
  jtag : Nat := 1
  /-- the boundary-scan register as last loaded -/
  boundary : List Bool := []
  deriving DecidableEq, Repr

/-! ## Counlet -/

/-- Where a dock port's Counlet link-up stands (R140). -/
inductive CnPhase where
  | idle | insDelay | atr | retryHold | pps | begin | proof | enrolBegin | enrolProof | done
  deriving DecidableEq, Repr

/-- A pairing begun in the Counlet session (R129, R132). -/
inductive PairMode where
  | none
  | prove
  | enrol (slot : Nat)
  deriving DecidableEq, Repr

/-- A Counlet engine (chapter 06). -/
structure Counlet where
  /-- card: OP, SEQ and response of the last request processed (R123) -/
  last : Option (Nat × Nat × List Byte) := none
  /-- card: a pairing begun -/
  pair : PairMode := .none
  /-- the nonces N_H and N_C of the pairing -/
  nonceH : List Byte := []
  nonceC : List Byte := []
  /-- card: the next transmission of the host end may be a PPS request (R117) -/
  ppsOpen : Bool := false
  /-- card: the answer to reset is due (R118) -/
  atrDue : Bool := false
  /-- card: locks, pairing and health, and the firmware version, when CRST_N was released (R121) -/
  atrState : Nat × Nat := (0, 0)
  /-- card: token of an armed forced erase (R135) -/
  token : Option Nat := none
  /-- dock: link-up progress -/
  phase : CnPhase := .idle
  /-- dock: failed answers to reset so far -/
  tries : Nat := 0
  /-- dock: SEQ of the next request -/
  seq : Nat := 0
  /-- dock: CRST_N is released -/
  crstHigh : Bool := false
  /-- dock: uptimes of the latest removals declared with CD_N low (R172) -/
  removals : List Time := []
  /-- dock: resends of the request under way (R142) -/
  resends : Nat := 0
  /-- dock: CD_N reads low -/
  cdLow : Bool := false
  /-- dock: the card's answer to reset is complete, so the lines of the port are driven (R171) -/
  atrDone : Bool := false
  /-- dock: the peer's serial and instance from its answers -/
  peerSerial : Nat := 0
  /-- dock: an enrolment asked for, or under way: its slot -/
  enrol : Option Nat := none
  /-- dock: the port is to pair again once its channel is free -/
  wantPair : Bool := false
  /-- dock: the last request has had its response (R145) -/
  rested : Bool := false
  /-- dock: the mailbox request under way: OP, SEQ, payload -/
  mbx : Option (Nat × Nat × List Byte) := none
  deriving DecidableEq, Repr

/-- A Counlet request that has arrived whole and waits to be served (R80, R128, R370), with what its session held as it
arrived. -/
structure HeldCn where
  req : Instr
  /-- its answer is lost: the engine has been reset or fenced since (R128) -/
  lost : Bool := false
  /-- the management credential, the pairing begun and the armed erase of its session -/
  cred : Bool := false
  pair : PairMode := .none
  nonceH : List Byte := []
  nonceC : List Byte := []
  token : Option Nat := none
  /-- FCs of the Spantoen commands that arrived before it and change the same state (R128) -/
  after : List Nat := []
  deriving DecidableEq, Repr

/-! ## Spantoen -/

/-- A command the card has accepted and not completed. -/
structure Outst where
  op : Nat
  inst : Nat
  tag : Nat
  fc : Nat
  arg : Nat
  epoch : Nat
  /-- index of the unit in turn -/
  next : Nat := 0
  /-- failed receptions, or sendings, of the unit in turn -/
  fails : Nat := 0
  /-- some status frame of the unit in turn arrived whole -/
  heard : Bool := false
  /-- plaintext of the units still to be sent, the one in turn first; or received and not yet executed -/
  units : List (List Byte) := []
  /-- the unit in turn has been sent -/
  sending : Bool := false
  /-- units executed (committed) so far -/
  fin : Nat := 0
  /-- status and INFO the command ends with after its last unit is taken -/
  endSt : Nat := 0
  endInfo : Nat := 0
  /-- held behind earlier commands of its instance, or for a KEY quiesce -/
  held : Bool := false
  /-- journal SEQs reserved for its records, first unit first -/
  seqs : List Nat := []
  /-- the seal unit a SEG_CLOSE returns, kept for a resend -/
  unit : Option (List Byte) := none
  /-- time of the latest commit of a unit of it, in units of 2.5 ns (R270) -/
  lat : Nat := 0
  /-- the unit whose commit line will fail its read-back (R271) -/
  failAt : Option Nat := none
  /-- its data phase has ended early, with this status: it ends so once the units received are executed (R191) -/
  cut : Option Nat := none
  /-- what the media returned for each unit, for a command that reads -/
  env : List MediaRead := []
  /-- the last SEQ allocated when the command was accepted; for a TUNE_WR, the lines whose tuning frame passed; for the
  confirm of a forced erase, 1 where it met the arm (R182) -/
  bound : Nat := 0
  deriving DecidableEq, Repr

/-- A completed command of the deduplication window (R189). -/
structure Done where
  inst : Nat
  tag : Nat
  fc : Nat
  op : Nat
  st : Nat
  info : Nat
  epoch : Nat := 0
  arg : Nat := 0
  units : List (List Byte) := []
  deriving DecidableEq, Repr

/-- Where a dock command came from. -/
inductive Origin where
  /-- a queue entry: instance, queue, CID -/
  | host (inst sq cid : Nat)
  /-- a queue entry that the dock has forgotten: its answer is discarded (R202, R203) -/
  | lost
  /-- delivery of a bridge record, by SEQ -/
  | bridge (seq : Nat)
  /-- resync of a track -/
  | resync (t : Nat)
  /-- a command of the link layer itself -/
  | link
  deriving DecidableEq, Repr

/-- A command the dock has sent on a port, or waits to send, oldest first. -/
structure DCmd where
  /-- its number on the port -/
  id : Nat := 0
  op : Nat
  inst : Nat
  tag : Nat := 0
  fc : Nat := 0
  arg : Nat
  epoch : Nat := 0
  origin : Origin
  /-- the command frame has been sent -/
  sent : Bool := false
  /-- index of the unit in turn -/
  next : Nat := 0
  /-- failed sendings, or receptions, of the unit in turn -/
  fails : Nat := 0
  /-- some status frame of the unit in turn arrived whole -/
  heard : Bool := false
  /-- plaintext of the units to send, all of them -/
  units : List (List Byte) := []
  /-- units received so far -/
  got : List (List Byte) := []
  /-- its unit 0 is this unit of the command it is a part of -/
  base : Nat := 0
  /-- SEQs of the bridge records it carries, first unit first -/
  seqs : List Nat := []
  /-- the dock's link layer has sent it again -/
  resent : Bool := false
  /-- a unit of the command it continues has failed its tag (R193) -/
  authed : Bool := false
  /-- it goes on with a command that has been sent before (R193, R194) -/
  rest : Bool := false
  deriving DecidableEq, Repr

/-- The link state of a Spantoen port and of its link slot in KEY (chapters 07, 08, 14). -/
structure Port where
  /-- session secret, current and next session key; empty when zeroized (R369) -/
  secret : List Byte := []
  key : List Byte := []
  nextKey : List Byte := []
  /-- dock: the host nonce of the rekey under way -/
  rekeyNonce : Nat := 0
  /-- LINK_KEY commands accepted in the session (R368) -/
  rekeys : Nat := 0
  /-- card: highest command FC accepted; dock: last command FC sent (R184) -/
  cmdFc : Nat := 0
  /-- card: last response FC sent; dock: highest response FC accepted -/
  rspFc : Nat := 0
  /-- units of both directions in the current epoch, and in the next one while a rekey window is open (R196) -/
  units : Nat := 0
  unitsNext : Nat := 0
  /-- card: command FCs accepted in the session -/
  accepted : List Nat := []
  /-- card: commands accepted and not completed, oldest first -/
  outst : List Outst := []
  /-- card: completed commands, oldest first, at most 256 of each instance -/
  dedup : List Done := []
  /-- card: token of an erase armed over Spantoen and still next (R182) -/
  eraseToken : Option Nat := none
  /-- the retune flag is up (R168) -/
  retuneAdv : Bool := false
  /-- card: the first command of the session has verified (R197) -/
  sessionSeen : Bool := false
  /-- dock: commands of the port, oldest first -/
  dcmds : List DCmd := []
  /-- dock: actions waiting for the next IDLE -/
  wantRetune : Bool := false
  wantRekey : Bool := false
  /-- dock: the port is drained: no new command is sent to it (R219) -/
  drained : Bool := false
  /-- dock: the PORT_DRAIN that waits for it: queue and CID -/
  drainCmd : Option (Nat × Nat) := none
  /-- dock: retries were exhausted; the port is to be retrained (R192) -/
  wantRetrain : Bool := false
  /-- dock: uptime of the last link reset for an exhaustion at SPD_0 (R192) -/
  exhaustedAt : Option Time := none
  /-- dock: the present session was formed by a link-up whose first command awaits its answer (R197) -/
  starting : Nat := 0
  /-- dock: the mode a SPEED_SET under way asks for -/
  newMode : Nat := 0
  /-- dock: number of the next command -/
  nextId : Nat := 0
  /-- dock: the configured instances the card reported -/
  insts : Nat := 1
  /-- dock: SCLK runs -/
  sclk : Bool := false
  /-- a temperature is recorded for the mode in force (R168) -/
  tempSeen : Bool := false
  /-- card: TUNE_WR commands of the tune under way, and one (R161); 0 where none is under way -/
  tuneWrs : Nat := 0
  /-- EV_THS_RETUNE_DELTA has fired for the port since its last passing tune (R437) -/
  deltaSeen : Bool := false
  deriving DecidableEq, Repr

/-! ## Keys -/

/-- The volatile keys of KEY, CRY and SEG (R20, R344); empty when not held. -/
structure Keys where
  imk : List (List Byte) := List.replicate 16 []
  /-- KGEN of each IMK held -/
  kgen : List Nat := List.replicate 16 0
  jnk : List Byte := []
  trk : List Byte := []
  slk : List Byte := []
  p0 : List Byte := []
  p1 : List Byte := []
  /-- nonces issued since bring-up (R351) -/
  nonces : Nat := 0
  /-- import registers (R372), 32 bytes -/
  imp : List Byte := List.replicate 32 0
  /-- Counlet requests that wait to be served, oldest first (R80, R128, R370) -/
  heldReq : List HeldCn := []
  /-- KEY has been block-reset and has not rerun items 3 to 5 of R352 -/
  wiped : Bool := false
  /-- CRY has lost its keys, JNK and the IMKs, and they have not been loaded again (R70) -/
  cryWiped : Bool := false
  deriving DecidableEq, Repr

/-! ## The landing store and the flash side -/

/-- An unreleased record of the journal index (R264, R272). -/
structure JRec where
  seq : Nat
  /-- line of its header within the ring, and its lap -/
  line : Nat
  lap : Nat
  kind : Nat
  inst : Nat
  /-- units − 1 of a discard -/
  cnt : Nat
  addr : Nat
  /-- target ports of a bridge record -/
  ports : Nat := 0
  /-- its commit word is valid -/
  committed : Bool := false
  /-- the global unit it was placed for -/
  g : Nat := 0
  /-- the slot its unit has been placed in -/
  loc : Option Nat := none
  /-- its page and the last page of the wordline are programmed -/
  programmed : Bool := false
  /-- DSN of its map or range delta, and of its counter delta -/
  mapDsn : Option Nat := none
  ctrDsn : Option Nat := none
  /-- its unit is folded into the open segment's chaining state, or it needs none -/
  segDone : Bool := false
  /-- indexed at step 7 -/
  replayed : Bool := false
  /-- bridge: ports that have returned OK or whose track holds the unit -/
  donePorts : Nat := 0
  deriving DecidableEq, Repr

/-- A request of the landing store whose pulse has not ended: its rank in the order of R22, its line, the round of
work it belongs to, and what the words it writes held before: word index, value and ECC state. -/
structure MramReq where
  rank : Nat
  line : Nat
  round : Nat
  old : List (Nat × Nat × Nat)
  deriving DecidableEq, Repr

/-- The requests that wait or pulse, the newest first, and the present round: a request of one round is made only once
those of the rounds before it have been served. -/
structure MramQueue where
  reqs : List MramReq := []
  round : Nat := 0
  deriving DecidableEq, Repr

/-- The landing store beside its bytes (chapter 11): volatile but for the bad-line table. -/
structure Landing where
  /-- ring head line, next SEQ, present lap -/
  head : Nat := 0
  seq : Nat := 0
  lap : Nat := 0
  /-- unreleased records, oldest first -/
  recs : List JRec := []
  /-- the record the anchor in force names: line, SEQ, LAP; and the journal floor -/
  ancLine : Nat := 0
  ancSeq : Nat := 0
  ancLap : Nat := 0
  floor : Nat := 0
  /-- uptime of the anchor's last rewrite, and whether the anchor moved since -/
  ancTime : Time := 0
  ancMoved : Bool := false
  /-- the record allocated last: line, SEQ, LAP -/
  lastLine : Nat := 0
  lastSeq : Nat := 0
  lastLap : Nat := 0
  /-- JNK failed: the journal is fenced (R64) -/
  fenced : Bool := false
  /-- the bad-line table, as read at bring-up (R278). Log 178 (DESIGN CHOICE) -/
  bad : List Nat := []
  deriving DecidableEq, Repr

/-- A delta of the delta ring (R293, R294). -/
structure Delta where
  typ : Nat
  dsn : Nat
  words : List Nat
  /-- its ring line, once the line is written -/
  line : Option Nat := none
  /-- retired by its owner (R296, R364) -/
  retired : Bool := false
  deriving DecidableEq, Repr

/-- A slot of the map cache: a map page, or a directory page (R292). -/
structure MapSlot where
  page : Nat
  isDir : Bool
  /-- DSN of the oldest delta no committed snapshot covers; none when clean -/
  oldest : Option Nat
  /-- uptime at which it became dirty -/
  since : Time := 0
  deriving DecidableEq, Repr

/-- A map or directory page being written back (R296). -/
structure Writeback where
  page : Nat
  isDir : Bool
  /-- entry of its first unit; the other three follow -/
  loc : Nat
  /-- the highest DSN its snapshot contains -/
  top : Nat
  deriving DecidableEq, Repr

/-- Translation (chapter 12). -/
structure MapSt where
  /-- map entries by global unit, unlisted 0xFFFF_FFFF -/
  map : List (Nat × Nat) := []
  /-- snapshot locations of map pages, as the directory gives them -/
  dir : List (Nat × Nat) := []
  /-- snapshot locations of directory pages: the top table -/
  top : List (Nat × Nat) := []
  /-- snapshots written and not yet programmed -/
  wbs : List Writeback := []
  cache : List MapSlot := []
  /-- every unretired delta, oldest first; the last ones wait for their line -/
  deltas : List Delta := []
  /-- by map page, and by directory page, the highest DSN its committed snapshot contains -/
  cover : List (Nat × Nat) := []
  dcover : List (Nat × Nat) := []
  /-- uptime of the last delta anchor rewrite -/
  ancTime : Time := 0
  /-- the 1 ms interval of the last cache miss, and the misses in it -/
  missMs : Nat := 0
  missCnt : Nat := 0
  /-- next DSN, ring lines of head and tail, lap -/
  dsn : Nat := 1
  head : Nat := 0
  tail : Nat := 0
  lap : Nat := 0
  /-- instances that a snapshot's failure has just fenced, whose commands are to end (R313) -/
  hurt : List Nat := []
  deriving DecidableEq, Repr

/-- A parent's entry for a tree unit: version, and the locations of copies A and B (R360). -/
structure TreeEnt where
  ver : Nat := 0
  a : Nat := 0xFFFFFFFF
  b : Nat := 0xFFFFFFFF
  deriving DecidableEq, Repr

/-- A checkpoint under way (R364): its cutoff, the entries its root will cover, the units it writes, and the leaf units
changed since it began. -/
structure Ckpt where
  d : Nat
  ents : List (Nat × TreeEnt)
  keys : List Nat
  again : List Nat := []
  /-- uptime of the first change after the cutoff -/
  againAt : Time := 0
  deriving DecidableEq, Repr

/-- The counter tree (R358–R367). -/
structure TreeSt where
  /-- counters by index c -/
  ctr : List (Nat × Nat) := []
  /-- the entries of the tree units, by level × 2^28 + index, that the root in force covers -/
  ents : List (Nat × TreeEnt) := []
  /-- the L0 tree units with a change no committed root covers -/
  dirty : List Nat := []
  /-- further tree units the next checkpoint writes anew, since their copies are to leave their place -/
  redo : List Nat := []
  ckpt : Option Ckpt := none
  /-- tree units in the counter cache, least recently used first -/
  cache : List Nat := []
  /-- uptime of the oldest dirty change, and of the last root commit -/
  oldest : Time := 0
  lastRoot : Time := 0
  /-- DSN of the last counter delta applied to the cache -/
  applied : Nat := 0
  /-- highest counter issued (R374) -/
  maxCtr : Nat := 0
  /-- the 1 ms interval of the last cache miss, and the misses in it -/
  missMs : Nat := 0
  missCnt : Nat := 0
  deriving DecidableEq, Repr

/-- What the flash holds in one slot: 4096 bytes of ciphertext and the metadata of R355. -/
structure FlashUnit where
  ct : List Byte
  md : List Byte
  deriving DecidableEq, Repr

/-- An open or closing superblock (R306). -/
structure OpenSb where
  set : Nat
  half : Nat
  b : Nat
  /-- first parity slot -/
  first : Nat
  /-- 1 OPEN, 2 CLOSING, 3 VERIFYING, 4 RELEASED -/
  state : Nat
  /-- opened for moves -/
  forMove : Bool
  /-- slots filled so far on each member, by LUN -/
  fill : List (Nat × Nat)
  /-- pages issued so far on each member, by LUN: those folded into the parity -/
  iss : List (Nat × Nat) := []
  /-- pages programmed so far on each member, by LUN -/
  prog : List (Nat × Nat) := []
  /-- void wordlines: LUN and wordline -/
  voids : List (Nat × Nat) := []
  /-- members that take no further pages -/
  shut : List Nat := []
  /-- blocks to retire when the superblock is released -/
  toRetire : List Nat := []
  /-- members whose block has been erased for it -/
  erased : List Nat := []
  deriving DecidableEq, Repr

/-- An entry of the media table (R326). -/
structure SbEntry where
  erases : Nat := 0
  /-- 0 FREE, 1 TAKEN, 2 DATA, 3 UNUSABLE -/
  state : Nat := 0
  maxcb : Nat := 0
  members : Nat := 0xFFFF
  pass : Nat := 0
  reads : List Nat := List.replicate 16 0
  /-- VALID stands at its maximum, the entry having been lost (R328) -/
  vmax : Bool := false
  deriving DecidableEq, Repr

/-- An operation of a LUN, issued or waiting (R320): kind 1 program, 2 erase, 3 an erase of the background erase (R36),
and its place. -/
structure LunOp where
  lun : Nat
  kind : Nat
  block : Nat
  page : Nat
  sb : Nat
  issued : Bool := false
  deriving DecidableEq, Repr

/-- A unit being moved: the delta commits once its new page is programmed (R298). -/
structure Move where
  g : Nat
  src : Nat
  dst : Nat
  /-- the superblock it leaves -/
  k : Nat
  deriving DecidableEq, Repr

/-- A flash channel arbiter over its sources 0 HOST_RD, 1 SYS, 2 HOST_WR, 3 MOVE, 4 SCAN (R323): the class and
weight each had at the last decision, deficits, the rings of the classes, since when each waits, and the source
granted last. -/
structure ChanArb where
  cls : List Nat := [0, 0, 1, 2, 3]
  weight : List Nat := [32, 16, 32, 16, 8]
  deficit : List Int := [0, 0, 0, 0, 0]
  rings : List (List Nat) := [[0, 1], [2], [3], [4]]
  since : List (Option Time) := [none, none, none, none, none]
  granted : Option Nat := none
  deriving DecidableEq, Repr

/-- Scan, moves and the stores of the media manager (chapter 13). Log 14 (DESIGN CHOICE). -/
structure MediaSt where
  flash : List (Nat × Option FlashUnit) := []
  /-- slots of the flash store that do not decode -/
  lost : List Nat := []
  /-- the media table, as MEDIA SRAM and the resident pages hold it -/
  table : List (Nat × SbEntry) := []
  /-- table pages in the 61 cache slots of the MRAM, least recently used first: slot and page (R327) -/
  resident : List (Nat × Nat) := []
  /-- locations of the table pages' snapshots: the table directory -/
  tdir : List (Nat × Nat) := []
  /-- table pages being evicted: slot, page, and location of the snapshot -/
  evict : List (Nat × Nat × Nat) := []
  /-- entries changed while their page is not resident -/
  unsaved : List Nat := []
  sbs : List OpenSb := []
  ops : List LunOp := []
  moves : List Move := []
  /-- superblocks being emptied: 1 wear move, 2 reclaim, 3 refresh or rewrite -/
  moving : List (Nat × Nat) := []
  /-- the LUN being retired -/
  retiring : Option Nat := none
  /-- superblocks to refresh or rewrite once they are closed and verified -/
  refresh : List Nat := []
  /-- gathered read-counter increments: superblock, member, count -/
  gathered : List (Nat × Nat × Nat) := []
  /-- the set from which the next superblock is taken -/
  rotate : Nat := 0
  /-- retention scan: a pass runs; pass, next index, powered seconds into the pass -/
  scanning : Bool := false
  pass : Nat := 0
  scanNext : Nat := 0
  scanSecs : Nat := 0
  /-- when the scan record, and the gathered read counts, were last written -/
  scanTime : Time := 0
  flushTime : Time := 0
  /-- the media is attached: LUNs in use, excluded at attach, and retired -/
  luns : List Nat := []
  excl : List Nat := []
  retiredDies : List Nat := []
  /-- block pairs of a LUN -/
  pairs : Nat := 0
  /-- good blocks of each half -/
  good0 : Nat := 0
  good1 : Nat := 0
  /-- the parameter record is valid -/
  param : Bool := false
  /-- the read-retry steps of the parameter record, and the step that last succeeded on a LUN (R324) -/
  retries : Nat := 0
  lastStep : List (Nat × Nat) := []
  /-- system blocks that may hold firmware copies on LUN 0 and on LUN 16 (R443) -/
  fw0 : List Nat := []
  fw16 : List Nat := []
  /-- blocks retired, as LUN × 2^16 + block -/
  retiredBlocks : List Nat := []
  /-- the channel arbiters that have decided, by channel -/
  arb : List (Nat × ChanArb) := []
  /-- the block the background erase takes next, and whether one is under way -/
  eraseNext : Nat := 0
  erasing : Bool := false
  /-- units of a rebuilt page that wait for room in the journal (R310): unit, slot key, plaintext -/
  rebuilt : List (Nat × Nat × List Byte) := []
  deriving DecidableEq, Repr

/-- An open segment (chapter 15). -/
structure Segment where
  inst : Nat
  first : Nat
  /-- next unit to fold, in the space of the instance -/
  next : Nat
  /-- SHA-256 chaining state -/
  chain : List Word
  /-- units committed out of order and waiting to be folded -/
  ahead : List Nat := []
  other : Nat := 0
  deriving DecidableEq, Repr

/-! ## Instances, queues and the host side of a dock -/

/-- What one part of a host command ended with: the unit of the command its unit 0 stands for, its units,
status, INFO, REASON, and port (2 for the dock itself). -/
structure PartEnd where
  base : Nat
  cnt : Nat
  st : Nat
  info : Nat
  port : Nat
  reason : Nat := 0
  /-- its refused units stand in the port's resync track (R454) -/
  gap : Bool := false
  deriving DecidableEq, Repr

/-- A command of a submission queue, from its fetch to its completion (chapter 09). -/
structure HCmd where
  inst : Nat
  sq : Nat
  /-- the CID in its low 16 bits; a command refused for its CID has a number above them of its own -/
  cid : Nat
  op : Nat
  portSel : Nat
  arg : Nat
  dptr0 : Nat
  dptr1 : Nat
  /-- number of the doorbell write that made it visible (R226) -/
  ord : Nat := 0
  /-- I/O addresses of its unit buffers, once the unit list is read -/
  bufs : Option (List Nat) := none
  /-- bytes of the unit list read so far -/
  listGot : List Byte := []
  /-- quanta the QOS has granted (R246) -/
  grants : Nat := 0
  /-- a memory read for it is under way -/
  reading : Bool := false
  /-- plaintext of the units read from the host so far -/
  units : List (List Byte) := []
  /-- the unit at which reading its data failed, with the status and REASON this gives -/
  fail : Option (Nat × Nat × Nat) := none
  /-- routed: its effect has begun -/
  routed : Bool := false
  /-- parts sent to cards and not yet answered -/
  parts : Nat := 0
  ends : List PartEnd := []
  /-- FLAGS of the answers, and the ports that answered, bit 0 port A -/
  flags : Nat := 0
  answered : Nat := 0
  /-- units for host memory, by index, not yet written there -/
  deliver : List (Nat × List Byte) := []
  /-- SEQs of its bridge records -/
  recs : List Nat := []
  /-- the ports its bridge records were committed for -/
  targets : Nat := 0
  /-- it is complete: status, INFO, REASON, MIRROR_GAP and CARRIED of the entry to post -/
  done : Option (Nat × Nat × Nat × Bool × Bool) := none
  deriving DecidableEq, Repr

/-- Entries one doorbell write made visible and the dock has not fetched. -/
structure Bell where
  inst : Nat
  sq : Nat
  left : Nat
  ord : Nat
  deriving DecidableEq, Repr

/-- Why the dock reads host memory (R212). -/
inductive ReadUse where
  /-- an SQ entry -/
  | sqe (inst sq : Nat)
  /-- a piece of a unit list -/
  | list (inst sq cid : Nat)
  /-- a data unit -/
  | unit (inst sq cid : Nat)
  /-- a table entry of a page, at a level -/
  | walk (inst page level : Nat)
  deriving DecidableEq, Repr

/-- A memory read request on PCIe that is not completed: its tag, its first byte within the read it serves, and its
length (R201). -/
structure HReq where
  tag : Nat
  off : Nat
  len : Nat
  deriving DecidableEq, Repr

/-- A read of host memory that is not completed: the function it is for, host address and length. -/
structure HRead where
  fn : Nat
  addr : Nat
  len : Nat
  /-- its I/O page -/
  page : Nat
  use : ReadUse
  /-- bytes asked for so far, and the requests that are outstanding -/
  asked : Nat := 0
  reqs : List HReq := []
  /-- the bytes, each in its place once it has arrived -/
  data : List Byte := []
  /-- the bytes of an SQ entry whose earlier entries have not arrived yet -/
  got : Option (List Byte) := none
  deriving DecidableEq, Repr

/-- A translation held in the TLB (chapter 10). -/
structure TlbEntry where
  inst : Nat
  page : Nat
  frame : Nat
  rd : Bool
  wr : Bool
  deriving DecidableEq, Repr

/-- The buckets and the deficit of one instance in the QOS (R245, R247): counts in millionths, so that
the 1 µs refill carries its fractions over, and whether the events of the present episode have fired. -/
structure QosInst where
  bytes : Int := 1048576000000
  ops : Int := 64000000
  deficit : Int := 0
  bytesSpent : Bool := false
  opsSpent : Bool := false
  bytesHeld : Bool := false
  opsHeld : Bool := false
  deriving DecidableEq, Repr

/-- The host side of a dock (chapters 09 and 10). -/
structure HostSt where
  /-- commands fetched and not completed, in fetch order -/
  cmds : List HCmd := []
  bells : List Bell := []
  nextOrd : Nat := 0
  reads : List HRead := []
  /-- tags of requests whose data nothing waits for any more -/
  stale : List Nat := []
  /-- SQs whose entry fetch waits for a translation: instance, queue, entries -/
  fetching : List (Nat × Nat × Nat) := []
  /-- least recently used first -/
  tlb : List TlbEntry := []
  /-- misses of the present 1 ms interval, and its number -/
  missMs : Nat := 0
  missCnt : Nat := 0
  qos : List (Nat × QosInst) := []
  /-- rings of the four classes of the QOS, or on a card of the CMD arbiter, head first -/
  rings : List (List Nat) := [[], [], List.range 16, []]
  /-- next SQ in turn of each instance -/
  sqTurn : List (Nat × Nat) := []
  /-- unsignalled completion entries of each queue, by 2 × instance + queue -/
  coal : List (Nat × Nat) := []
  /-- INST_QUIESCE commands waiting: instance, queue and CID of the command -/
  quiescing : List (Nat × Nat × Nat) := []
  /-- an ITU invalidation under way: instance, scope and page -/
  inval : Option (Nat × Nat × Nat) := none
  /-- instances to which a reclaim has been sent on the cards: instance and ports still to answer -/
  reclaims : List (Nat × Nat) := []
  /-- bytes granted above what the throttle's cap has let through so far (R436) -/
  capDebt : Nat := 0
  deriving DecidableEq, Repr

/-- A resync track (R456). Log 154 (DESIGN CHOICE). -/
structure Track where
  inUse : Bool := false
  serial : Nat := 0
  /-- set regions, numbered instance × 2^19 + region, as disjoint runs: first and end, exclusive -/
  bits : List (Nat × Nat) := []
  /-- regions copied in the present resynchronisation -/
  copied : Nat := 0
  /-- next 256-unit chunk within the region being copied -/
  chunk : Nat := 0
  /-- the region being copied -/
  region : Option Nat := none
  deriving DecidableEq, Repr

/-- The bridge logic beside its registers (chapter 18). -/
structure Bridge where
  track0 : Track := {}
  track1 : Track := {}
  /-- delivery to a port is blocked at this record: port, SEQ -/
  blocked : List (Nat × Nat) := []
  /-- bridge records sent to a port and not answered: port, SEQ -/
  sent : List (Nat × Nat) := []
  /-- a record a port's card answered BUSY_RETRY, to be sent again after 1 ms: port, SEQ -/
  busy : List (Nat × Nat) := []
  /-- such a record sent again and not answered: port, SEQ -/
  again : List (Nat × Nat) := []
  /-- ports carrying records after a removal or a switch, with the records concerned -/
  carrying : List (Nat × Nat) := []
  /-- refusals of records that are not settled: port, SEQ, status (R454) -/
  refused : List (Nat × Nat × Nat) := []
  /-- serials of the cards that hold the mirror's content or have a track for it -/
  known : List Nat := []
  /-- records of step 7 wait for their delivery to begin (R452) -/
  replayHold : Bool := false
  /-- serial of the card on port A and on port B, from IDENTIFY -/
  serials : List Nat := [0, 0]
  /-- cards of a refused route: ports not routed for want of a track (R457, R458) -/
  noRoute : List Nat := []
  /-- a chunk being copied: track, instance, first unit -/
  copying : Option (Nat × Nat × Nat) := none
  /-- bytes copied above what RESYNC_CFG.RATE has let through so far (R459) -/
  copyDebt : Nat := 0
  deriving DecidableEq, Repr

/-- Firmware slots and staging (chapter 18). -/
structure Firm where
  /-- image bytes of the two slots: the card's on flash, the dock's in MRAM -/
  slot0 : List Byte := []
  slot1 : List Byte := []
  /-- bytes staged of the inactive slot; none when no staging runs -/
  staging : Option Nat := none
  /-- the slot an activation under way loads -/
  activating : Option Nat := none
  /-- path of the activation: card command instance and tag, or the dock register -/
  activTag : Option Nat := none
  /-- copies of a slot that failed to program: slot and LUN -/
  bad : List (Nat × Nat) := []
  deriving DecidableEq, Repr

/-- The lifetime counts (R449): what the two records held at the power-on clear, and what has been counted
since. -/
structure Life where
  base1 : List Nat := []
  base2 : List Nat := []
  written : Nat := 0
  read : Nat := 0
  programmed : Nat := 0
  replays : Nat := 0
  retrains : Nat := 0
  /-- uptime of the last rewrite -/
  last : Time := 0
  deriving DecidableEq, Repr

/-! ## What the part sends -/

/-- One thing the part sends to the outside. Log 1 (DESIGN CHOICE). -/
inductive Out where
  /-- Spantoen card to dock: response frame with its fields, RSEQ and RMAC, and a card status frame -/
  | resp (tag st info flags kind token rseq rmac : Nat)
  /-- a unit of a command, by tag and index, with the flags of its header when a card sends it: ciphertext and GCM
  tag, and the plaintext they stand for -/
  | unit (port tag index flags : Nat) (plain ct gcmTag : List Byte)
  /-- a status frame after a unit: all lines passed, or the lines that failed -/
  | status (port : Nat) (good : Bool) (token : Nat)
  /-- dock: a command frame -/
  | cmd (port op inst tag arg epoch mac : Nat)
  /-- the tuning frames of SDAT_0 to SDAT_7 -/
  | tuneFrame (port : Nat) (frames : List Nat)
  /-- a Counlet frame, from the card or from the dock -/
  | counlet (port : Nat) (bytes : List Byte)
  /-- the answer to reset -/
  | atr (bytes : List Byte)
  /-- bytes read over I²C -/
  | i2c (bytes : List Byte)
  /-- the acknowledges of the I²C target, of its address and of each byte written -/
  | i2cAck (acks : List Bool)
  /-- bits shifted out of the JTAG port -/
  | tdo (bits : List Bool)
  /-- what a read of `bytes` bytes at an offset of a path returns -/
  | readData (path : Path) (off bytes value : Nat)
  /-- Configuration Request Retry Status for a request of a function's configuration space -/
  | cfgRetry (fn : Nat)
  /-- an MSI-X message of a function -/
  | msix (fn vector : Nat)
  /-- a completion entry posted to host memory: instance, queue, slot, host address and its four dwords -/
  | cqe (inst cq slot addr : Nat) (dw : List Nat)
  /-- a memory read request to the host: the function whose requester ID it carries, and its tag -/
  | memRead (fn tag addr len : Nat)
  /-- a memory write request to the host, with the requester ID of a function -/
  | memWrite (fn addr : Nat) (bytes : List Byte)
  /-- CRST_N of a dock port driven low or released -/
  | crst (port : Nat) (high : Bool)
  /-- SCMD of a dock port held low for a link reset -/
  | linkResetPulse (port : Nat)
  /-- SCLK of a dock port stopped or restarted -/
  | sclk (port : Nat) (run : Bool)
  /-- an AER message or an Unsuccessful completion on PCIe -/
  | pcieError (code : Nat)
  deriving DecidableEq, Repr

/-! ## The whole machine -/

/-- One TD-1680. -/
structure State where
  /-- the latched role (R8) -/
  role : Role := .card
  pins : Pins := {}
  /-- microseconds since the power-on clear (R84) -/
  uptime : Time := 0
  /-- every register of the window (R87), unlisted at its reset value -/
  regs : List (Nat × Word) := []
  /-- high words latched by reading a low word (R90), by the offset of the high word -/
  hiLatch : List (Nat × Word) := []
  /-- the pages whose INJ_ARM is armed (R100) -/
  injArmed : List Nat := []
  boot : Boot := {}
  /-- events that fired and are not delivered: before step 11, or while their mask hides them -/
  held : List HeldEvent := []
  /-- a record was dropped since the ring last had room (R106) -/
  ringDrop : Bool := false
  /-- MSI-X structures and configuration registers of the functions (R201, R205, R207), by 64 × function + index,
  unlisted at the reset value -/
  fnRegs : List (Nat × Nat) := []
  flt : Flt := {}
  tamper : Tamper := {}
  ths : Ths := {}
  cnA : Counlet := {}
  cnB : Counlet := {}
  spA : Port := {}
  spB : Port := {}
  keys : Keys := {}
  /-- the fuse array and its shadow, by word (R342) -/
  otp : List (Nat × Nat) := []
  shadow : List (Nat × Nat) := []
  /-- the landing store's bytes (R259), unlisted 0 -/
  mram : List Host.Cell := []
  /-- ECC state of its 64-bit words: 0 clean, 1 correctable, 2 uncorrectable since a pull (R25), 3 poisoned,
  4 uncorrectable otherwise (R261) -/
  ecc : List (Nat × Nat) := []
  /-- the landing store's requests that wait or pulse (R22) -/
  mq : MramQueue := {}
  lnd : Landing := {}
  mapS : MapSt := {}
  tree : TreeSt := {}
  media : MediaSt := {}
  segs : List Segment := []
  host : HostSt := {}
  brg : Bridge := {}
  firm : Firm := {}
  life : Life := {}
  /-- what the summary line of the Card Parameter String holds of health and firmware version (R121); a record in MRAM -/
  summary : Nat × Nat := (0, 0)
  /-- the model's own: draws taken from the free values -/
  freeCtr : Nat := 0
  /-- everything sent to the outside, oldest first -/
  out : List Out := []
  /-- the commands waiting, the next one first -/
  pending : List Instr := []
  deriving DecidableEq, Repr

/-- The machine with its power-on clear in force (R48, R61): step 0, nothing latched, nothing listed.
Log 4 (DEDUCED), 10 (DESIGN CHOICE). -/
def State.reset : State := {}

/-- What would stop the machine.  No command of the TD-1680 stops it: a fault of the part is the
command's effect on the state. -/
inductive Fault where
  /-- Raised by no command; safe. -/
  | none
  deriving DecidableEq, Repr

/-- What the model turns away by name. -/
inductive Refusal where
  /-- Raised by an arm of `exec` whose command has no meaning in the model; safe. -/
  | notModelled (mnemonic : String)
  deriving DecidableEq, Repr

end Sys2Proof.Machine
end

