-- ==== Sys2Proof/Machine/Ops.lean ====
section
/-! DEFINITION. The named reads and writes of the state: registers and their fields, the parts that
come twice (ports, Counlet engines), the free values, what is sent out, and the predicates that many
meanings ask (ready, safe state, fences). -/

namespace Sys2Proof.Machine

/-! ## Registers and fields -/

/-- The word a register holds. -/
def State.reg (s : State) (off : Nat) : Word := Sparse.get regReset s.regs off

/-- Put a word into a register. -/
def State.setReg (s : State) (off : Nat) (v : Word) : State :=
  { s with regs := Sparse.set regReset s.regs off v }

/-- `w` ones from bit `lo` up. -/
def fieldMask (lo w : Nat) : Word := BitVec.ofNat 32 (2 ^ w - 1) <<< lo

/-- The word `x` with its bits `[lo + w - 1 : lo]` replaced by the low bits of `v`. -/
def insBits (x : Word) (lo w v : Nat) : Word :=
  (x &&& ~~~(fieldMask lo w)) ||| ((BitVec.ofNat 32 v <<< lo) &&& fieldMask lo w)

/-- The value of a field. -/
def State.fld (s : State) (f : Fld) : Nat := bitsOf (s.reg f.off).toNat f.lo f.w

/-- Microseconds since a time; UPTIME counts modulo 2^40. -/
def State.since (s : State) (t : Time) : Nat := (s.uptime - t).toNat

/-- Whether a one-bit field is set. -/
def State.flag (s : State) (f : Fld) : Bool := s.fld f != 0

/-- Put a value into a field, leaving the rest of its register. -/
def State.setFld (s : State) (f : Fld) (v : Nat) : State :=
  s.setReg f.off (insBits (s.reg f.off) f.lo f.w v)

/-- Put a Boolean into a one-bit field. -/
def State.setFlag (s : State) (f : Fld) (b : Bool) : State := s.setFld f b.toNat

/-- Count a saturating counter up by one. -/
def State.bump (s : State) (f : Fld) : State := s.setFld f (satInc f.w (s.fld f))

/-- Count a saturating counter up by `k`. -/
def State.bumpBy (s : State) (f : Fld) (k : Nat) : State := s.setFld f (satAdd f.w (s.fld f) k)

/-- Raise a field to `v` if it is lower. -/
def State.raiseTo (s : State) (f : Fld) (v : Nat) : State :=
  if s.fld f < v then s.setFld f v else s

/-- Bit `k` of a register as a field. -/
abbrev bitFld (off k : Nat) : Fld := ⟨off, k, 1⟩

/-! ## Ports and engines -/

/-- Spantoen port 0 (A) or 1 (B). -/
def State.sp (s : State) (p : Nat) : Port := if p = 0 then s.spA else s.spB

/-- Replace a Spantoen port. -/
def State.setSp (s : State) (p : Nat) (x : Port) : State :=
  if p = 0 then { s with spA := x } else { s with spB := x }

/-- Counlet engine 0 (A) or 1 (B). -/
def State.cn (s : State) (p : Nat) : Counlet := if p = 0 then s.cnA else s.cnB

/-- Replace a Counlet engine. -/
def State.setCn (s : State) (p : Nat) (x : Counlet) : State :=
  if p = 0 then { s with cnA := x } else { s with cnB := x }

/-- A port number of the role: port A in both, port B on a dock. -/
def State.isPort (s : State) (p : Nat) : Bool :=
  match s.role with
  | .card => p == 0
  | .dock => p < 2

def State.isCard (s : State) : Bool := s.role == .card

def State.isDock (s : State) : Bool := s.role == .dock

/-- A write to a page other than to INJ_CTRL disarms it (R100). -/
def State.touchPage (s : State) (p : Nat) : State := { s with injArmed := s.injArmed.filter (· != p) }

/-! ## Outputs and free values -/

/-- Send something to the outside; the requests to the landing store made before it are served by then.
Log 1 (DESIGN CHOICE), 6 (DESIGN CHOICE). -/
def State.emit (s : State) (o : Out) : State := { s with out := s.out ++ [o], mq := {} }

/-- The requests to the landing store made so far are served: what depends on them may go on. Log 6 (DESIGN CHOICE). -/
def State.mramSync (s : State) : State := { s with mq := {} }

/-- What follows is asked of the landing store only once the requests made so far are served. -/
def State.mramFence (s : State) : State := { s with mq := { s.mq with round := s.mq.round + 1 } }

/-- Use up one draw of the free values. -/
def State.spend (s : State) : State := { s with freeCtr := s.freeCtr + 1 }

/-- The `n` bytes the random source gives at this draw. Log 15 (DESIGN CHOICE). -/
def State.rand (s : State) (n : Nat) : List Byte := Config.randBytes s.freeCtr n

/-! ## Where the part stands -/

/-- The bring-up step (R61). -/
def State.bootStep (s : State) : Nat := s.fld SYS_BRINGUP_STEP

/-- A reset of the chip rather than of one engine, and its place in the order of R73. -/
def ResetKind.chip (k : ResetKind) : Bool :=
  match k with
  | .rstN | .chipSw | .mpWdog => true
  | _ => false

def ResetKind.scope (k : ResetKind) : Nat :=
  match k with
  | .rstN | .chipSw => 3
  | .mpWdog => 2
  | _ => 1

/-- A chip-wide reset waits for a pulse or a burn to end: nothing new starts (R72). Log 7 (DESIGN CHOICE). -/
def State.chipWaits (s : State) : Bool := s.boot.waiting.any ResetKind.chip

/-- Bring-up has reached step 11 (READY or READY_LOCKED), and no reset of the chip waits. -/
def State.up (s : State) : Bool := s.bootStep == 11 && !s.chipWaits

/-- Step 11 was reached as READY. -/
def State.ready (s : State) : Bool := s.up && !s.flag SYS_BRINGUP_READY_LOCKED

/-- Step 11 was reached as READY_LOCKED. -/
def State.readyLocked (s : State) : Bool := s.up && s.flag SYS_BRINGUP_READY_LOCKED

/-- The safe state is in force (R415). -/
def State.safe (s : State) : Bool := s.flag FLT_SAFE_STAT_SAFE

/-- A fence unit is fenced by a fault (R407). -/
def State.faultHolds (s : State) (u : FenceUnit) : Bool := s.flt.holds.any (fun h => h.unit == u)

/-- A fence unit is fenced by software: by FENCE_REQ of the page of its block (R96). -/
def State.softHeld (s : State) (u : FenceUnit) : Bool :=
  match u with
  | .port p 2 => s.flag (PG_CTRL_FENCE_REQ (pCN p))
  | .port p _ => s.flag (PG_CTRL_FENCE_REQ (pSP p)) || s.flag (PG_CTRL_FENCE_REQ (pLSE p))
  | .inst n => s.flag (PG_CTRL_FENCE_REQ (pINS n))
  | .channel n => s.flag (PG_CTRL_FENCE_REQ (pFCH n))
  | .engine p _ => s.flag (PG_CTRL_FENCE_REQ p)
  | _ => false

/-- A fence unit is fenced, by a fault or by software (R96, R407). -/
def State.fenced (s : State) (u : FenceUnit) : Bool := s.faultHolds u || s.softHeld u

/-- Island `i` is behind a DISCONNECTED bridge or in its own reset: its pages do not answer (R97). -/
def State.islandDown (s : State) (i : Nat) : Bool := bitAt (s.fld CLK_BRIDGE_DISC_ISLANDS) i

/-- The LUN, its CE or its channel is fenced (R407). -/
def State.lunFenced (s : State) (l : Nat) : Bool :=
  s.fenced (.die l) || s.fenced (.ce (l / 8)) || s.fenced (.channel (l / 16)) ||
  s.fenced (.island (13 + l / 16))

/-- A port's Spantoen link or its LSE part is fenced. -/
def State.portFenced (s : State) (p : Nat) : Bool :=
  s.fenced (.port p 0) || s.fenced (.port p 1) || s.fenced (.island (islHOSTA + p)) ||
  s.fenced (.island islLSE)

/-- A fault fence holds the block behind a page, its island, its channel, port or instance. -/
def State.pageFaultFenced (s : State) (p : Nat) : Bool :=
  s.faultHolds (.engine p 0) || s.faultHolds (.island (pageIsland s.role p)) ||
  (p == pSP 0 && s.faultHolds (.port 0 0)) || (p == pSP 1 && s.faultHolds (.port 1 0)) ||
  (p == pLSE 0 && s.faultHolds (.port 0 1)) || (p == pLSE 1 && s.faultHolds (.port 1 1)) ||
  (p == pCN 0 && s.faultHolds (.port 0 2)) || (p == pCN 1 && s.faultHolds (.port 1 2)) ||
  (0x18 ≤ p && p ≤ 0x1F && s.faultHolds (.channel (p - 0x18))) ||
  (0x40 ≤ p && p ≤ 0x4F && s.faultHolds (.inst (p - 0x40)))

/-- The block behind a page is fenced, by a fault or by FENCE_REQ (R96). -/
def State.pageFenced (s : State) (p : Nat) : Bool :=
  s.flag (PG_CTRL_FENCE_REQ p) || s.pageFaultFenced p

/-- The block behind a page has been asked to quiesce, or taken out of service (R96). -/
def State.quiesceAsked (s : State) (p : Nat) : Bool :=
  s.flag (PG_CTRL_QUIESCE_REQ p) || !s.flag (PG_CTRL_ENABLE p)

/-- Quiesce requested and reached, or block fenced (R93). -/
def State.pageQuiesced (s : State) (p : Nat) : Bool :=
  s.flag (PG_STAT_QUIESCED p) || s.pageFenced p

/-- The block behind a page takes new work. -/
def State.pageServes (s : State) (p : Nat) : Bool :=
  pagePresent s.role p && !s.pageFenced p && !s.quiesceAsked p &&
  !s.islandDown (pageIsland s.role p) && !s.flag (PG_STAT_RST_BUSY p)

/-- The part's power state (R428): 0 RUN, 1 STOPPED, 2 ENTERING, 3 DOZE, 4 WAKING. -/
def State.powerState (s : State) : Nat := s.fld PWR_STAT_STATE

/-- The islands on the PLL take work: the part is not entering or in DOZE, and the lock is not lost (R427, R430). -/
def State.coreRuns (s : State) : Bool := s.powerState < 2 && !s.flag CLK_PLL_STAT_RELOCKING

/-- The part runs: power is up, no clear or reset holds it. -/
def State.alive (s : State) : Bool := 1 ≤ s.bootStep && !s.boot.poc && !s.boot.rstLow && !s.chipWaits

/-! ## The landing store's bytes -/

/-- What an unlisted byte of the MRAM reads as. Log 11 (DESIGN CHOICE). -/
def mramBlank (_ : Nat) : Byte := 0

/-- The canonical form of the landing store's list. -/
def Memory.wf (m : List Host.Cell) : Bool := Sparse.wf mramBlank m

/-- One byte of the MRAM. Log 11 (DESIGN CHOICE). -/
def State.mramByte (s : State) (a : Nat) : Byte := Sparse.get mramBlank s.mram a

/-- `n` bytes of the MRAM from `a`. -/
def State.mramBytes (s : State) (a n : Nat) : List Byte :=
  (List.range n).map (fun i => s.mramByte (a + i))

/-- The 64-bit word at `a`, its first byte highest. Log 23 (DEDUCED). -/
def State.mramWord (s : State) (a : Nat) : Nat := natBE (s.mramBytes a 8)

/-- Unlisted words are clean. Log 11 (DESIGN CHOICE). -/
def eccClean (_ : Nat) : Nat := 0

/-- The ECC state of word `w`, MRAM address `[24:3]` (R261). -/
def State.eccOf (s : State) (w : Nat) : Nat := Sparse.get eccClean s.ecc w

/-- A word that reads uncorrectable: uncorrectable or poisoned. -/
def State.wordBad (s : State) (w : Nat) : Bool := 2 ≤ s.eccOf w

/-- Some word of the `n` bytes from `a` reads uncorrectable. -/
def State.bytesBad (s : State) (a n : Nat) : Bool :=
  (List.range ((a + n + 7) / 8 - a / 8)).any (fun i => s.wordBad (a / 8 + i))

/-! ## Lists -/

/-- Change every element that `p` picks. -/
def mapIf {α : Type} (p : α → Bool) (f : α → α) (l : List α) : List α :=
  l.map (fun x => if p x then f x else x)

/-- The bits `0 … n − 1` that hold. -/
def bitsOfList (n : Nat) (f : Nat → Bool) : Nat :=
  (List.range n).foldl (fun a i => if f i then a + 2 ^ i else a) 0

/-- The first `n` that `p` picks below a bound. -/
def firstBelow (n : Nat) (p : Nat → Bool) : Option Nat := (List.range n).find? p

end Sys2Proof.Machine
end

