-- ==== Sys2Proof/Machine/Events.lean ====
section
/-! DEFINITION. Events (chapter 05): the catalogue of R102 by name, how an event fires, the event ring
(R104–R106), the role's delivery (R107–R109), and the hold-back before bring-up step 11 (R103). -/

namespace Sys2Proof.Machine

/-- An event source: its page and its bit in the page's header. -/
abbrev Ev := Nat × Nat

abbrev EV_SYS_READY : Ev := (pSYS, 0)
abbrev EV_SYS_READY_LOCKED : Ev := (pSYS, 1)
abbrev EV_SYS_BRINGUP_RESTART : Ev := (pSYS, 2)
abbrev EV_SYS_ERASE_COMPLETED : Ev := (pSYS, 3)
abbrev EV_SYS_REPLAY_DONE : Ev := (pSYS, 4)
abbrev EV_SYS_GPIO_EDGE : Ev := (pSYS, 5)
abbrev EV_SYS_UPTIME_WRAP : Ev := (pSYS, 6)
abbrev EV_SYS_STRAP_MISMATCH : Ev := (pSYS, 7)
abbrev EV_RST_MP_WDOG : Ev := (pRST, 0)
abbrev EV_RST_BLK_DONE : Ev := (pRST, 1)
abbrev EV_RST_BLK_REFUSED : Ev := (pRST, 2)
abbrev EV_RST_LINK_A : Ev := (pRST, 3)
abbrev EV_RST_LINK_B : Ev := (pRST, 4)
abbrev EV_RST_PERST : Ev := (pRST, 5)
abbrev EV_CLK_PLL_LOCKED : Ev := (pCLK, 0)
abbrev EV_CLK_PLL_LOST : Ev := (pCLK, 1)
abbrev EV_CLK_REF_DRIFT : Ev := (pCLK, 2)
abbrev EV_CLK_AON_OSC_DRIFT : Ev := (pCLK, 3)
abbrev EV_CLK_FLT_OSC_DRIFT : Ev := (pCLK, 4)
abbrev EV_CLK_BRIDGE_DISC : Ev := (pCLK, 5)
abbrev EV_CLK_BRIDGE_RECONN : Ev := (pCLK, 6)
/-- Log 9 (DESIGN CHOICE). -/
abbrev EV_CLK_BRIDGE_SLOW : Ev := (pCLK, 7)
abbrev EV_CLK_ISLAND_GATED : Ev := (pCLK, 8)
abbrev EV_CLK_ISLAND_UNGATED : Ev := (pCLK, 9)
abbrev EV_CLK_ISLAND_RST_START : Ev := (pCLK, 10)
abbrev EV_CLK_ISLAND_RST_DONE : Ev := (pCLK, 11)
abbrev EV_CLK_DIV_CHANGE : Ev := (pCLK, 12)
abbrev EV_CLK_ALL_STOPPED : Ev := (pCLK, 13)
abbrev EV_PWR_DOZE_ENTER : Ev := (pPWR, 0)
abbrev EV_PWR_DOZE_EXIT : Ev := (pPWR, 1)
abbrev EV_PWR_DOZE_REFUSED : Ev := (pPWR, 2)
abbrev EV_PWR_CLKSTOP_ALL : Ev := (pPWR, 3)
abbrev EV_EVT_RING_HIGH : Ev := (pEVT, 0)
abbrev EV_EVT_RING_OVERFLOW : Ev := (pEVT, 1)
abbrev EV_FLT_FAULT_RAISED : Ev := (pFLT, 0)
abbrev EV_FLT_FAULT_CLEARED : Ev := (pFLT, 1)
abbrev EV_FLT_LULL_RECOVERED : Ev := (pFLT, 2)
abbrev EV_FLT_LULL_LATCHED : Ev := (pFLT, 3)
abbrev EV_FLT_MERGED : Ev := (pFLT, 4)
abbrev EV_FLT_CLEAR_REFUSED : Ev := (pFLT, 5)
abbrev EV_FLT_HISTORY_WRAP : Ev := (pFLT, 6)
abbrev EV_FLT_INJECT_DONE : Ev := (pFLT, 7)
abbrev EV_TMP_ALARM : Ev := (pTMP, 0)
abbrev EV_TMP_LOOP_OPEN : Ev := (pTMP, 1)
abbrev EV_TMP_LOOP_CODE : Ev := (pTMP, 2)
abbrev EV_TMP_SWITCH_OPEN : Ev := (pTMP, 3)
abbrev EV_TMP_CLEARED : Ev := (pTMP, 4)
abbrev EV_TMP_ZEROIZED : Ev := (pTMP, 5)
abbrev EV_KEY_PAIR_DUPLICATE : Ev := (pKEY, 0)
abbrev EV_KEY_PAIR_FAIL : Ev := (pKEY, 1)
abbrev EV_KEY_PAIR_ADDED : Ev := (pKEY, 2)
abbrev EV_KEY_PAIR_DROPPED : Ev := (pKEY, 3)
abbrev EV_KEY_RECORD_FALLBACK : Ev := (pKEY, 4)
/-- Log 52 (DEDUCED). -/
abbrev EV_KEY_OP_ABORTED : Ev := (pKEY, 5)
abbrev EV_KEY_LADDER_DONE : Ev := (pKEY, 6)
abbrev EV_KEY_OTP_BURN_DONE : Ev := (pKEY, 7)
abbrev EV_LCK_LOCK_SET : Ev := (pLCK, 0)
abbrev EV_LCK_UNLOCKED : Ev := (pLCK, 1)
abbrev EV_LCK_ATTEMPT_FAIL : Ev := (pLCK, 2)
abbrev EV_LCK_ATTEMPTS_SPENT : Ev := (pLCK, 3)
abbrev EV_LCK_ERASE_ARMED : Ev := (pLCK, 4)
abbrev EV_LCK_ERASE_DONE : Ev := (pLCK, 5)
abbrev EV_LSE_AUTH_FAIL (n : Nat) : Ev := (pLSE n, 0)
abbrev EV_LSE_REPLAY_REJECTED (n : Nat) : Ev := (pLSE n, 1)
abbrev EV_LSE_EPOCH_UNHELD (n : Nat) : Ev := (pLSE n, 2)
abbrev EV_LSE_REKEY_START (n : Nat) : Ev := (pLSE n, 3)
abbrev EV_LSE_REKEY_DONE (n : Nat) : Ev := (pLSE n, 4)
abbrev EV_LSE_REKEY_DUE (n : Nat) : Ev := (pLSE n, 5)
abbrev EV_LSE_SESSION_UP (n : Nat) : Ev := (pLSE n, 6)
abbrev EV_LSE_SESSION_DOWN (n : Nat) : Ev := (pLSE n, 7)
abbrev EV_SP_CARD_IN (n : Nat) : Ev := (pSP n, 0)
abbrev EV_SP_CARD_REMOVED (n : Nat) : Ev := (pSP n, 1)
abbrev EV_SP_RESP_TIMEOUT (n : Nat) : Ev := (pSP n, 2)
abbrev EV_SP_LINE_FAIL (n : Nat) : Ev := (pSP n, 3)
abbrev EV_SP_UNIT_RESENT (n : Nat) : Ev := (pSP n, 4)
abbrev EV_SP_RETRY_EXHAUSTED (n : Nat) : Ev := (pSP n, 5)
abbrev EV_SP_RETRAIN_DONE (n : Nat) : Ev := (pSP n, 6)
abbrev EV_SP_TUNE_DONE (n : Nat) : Ev := (pSP n, 7)
abbrev EV_SP_RETUNE_ADV (n : Nat) : Ev := (pSP n, 8)
abbrev EV_SP_SPEED_CHANGE (n : Nat) : Ev := (pSP n, 9)
abbrev EV_SP_CLK_STOPPED (n : Nat) : Ev := (pSP n, 10)
abbrev EV_SP_FRAME_CRC (n : Nat) : Ev := (pSP n, 11)
abbrev EV_CN_ATR_DONE (n : Nat) : Ev := (pCN n, 0)
abbrev EV_CN_CHAR_REPEAT (n : Nat) : Ev := (pCN n, 1)
abbrev EV_CN_CHANNEL_ERROR (n : Nat) : Ev := (pCN n, 2)
abbrev EV_CN_FRAME_ERROR (n : Nat) : Ev := (pCN n, 3)
abbrev EV_CN_PPS_DONE (n : Nat) : Ev := (pCN n, 4)
abbrev EV_CN_CRST (n : Nat) : Ev := (pCN n, 5)
abbrev EV_CMD_DEDUP : Ev := (pCMD, 0)
abbrev EV_CMD_OUT_OF_RANGE : Ev := (pCMD, 1)
abbrev EV_CMD_NOT_PERMITTED : Ev := (pCMD, 2)
abbrev EV_CMD_LOCK_REJECT : Ev := (pCMD, 3)
abbrev EV_CMD_BARRIER_DONE : Ev := (pCMD, 4)
abbrev EV_CMD_INST_QUIESCED : Ev := (pCMD, 5)
abbrev EV_CMD_INST_CFG_DONE : Ev := (pCMD, 6)
abbrev EV_CMD_INST_RECLAIMED : Ev := (pCMD, 7)
abbrev EV_CMD_BACKPRESSURE : Ev := (pCMD, 8)
abbrev EV_CMD_PRIO_CHANGE : Ev := (pCMD, 9)
abbrev EV_LND_CORRECTED : Ev := (pLND, 0)
abbrev EV_LND_UNCORRECTABLE : Ev := (pLND, 1)
abbrev EV_LND_POISON_SET : Ev := (pLND, 2)
abbrev EV_LND_POISON_CLEARED : Ev := (pLND, 3)
abbrev EV_LND_JOURNAL_HIGH : Ev := (pLND, 4)
abbrev EV_LND_JOURNAL_FULL : Ev := (pLND, 5)
abbrev EV_LND_JOURNAL_RESUME : Ev := (pLND, 6)
abbrev EV_LND_READBACK_FAIL : Ev := (pLND, 7)
abbrev EV_LND_LAP_WRAP : Ev := (pLND, 8)
abbrev EV_LND_WEAR_HIGH : Ev := (pLND, 9)
abbrev EV_MAP_WRITEBACK_DONE : Ev := (pMAP, 0)
abbrev EV_MAP_DELTA_HIGH : Ev := (pMAP, 1)
abbrev EV_MAP_DELTA_FULL : Ev := (pMAP, 2)
abbrev EV_MAP_CACHE_THRASH : Ev := (pMAP, 3)
abbrev EV_MAP_DISCARD_DONE : Ev := (pMAP, 4)
abbrev EV_MAP_RECLAIM_DONE : Ev := (pMAP, 5)
abbrev EV_MAP_PAGE_READ_FAIL : Ev := (pMAP, 6)
abbrev EV_MAP_CAPACITY_LOW : Ev := (pMAP, 7)
abbrev EV_TRE_ROOT_COMMIT : Ev := (pTRE, 0)
abbrev EV_TRE_ROOT_FAIL : Ev := (pTRE, 1)
abbrev EV_TRE_NODE_TAG_FAIL : Ev := (pTRE, 2)
abbrev EV_TRE_REPLAY_DETECT : Ev := (pTRE, 3)
abbrev EV_TRE_COUNTER_HIGH : Ev := (pTRE, 4)
abbrev EV_TRE_DELTA_HIGH : Ev := (pTRE, 5)
abbrev EV_TRE_CACHE_THRASH : Ev := (pTRE, 6)
abbrev EV_TRE_TREE_RESET : Ev := (pTRE, 7)
abbrev EV_CRY_KEYID_MISMATCH : Ev := (pCRY, 0)
abbrev EV_CRY_MEDIA_TAG_FAIL : Ev := (pCRY, 1)
abbrev EV_CRY_LANE_STALL : Ev := (pCRY, 2)
abbrev EV_CRY_ZEROIZED : Ev := (pCRY, 3)
abbrev EV_SEG_OPENED : Ev := (pSEG, 0)
abbrev EV_SEG_CLOSED : Ev := (pSEG, 1)
abbrev EV_SEG_VERIFY_FAIL : Ev := (pSEG, 2)
abbrev EV_SEG_COUNTER_HIGH : Ev := (pSEG, 3)
abbrev EV_MED_WEAR_MOVE_START : Ev := (pMED, 0)
abbrev EV_MED_WEAR_MOVE_DONE : Ev := (pMED, 1)
abbrev EV_MED_READ_REFRESH : Ev := (pMED, 2)
abbrev EV_MED_ERR_REWRITE : Ev := (pMED, 3)
abbrev EV_MED_SCAN_START : Ev := (pMED, 4)
abbrev EV_MED_SCAN_DONE : Ev := (pMED, 5)
abbrev EV_MED_BLOCK_RETIRED : Ev := (pMED, 6)
abbrev EV_MED_DIE_RETIRED : Ev := (pMED, 7)
abbrev EV_MED_SPARE_LOW : Ev := (pMED, 8)
abbrev EV_MED_SPARE_OUT : Ev := (pMED, 9)
abbrev EV_MED_SB_CLOSED : Ev := (pMED, 10)
abbrev EV_MED_RECLAIM_PRESSURE : Ev := (pMED, 11)
abbrev EV_PAR_VERIFY_PASS : Ev := (pPAR, 0)
abbrev EV_PAR_VERIFY_FAIL : Ev := (pPAR, 1)
abbrev EV_PAR_RELEASED : Ev := (pPAR, 2)
abbrev EV_PAR_REBUILD_DONE : Ev := (pPAR, 3)
abbrev EV_PAR_SPACE_LOW : Ev := (pPAR, 4)
abbrev EV_PAR_SPACE_FULL : Ev := (pPAR, 5)
abbrev EV_THS_RETUNE_DELTA : Ev := (pTHS, 0)
abbrev EV_THS_THROTTLE_ON : Ev := (pTHS, 1)
abbrev EV_THS_THROTTLE_OFF : Ev := (pTHS, 2)
abbrev EV_THS_OVER_LIMIT : Ev := (pTHS, 3)
abbrev EV_FCH_READ_RETRY (n : Nat) : Ev := (pFCH n, 0)
abbrev EV_FCH_SOFT_DECODE (n : Nat) : Ev := (pFCH n, 1)
abbrev EV_FCH_PROGRAM_FAIL (n : Nat) : Ev := (pFCH n, 2)
abbrev EV_FCH_ERASE_FAIL (n : Nat) : Ev := (pFCH n, 3)
abbrev EV_FCH_DIE_FENCED (n : Nat) : Ev := (pFCH n, 4)
abbrev EV_FCH_BUS_SEIZED (n : Nat) : Ev := (pFCH n, 5)
abbrev EV_PCE_LINK_UP : Ev := (pPCE, 0)
abbrev EV_PCE_LINK_DOWN : Ev := (pPCE, 1)
abbrev EV_PCE_LINK_DEGRADED : Ev := (pPCE, 2)
abbrev EV_PCE_FLR : Ev := (pPCE, 3)
abbrev EV_PCE_VF_ENABLE : Ev := (pPCE, 4)
/-- Log 9 (DESIGN CHOICE). -/
abbrev EV_PCE_AER_CORR : Ev := (pPCE, 5)
abbrev EV_PCE_AER_UNCORR : Ev := (pPCE, 6)
abbrev EV_PCE_DOORBELL_ERR : Ev := (pPCE, 7)
abbrev EV_ITU_XLAT_FAULT : Ev := (pITU, 0)
abbrev EV_ITU_PERM_FAULT : Ev := (pITU, 1)
abbrev EV_ITU_TABLE_ERR : Ev := (pITU, 2)
abbrev EV_ITU_TLB_INVAL_DONE : Ev := (pITU, 3)
abbrev EV_ITU_ADDR_WIDTH : Ev := (pITU, 4)
abbrev EV_ITU_TLB_THRASH : Ev := (pITU, 5)
abbrev EV_QOS_BYTES_LIMITED : Ev := (pQOS, 0)
abbrev EV_QOS_OPS_LIMITED : Ev := (pQOS, 1)
abbrev EV_QOS_GUST_SPENT : Ev := (pQOS, 2)
abbrev EV_QOS_WEIGHT_CHANGE : Ev := (pQOS, 3)
abbrev EV_BRG_MODE_CHANGE : Ev := (pBRG, 0)
abbrev EV_BRG_JOURNAL_HIGH : Ev := (pBRG, 1)
abbrev EV_BRG_JOURNAL_FULL : Ev := (pBRG, 2)
abbrev EV_BRG_CARRY_START : Ev := (pBRG, 3)
abbrev EV_BRG_CARRY_DONE : Ev := (pBRG, 4)
abbrev EV_BRG_RESYNC_DONE : Ev := (pBRG, 5)
abbrev EV_MPC_LEASE_EXPIRED : Ev := (pMPC, 0)
abbrev EV_MPC_TAKEOVER : Ev := (pMPC, 1)
abbrev EV_MPC_STANDBY_READY : Ev := (pMPC, 2)
abbrev EV_MPC_STANDBY_LOST : Ev := (pMPC, 3)
abbrev EV_INS_SUMMARY (n : Nat) : Ev := (pINS n, 0)

/-- The vector EVT.VEC_SEL selects for a page (R110). -/
def State.pageVector (s : State) (p : Nat) : Nat := s.fld ⟨(rEVT_VEC_SEL (p / 8)).off, 4 * (p % 8), 3⟩

/-! ## MSI-X and configuration registers of a function (R201, R205, R207): dword `4 v + k` of the MSI-X table at index
`4 v + k`, the Pending Bit Array at 32, Message Control at 33, Device Control at 35, Device Control 2 at
36, Power Management Control/Status at 37, AER Capabilities and Control at 38, and the AER header log at 40 to 43 -/

/-- The value an entry has when it is not listed: every vector is masked, and reads are of at most 512 bytes.
Log 142 (PRESUMED). -/
def fnRegReset (k : Nat) : Nat :=
  if k % 64 < 32 ∧ k % 4 = 3 then 1 else if k % 64 = 35 then 0x2000 else 0

/-- An entry of a function's MSI-X structures. -/
def State.fnReg (s : State) (fn i : Nat) : Nat := Sparse.get fnRegReset s.fnRegs (64 * fn + i)

/-- Put a value into an entry of a function's MSI-X structures. -/
def State.setFnReg (s : State) (fn i v : Nat) : State :=
  { s with fnRegs := Sparse.set fnRegReset s.fnRegs (64 * fn + i) v }

/-- A function that is not in D3hot; one in D3hot takes no memory request and makes none (R201). Log 160 (DESIGN CHOICE). -/
def State.fnAwake (s : State) (fn : Nat) : Bool := s.fnReg fn 37 % 4 != 3

/-- MSI-X Enable of a function. -/
def State.msixOn (s : State) (fn : Nat) : Bool := bitAt (s.fnReg fn 33) 15

/-- A vector of a function that has MSI-X enabled is masked: by Function Mask or by its own mask bit. -/
def State.msixMasked (s : State) (fn v : Nat) : Bool :=
  bitAt (s.fnReg fn 33) 14 || bitAt (s.fnReg fn (4 * (v % 8) + 3)) 0

/-- A function signals on a vector: the message goes out, or its pending bit is set while the vector is masked; a
function without MSI-X Enable sends nothing (R107, R207). Log 142 (PRESUMED). -/
def State.signal (s : State) (fn v : Nat) : State :=
  if !s.msixOn fn then s
  else if s.msixMasked fn v then s.setFnReg fn 32 (s.fnReg fn 32 ||| 2 ^ (v % 8))
  else s.emit (.msix fn (v % 8))

/-- Set EVT_PEND of an event; on a dock a rise sends the PF its message (R98, R107). -/
def State.raisePend (s : State) (e : Ev) : State :=
  let f := bitFld (rEVT_PEND e.1).off e.2
  let t := s.setFlag f true
  if !s.flag f && s.isDock && s.flag EVT_DELIVER_CFG_MSIX_EN then t.signal 0 (s.pageVector e.1)
  else t

/-- Word 0 of a ring record (R104). -/
def recordWord0 (id : Nat) (inst : Option Nat) (test : Bool) (seq : Nat) : Nat :=
  id + 256 * inst.getD 0 + 4096 * inst.isSome.toNat + 32768 * test.toNat + 65536 * seq

/-- Put the four words of a record at a window offset. -/
def State.putRecord (s : State) (off w0 dA dB : Nat) (ts : Time) : State :=
  (((s.setReg off (BitVec.ofNat 32 w0)).setReg (off + 4) (BitVec.ofNat 32 ts.toNat)).setReg (off + 8)
    (BitVec.ofNat 32 (ts.toNat / 2 ^ 32 + 65536 * (dA % 65536)))).setReg (off + 12) (BitVec.ofNat 32 dB)

/-- The ring is full: the next record will be dropped. -/
def State.ringFull (s : State) : Bool := 64 ≤ s.fld EVT_RING_STAT_COUNT

/-- Write a record to the event ring, or drop it when the ring is full; its SEQ is used up either way
(R105). -/
def State.ringWrite (s : State) (e : Ev) (inst : Option Nat) (dA dB : Nat) (test : Bool) (ts : Time) :
    State :=
  if !s.flag EVT_DELIVER_CFG_RING_EN then s
  else
    let seq := s.fld EVT_RING_HEAD_NEXT_SEQ
    let t := s.setFld EVT_RING_HEAD_NEXT_SEQ (seq + 1)
    if s.ringFull then { t.bump EVT_RING_STAT_DROPPED with ringDrop := true }
    else
      let i := s.fld EVT_RING_HEAD_INDEX
      let t := t.putRecord ((rEVT_RING 0).off + 16 * i)
        (recordWord0 (evtBase e.1 + e.2) inst test seq) dA dB ts
      { (t.setFld EVT_RING_HEAD_INDEX (i + 1)).bump EVT_RING_STAT_COUNT with ringDrop := false }

/-- EV_EVT_RING_OVERFLOW fires; its own record finds the ring full (R106). -/
def State.fireOverflow (s : State) : State :=
  let t := s.setFlag (bitFld (rEVT_RAW pEVT).off 1) true
  if t.flag (bitFld (rEVT_MASK pEVT).off 1) then
    (t.raisePend EV_EVT_RING_OVERFLOW).ringWrite EV_EVT_RING_OVERFLOW none 0 0 false s.uptime
  else t

/-- Write a record, and fire the overflow event on the first drop (R106). -/
def State.ringWriteOv (s : State) (e : Ev) (inst : Option Nat) (dA dB : Nat) (test : Bool) (ts : Time) :
    State :=
  let t := s.ringWrite e inst dA dB test ts
  if s.flag EVT_DELIVER_CFG_RING_EN && s.ringFull && !s.ringDrop then t.fireOverflow else t

/-- EV_EVT_RING_HIGH fires (R106). -/
def State.fireHigh (s : State) : State :=
  let t := s.setFlag (bitFld (rEVT_RAW pEVT).off 0) true
  if t.flag (bitFld (rEVT_MASK pEVT).off 0) then
    (t.raisePend EV_EVT_RING_HIGH).ringWriteOv EV_EVT_RING_HIGH none 0 0 false s.uptime
  else t

/-- The occupancy at which the high event fires; 0 acts as 64 (R110). -/
def State.highMark (s : State) : Nat :=
  if s.fld EVT_RING_CFG_HIGH_MARK = 0 then 64 else s.fld EVT_RING_CFG_HIGH_MARK

/-- Write a record and fire what the ring's occupancy then fires. -/
def State.record (s : State) (e : Ev) (inst : Option Nat) (dA dB : Nat) (test : Bool) (ts : Time) :
    State :=
  let t := s.ringWriteOv e inst dA dB test ts
  if t.fld EVT_RING_STAT_COUNT = t.highMark ∧ t.fld EVT_RING_STAT_COUNT ≠ s.fld EVT_RING_STAT_COUNT then
    t.fireHigh
  else t

/-- The firing that the mask of bit `k` of page `p` hides. -/
def HeldEvent.hides (p k : Nat) (h : HeldEvent) : Bool := h.hidden && h.page == p && h.bit == k

/-- The mask of an event hides its firing: what a record of it would carry is kept for the day the mask is set, the
latest firing in place of an earlier one (R98). Log 54 (DESIGN CHOICE). -/
def State.hide (s : State) (e : Ev) (inst : Option Nat) (dA dB : Nat) (test : Bool) (ts : Time) (id : Nat) : State :=
  { s with held := s.held.filter (fun h => !h.hides e.1 e.2) ++ [⟨e.1, e.2, inst, dA, dB, test, ts, id, true⟩] }

/-- The instance summary of INS_nn is delivered: its pending bit, the message to VF n, and a record in the
instance's own ring (R98, R108). -/
def State.instDeliver (s : State) (n id dA dB : Nat) (test : Bool) (ts : Time) : State :=
  let pend := bitFld (rEVT_PEND (pINS n)).off 0
  let u := if s.flag pend then s else (s.setFlag pend true).signal n (s.fld (INS_EVT_VEC_VEC n))
  let seq := u.fld (INS_RING_HEAD_NEXT_SEQ n)
  let v := u.setFld (INS_RING_HEAD_NEXT_SEQ n) (seq + 1)
  if 16 ≤ u.fld (INS_RING_STAT_COUNT n) then v.bump (INS_RING_STAT_DROPPED n)
  else
    let i := u.fld (INS_RING_HEAD_INDEX n)
    let v := v.putRecord ((rINS_RING n 0).off + 16 * i) (recordWord0 id (some n) test seq) dA dB ts
    (v.setFld (INS_RING_HEAD_INDEX n) (i + 1)).setFld (INS_RING_STAT_COUNT n) (u.fld (INS_RING_STAT_COUNT n) + 1)

/-- The instance summary of INS_nn fires: RAW is set, and it is delivered unless its mask hides it (R98, R108). -/
def State.instFire (s : State) (n id dA dB : Nat) (test : Bool) (ts : Time) : State :=
  let t := s.setFlag (bitFld (rEVT_RAW (pINS n)).off 0) true
  if t.flag (bitFld (rEVT_MASK (pINS n)).off 0) then t.instDeliver n id dA dB test ts
  else t.hide (EV_INS_SUMMARY n) (some n) dA dB test ts id

/-- The copy of an instance event on the dock, for instances 1 to 15 (R108). -/
def State.instCopy (s : State) (n : Nat) (e : Ev) (dA dB : Nat) (test : Bool) (ts : Time) : State :=
  if s.isDock && 1 ≤ n && n ≤ 15 then s.instFire n (evtBase e.1 + e.2) dA dB test ts else s

/-- Deliver an event whose RAW bit is set: the page's pending bit and record when its mask is 1, and
the instance's copy whatever the mask (R98, R108). Log 53 (DEDUCED). -/
def State.deliver (s : State) (e : Ev) (inst : Option Nat) (dA dB : Nat) (test : Bool) (ts : Time) :
    State :=
  let t := if s.flag (bitFld (rEVT_MASK e.1).off e.2) then
      (s.raisePend e).record e inst dA dB test ts
    else s.hide e inst dA dB test ts (evtBase e.1 + e.2)
  match inst with
  | some n => t.instCopy n e dA dB test ts
  | none => t

/-- An event of the role fires: its RAW bit is set, and it is delivered, or held back before bring-up
step 11 (R98, R103).  An event of an absent page, or of the other role, does not fire (R95, R102). -/
def State.fireFull (s : State) (e : Ev) (inst : Option Nat) (dA dB : Nat) (test : Bool) : State :=
  if !evtInRole s.role e.1 e.2 then s
  else
    let t := s.setFlag (bitFld (rEVT_RAW e.1).off e.2) true
    if s.up then t.deliver e inst dA dB test s.uptime
    else { t with held := t.held ++ [⟨e.1, e.2, inst, dA, dB, test, s.uptime, evtBase e.1 + e.2, false⟩] }

/-- An event with its two details. -/
def State.fireD (s : State) (e : Ev) (dA dB : Nat) : State := s.fireFull e none dA dB false

/-- An event whose details no chapter states. -/
def State.fire (s : State) (e : Ev) : State := s.fireD e 0 0

/-- An event of one instance. -/
def State.fireI (s : State) (e : Ev) (inst dA dB : Nat) : State := s.fireFull e (some inst) dA dB false

/-! ## Injected check errors (R100) -/

/-- The injection of a page is active and selects checker `k`. -/
def State.injects (s : State) (p k : Nat) : Bool := s.flag (INJ_CTRL_ACTIVE p) && s.fld (INJ_CTRL_CHECKER p) == k

/-- The check bits that an injection inverts when checker `k` of a page next computes its check. -/
def State.injBits (s : State) (p k : Nat) : Nat := if s.injects p k then s.fld (INJ_CTRL_INVERT p) else 0

/-- Checker `k` of a page has computed its check: a one-shot injection is consumed (R93, R420). -/
def State.injUsed (s : State) (p k : Nat) : State :=
  if s.injects p k && !s.flag (INJ_CTRL_CONTINUOUS p) then (s.setFlag (INJ_CTRL_ACTIVE p) false).fire EV_FLT_INJECT_DONE
  else s

/-- Deliver the events held back, in the order they fired (R103). Log 53 (DEDUCED). -/
def State.releaseHeld (s : State) : State :=
  (s.held.filter (fun h => !h.hidden)).foldl
    (fun t h => t.deliver (h.page, h.bit) h.inst h.detailA h.detailB h.test h.ts)
    { s with held := s.held.filter (·.hidden) }

end Sys2Proof.Machine
end

