-- ==== Sys2Proof/Machine/Faults.lean ====
section
/-! DEFINITION. The fault collector (chapter 16): recording a fault, its history entry, merging, the
holds on fence units, how a source exits, the safe state, and FAULT_N.  What fencing or restoring a
unit does to the unit itself is in Recovery. -/

namespace Sys2Proof.Machine

/-- A source exists in a role in which its page is present (R405). -/
def srcPresent (r : Role) (n : Nat) : Bool := n < 128 && pagePresent r (srcPage n)

/-- The island a fence unit lies in. -/
def FenceUnit.inIsland (r : Role) : FenceUnit → Option Nat
  | .none => Option.none
  | .die l => some (13 + l / 16)
  | .ce i => some (13 + i / 2)
  | .channel n => some (13 + n)
  | .port p 0 => some (islHOSTA + p)
  | .port _ 1 => some islLSE
  | .port _ _ => some islAON
  | .inst _ => some (match r with | .card => islCMD | .dock => islPCIE)
  | .island i => some i
  | .engine pg _ => some (pageIsland r pg)
  | .element pg _ => some (pageIsland r pg)

/-- `u` is the unit `v`, or lies inside it (R413). -/
def FenceUnit.inside (r : Role) (u v : FenceUnit) : Bool :=
  u == v && u != .none ||
  (match u, v with
   | .die l, .ce i => l / 8 == i
   | .die l, .channel n => l / 16 == n
   | .ce i, .channel n => i / 2 == n
   | u, .island i => u.inIsland r == some i
   | _, _ => false)

/-- Some source has STATUS set. -/
def State.anyStatus (s : State) : Bool :=
  (List.range 128).any (fun n => s.flag (FLT_SRC_STAT_STATUS n))

/-- FAULT_N is driven low (R418). -/
def State.faultN (s : State) : Bool := !s.up || s.anyStatus || s.safe

/-- The window offset of history entry `i` (R417). -/
abbrev histOff (i : Nat) : Nat := (rFLT_HIST 0).off + 16 * i

/-- MERGE and EXIT of history entry `i`. -/
abbrev histMerge (i : Nat) : Fld := ⟨histOff i + 12, 0, 8⟩
abbrev histExit (i : Nat) : Fld := ⟨histOff i + 12, 8, 3⟩
abbrev histSource (i : Nat) : Fld := ⟨histOff i + 4, 8, 7⟩

/-- DETAIL_A of the FLT events: the source and the history index (R422). -/
def fltDetail (src hist : Nat) : Nat := src + 256 * hist

/-- Write a history entry with an EXIT code (R417); the index it takes is HIST_HEAD.INDEX before. -/
def State.histWrite (s : State) (src : Nat) (u : FenceUnit) (syn : Nat) (injected : Bool) (exit : Nat) :
    State :=
  let i := s.fld FLT_HIST_HEAD_INDEX
  let seq := s.fld FLT_HIST_HEAD_NEXT_SEQ
  let t := (((s.setReg (histOff i) (BitVec.ofNat 32 s.uptime.toNat)).setReg (histOff i + 4)
    (BitVec.ofNat 32 (s.uptime.toNat / 2 ^ 32 + 256 * src + 32768 * injected.toNat +
      65536 * u.code))).setReg (histOff i + 8) (BitVec.ofNat 32 syn)).setReg (histOff i + 12)
    (BitVec.ofNat 32 (256 * exit + 65536 * seq))
  let t := (t.setFld FLT_HIST_HEAD_INDEX (i + 1)).setFld FLT_HIST_HEAD_NEXT_SEQ (seq + 1)
  if i = 0 ∧ seq ≠ 0 ∧ !s.flag FLT_HIST_HEAD_WRAPPED then
    (t.setFlag FLT_HIST_HEAD_WRAPPED true).fire EV_FLT_HISTORY_WRAP
  else t

/-- Zeroize every volatile key, the link slots included (R415, R379). Log 52 (DEDUCED). -/
def State.zeroizeAll (s : State) : State :=
  let k := s.keys
  let wipe := fun (p : Port) => { p with secret := [], key := [], nextKey := [] }
  ({ s with
      keys := { k with
        imk := List.replicate 16 [], kgen := List.replicate 16 0, jnk := [], trk := [], slk := [],
        p0 := [], p1 := [], imp := List.replicate 32 0 },
      spA := wipe s.spA, spB := wipe s.spB } : State).setFlag KEY_STAT_ZEROIZED true |>.fire EV_CRY_ZEROIZED

/-- A collector self-fault: the part enters the safe state (R415, R416). -/
def State.enterSafe (s : State) (src syn : Nat) (injected : Bool) : State :=
  let i := s.fld FLT_HIST_HEAD_INDEX
  let t := ((s.histWrite src .none syn injected (if s.safe then 0 else 4)).setFlag (FLT_SRC_STAT_STATUS src) true).bump
    FLT_COUNT_RAISED
  let t := t.fireD EV_FLT_FAULT_RAISED (fltDetail src i) syn
  if s.safe then t
  else ((t.setFlag FLT_SAFE_STAT_SAFE true).setFld FLT_SAFE_STAT_SOURCE src).zeroizeAll

/-- The hold whose fence action is in progress and takes in `u` (R413). -/
def State.mergeInto (s : State) (u : FenceUnit) : Option Hold :=
  s.flt.holds.find? (fun h => s.flag (FLT_SRC_STAT_FENCING h.src) && u.inside s.role h.unit)

/-- The fault merges into the first one: no entry and no action of its own (R413). -/
def State.mergeFault (s : State) (src : Nat) (u : FenceUnit) (syn : Nat) (h : Hold) : State :=
  let t := ((s.setFlag (FLT_SRC_STAT_STATUS src) true).bump (histMerge h.hist)).bump FLT_COUNT_MERGED
  let t := if srcLevel src then t.setFlag (FLT_SRC_STAT_ASSERTED src) true else t
  let t : State := { t with flt := { t.flt with holds := t.flt.holds ++ [(⟨src, u, h.hist⟩ : Hold)] } }
  t.fireD EV_FLT_MERGED
    (fltDetail src h.hist) syn

/-- The fence action of a unit supersedes those still under way of units inside it: they end (R413). -/
def State.supersede (s : State) (u : FenceUnit) : State :=
  (s.flt.holds.filter (fun h => s.flag (FLT_SRC_STAT_FENCING h.src) && h.unit != u && h.unit.inside s.role u)).foldl
    (fun (t : State) h => (t.setFlag (FLT_SRC_STAT_FENCING h.src) false).setFlag (FLT_SRC_STAT_ASSERTED h.src) (srcLevel h.src)) s

/-- The fault is recorded: STATUS, an entry, EV_FLT_FAULT_RAISED; and its unit is fenced unless this
source fences it already or the part is in the safe state (R404, R409, R416). -/
def State.newFault (s : State) (src : Nat) (u : FenceUnit) (syn : Nat) (injected : Bool) : State :=
  let i := s.fld FLT_HIST_HEAD_INDEX
  let again := s.flt.holds.any (fun h => h.src == src && h.unit == u)
  let t := ((s.histWrite src u syn injected 0).setFlag (FLT_SRC_STAT_STATUS src) true).bump
    FLT_COUNT_RAISED
  let t :=
    if s.safe then t
    else if again then t.setFlag (FLT_SRC_STAT_ASSERTED src) (srcLevel src)
    else
      let t := ((t.supersede u).setFlag (FLT_SRC_STAT_ASSERTED src) true).setFlag (FLT_SRC_STAT_FENCING src) true
      ({ t with flt := { t.flt with holds := t.flt.holds ++ [(⟨src, u, i⟩ : Hold)] } } : State)
  t.fireD EV_FLT_FAULT_RAISED (fltDetail src i) syn

/-- The syndrome the entry carries: the element's or instance's index, else the one reported (R409).
Log 59 (DESIGN CHOICE). -/
def faultSyndrome (u : FenceUnit) (syn : Nat) : Nat :=
  match u with
  | .element _ i => i
  | .inst n => n
  | _ => syn

/-- The unit lies in a block whose software block reset is under way (R414). -/
def State.inBlockReset (s : State) (u : FenceUnit) : Bool :=
  match u with
  | .engine pg _ => s.flag (PG_STAT_RST_BUSY pg) && !s.islandDown (pageIsland s.role pg)
  | _ => false

/-- A source of the role detects its cause about element, LUN, instance, island or part `x` (R404). -/
def State.fault (s : State) (src x syn : Nat) (injected : Bool) : State :=
  if !srcPresent s.role src then s
  else if 124 ≤ src then s.enterSafe src syn injected
  else
    let u := srcUnit src x
    if s.inBlockReset u then
      { s with flt := { s.flt with late := s.flt.late ++ [⟨src, x, syn, injected⟩] } }
    else
      match s.mergeInto u with
      | some h => if s.safe then s.newFault src u (faultSyndrome u syn) injected
          else s.mergeFault src u (faultSyndrome u syn) h
      | none => s.newFault src u (faultSyndrome u syn) injected

/-- History entry `i` has been written since the power-on clear. -/
def State.histWritten (s : State) (i : Nat) : Bool :=
  i < s.fld FLT_HIST_HEAD_NEXT_SEQ || s.flag FLT_HIST_HEAD_WRAPPED

/-- An entry that is open or latched (R417). -/
def State.histLive (s : State) (i : Nat) : Bool :=
  s.histWritten i && (s.fld (histExit i) == 0 || s.fld (histExit i) == 3)

/-- Give the entries of a source that are still open, or latched, an EXIT code (R417). -/
def State.histClose (s : State) (src code : Nat) : State :=
  (List.range 16).foldl (fun t i =>
    if t.histLive i && t.fld (histSource i) == src then t.setFld (histExit i) code else t) s

/-- The first history entry a source holds a unit under, for the details of its exit events. -/
def State.histOf (s : State) (src : Nat) : Nat :=
  match s.flt.holds.find? (fun h => h.src == src) with
  | some h => h.hist
  | none => 0

/-- A source exits: its STATUS and cause line fall, its holds end, its entries take the code (R410). -/
def State.exitSource (s : State) (src code : Nat) : State :=
  let t := ((s.setFlag (FLT_SRC_STAT_STATUS src) false).setFlag (FLT_SRC_STAT_ASSERTED src) false).histClose
    src code
  { t with flt := { t.flt with holds := t.flt.holds.filter (fun h => h.src != src) } }

/-- The units that are fenced in `s` and no longer in `t`. -/
def freedUnits (s t : State) : List FenceUnit :=
  (s.flt.holds.map (·.unit)).eraseDups.filter (fun u => !t.fenced u)

/-- The lull of a source in milliseconds (R412). -/
def State.lullMs (s : State) (src : Nat) : Nat :=
  let k := s.fld (FLT_SRC_CFG_LULL src)
  2 ^ (if k = 15 then min 14 (s.fld FLT_LULL_CFG_PERIOD) else k)

end Sys2Proof.Machine
end

