-- ==== Sys2Proof/Machine/Queues.lean ====
section
/-! DEFINITION. The host side of a dock (chapters 09 and 10): queues and their entries, translation with
its TLB and its faults, reads and writes of host memory, completion entries and their messages, and what
resets an instance's queue state. -/

namespace Sys2Proof.Machine

/-! ## Queues (R208, R209) -/

/-- Entries of a queue whose SIZE field is `k`; 7 acts as 6. -/
def queueLen (k : Nat) : Nat := 64 * 2 ^ min 6 k

def State.sqLen (s : State) (n k : Nat) : Nat := queueLen (s.fld (INS_SQ_CFG_SIZE n k))
def State.cqLen (s : State) (n j : Nat) : Nat := queueLen (s.fld (INS_CQ_CFG_SIZE n j))

/-- A 48-bit I/O address held in a pair of registers, LO bits `[31:12]` and HI bits `[15:0]`. -/
def State.baseOf (s : State) (lo hi : Fld) : Nat := s.fld lo * 4096 + s.fld hi * 2 ^ 32

def State.sqBase (s : State) (n k : Nat) : Nat := s.baseOf (INS_SQ_BASE_LO_BASE n k) (INS_SQ_BASE_HI_BASE n k)
def State.cqBase (s : State) (n j : Nat) : Nat := s.baseOf (INS_CQ_BASE_LO_BASE n j) (INS_CQ_BASE_HI_BASE n j)

/-- The CQ an SQ is bound to. -/
def State.sqCq (s : State) (n k : Nat) : Nat := s.fld (INS_SQ_CFG_CQ n k)

/-- Commands of an SQ that are fetched and not completed. -/
def State.sqCmds (s : State) (n k : Nat) : List HCmd := s.host.cmds.filter (fun c => c.inst == n && c.sq == k)

/-- SQ_k_STAT.LIVE. -/
def State.sqLive (s : State) (n k : Nat) : Bool :=
  s.flag (INS_SQ_CFG_ENABLE n k) || !(s.sqCmds n k).isEmpty

/-- Look a number up in an association, 0 where it is not listed. -/
def assocGet (l : List (Nat × Nat)) (k : Nat) : Nat := ((l.find? (fun e => e.1 == k)).map (·.2)).getD 0

/-- Put a number into an association. -/
def assocSet (l : List (Nat × Nat)) (k v : Nat) : List (Nat × Nat) :=
  l.filter (fun e => e.1 != k) ++ [(k, v)]

def State.isCmd (n k cid : Nat) (c : HCmd) : Bool := c.inst == n && c.sq == k && c.cid == cid

def State.findCmd (s : State) (n k cid : Nat) : Option HCmd := s.host.cmds.find? (State.isCmd n k cid)

def State.updCmd (s : State) (n k cid : Nat) (f : HCmd → HCmd) : State :=
  { s with host := { s.host with cmds := mapIf (State.isCmd n k cid) f s.host.cmds } }

/-- A command ends at the dock: what its entry will say (R215); an end already given stands. -/
def State.endCmd (s : State) (c : HCmd) (st info reason : Nat) : State :=
  s.updCmd c.inst c.sq c.cid (fun x => match x.done with
    | some _ => x
    | none => { x with done := some (st, info, reason, false, false), reading := false })

/-! ## Buckets (R245) -/

/-- Log 61 (DEDUCED). -/
def qosBlank (_ : Nat) : QosInst := {}

def State.qosOf (s : State) (n : Nat) : QosInst := Sparse.get qosBlank s.host.qos n

def State.setQos (s : State) (n : Nat) (q : QosInst) : State :=
  { s with host := { s.host with qos := Sparse.set qosBlank s.host.qos n q } }

/-- The gust allowances of an instance, in millionths; 0 acts as 1. -/
def State.gustBytes (s : State) (n : Nat) : Int := (max 1 (s.fld (QOS_GUST_BYTE_GUST n)) * 65536 * 1000000 : Nat)
def State.gustOps (s : State) (n : Nat) : Int := (max 1 (s.fld (QOS_GUST_OPS_GUST n)) * 1000000 : Nat)

/-- The buckets of an instance filled, its deficit 0. -/
def State.refillQos (s : State) (n : Nat) : State :=
  s.setQos n { bytes := s.gustBytes n, ops := s.gustOps n, deficit := 0 }

/-! ## Translation (R239–R244) -/

/-- The outcome of a translation: a host address, a walk under way, or a fault with its CAUSE. -/
inductive Xlat where
  | hit (addr : Nat)
  | wait
  | fault (cause : Nat)
  deriving DecidableEq, Repr

/-- The mode of an instance as it acts: 0 OFF, 1 TABLES, 2 IDENTITY. -/
def State.xlatMode (s : State) (n : Nat) : Nat :=
  match s.fld (ITU_XCFG_MODE n) with
  | 1 => 1
  | 2 => if n = 0 then 2 else 0
  | _ => 0

/-- The level-1 table of an instance. -/
def State.xlatRoot (s : State) (n : Nat) : Nat := s.fld (ITU_ROOT_LO_ROOT n) * 4096 + s.fld (ITU_ROOT_HI_ROOT n) * 2 ^ 32

/-- Bytes of a payload size as PCI Express codes it. -/
def payload (k : Nat) : Nat := 128 * 2 ^ k

/-- The longest read request: the smaller of Max Read Request Size and 512 bytes (R201). -/
def State.readSize (s : State) : Nat := min (payload (s.fld PCE_XFER_STAT_MRRS)) 512

/-- Read requests outstanding (R201). -/
def State.readTags (s : State) : List Nat := s.host.stale ++ s.host.reads.flatMap (fun r => r.reqs.map (·.tag))

/-- Send requests for what has not been asked for of some reads, oldest first, while fewer than 64 are outstanding
(R201): each with the lowest tag that is free. Log 137 (DEDUCED). -/
def State.sendReads : Nat → State → State
  | 0, s => s
  | fuel + 1, s =>
    match s.host.reads.find? (fun r => r.asked < r.len), firstBelow 256 (fun t => !s.readTags.contains t) with
    | some r, some tag =>
      if 64 ≤ s.readTags.length then s
      else
        let n := min s.readSize (r.len - r.asked)
        let r' : HRead := { r with asked := r.asked + n, reqs := r.reqs ++ [⟨tag, r.asked, n⟩] }
        sendReads fuel (({ s with host := { s.host with
          reads := s.host.reads.map (fun x => if x == r then r' else x) } }).emit (.memRead r.fn tag (r.addr + r.asked) n))
    | _, _ => s

/-- Read host memory for a function: its host address, and the I/O page it stands for (R201, R240). -/
def State.memRead (s : State) (fn addr len page : Nat) (use : ReadUse) : State :=
  let r : HRead := { fn := fn, addr := addr, len := len, page := page, use := use, data := List.replicate len 0 }
  State.sendReads 64 { s with host := { s.host with reads := s.host.reads ++ [r] } }

/-- Write to host memory with the requester ID of a function, in requests of at most Max Payload Size (R201, R240). -/
def State.memWrite (s : State) (fn addr : Nat) (bytes : List Byte) : State :=
  let mps := payload (s.fld PCE_XFER_STAT_MPS)
  (List.range ((bytes.length + mps - 1) / mps)).foldl (fun (t : State) i =>
    t.emit (.memWrite fn (addr + mps * i) ((bytes.drop (mps * i)).take mps))) s

/-- Count a TLB miss; more than THRASH_LIMIT in 1 ms fire the event (R256). -/
def State.countMiss (s : State) : State :=
  let ms := s.uptime.toNat / 1000
  let old := if s.host.missMs = ms then s.host.missCnt else 0
  let stat := if s.host.missMs = ms then s
    else s.setFld ITU_STAT_MISSES (if s.host.missMs + 1 = ms then min 65535 s.host.missCnt else 0)
  let t := { stat with host := { stat.host with missMs := ms, missCnt := old + 1 } }
  if s.fld ITU_CFG_THRASH_LIMIT ≠ 0 ∧ old = s.fld ITU_CFG_THRASH_LIMIT then t.fire EV_ITU_TLB_THRASH else t

/-- A walk of a page is under way. -/
def State.walking (s : State) (n page : Nat) : Bool :=
  s.host.reads.any (fun r => match r.use with
    | .walk i p _ => i == n && p == page
    | _ => false)

/-- Start the walk of a page: the level-1 entry is read (R239, R241).  None starts while an invalidation
is under way (R242). -/
def State.startWalk (s : State) (n page : Nat) : State :=
  if s.walking n page || s.host.inval.isSome then s
  else (s.countMiss).memRead 0 (s.xlatRoot n + 8 * (page / 512)) 8 page (.walk n page 1)

/-- Translate an I/O address of an instance, for a dock write or a dock read (R240). -/
def State.xlat (s : State) (n iova : Nat) (wr : Bool) : Xlat × State :=
  let page := iova / 4096
  match s.xlatMode n with
  | 2 => (.hit iova, s)
  | 1 =>
    match s.host.tlb.find? (fun e => e.inst == n && e.page == page) with
    | some e =>
      let t := { s with host := { s.host with tlb := s.host.tlb.filter (· != e) ++ [e] } }
      if (if wr then e.wr else e.rd) then (.hit (e.frame * 4096 + iova % 4096), t) else (.fault 1, t)
    | none =>
      if 2 ^ (9 + min 18 (s.fld (ITU_XCFG_L1_SIZE n))) ≤ page / 512 then (.fault 0, s)
      else (.wait, s.startWalk n page)
  | _ => (.fault 0, s)

/-- Enter a translation, replacing the instance's own oldest entry at its cap and the oldest of all when
the TLB is full (R241). -/
def State.fillTlb (s : State) (e : TlbEntry) : State :=
  let cap := if s.fld (ITU_XCFG_TLB_MAX e.inst) = 0 then 256 else s.fld (ITU_XCFG_TLB_MAX e.inst)
  let own := s.host.tlb.filter (fun x => x.inst == e.inst)
  let gone := own.take (own.length + 1 - cap)
  let l := s.host.tlb.filter (fun x => !gone.contains x)
  let l : List TlbEntry := if 256 ≤ l.length then l.tail else l
  { s with host := { s.host with tlb := l ++ [e] } }

/-- What a translation fault reports: the event of its cause and the capture (R244).  ACCESS: 0 SQ fetch,
1 unit list, 2 unit buffer, 3 CQ write. -/
def State.xlatReport (s : State) (n access cause queue cid iova : Nat) : State :=
  let ev := match cause with
    | 0 => EV_ITU_XLAT_FAULT
    | 1 => EV_ITU_PERM_FAULT
    | 2 => EV_ITU_TABLE_ERR
    | _ => EV_ITU_ADDR_WIDTH
  let t :=
    if s.flag ITU_FAULT_INFO_VALID then s.setFlag ITU_FAULT_INFO_OVERRUN true
    else
      let t := ((((((s.setFlag ITU_FAULT_INFO_VALID true).setFld ITU_FAULT_INFO_INST n).setFld
        ITU_FAULT_INFO_ACCESS access).setFld ITU_FAULT_INFO_CAUSE cause).setFld ITU_FAULT_INFO_QUEUE
        queue).setFld ITU_FAULT_INFO_CID cid)
      (t.setFld rITU_FAULT_ADDR_LO (iova % 2 ^ 32)).setFld rITU_FAULT_ADDR_HI (iova / 2 ^ 32)
  t.fireI ev n cid (iova / 4096 % 2 ^ 32)

/-! ## What a command moves (R181, R246) -/

/-- Units from the host to the card. -/
def h2cUnits (op arg : Nat) : Nat :=
  if op = 0x03 then arg % 4096 + 1
  else if op = 0x18 then arg % 4096 + 1
  else if op = 0x0A ∨ op = 0x0D ∨ op = 0x14 ∨ op = 0x1A then 1
  else 0

/-- Units from the card to the host. -/
def c2hUnits (op arg : Nat) : Nat :=
  if op = 0x02 then arg % 4096 + 1
  else if op = 0x01 ∨ op = 0x09 ∨ op = 0x0C ∨ op = 0x15 ∨ op = 0x16 then 1
  else 0

def HCmd.units' (c : HCmd) : Nat := h2cUnits c.op c.arg + c2hUnits c.op c.arg

/-- The dock completes the command itself (R217). -/
def dockCompletes (op : Nat) : Bool := op == 0x00 || op == 0x06 || op == 0x30 || op == 0x31 || op == 0x32

/-- Quanta of a command (R246). -/
def HCmd.quanta (c : HCmd) : Nat :=
  if dockCompletes c.op then 0 else if h2cUnits c.op c.arg = 0 then 1 else h2cUnits c.op c.arg

/-- Opcodes the dock accepts from every function, and those from the PF alone (R217). -/
def opOfAll (op : Nat) : Bool := [0x00, 0x01, 0x02, 0x03, 0x05, 0x06, 0x07, 0x08, 0x09, 0x0A].contains op
def opOfPf (op : Nat) : Bool :=
  [0x0C, 0x0D, 0x14, 0x15, 0x16, 0x17, 0x18, 0x19, 0x1A, 0x1B, 0x30, 0x31, 0x32].contains op

/-- The opcode is not accepted from the function of the command. -/
def HCmd.opRefused (c : HCmd) : Bool := !(opOfAll c.op || (opOfPf c.op && c.inst == 0))

/-- A quantum of the command waits for its grant; the units behind one that failed need none. -/
def HCmd.wantsGrant (c : HCmd) : Bool :=
  c.grants < c.quanta && c.done.isNone && !c.opRefused &&
  (match c.fail with
   | some (u, _, _) => h2cUnits c.op c.arg == 0 || c.grants < u
   | none => true)

/-- The I/O address of a unit's buffer. -/
def HCmd.bufOf (c : HCmd) (i : Nat) : Nat := if i = 0 then c.dptr0 else (c.bufs.getD []).getD (i - 1) 0

/-- The unit list still has bytes to read. -/
def HCmd.needsList (c : HCmd) : Bool := 1 < c.units' && c.bufs.isNone && c.fail.isNone

/-- The next unit has been granted and is to be read from the host. -/
def HCmd.needsUnit (c : HCmd) : Bool :=
  c.units.length < h2cUnits c.op c.arg && c.units.length < c.grants &&
  (match c.fail with
   | some (u, _, _) => c.units.length < u
   | none => true)

/-- The entries of a unit list (R214). Log 93 (DEDUCED). -/
def listEntries (bytes : List Byte) : List Nat := (Crypto.chunks 8 (bytes.length / 8) bytes).map natLE

/-- The unit whose list entry is read next. -/
def HCmd.listUnit (c : HCmd) : Nat := c.listGot.length / 8 + 1

/-- The command fails at a unit: the units before it still move (R212, R214); with none before it, it
completes. Log 93 (DEDUCED), 136 (DEDUCED). -/
def State.failUnit (s : State) (c : HCmd) (unit st reason : Nat) : State :=
  s.updCmd c.inst c.sq c.cid (fun x => { x with
    fail := some (unit, st, reason), reading := false,
    bufs := match x.bufs with
      | some l => some l
      | none => some (listEntries x.listGot),
    done := if unit = 0 ∧ x.done.isNone then some (st, 0, reason, false, false) else x.done })

/-- A translation of a list or a unit of a command fails (R243). -/
def State.failXlat (s : State) (c : HCmd) (access cause unit iova : Nat) : State :=
  (s.xlatReport c.inst access cause c.sq c.cid iova).failUnit c unit 0x30 0x04

/-! ## Parts of a host command (R222, R225) -/

/-- A status that counts as success. -/
def partOk (st : Nat) : Bool := st == 0x00 || st == 0x01 || st == 0x02

/-- The statuses whose INFO counts units (R183). Log 146 (DEDUCED). -/
def infoCounts (st : Nat) : Bool := st == 0x10 || st == 0x11 || st == 0x40 || st == 0x41 || st == 0x51

/-- Of two ends, the one of the lower unit, then of the lower port. -/
def firstEnd (a : Option PartEnd) (e : PartEnd) : Option PartEnd :=
  match a with
  | none => some e
  | some x => if e.base < x.base ∨ (e.base = x.base ∧ e.port < x.port) then some e else a

/-- ST, INFO and REASON of a command from the ends of its parts. -/
def endStatus (ends : List PartEnd) : Nat × Nat × Nat :=
  match (ends.filter (fun e => !partOk e.st)).foldl firstEnd none with
  | some e => (e.st, if infoCounts e.st && e.info != 0xFFFF then e.base + e.info else e.info, e.reason)
  | none =>
    match ends with
    | [e] => (e.st, e.info, 0)
    | _ => if ends.any (fun e => e.st == 1) then (1, (ends.map (fun e => if e.st = 1 then e.info else 0)).foldl max 0, 0)
      else (0, 0, 0)

/-- Set bit `p` of a small bit map. -/
def orBit (x p : Nat) : Nat := if bitAt x p then x else x + 2 ^ p

/-- A part ends (R215): its answer, the flags of the card, and the port that answered. -/
def State.notePart (s : State) (i k cid : Nat) (e : PartEnd) (flags : Nat) : State :=
  s.updCmd i k cid (fun c => { c with
    parts := c.parts - 1, ends := c.ends ++ [e], flags := c.flags ||| flags,
    answered := if e.reason = 0 ∧ e.port < 2 then orBit c.answered e.port else c.answered })

/-- The unit at which an end that is no success leaves its command. -/
def PartEnd.failedAt (e : PartEnd) : Nat :=
  e.base + (if infoCounts e.st && e.info != 0xFFFF then e.info else 0)

/-- A command whose parts have all ended completes; of the failure of its own data and that of a part the one of the
lower unit counts (R212, R214, R225). -/
def State.closeParts (s : State) (i k cid : Nat) : State :=
  match s.findCmd i k cid with
  | none => s
  | some c =>
    if c.routed && c.parts == 0 && c.recs.isEmpty then
      let r := endStatus c.ends
      match c.fail with
      | some (u, fst, reason) =>
        if (c.ends.filter (fun e => !partOk e.st)).all (fun e => u < e.failedAt) then s.endCmd c fst u reason
        else s.endCmd c r.1 r.2.1 r.2.2
      | none => s.endCmd c r.1 r.2.1 r.2.2
    else s

/-! ## Driving the reads and writes of host memory -/

/-- Read the next piece of a command's unit list, to the end of its page. -/
def State.pumpList (s : State) (c : HCmd) : State :=
  let a := c.dptr1 + c.listGot.length
  let len := min (8 * (c.units' - 1) - c.listGot.length) (4096 - a % 4096)
  match s.xlat c.inst a false with
  | (.hit h, t) => (t.memRead c.inst h len (a / 4096) (.list c.inst c.sq c.cid)).updCmd c.inst c.sq c.cid
      (fun x => { x with reading := true })
  | (.wait, t) => t
  | (.fault k, t) => t.failXlat c 1 k c.listUnit a

/-- Read the next unit of a command. -/
def State.pumpUnit (s : State) (c : HCmd) : State :=
  let i := c.units.length
  let a := c.bufOf i
  if 2 ^ 48 ≤ a then s.failXlat c 2 3 i a
  else
    match s.xlat c.inst a false with
    | (.hit h, t) => (t.memRead c.inst h 4096 (a / 4096) (.unit c.inst c.sq c.cid)).updCmd c.inst c.sq c.cid
        (fun x => { x with reading := true })
    | (.wait, t) => t
    | (.fault k, t) => t.failXlat c 2 k i a

/-- The translation of the buffer of unit `i` fails as the unit is to be written there: the units before it are
delivered still, no later one is, and the command ends when its parts have ended (R214, R243). Log 136 (DEDUCED). -/
def State.failDeliver (s : State) (c : HCmd) (cause i : Nat) : State :=
  let t := s.xlatReport c.inst 2 cause c.sq c.cid (c.bufOf i)
  (t.updCmd c.inst c.sq c.cid (fun x => { x with
    deliver := x.deliver.filter (fun d => d.1 < i), done := none,
    fail := match x.fail with
      | some f => if f.1 ≤ i then some f else some (i, 0x30, 0x04)
      | none => some (i, 0x30, 0x04) })).closeParts c.inst c.sq c.cid

/-- Write the units that wait to go to host memory, first to last, as far as translations stand. -/
def State.pumpDeliver (n k cid : Nat) : Nat → State → State
  | 0, s => s
  | fuel + 1, s =>
    match s.findCmd n k cid with
    | none => s
    | some c =>
      match c.deliver with
      | [] => s
      | (i, bytes) :: rest =>
        if 2 ^ 48 ≤ c.bufOf i then pumpDeliver n k cid fuel (s.failDeliver c 3 i)
        else
          match s.xlat n (c.bufOf i) true with
          | (.hit h, t) => pumpDeliver n k cid fuel ((t.memWrite n h bytes).updCmd n k cid (fun x => { x with deliver := rest }))
          | (.wait, t) => t
          | (.fault cause, t) => pumpDeliver n k cid fuel (t.failDeliver c cause i)

/-- The four dwords of a completion entry (R215). -/
def cqeWords (c : HCmd) (st info reason : Nat) (gap carried : Bool) (sqHead : Nat) (phase : Bool) : List Nat :=
  [c.cid % 65536 + c.sq * 2 ^ 16 + st * 2 ^ 24,
   info % 65536 + c.flags % 64 * 2 ^ 16 + c.answered % 4 * 2 ^ 22 + reason * 2 ^ 24,
   sqHead + gap.toNat * 2 ^ 16 + carried.toNat * 2 ^ 17, phase.toNat]

/-- Records that were reserved and not committed will never be: they leave the index (R26, R71). -/
def State.dropReserved (s : State) (seqs : List Nat) : State :=
  { s with lnd := { s.lnd with recs := s.lnd.recs.filter (fun r => r.committed || !seqs.contains r.seq) } }

/-- A command leaves the dock, with the bridge records reserved for it and not committed. -/
def State.removeCmd (s : State) (c : HCmd) : State :=
  let t := s.dropReserved c.recs
  { t with host := { t.host with cmds := t.host.cmds.filter (fun x => !State.isCmd c.inst c.sq c.cid x) } }

/-- Signal on the vector of a CQ and start counting again (R207, R211). -/
def State.signalCq (s : State) (n j : Nat) : State :=
  ({ s with host := { s.host with coal := s.host.coal.filter (fun e => e.1 != 2 * n + j) } }).signal n
    (s.fld (INS_CQ_CFG_VECTOR n j))

/-- Count an entry; COAL_CNT entries send the message (R211). -/
def State.coalesce (s : State) (n j : Nat) : State :=
  let k := assocGet s.host.coal (2 * n + j) + 1
  if max 1 (s.fld (INS_CQ_CFG_COAL_CNT n j)) ≤ k then s.signalCq n j
  else { s with host := { s.host with coal := assocSet s.host.coal (2 * n + j) k } }

/-- Post the completion entry of a command, or discard it: one entry for each command (R211, R225,
R243). -/
def State.pumpPost (s : State) (c : HCmd) : State :=
  match c.done with
  | none => s
  | some (st, info, reason, gap, carried) =>
    let j := s.sqCq c.inst c.sq
    if s.flag (INS_CQ_STAT_ERR c.inst j) || !s.flag (INS_CQ_CFG_ENABLE c.inst j) then s.removeCmd c
    else
      let slot := s.fld (INS_CQ_STAT_TAIL c.inst j)
      let a := s.cqBase c.inst j + 16 * slot
      match s.xlat c.inst a true with
      | (.hit h, t) =>
        let phase := s.flag (INS_CQ_STAT_PHASE c.inst j)
        let dw := cqeWords c st info reason gap carried (s.fld (INS_SQ_STAT_HEAD c.inst c.sq)) phase
        let next := (slot + 1) % s.cqLen c.inst j
        let t := ((t.emit (.cqe c.inst j slot h dw)).removeCmd c).setFld (INS_CQ_STAT_TAIL c.inst j) next
        let t := if next = 0 then t.setFlag (INS_CQ_STAT_PHASE c.inst j) (!phase) else t
        t.coalesce c.inst j
      | (.wait, t) => t
      | (.fault k, t) =>
        ((t.xlatReport c.inst 3 k j 0xFFFF a).setFlag (INS_CQ_STAT_ERR c.inst j) true).removeCmd c

/-- Drive one command: its list, its next unit, its data to the host, and its completion. -/
def State.pumpCmd (s : State) (c : HCmd) : State :=
  match s.findCmd c.inst c.sq c.cid with
  | none => s
  | some c =>
    if c.reading then s
    else if c.done.isNone && c.needsList then s.pumpList c
    else if c.done.isNone && c.needsUnit then s.pumpUnit c
    else
      let t := State.pumpDeliver c.inst c.sq c.cid c.deliver.length s
      match t.findCmd c.inst c.sq c.cid with
      | some d => if d.deliver.isEmpty then t.pumpPost d else t
      | none => t

/-- An SQ stops fetching with an ERR code (R212, R243). -/
def State.stopSq (s : State) (n k err : Nat) : State := s.setFld (INS_SQ_STAT_ERR n k) err

/-- Issue the reads of a burst of SQ entries once their pages translate; the entries count as fetched
(R210, R240). -/
def State.pumpFetch (s : State) (n k : Nat) : Nat → State
  | 0 => s
  | m + 1 =>
    let slot := s.fld (INS_SQ_STAT_HEAD n k)
    let a := s.sqBase n k + 64 * slot
    let stop := fun (t : State) => { t with host := { t.host with
      fetching := t.host.fetching.filter (fun e => !(e.1 == n && e.2.1 == k)) } }
    match s.xlat n a false with
    | (.hit h, t) =>
      let t := (t.memRead n h 64 (a / 4096) (.sqe n k)).setFld (INS_SQ_STAT_HEAD n k) ((slot + 1) % s.sqLen n k)
      let t := { t with host := { t.host with fetching := t.host.fetching.map (fun e =>
        if e.1 == n && e.2.1 == k then (n, k, m) else e) } }
      if m = 0 then stop t else t.pumpFetch n k m
    | (.wait, t) => t
    | (.fault c, t) => stop ((t.xlatReport n 0 c k 0xFFFF a).stopSq n k 2)

/-- The dock may read and write host memory: PCIe runs and PERST_N is high (R202). -/
def State.pciUp (s : State) : Bool :=
  s.isDock && s.pins.perstHigh && s.flag PCE_LINK_STAT_DL_ACTIVE && !s.pageFenced pPCE &&
  !s.fenced (.engine pPCE 1) && !s.islandDown islPCIE && !s.pageFenced pITU

/-- The dock fetches for an instance: it is in RUN (R251), and no tamper is latched (R381). -/
def State.instFetches (s : State) (n : Nat) : Bool :=
  s.fld (INS_STATE_STATE n) == 0 && !s.flag TMP_STAT_LATCHED

/-- Drive everything on the host side that can go on; an instance that left RUN fetches no more.
Log 5 (DESIGN CHOICE). -/
def State.pump (s : State) : State :=
  if !s.pciUp then s
  else
    let s := { s with host := { s.host with fetching := s.host.fetching.filter (fun e => s.instFetches e.1) } }
    let t := (s.host.fetching.filter (fun e => s.fnAwake e.1)).foldl (fun t e => t.pumpFetch e.1 e.2.1 e.2.2) s
    (t.host.cmds.filter (fun c => s.fnAwake c.inst)).foldl (fun t c => t.pumpCmd c) (State.sendReads 64 t)

/-- A command ends and its entry is posted if it can be. -/
def State.complete (s : State) (c : HCmd) (st info reason : Nat) : State := (s.endCmd c st info reason).pump

/-! ## Failures of a translation under way -/

/-- The access that waits for a page fails with a cause: a fetch, a list, a unit, a delivery or an
entry. -/
def State.failPage (s : State) (n page cause : Nat) : State :=
  let inPage := fun (a : Nat) => a / 4096 == page
  let t := s.host.fetching.foldl (fun t e =>
    let a := t.sqBase e.1 e.2.1 + 64 * t.fld (INS_SQ_STAT_HEAD e.1 e.2.1)
    if e.1 == n && inPage a then
      let u := (t.xlatReport n 0 cause e.2.1 0xFFFF a).stopSq n e.2.1 2
      { u with host := { u.host with fetching := u.host.fetching.erase e } }
    else t) s
  t.host.cmds.foldl (fun t c =>
    if c.inst != n || c.reading then t
    else if c.done.isNone && c.needsList then
      (if inPage (c.dptr1 + c.listGot.length) then
        t.failXlat c 1 cause c.listUnit (c.dptr1 + c.listGot.length) else t)
    else if c.done.isNone && c.needsUnit then
      (if inPage (c.bufOf c.units.length) then
        t.failXlat c 2 cause c.units.length (c.bufOf c.units.length) else t)
    else
      match c.deliver with
      | (i, _) :: _ =>
        if inPage (c.bufOf i) then t.failDeliver c cause i else t
      | [] =>
        let j := t.sqCq n c.sq
        let a := t.cqBase n j + 16 * t.fld (INS_CQ_STAT_TAIL n j)
        if c.done.isSome && inPage a && !t.flag (INS_CQ_STAT_ERR n j) then
          (t.xlatReport n 3 cause j 0xFFFF a).setFlag (INS_CQ_STAT_ERR n j) true
        else t) t

/-! ## Resetting an instance's host side (R203, R253, R255) -/

/-- TLB entries of an instance leave. -/
def State.dropTlb (s : State) (n : Nat) : State :=
  { s with host := { s.host with tlb := s.host.tlb.filter (fun e => e.inst != n) } }

/-- The queue registers of an instance's page: SQs, CQs. -/
def isQueueReg (n off : Nat) : Bool := (rINS_SQ_BASE_LO n 0).off ≤ off && off < (rINS_CQ_BASE_LO n 0).off + 32

/-- What an instance's queues made visible and was not fetched is forgotten. Log 134 (DEDUCED). -/
def State.forgetBells (s : State) (n : Nat) : State :=
  { s with host := { s.host with
      bells := s.host.bells.filter (fun b => b.inst != n),
      fetching := s.host.fetching.filter (fun e => e.1 != n),
      coal := s.host.coal.filter (fun e => e.1 / 2 != n) } }

/-- The instance's queues take their reset values (R203, R255). -/
def State.disableQueues (s : State) (n : Nat) : State :=
  ({ s with regs := Sparse.clear s.regs (fun o => isQueueReg n o) } : State).forgetBells n

/-- The instance's queues are disabled, their heads, tails and phases reset; their attributes stay (R253). -/
def State.haltQueues (s : State) (n : Nat) : State :=
  let t := (List.range 4).foldl (fun (t : State) k =>
    (t.setReg (rINS_SQ_STAT n k).off 0).setFlag (INS_SQ_CFG_ENABLE n k) false) s
  ((List.range 2).foldl (fun (t : State) j =>
    (t.setReg (rINS_CQ_STAT n j).off 0x1000).setFlag (INS_CQ_CFG_ENABLE n j) false) t).forgetBells n

/-- Commands of an instance that have not started complete with a status and REASON INST_STATE (R251). -/
def State.abortUnstarted (s : State) (n st : Nat) : State :=
  let hit := fun (c : HCmd) => c.inst == n && c.grants == 0 && !c.routed && c.done.isNone
  let cut := fun (c : HCmd) => { c with done := some (st, 0, 0x0C, false, false), reading := false }
  { s with host := { s.host with cmds := mapIf hit cut s.host.cmds } }

/-- The instance a read of host memory is for. -/
def HRead.inst (r : HRead) : Nat :=
  match r.use with
  | .sqe i _ => i
  | .list i _ _ => i
  | .unit i _ _ => i
  | .walk i _ _ => i

/-- Reads that some test picks are given up; what they have asked for is discarded as it arrives. -/
def State.dropReads (s : State) (hit : HRead → Bool) : State :=
  { s with host := { s.host with
    reads := s.host.reads.filter (fun r => !hit r),
    stale := s.host.stale ++ (s.host.reads.filter hit).flatMap (fun r => r.reqs.map (·.tag)) } }

/-- A command of a port that an instance's queues have sent. -/
def DCmd.ofInst (n : Nat) (d : DCmd) : Bool :=
  match d.origin with
  | .host i _ _ => i == n
  | _ => false

/-- The commands of an instance on a port lose their queue entry: those that are sent run to their end and their
answers are discarded, those that wait are not sent (R202, R203). Log 140 (DEDUCED). -/
def State.orphan (s : State) (n p : Nat) : State :=
  let x := s.sp p
  s.setSp p { x with
    dcmds := mapIf (DCmd.ofInst n) (fun d => { d with origin := .lost })
      (x.dcmds.filter (fun d => d.sent || d.rest || !d.ofInst n)),
    drainCmd := if n = 0 then none else x.drainCmd }

/-- Commands of an instance leave without completions (R203). -/
def State.forgetCmds (s : State) (n : Nat) : State :=
  let t := s.dropReserved ((s.host.cmds.filter (fun c => c.inst == n)).flatMap (·.recs))
  let t := ((t.orphan n 0).orphan n 1).dropReads (fun r => r.inst == n)
  { t with host := { t.host with
      cmds := t.host.cmds.filter (fun c => c.inst != n),
      quiescing := if n = 0 then [] else t.host.quiescing } }

end Sys2Proof.Machine
end

