-- ==== Sys2Proof/Machine/Arbiter.lean ====
section
/-! DEFINITION. The weighted arbiter over instances (R247–R249), which the QOS of a dock and the CMD arbiter of a
card share: rings of four classes, deficits, and the grant. -/

namespace Sys2Proof.Machine

/-- Move an instance to the tail of the ring of a class. -/
def State.toRing (s : State) (n cls : Nat) : State :=
  let l := s.host.rings.zipIdx.map (fun e =>
    if e.2 = cls then e.1.filter (fun x => x != n) ++ [n] else e.1.filter (fun x => x != n))
  { s with host := { s.host with rings := l } }

def State.ringOf (s : State) (cls : Nat) : List Nat := s.host.rings.getD cls []

def State.setDeficit (s : State) (n : Nat) (d : Int) : State := s.setQos n { s.qosOf n with deficit := d }

/-- What an arbiter knows of its instances: who may be granted, whose request waits, weights, and the deficit cost
of the next quantum. -/
structure Arbiter where
  eligible : Nat → Bool
  waits : Nat → Bool
  weight : Nat → Nat
  cost : Nat → Nat

/-- The procedure `grant_in_class` of R247, `fuel` turns of its loop at most. -/
def State.grantIn (a : Arbiter) (cls : Nat) : Nat → State → Option Nat × State
  | 0, s => (none, s)
  | fuel + 1, s =>
    match s.ringOf cls with
    | [] => (none, s)
    | i :: _ =>
      let d := (s.qosOf i).deficit
      if !a.eligible i then
        State.grantIn a cls fuel ((if a.waits i then s else s.setDeficit i 0).toRing i cls)
      else if d < 1 then
        let t := s.setDeficit i (d + a.weight i)
        State.grantIn a cls fuel (if d + a.weight i < 1 then t.toRing i cls else t)
      else
        let t := s.setDeficit i (d - a.cost i)
        (some i, if d - a.cost i < 1 then t.toRing i cls else t)

/-- A decision: the lowest-numbered class with an eligible instance. -/
def State.decideGrant (a : Arbiter) (s : State) : Option Nat × State :=
  match (List.range 4).find? (fun c => (s.ringOf c).any a.eligible) with
  | some c => State.grantIn a c 70000 s
  | none => (none, s)

/-- A change of class or weight (R249): the deficit is clamped, and an instance that changes class, or whose
request waits, goes to the tail of the ring of its new class. Log 103 (DEDUCED). -/
def State.rearrange (s : State) (n oldC newC oldW newW : Nat) (waits : Bool) : State :=
  if oldC = newC ∧ oldW = newW then s
  else
    let t := s.setDeficit n (min (s.qosOf n).deficit (min oldW newW : Nat))
    if oldC ≠ newC ∨ waits then t.toRing n newC else t

end Sys2Proof.Machine
end

