-- ==== Sys2Proof/Machine/Lines.lean ====
section
/-! DEFINITION. What travels on the Spantoen data lines (chapter 07): how a unit is spread over the eight lines, the
line frame and its pass test (R152), and the tuning pattern with its frame and its pass test (R158, R162). -/

namespace Sys2Proof

open Crypto

/-! ## Line frames (R152) -/

/-- The bytes of a unit that travel on line `n`: byte `k` of the unit is byte `k div 8` of line `k mod 8`. -/
def lineBytes (unit : List Byte) (n : Nat) : List Byte := (List.range 514).map (fun j => unit.getD (8 * j + n) 0)

/-- The line frame that carries some line bytes. -/
def lineFrame (bytes : List Byte) : LineIn := { start := false, bytes := bytes, check := crc16 bytes, fin := true }

/-- The line frames of a unit: ciphertext and GCM tag. -/
def unitLines (unit : List Byte) : List LineIn := (List.range 8).map (fun n => lineFrame (lineBytes unit n))

/-- A line frame passes; the bits of `inv` are inverted in the check as it arrives (R199). -/
def LineIn.passes (inv : Nat) (l : LineIn) : Bool :=
  !l.start && l.bytes.length == 514 && (l.check ^^^ inv) == crc16 l.bytes && l.fin

/-- The lines of a unit that passed, bit n for SDAT_n. -/
def UnitIn.mask (u : UnitIn) (inv : Nat) : Nat :=
  ((List.range 8).map (fun n => if (u.lines[n]?).any (·.passes inv) then 2 ^ n else 0)).foldl (· + ·) 0

/-- The 4112 bytes that the lines of a unit carry. -/
def UnitIn.body (u : UnitIn) : List Byte :=
  (List.range 4112).map (fun k => match u.lines[k % 8]? with
    | some l => l.bytes.getD (k / 8) 0
    | none => 0)

/-- The ciphertext of a unit, and its GCM tag (R186). -/
def UnitIn.ct (u : UnitIn) : List Byte := u.body.take 4096
def UnitIn.tag (u : UnitIn) : List Byte := u.body.drop 4096

/-! ## The tuning pattern (R162) -/

/-- The sequence `b`, newest bit first, with `n` more bits. -/
def tuneGrow : Nat → List Bool → List Bool
  | 0, l => l
  | n + 1, l => tuneGrow n ((l.getD 2 false != l.getD 4 false) :: l)

/-- One period of the sequence `b`. -/
def tuneSeq : List Bool := (tuneGrow 26 (List.replicate 5 true)).reverse

/-- The 256 bits of SDAT_n as a number, the first bit highest. -/
def tunePattern (n : Nat) : Nat :=
  (List.range 256).foldl (fun x j => 2 * x + (tuneSeq.getD ((j + 4 * n) % 31) false).toNat) 0

/-- The tuning frame of SDAT_n (R158): start bit 0, the pattern, end bit 1. -/
def tuneFrame (n : Nat) : Nat := 2 * tunePattern n + 1

/-- The tuning frames of the eight lines. -/
def tuneFrames : List Nat := (List.range 8).map tuneFrame

/-- The lines whose tuning frame arrived exactly, bit n for SDAT_n. -/
def tuneMask (frames : List Nat) : Nat :=
  ((List.range 8).map (fun n => if frames[n]? = some (tuneFrame n) then 2 ^ n else 0)).foldl (· + ·) 0

/-! ## Sweeps (R158, R161) -/

/-- The taps at which line `n` passed in a sweep with TUNE_RD: its tuning frame arrived exactly. -/
def Sweep.rdPass (w : Sweep) (n : Nat) : Nat :=
  ((List.range 64).map (fun t => if ((w.rd[t]?).bind (·[n]?)) = some (tuneFrame n) then 2 ^ t else 0)).foldl (· + ·) 0

/-- The taps at which line `n` passed in a sweep with TUNE_WR, as the card reported. -/
def Sweep.wrPass (w : Sweep) (n : Nat) : Nat :=
  ((List.range 64).map (fun t => if (w.wr.getD t 0).testBit n then 2 ^ t else 0)).foldl (· + ·) 0

end Sys2Proof
end

