-- ==== Sys2Proof/Machine/Mram.lean ====
section
/-! DEFINITION. The landing store's words, lines and records (chapter 11): the order of service of requests (R22), full and partial writes with
their poison, reads with their ECC events, single-line and two-slot records, the key-record pairs, and the words of a dock's resync log (R456). -/

namespace Sys2Proof.Machine

/-- The region number the LND events carry (R287, R21). -/
def mramRegion (r : Role) (a : Nat) : Nat :=
  if 0x01F00000 ≤ a then 5
  else if 0x01C00000 ≤ a then 4
  else match r with
    | .card => if a < 0x00C00000 then 0 else 1
    | .dock => if a < 0x01800000 then 2 else if a < 0x01A00000 then 3 else 6

/-! ## The order of service (R22, R259, R260) -/

/-- The rank of a request to an address, commit words aside: journal lines 1, key records 2, the tree's root and upper
levels 3, other metadata with the dock's own areas 4, parity 5. Log 164 (DESIGN CHOICE). -/
def mramRank (r : Role) (a : Nat) : Nat :=
  if 0x01F00000 ≤ a then 2
  else if 0x01C00000 ≤ a then (if 0x01C20000 ≤ a && a < 0x01CA0000 then 3 else 4)
  else match r with
  | .card => if a < 0x00C00000 then 1 else 5
  | .dock => if a < 0x01800000 then 1 else 4

/-- A word of a line is about to be written, which held `o`: the newest request takes it if it is to the same line and of
the same rank and does not write that word yet; else a new request arrives. -/
def MramQueue.take (m : MramQueue) (rank line : Nat) (o : Nat × Nat × Nat) : MramQueue :=
  match m.reqs with
  | q :: qs =>
    if q.line == line && q.rank == rank && q.round == m.round && !q.old.any (fun e => e.1 == o.1) then
      { m with reqs := { q with old := q.old ++ [o] } :: qs }
    else { m with reqs := ⟨rank, line, m.round, [o]⟩ :: q :: qs }
  | [] => { m with reqs := [⟨rank, line, m.round, [o]⟩] }

/-- The ECC state of a word with check bits of which checker 0 of LND inverts some (R100, R286). Log 179 (DESIGN CHOICE). -/
def State.freshEcc (s : State) : Nat :=
  match ((List.range 8).filter (bitAt (s.injBits pLND 0))).length with
  | 0 => 0
  | 1 => 1
  | _ => 4

/-- A request to write a word. -/
def State.request (s : State) (rank w : Nat) : State :=
  { s with mq := s.mq.take rank (w / 8) (w, s.mramWord (8 * w), s.eccOf w) }

/-- A request `k` goes before a later request `j`: it is to the same line, it is of an earlier round, or `j` is a
commit word and `k` a journal line (R22, R26). -/
def mramBefore (k j : MramReq) : Bool :=
  k.line == j.line || k.round < j.round || (j.rank == 0 && k.rank == 1)

/-- Of the requests `q`, in order of arrival, `i` may be the next one pulsed, when those in `done` have been and the
first `here` have arrived: of the requests waiting, no earlier one goes before it, and of those so ready none ranks
before it, nor came first with its rank (R22). -/
def mramNext (q : List MramReq) (done : List Nat) (here i : Nat) : Bool :=
  let at' := fun (j : Nat) => q.getD j ⟨0, 0, 0, []⟩
  let waits := (List.range (max here (i + 1))).filter (fun j => j < q.length && !done.contains j)
  let free := waits.filter (fun j => !waits.any (fun k => k < j && mramBefore (at' k) (at' j)))
  free.contains i && free.all (fun j => j == i || (at' i).rank < (at' j).rank || ((at' i).rank == (at' j).rank && i < j))

/-- The requests pulsed, in this order, as far as the order of R22 allows. -/
def mramServed (q : List MramReq) : List Nat → List Nat → Nat → List Nat × Nat
  | [], done, here => (done, here)
  | i :: is, done, here =>
    if mramNext q done here i then mramServed q is (done ++ [i]) (max here (i + 1)) else (done, here)

/-- A word takes a value and an ECC state as it stands in the cell. -/
def State.cellWord (s : State) (w v e : Nat) : State :=
  { s with
    mram := Sparse.setRun mramBlank s.mram (8 * w) (bytesBE 8 v),
    ecc := Sparse.set eccClean s.ecc w e }

/-! ## The resync log of a dock (R456): its words stand in the tracks -/

def State.track (s : State) (t : Nat) : Track := if t = 0 then s.brg.track0 else s.brg.track1

def State.setTrack (s : State) (t : Nat) (x : Track) : State :=
  if t = 0 then { s with brg := { s.brg with track0 := x } } else { s with brg := { s.brg with track1 := x } }

/-- Set the run `[a, b)`. Log 154 (DESIGN CHOICE). -/
def addRun (l : List (Nat × Nat)) (a b : Nat) : List (Nat × Nat) :=
  if b ≤ a then l
  else
    let meets := fun (r : Nat × Nat) => a ≤ r.2 && r.1 ≤ b
    let lo := (l.filter meets).foldl (fun m r => min m r.1) a
    let hi := (l.filter meets).foldl (fun m r => max m r.2) b
    let rest := l.filter (fun r => !meets r)
    rest.filter (fun r => r.1 < lo) ++ [(lo, hi)] ++ rest.filter (fun r => lo < r.1)

/-- Clear the run `[a, b)`. Log 154 (DESIGN CHOICE). -/
def cutRun (l : List (Nat × Nat)) (a b : Nat) : List (Nat × Nat) :=
  (l.flatMap (fun r => [(r.1, min r.2 a), (max r.1 b, r.2)])).filter (fun r => r.1 < r.2)

/-- Whether a region is set. -/
def inRuns (l : List (Nat × Nat)) (r : Nat) : Bool := l.any (fun x => x.1 ≤ r && r < x.2)

/-- Bits set. -/
def runCount (l : List (Nat × Nat)) : Nat := l.foldl (fun n r => n + (r.2 - r.1)) 0

/-- A word lies in the resync log, MRAM 0x0180_0000 to 0x019F_FFFF. -/
def State.logWord (s : State) (w : Nat) : Bool := s.isDock && 0x300000 ≤ w && w < 0x340000

/-- The word that holds the bits of 64 regions from `64 i` on, numbered instance × 2^19 + region. -/
def logAt (t i : Nat) : Nat := 0x300000 + 2 ^ 17 * t + i

/-- The track of such a word, and its first region. -/
def logTrack (w : Nat) : Nat := w / 2 ^ 17 - 24
def logFirst (w : Nat) : Nat := 64 * (w % 2 ^ 17)

/-- A word of the log: region r has bit r mod 64. Log 154 (DESIGN CHOICE). -/
def State.trackWord (s : State) (w : Nat) : Nat :=
  bitsOfList 64 (fun j => inRuns (s.track (logTrack w)).bits (logFirst w + j))

/-- Give a word of the log a value. -/
def State.putTrackWord (s : State) (w v : Nat) : State :=
  let x := s.track (logTrack w)
  let b := logFirst w
  s.setTrack (logTrack w) { x with
    bits := (List.range 64).foldl (fun l j => if bitAt v j then addRun l (b + j) (b + j + 1) else l) (cutRun x.bits b (b + 64)) }

/-- A word as it stands in its cell, and a word put there, wherever it lies. -/
def State.cellAt (s : State) (w : Nat) : Nat := if s.logWord w then s.trackWord w else s.mramWord (8 * w)

def State.putCell (s : State) (w v e : Nat) : State :=
  if s.logWord w then ({ s with ecc := Sparse.set eccClean s.ecc w e } : State).putTrackWord w v else s.cellWord w v e

/-- A full word of the log, as a request of a rank (R262). -/
def State.writeLog (s : State) (rank w v : Nat) : State :=
  ({ s with mq := s.mq.take rank (w / 8) (w, s.trackWord w, s.eccOf w) } : State).putCell w v s.freshEcc |>.injUsed pLND 0

/-- Set or clear the regions of `[lo, hi)` in a track, by the words that change (R456). -/
def State.putRegions (s : State) (t lo hi : Nat) (b : Bool) : State :=
  (List.range ((hi + 63) / 64 - lo / 64)).foldl (fun (s : State) i =>
    let w := logAt t (lo / 64 + i)
    let v := bitsOfList 64 (fun j =>
      if lo ≤ logFirst w + j && logFirst w + j < hi then b else bitAt (s.trackWord w) j)
    if v = s.trackWord w && !s.wordBad w then s else s.writeLog (mramRank s.role (8 * w)) w v) s

/-- Set or clear whole words of a track at once. Log 154 (DESIGN CHOICE). -/
def State.fillRegions (s : State) (t lo hi : Nat) (b : Bool) : State :=
  let x := s.track t
  ({ s with ecc := Sparse.clear s.ecc (fun w => logAt t (lo / 64) ≤ w && w < logAt t (hi / 64)) } : State).setTrack t
    { x with bits := if b then addRun x.bits lo hi else cutRun x.bits lo hi }

/-- Some word of a track reads uncorrectable (R460). -/
def State.trackBad (s : State) (t : Nat) : Bool :=
  s.ecc.any (fun e => logAt t 0 ≤ e.1 && e.1 < logAt t (2 ^ 17) && 2 ≤ e.2)

/-! ## What a cut leaves (R25, R72) -/

/-- A request has not been pulsed: its words hold what they held. -/
def State.undoReq (s : State) (q : MramReq) : State := q.old.foldl (fun t e => t.putCell e.1 e.2.1 e.2.2) s

/-- The words of a line named in a mask read uncorrectable. -/
def spoil (line bad : Nat) (c : List (Nat × Nat)) : List (Nat × Nat) :=
  (List.range 8).foldl (fun c j => if bitAt bad j then Sparse.set eccClean c (8 * line + j) 2 else c) c

/-- A request's pulse was cut: each word it writes is old, new or mixed, and words of its line may read uncorrectable
(R25). -/
def State.tearReq (s : State) (q : MramReq) (x : TornLine) : State :=
  let t := q.old.foldl (fun t e =>
    let m := x.masks.getD (e.1 % 8) 0 % 2 ^ 64
    let mixed := (t.cellAt e.1 &&& m) ||| (e.2.1 &&& (2 ^ 64 - 1 - m))
    t.putCell e.1 mixed (if m = 0 then e.2.2 else 0)) s
  { t with ecc := spoil q.line x.bad t.ecc }

/-- Nothing more is pulsed: of the requests waiting only those of `order` were, as far as R22 allows, and the pulse of
`torn` was cut, if it was the next one (R25, R72). -/
def State.mramStop (s : State) (order : List Nat) (torn : Option TornLine) : State :=
  let q := s.mq.reqs.reverse
  let r := mramServed q order [] 0
  let cut := torn.filter (fun x => mramNext q r.1 r.2 x.req)
  let t := (List.range q.length).reverse.foldl (fun (t : State) i =>
    let q := q.getD i ⟨0, 0, 0, []⟩
    if r.1.contains i then t
    else match cut.filter (fun x => x.req == i) with
      | some x => t.tearReq q x
      | none => t.undoReq q) s
  { t with mq := {} }

/-- Store a word and its fresh check bits (R262), as a request of a rank. Log 23 (DEDUCED). -/
def State.storeWord (s : State) (rank a v : Nat) : State :=
  (s.request rank (a / 8)).cellWord (a / 8) v s.freshEcc

/-- A write that covers all eight bytes of a word; it clears a poison (R262). -/
def State.writeRanked (s : State) (rank a v : Nat) : State :=
  let t := (s.storeWord rank a v).injUsed pLND 0
  if s.eccOf (a / 8) = 3 then
    (t.bump LND_POISON_CNT_CLEARED).fireD EV_LND_POISON_CLEARED (mramRegion s.role a) (a / 8)
  else t

/-- A full word with the rank of its address. -/
def State.writeWord (s : State) (a v : Nat) : State := s.writeRanked (mramRank s.role a) a v

/-- A word of a commit line: it ranks first (R22). -/
def State.writeCommit (s : State) (a v : Nat) : State := s.writeRanked 0 a v

/-- Full words from `a` on. -/
def State.writeWords (s : State) (a : Nat) : List Nat → State
  | [] => s
  | w :: ws => (s.writeWord a w).writeWords (a + 8) ws

/-- Words of a commit line from `a` on. -/
def State.writeCommits (s : State) (a : Nat) : List Nat → State
  | [] => s
  | w :: ws => (s.writeCommit a w).writeCommits (a + 8) ws

/-- The big-endian words of a byte string, eight bytes each. Log 23 (DEDUCED). -/
def wordsOfBytes (bs : List Byte) : List Nat := (Crypto.chunks 8 ((bs.length + 7) / 8) bs).map natBE

/-- Full words given as bytes; a whole number of words. -/
def State.writeBytes (s : State) (a : Nat) (bs : List Byte) : State := s.writeWords a (wordsOfBytes bs)

/-- The bytes of words. Log 23 (DEDUCED). -/
def bytesOfWords (ws : List Nat) : List Byte := ws.flatMap (bytesBE 8)

/-- Count and report a corrected word (R261). -/
def State.noteCorrected (s : State) (w : Nat) : State :=
  (((s.bump LND_ECC_CNT_CORRECTED).setReg rLND_ECC_ADDR.off (BitVec.ofNat 32 (w % 2 ^ 22)))).fireD
    EV_LND_CORRECTED (mramRegion s.role (8 * w)) w

/-- Count and report an uncorrectable word; the fault is raised outside a line damaged by a pull (R261, R286).
Log 184 (DEDUCED). -/
def State.noteUncorr (s : State) (w : Nat) : State :=
  let t := ((s.bump LND_ECC_CNT_UNCORR).setReg rLND_ECC_ADDR.off
    (BitVec.ofNat 32 (w % 2 ^ 22 + 2 ^ 22 + 2 ^ 23 * (s.eccOf w == 3).toNat))).fireD
    EV_LND_UNCORRECTABLE (mramRegion s.role (8 * w)) w
  if s.eccOf w = 2 then t else t.fault 0 (w / 8) (w / 8) false

/-- What reading an area of words `[lo, hi)` reports of those that are not clean (R261). -/
def State.noteArea (s : State) (lo hi : Nat) : State :=
  (s.ecc.filter (fun e => lo ≤ e.1 && e.1 < hi)).foldl (fun (u : State) e =>
    if e.2 = 1 then u.noteCorrected e.1 else u.noteUncorr e.1) s

/-- What reading the words of `n` bytes from `a` reports (R261). -/
def State.noteRead (s : State) (a n : Nat) : State :=
  (List.range ((a + n + 7) / 8 - a / 8)).foldl (fun t i =>
    let w := a / 8 + i
    if t.eccOf w = 1 then t.noteCorrected w
    else if t.wordBad w then t.noteUncorr w
    else t) s

/-- A write that covers only some bytes of one word, from byte `a` (R262). -/
def State.writePart (s : State) (a : Nat) (bs : List Byte) : State :=
  let w := a / 8
  let s := s.request (mramRank s.role a) w
  let m := Sparse.setRun mramBlank s.mram a bs
  let new : State := ({ s with mram := m, ecc := Sparse.set eccClean s.ecc w s.freshEcc }).injUsed pLND 0
  match s.eccOf w with
  | 0 => new
  | 1 => new.fireD EV_LND_CORRECTED (mramRegion s.role a) w
  | _ =>
    (({ s with mram := m, ecc := Sparse.set eccClean s.ecc w 3 }.bump LND_POISON_CNT_SET).fireD
      EV_LND_POISON_SET (mramRegion s.role a) w).fault 0 (w / 8) (w / 8) false

/-! ## Single-line and two-slot records (R280) -/

/-- The eight words of a single-line record: mark, middle bits `[55:32]` of word 0, generation or lap,
words 1 to 6, and the check. -/
def slrLine (mid gen : Nat) (ws : List Nat) : List Nat :=
  let body := (0x4D * 2 ^ 56 + mid % 2 ^ 24 * 2 ^ 32 + gen % 2 ^ 32) ::
    (ws ++ List.replicate 6 0).take 6
  body ++ [Crypto.crc32 (bytesOfWords body)]

/-- Write a single-line record at `a`. -/
def State.writeSlr (s : State) (a mid gen : Nat) (ws : List Nat) : State :=
  s.writeWords a (slrLine mid gen ws)

/-- A single-line record at `a`, when it is valid: middle bits, generation and words 1 to 6. -/
def State.readSlr (s : State) (a : Nat) : Option (Nat × Nat × List Nat) :=
  let ws := (List.range 8).map (fun i => s.mramWord (a + 8 * i))
  let w0 := ws.headD 0
  if s.bytesBad a 64 || w0 / 2 ^ 56 != 0x4D ||
      ws.getD 7 0 % 2 ^ 32 != Crypto.crc32 (bytesOfWords (ws.take 7)) then none
  else some (bitsOf w0 32 24, w0 % 2 ^ 32, (ws.drop 1).take 6)

/-- The record in force of two slots: the valid one with the higher generation; with its slot. -/
def State.readTwo (s : State) (a b : Nat) : Option (Bool × Nat × List Nat) :=
  match s.readSlr a, s.readSlr b with
  | some (_, g, ws), some (_, h, vs) => if g < h then some (true, h, vs) else some (false, g, ws)
  | some (_, g, ws), none => some (false, g, ws)
  | none, some (_, h, vs) => some (true, h, vs)
  | none, none => none

/-- The record in force of two slots with its middle bits: for records that carry a state in word 0. -/
def State.readTwoM (s : State) (a b : Nat) : Option (Nat × List Nat) :=
  match s.readSlr a, s.readSlr b with
  | some (m, g, ws), some (k, h, vs) => if g < h then some (k, vs) else some (m, ws)
  | some (m, _, ws), none => some (m, ws)
  | none, some (k, _, vs) => some (k, vs)
  | none, none => none

/-- Write the next generation with its middle bits into the slot that is invalid or older. -/
def State.writeTwoM (s : State) (a b mid : Nat) (ws : List Nat) : State :=
  match s.readTwo a b with
  | some (true, g, _) => s.writeSlr a mid (g + 1) ws
  | some (false, g, _) => s.writeSlr b mid (g + 1) ws
  | none => s.writeSlr a mid 1 ws

/-- Write the next generation into the slot that is invalid or older. -/
def State.writeTwo (s : State) (a b : Nat) (ws : List Nat) : State :=
  match s.readTwo a b with
  | some (true, g, _) => s.writeSlr a 0 (g + 1) ws
  | some (false, g, _) => s.writeSlr b 0 (g + 1) ws
  | none => s.writeSlr a 0 1 ws

/-! ## Key-record pairs (R282) -/

/-- The address of slot `sl` of pair `p`. -/
def pairAddr (p sl : Nat) : Nat := 0x01F00000 + 512 * p + 256 * sl

/-- The header line's bytes. -/
def pairHeader (p gen : Nat) : List Byte :=
  bytesOfWords ((0x4B * 2 ^ 56 + p % 2 ^ 11 * 2 ^ 32 + gen % 2 ^ 32) :: List.replicate 7 0)

/-- Word 0 of the commit line over header and payload. -/
def pairCommit (gen : Nat) (body : List Byte) : Nat :=
  0xC4 * 2 ^ 56 + gen % 2 ^ 24 * 2 ^ 32 + Crypto.crc32 body

/-- Slot `sl` of pair `p`, when it passes its check: generation and 128 bytes of payload. -/
def State.readPairSlot (s : State) (p sl : Nat) : Option (Nat × List Byte) :=
  let a := pairAddr p sl
  let w0 := s.mramWord a
  let gen := w0 % 2 ^ 32
  if s.bytesBad a 200 || w0 / 2 ^ 56 != 0x4B || bitsOf w0 32 11 != p ||
      s.mramWord (a + 192) != pairCommit gen (s.mramBytes a 192) then none
  else some (gen, s.mramBytes (a + 64) 128)

/-- The slot in force of a pair: its number, generation and payload (R348). Log 28 (DEDUCED). -/
def State.readPair (s : State) (p : Nat) : Option (Nat × Nat × List Byte) :=
  match s.readPairSlot p 0, s.readPairSlot p 1 with
  | some (g, x), some (h, y) => if g < h then some (1, h, y) else some (0, g, x)
  | some (g, x), none => some (0, g, x)
  | none, some (h, y) => some (1, h, y)
  | none, none => none

/-- A pair no record was ever written to. Log 28 (DEDUCED). -/
def State.pairBlank (s : State) (p : Nat) : Bool :=
  s.mramBytes (pairAddr p 0) 512 == List.replicate 512 0

/-- Write slot `sl` of pair `p`: header, payload, and the commit line last (R34). -/
def State.writePairSlot (s : State) (p sl gen : Nat) (payload : List Byte) : State :=
  let body := pairHeader p gen ++ padTo 128 payload
  (s.writeBytes (pairAddr p sl) body).writeWords (pairAddr p sl + 192)
    (pairCommit gen body :: List.replicate 7 0)

/-- The slot the next record goes into, and its generation. -/
def State.nextPairSlot (s : State) (p : Nat) : Nat × Nat :=
  match s.readPair p with
  | some (sl, gen, _) => (1 - sl, gen + 1)
  | none => (0, 1)

/-- Commit a record of a pair (R34). -/
def State.commitPair (s : State) (p : Nat) (payload : List Byte) : State :=
  s.writePairSlot p (s.nextPairSlot p).1 (s.nextPairSlot p).2 payload

/-- Payload byte `i` of the record in force of a pair, 0 where there is none. -/
def State.pairByte (s : State) (p i : Nat) : Nat :=
  match s.readPair p with
  | some (_, _, x) => (x.getD i 0).toNat
  | none => 0

/-- The 8-byte number at payload byte `i`. -/
def State.pairNum (s : State) (p i n : Nat) : Nat :=
  match s.readPair p with
  | some (_, _, x) => natBE ((x.drop i).take n)
  | none => 0

end Sys2Proof.Machine
end

