-- ==== Sys2Proof/Machine/Keys.lean ====
section
/-! DEFINITION. The KEY engine (chapter 14): fuse words, the key ladder, key records and their wraps,
nonces, and the session keys of a link. -/

namespace Sys2Proof.Machine

open Sys2Proof.Crypto

/-- An ASCII label as bytes (R344). -/
def label (t : String) : List Byte := t.toList.map (fun c => BitVec.ofNat 8 c.toNat)

/-- A fuse reads unburned as 0; the stepping word carries B0 (R342). Log 12 (DESIGN CHOICE). -/
def otpBlank (w : Nat) : Nat := if w = 5 then 0xB0 * 2 ^ 32 else 0

/-- A word of the fuse array. Log 12 (DESIGN CHOICE). -/
def State.fuseWord (s : State) (w : Nat) : Nat := Sparse.get otpBlank s.otp w

/-- A word of the OTP shadow; words 0 to 3 are never in it (R343). -/
def State.shadowWord (s : State) (w : Nat) : Nat :=
  if w < 4 then 0 else Sparse.get otpBlank s.shadow w

/-- The card serial (R342). Log 12 (DESIGN CHOICE). -/
def State.serial (s : State) : Nat := s.shadowWord 4

/-- The device root key, read from the array (R343). Log 12 (DESIGN CHOICE). -/
def State.drk (s : State) : List Byte := (List.range 4).flatMap (fun i => bytesBE 8 (s.fuseWord i))

/-- The firmware rollback floor's fuse bits (R342, R448). -/
def State.floorBits (s : State) : Nat := s.fuseWord 7 + 2 ^ 64 * s.fuseWord 8

def State.kwk (s : State) : List Byte := hmac s.drk (label "KWK")

/-- The lock verifier key (R344). -/
def State.lvk (s : State) : List Byte := hmac s.drk (label "LVK")

/-- The label of a ladder key, by its class (R344, R345). -/
def classLabel (cls : Nat) : List Byte :=
  label (if cls = 1 then "IMK" else if cls = 2 then "JNK" else if cls = 3 then "TRK" else "SLK")

/-- A ladder key from its seed (R344). -/
def State.ladder (s : State) (cls p kgen : Nat) (seed : List Byte) : List Byte :=
  hmac s.drk (classLabel cls ++ bytesBE 2 p ++ bytesBE 4 kgen ++ seed)

/-- The IV of a wrap (R346). -/
def wrapIv (p gen : Nat) : List Byte := 0x57 :: bytesBE 2 p ++ bytesBE 4 gen ++ List.replicate 5 0

/-- Payload bytes 0 to 7 of a key record (R345). -/
def keyHead (state cls kgen : Nat) : List Byte :=
  [BitVec.ofNat 8 state, BitVec.ofNat 8 cls, 0, 0] ++ bytesBE 4 kgen

/-- The payload of a HELD key record (R345, R346). -/
def State.keyPayload (s : State) (p gen cls kgen : Nat) (secret : List Byte) (boots : Nat) : List Byte :=
  let iv := wrapIv p gen
  let ct := gcmCrypt s.kwk iv (padTo 32 secret)
  let tag := gcmTag s.kwk iv (keyHead 1 cls kgen ++ bytesBE 4 boots) ct
  keyHead 1 cls kgen ++ ct ++ tag ++ bytesBE 4 boots

/-- A key record: its KGEN, its secret when HELD, and BOOTS. -/
structure KeyRec where
  kgen : Nat
  secret : Option (List Byte)
  boots : Nat
  deriving DecidableEq, Repr

/-- What slot `sl` of a key's pair holds, when it passes its check and its unwrap (R346). Log 28 (DEDUCED). -/
def State.readKeySlot (s : State) (p sl : Nat) : Option (Nat × KeyRec) :=
  match s.readPairSlot p sl with
  | none => none
  | some (gen, x) =>
    let kgen := natBE ((x.drop 4).take 4)
    let boots := natBE ((x.drop 56).take 4)
    if x.headD 0 = 0 then some (gen, ⟨kgen, none, boots⟩)
    else
      let ct := (x.drop 8).take 32
      if gcmTag s.kwk (wrapIv p gen) (x.take 8 ++ (x.drop 56).take 4) ct = (x.drop 40).take 16 then
        some (gen, ⟨kgen, some (gcmCrypt s.kwk (wrapIv p gen) ct), boots⟩)
      else none

/-- The key record in force: the valid slot with the higher generation (R348). -/
def State.readKey (s : State) (p : Nat) : Option (Nat × KeyRec) :=
  match s.readKeySlot p 0, s.readKeySlot p 1 with
  | some (g, x), some (h, y) => if g < h then some (h, y) else some (g, x)
  | some r, none => some r
  | none, some r => some r
  | none, none => none

/-- The slot the next key record goes into, and its generation: the invalid or older one (R34). -/
def State.nextKeySlot (s : State) (p : Nat) : Nat × Nat :=
  match s.readKeySlot p 0, s.readKeySlot p 1 with
  | some (g, _), some (h, _) => if g < h then (0, h + 1) else (1, g + 1)
  | some (g, _), none => (1, g + 1)
  | none, some (h, _) => (0, h + 1)
  | none, none => (0, 1)

/-- Report an operation of the KEY engine in OP_STAT (R372). -/
def State.keyOp (s : State) (op result pair : Nat) : State :=
  (((s.setFld KEY_OP_STAT_OP op).setFld KEY_OP_STAT_RESULT result).setFld KEY_OP_STAT_PAIR pair).bump
    KEY_OP_STAT_COUNT

/-- Commit a HELD key record (R347). -/
def State.commitKey (s : State) (p cls kgen : Nat) (secret : List Byte) (boots : Nat) : State :=
  let n := s.nextKeySlot p
  (s.writePairSlot p n.1 n.2 (s.keyPayload p n.2 cls kgen secret boots)).keyOp 3 0 p

/-- Commit STATE EMPTY with KGEN kept, once. -/
def State.commitEmpty (s : State) (p cls : Nat) : State :=
  let kgen := match s.readKey p with
    | some (_, r) => r.kgen
    | none => 0
  let n := s.nextKeySlot p
  (s.writePairSlot p n.1 n.2 (keyHead 0 cls kgen)).keyOp 3 0 p

/-- Overwrite a key: EMPTY into the slot of the older generation, then into the other (R347). -/
def State.overwriteKey (s : State) (p cls : Nat) : State := (s.commitEmpty p cls).commitEmpty p cls

/-- When one slot of a pair fails its check, the failed slot is rewritten with the content in force and
EV_KEY_RECORD_FALLBACK fires (R348). -/
def State.mendPair (s : State) (p cls : Nat) : State :=
  match s.readKeySlot p 0, s.readKeySlot p 1 with
  | some (g, r), none | none, some (g, r) =>
    if g ≤ 1 ∧ (s.mramBytes (pairAddr p 1) 256 == List.replicate 256 0) then s
    else
      let t := match r.secret with
        | some k => s.commitKey p cls r.kgen k r.boots
        | none => s.commitEmpty p cls
      t.fireD EV_KEY_RECORD_FALLBACK p 0
  | _, _ => s

/-- The same of the pairs that hold the state of an erase or of a delete (R345, R348). -/
def State.mendState (s : State) (p : Nat) : State :=
  match s.readPairSlot p 0, s.readPairSlot p 1 with
  | some (g, x), none | none, some (g, x) =>
    if g ≤ 1 ∧ (s.mramBytes (pairAddr p 1) 256 == List.replicate 256 0) then s
    else ((s.commitPair p x).keyOp 3 0 p).fireD EV_KEY_RECORD_FALLBACK p 0
  | _, _ => s

/-- The pairs of the erase and delete states. -/
def statePairs : List Nat := 0x16 :: (List.range 16).map (0x20 + ·)

/-- A fresh 32-byte seed, derived, wrapped and committed as the next key of a pair; the key and the state
(R349). -/
def State.createKey (s : State) (p cls kgen : Nat) : List Byte × State :=
  let seed := s.rand 32
  (s.ladder cls p kgen seed, (s.spend.commitKey p cls kgen seed 0).keyOp 2 0 p)

/-- The KGEN the next key of a pair takes (R349). -/
def State.nextKgen (s : State) (p : Nat) : Nat :=
  match s.readKey p with
  | some (_, r) => r.kgen + 1
  | none => 1

/-- A nonce of PAIR_BEGIN (R351). -/
def State.pairNonce (s : State) : List Byte :=
  if s.keys.jnk = [] then s.rand 16
  else bytesBE 4 (s.fld KEY_BOOTS_BOOTS) ++ bytesBE 4 (s.keys.nonces + 1) ++ s.rand 8

/-- Draw it and count it. -/
def State.drawNonce (s : State) : State := { s with keys := { s.keys with nonces := s.keys.nonces + 1 } }.spend

/-- The session secret of a pairing (R368). -/
def sessionSecret (pk nH nC : List Byte) (serial : Nat) : List Byte :=
  hmac pk (label "SS" ++ nH ++ nC ++ bytesBE 8 serial)

/-- The session key of rekey `r`, epoch `e` (R368). -/
def sessionKey (ss : List Byte) (r e hn cn : Nat) : List Byte :=
  hmac ss (label "LK" ++ bytesBE 4 r ++ bytesBE 1 e ++ bytesBE 4 hn ++ bytesBE 2 cn)

/-- Pairing key of slot `k`. -/
def State.pairKey (s : State) (k : Nat) : List Byte := if k = 0 then s.keys.p0 else s.keys.p1

def State.setPairKey (s : State) (k : Nat) (x : List Byte) : State :=
  if k = 0 then { s with keys := { s.keys with p0 := x } } else { s with keys := { s.keys with p1 := x } }

/-- IMK of instance `n`, empty when not held. -/
def State.imk (s : State) (n : Nat) : List Byte := s.keys.imk.getD n []

def State.setImk (s : State) (n kgen : Nat) (k : List Byte) : State :=
  { s with keys := { s.keys with imk := s.keys.imk.set n k, kgen := s.keys.kgen.set n kgen } }

/-- The KEY engine starts no new operation: quiescing, in reset, or fenced (R370, R371). -/
def State.keyHolds (s : State) : Bool :=
  s.flag (PG_CTRL_QUIESCE_REQ pKEY) || s.flag (PG_STAT_RST_BUSY pKEY) || s.keys.wiped

/-- The KEY engine is fenced: operations are refused while held keys stay in use (R371). Log 74 (DEDUCED). -/
def State.keyFenced (s : State) : Bool := s.fenced (.engine pKEY 0) || s.fenced (.island islLSE)

/-- The random source serves (R350, R371). -/
def State.rngUp (s : State) : Bool := !s.fenced (.engine pKEY 1) && !s.keyFenced

/-- The ladder serves (R371). Log 75 (DEDUCED). -/
def State.ladderUp (s : State) : Bool := !s.fenced (.engine pKEY 2) && !s.keyFenced

end Sys2Proof.Machine
end

