-- ==== Sys2Proof/Machine/Landing.lean ====
section
/-! DEFINITION. The journal of the landing store (chapter 11): record formats, allocation at the ring
head, commit, release, the anchor, line retirement and the bad-line table, back-pressure and the replay scan.  The dock's
bridge journal is the same ring with its own kinds (R283). -/

namespace Sys2Proof.Machine

open Sys2Proof.Crypto

/-- Lines of the ring (R269): the journal on a card, the bridge journal on a dock. -/
def ringLines (r : Role) : Nat :=
  match r with
  | .card => 196608
  | .dock => 393216

/-- Lines of a record of a kind (R264). -/
def kindLines (k : Nat) : Nat := if k = 1 ∨ k = 4 then 66 else 2

/-- The kinds of a role, PAD aside. -/
def kindInRole (r : Role) (k : Nat) : Bool :=
  match r with
  | .card => k == 1 || k == 2
  | .dock => k == 4 || k == 5

/-- The good lines among the `n + 64` from `line` on, the first `n` of them (R278). -/
def State.goodLines (s : State) (line n : Nat) : List Nat :=
  (((List.range (n + 64)).map (line + ·)).filter (fun l => !s.lnd.bad.contains l)).take n

/-! ## The journal lane (R353) -/

/-- The first counter block of a line. -/
def laneIv (lap line : Nat) : List Byte :=
  0x4A :: bytesBE 4 lap ++ bytesBE 4 line ++ [0, 0, 0] ++ bytesBE 4 1

/-- A line through the journal lane under JNK. -/
def State.lane (s : State) (lap line : Nat) (bs : List Byte) : List Byte :=
  ctrCrypt s.keys.jnk (laneIv lap line) bs

/-- A header line through the lane: word 0 stays clear (R265). -/
def State.laneHeader (s : State) (lap line : Nat) (bs : List Byte) : List Byte :=
  bs.take 8 ++ ((s.lane lap line bs).drop 8)

/-! ## Header and commit lines (R265, R266) -/

/-- Words 0 to 6 of a header line, in plaintext. -/
def headerWords (r : JRec) (lines : Nat) : List Nat :=
  [0xA5 * 2 ^ 56 + r.kind * 2 ^ 52 + lines * 2 ^ 45 + r.lap % 2 ^ 32, r.seq % 2 ^ 64,
   r.inst % 16 * 2 ^ 60 + r.cnt % 4096 * 2 ^ 48 + r.addr % 2 ^ 36, r.ports % 4, 0, 0, 0]

/-- HDR_CRC and HDR_CHK. -/
def headerCrc (r : JRec) (lines : Nat) : Nat := crc32 (bytesOfWords (headerWords r lines))

/-- Words 0 and 2 of a commit line. Log 88 (DEDUCED). -/
def commitWords (r : JRec) (payCrc : Nat) : List Nat :=
  [0x5A * 2 ^ 56 + r.seq % 2 ^ 16 * 2 ^ 40 + r.lap % 2 ^ 8 * 2 ^ 32 +
     headerCrc r (kindLines r.kind), payCrc]

/-- Word 1 of a released record's commit line. -/
def releaseWord (r : JRec) : Nat := 0x3C * 2 ^ 56 + r.seq % 2 ^ 16 * 2 ^ 40

/-- Write a header line. -/
def State.writeHeader (s : State) (r : JRec) (lines : Nat) : State :=
  let bs := bytesOfWords (headerWords r lines ++ [headerCrc r lines])
  s.writeBytes (64 * r.line) (s.laneHeader r.lap r.line bs)

/-- The lines of a record in the ring. Log 88 (DEDUCED). -/
def State.recordLines (s : State) (r : JRec) : List Nat := s.goodLines r.line (kindLines r.kind)

/-- The last line of a record: its commit line. -/
def State.commitLine (s : State) (r : JRec) : Nat := (s.recordLines r).getLastD 0

/-- The payload lines of a record. -/
def State.payloadLines (s : State) (r : JRec) : List Nat := (s.recordLines r).tail.dropLast

/-! ## Use of the ring (R272, R275) -/

/-- The first line of the anchor: the oldest unreleased record, else the ring head. Log 89 (DEDUCED). -/
def State.anchorLine (s : State) : Nat :=
  match s.lnd.recs.head? with
  | some r => r.line
  | none => s.lnd.head

/-- JSTAT.USED. -/
def State.usedLines (s : State) : Nat :=
  (s.lnd.head + ringLines s.role - s.anchorLine) % ringLines s.role

/-- HIGH_MARK and RESUME_MARK as they act (R287). -/
def State.highMarkPct (s : State) : Nat := min 100 (s.fld LND_JCFG_HIGH_MARK)
def State.resumePct (s : State) : Nat := min 60 (s.fld LND_JCFG_RESUME_MARK)

/-- The journal is fenced: JNK or the anchor failed, the bad-line table overflowed, or the LAND island or
its journal is fenced (R64, R274, R278). -/
def State.journalFenced (s : State) : Bool :=
  s.lnd.fenced || s.fenced (.engine pLND 2) || s.fenced (.island islLAND)

/-- Where the next record of `n` lines starts, and the lines a PAD before it takes (R269). -/
def State.placeRecord (s : State) (head n : Nat) : Nat × List Nat :=
  let ls := s.goodLines head n
  if ls.all (· < ringLines s.role) ∧ ls.length = n then (ls.headD head, [])
  else ((s.goodLines 0 n).headD 0, (s.goodLines head n).filter (· < ringLines s.role))

/-- The head after `k` records of `n` lines, and the lines they take with pads. -/
def State.simulate (s : State) (n : Nat) : Nat → Nat → Nat
  | 0, _ => 0
  | k + 1, head =>
    let pl := s.placeRecord head n
    let last := (s.goodLines pl.1 n).getLastD 0
    let fin := last + 1
    (if pl.2.isEmpty then fin - head else ringLines s.role - head + fin) + s.simulate n k fin

/-- `k` records of a kind fit: the head stays short of the anchor's first line (R272, R275). -/
def State.fits (s : State) (kind k : Nat) : Bool :=
  s.usedLines + s.simulate (kindLines kind) k s.lnd.head < ringLines s.role

/-! ## The anchor record (R272) -/

def anchorA : Nat := 0x01C00000
def anchorB : Nat := 0x01C00040

/-- Rewrite the anchor record, naming the anchor, or the last record when none is unreleased.
Log 24 (DESIGN CHOICE), 89 (DEDUCED). -/
def State.writeAnchor (s : State) : State :=
  let (line, seq, lap) := match s.lnd.recs.head? with
    | some r => (r.line, r.seq, r.lap)
    | none => (s.lnd.lastLine, s.lnd.lastSeq, s.lnd.lastLap)
  let t := s.writeTwo anchorA anchorB [line, seq, lap, s.lnd.floor]
  { t with lnd := { t.lnd with ancLine := line, ancSeq := seq, ancLap := lap, ancTime := s.uptime,
                               ancMoved := false } }

/-! ## Allocation (R268, R269) -/

/-- Advance the head past some lines; where it would reach the line that the anchor record in force names, the anchor is
rewritten first, and the head waits for that pulse (R272). -/
def State.advanceHead (s : State) (lines : List Nat) : State :=
  let head := lines.getLastD 0 + 1
  let s := if lines.contains s.lnd.ancLine || head % ringLines s.role == s.lnd.ancLine then s.writeAnchor.mramFence else s
  { s with lnd := { s.lnd with head := head } }

/-- LND.WEAR.JOURNAL_PCT (R285). -/
def State.journalWear (s : State) : Nat := s.lnd.lap * 200 / 10000000000

/-- The wear of the journal reaches 80 per cent. -/
def State.noteWear (s t : State) : State :=
  if s.journalWear < 80 ∧ 80 ≤ t.journalWear then t.fire EV_LND_WEAR_HIGH else t

/-- Write a PAD record over the lines left before the end and go on at line 0 (R269). -/
def State.padRing (s : State) (lines : List Nat) : State :=
  let t := match lines with
    | [] => s
    | l :: _ =>
      let r : JRec := { seq := s.lnd.seq, line := l, lap := s.lnd.lap, kind := 3, inst := 0, cnt := 0,
                        addr := 0 }
      let t := (s.advanceHead lines).writeHeader r lines.length
      { t with lnd := { t.lnd with seq := t.lnd.seq + 1, lastLine := l, lastSeq := r.seq,
                                   lastLap := r.lap } }
  let u : State := { t with lnd := { t.lnd with head := 0, lap := t.lnd.lap + 1 } }
  t.noteWear (u.fireD EV_LND_LAP_WRAP 0 (t.lnd.lap + 1))

/-- Allocate a record at the ring head and write its header; it enters the index uncommitted. -/
def State.allocRecord (s : State) (kind inst cnt addr ports g : Nat) : State :=
  let n := kindLines kind
  let pl := s.placeRecord s.lnd.head n
  let fits := (s.goodLines s.lnd.head n).all (· < ringLines s.role)
  let t := if fits then s else s.padRing pl.2
  let r : JRec := { seq := t.lnd.seq, line := pl.1, lap := t.lnd.lap, kind := kind, inst := inst,
                    cnt := cnt, addr := addr, ports := ports, g := g }
  let t := (t.advanceHead (t.goodLines pl.1 n)).writeHeader r n
  { t with lnd := { t.lnd with
      seq := t.lnd.seq + 1, recs := t.lnd.recs ++ [r], lastLine := r.line, lastSeq := r.seq,
      lastLap := r.lap } }

/-- The journal-use events: HIGH when the used lines rise to the mark (R275, R283). -/
def State.noteHigh (s t : State) : State :=
  let m := s.highMarkPct * ringLines s.role
  if 100 * s.usedLines < m ∧ m ≤ 100 * t.usedLines then
    t.fire (match t.role with | .card => EV_LND_JOURNAL_HIGH | .dock => EV_BRG_JOURNAL_HIGH)
  else t

/-- Allocate the records of a WRITE: one for each unit from `addr` on (R275). -/
def State.allocWrites (s : State) (kind inst addr ports g : Nat) : Nat → State
  | 0 => s
  | n + 1 => (s.allocRecord kind inst 0 addr ports g).allocWrites kind inst (addr + 1) ports (g + 1) n

/-- The first reservation that fails sets FULL (R275). -/
def State.noteFull (s : State) : State :=
  if s.flag LND_JSTAT_FULL then s
  else
    match s.role with
    | .card => ((s.setFlag LND_JSTAT_FULL true).fire EV_LND_JOURNAL_FULL).fire EV_CMD_BACKPRESSURE
    | .dock => (s.setFlag LND_JSTAT_FULL true).fire EV_BRG_JOURNAL_FULL

/-- FULL ends when the used lines fall to RESUME_MARK per cent (R275). -/
def State.noteResume (s : State) : State :=
  if s.flag LND_JSTAT_FULL && 100 * s.usedLines ≤ s.resumePct * ringLines s.role then
    (s.setFlag LND_JSTAT_FULL false).fire EV_LND_JOURNAL_RESUME
  else s

/-! ## Records of the index -/

def State.findRec (s : State) (seq : Nat) : Option JRec := s.lnd.recs.find? (fun r => r.seq == seq)

def State.updRec (s : State) (seq : Nat) (f : JRec → JRec) : State :=
  { s with lnd := { s.lnd with recs := mapIf (fun r => r.seq == seq) f s.lnd.recs } }

def State.dropRec (s : State) (seq : Nat) : State :=
  { s with lnd := { s.lnd with recs := s.lnd.recs.filter (fun r => r.seq != seq) } }

/-- Write one payload line through the lane. -/
def State.writePayload (s : State) (lap : Nat) : List Nat → List Byte → State
  | [], _ => s
  | l :: ls, bs => (s.writeBytes (64 * l) (s.lane lap l (bs.take 64))).writePayload lap ls (bs.drop 64)

/-- The words of a commit line but word 1: 0, then 2 to 7 (R266). -/
def commitLineWords (r : JRec) (payCrc : Nat) : List Nat := commitWords r payCrc ++ List.replicate 5 0

/-- Commit a record: payload lines, then words 0 and 2 to 7 of the commit line (R26, R266, R268). Log 88 (DEDUCED). -/
def State.commitRec (s : State) (r : JRec) (payload : List Byte) : State :=
  let isW := kindLines r.kind == 66
  let t := if isW then s.writePayload r.lap (s.payloadLines r) (padTo 4096 payload) else s
  let crc := if isW then crc32 (padTo 4096 payload) else 0
  let w := commitLineWords r crc
  ((t.writeCommit (64 * s.commitLine r) (w.headD 0)).writeCommits (64 * s.commitLine r + 16) w.tail).updRec r.seq
    (fun x => { x with committed := true })

/-- The plaintext of a write record's unit, from the store (R16). -/
def State.recData (s : State) (r : JRec) : List Byte :=
  (s.payloadLines r).flatMap (fun l => s.lane r.lap l (s.mramBytes (64 * l) 64))

/-- What reading the payload of a record reports (R261). -/
def State.noteRecord (s : State) (r : JRec) : State := (s.payloadLines r).foldl (fun (t : State) l => t.noteRead (64 * l) 64) s

/-- A payload word of the record reads uncorrectable (R286). -/
def State.recBad (s : State) (r : JRec) : Bool := (s.payloadLines r).any (fun l => s.bytesBad (64 * l) 64)

/-! ## The bad-line table (R278–R280). Log 178 (DESIGN CHOICE) -/

/-- Line `i` of slot `sl` of the bad-line table. -/
def badAddr (sl i : Nat) : Nat := 0x01C00400 + 512 * sl + 64 * i

/-- Four words of a line of the table: eight entries, each the line's index and one, or 0. -/
def badWords (bad : List Nat) (i : Nat) : List Nat :=
  let one := fun (j : Nat) => match bad[8 * i + j]? with
    | some l => l + 1
    | none => 0
  (List.range 4).map (fun j => one (2 * j) + 2 ^ 32 * one (2 * j + 1))

/-- A slot of the table, when its eight lines are valid and of one generation. -/
def State.readBadSlot (s : State) (sl : Nat) : Option (Nat × List Nat) :=
  let rs := (List.range 8).filterMap (fun i => s.readSlr (badAddr sl i))
  let g := (rs.map (·.2.1)).headD 0
  if rs.length = 8 ∧ rs.all (fun r => r.2.1 == g) then
    some (g, ((rs.flatMap (fun r => (r.2.2.take 4).flatMap (fun w => [w % 2 ^ 32, w / 2 ^ 32]))).filter (· != 0)).map (· - 1))
  else none

/-- The table in force: slot, generation and lines. -/
def State.readBad (s : State) : Option (Nat × Nat × List Nat) :=
  match s.readBadSlot 0, s.readBadSlot 1 with
  | some (g, x), some (h, y) => if g < h then some (1, h, y) else some (0, g, x)
  | some (g, x), none => some (0, g, x)
  | none, some (h, y) => some (1, h, y)
  | none, none => none

/-- Write the table's next generation into the slot that is invalid or older. -/
def State.writeBad (s : State) : State :=
  let dst := match s.readBad with
    | some (sl, g, _) => (1 - sl, g + 1)
    | none => (0, 1)
  (List.range 8).foldl (fun (t : State) i => t.writeSlr (badAddr dst.1 i) 0 dst.2 (badWords s.lnd.bad i)) s

/-- The retired lines, as the table holds them. -/
def State.loadBad (s : State) : State :=
  { s with lnd := { s.lnd with bad := match s.readBad with
    | some (_, _, l) => l
    | none => [] } }

/-- Retire a line: into the bad-line table, or the table is full (R278). -/
def State.retireLine (s : State) (l : Nat) : State :=
  if s.lnd.bad.contains l then s
  else if s.lnd.bad.length < 64 then ({ s with lnd := { s.lnd with bad := s.lnd.bad ++ [l] } } : State).writeBad
  else s.fault 4 0 0 false

/-- Release a record, once what its release rests on is served: word 1 of its commit line, and out of the index
(R27, R272). -/
def State.releaseRec (s : State) (r : JRec) : State :=
  let t := (s.mramFence.writeCommit (64 * s.commitLine r + 8) (releaseWord r)).dropRec r.seq
  let t := { t with lnd := { t.lnd with ancMoved := true } }
  let t := t.noteResume
  if r.replayed && !(t.lnd.recs.any (·.replayed)) then t.fire EV_SYS_REPLAY_DONE else t

/-! ## The replay scan of step 7 (R273) -/

/-- What a header line says, when it decodes and checks (R267): the record and its lines. -/
def State.readHeader (s : State) (line : Nat) : Option (JRec × Nat) :=
  let raw := s.mramBytes (64 * line) 64
  let w0 := natBE (raw.take 8)
  let lap := w0 % 2 ^ 32
  let ws := wordsOfBytes (s.laneHeader lap line raw)
  let kind := bitsOf w0 52 4
  let lines := bitsOf w0 45 7
  let w2 := ws.getD 2 0
  let r : JRec := { seq := ws.getD 1 0, line := line, lap := lap, kind := kind, inst := bitsOf w2 60 4,
                    cnt := bitsOf w2 48 12, addr := bitsOf w2 0 36, ports := bitsOf (ws.getD 3 0) 0 2 }
  if s.bytesBad (64 * line) 64 || w0 / 2 ^ 56 != 0xA5 ||
      ws.getD 7 0 % 2 ^ 32 != crc32 (bytesOfWords (ws.take 7)) ||
      !(kind == 3 && 1 ≤ lines && lines ≤ 65 || kindInRole s.role kind && lines == kindLines kind) then
    none
  else some (r, lines)

/-- The commit line of a record makes it valid (R26, R267): the words its pulse writes decode, its commit word matches
the header, and the payload of a write kind decodes and matches PAY_CRC. -/
def State.recValid (s : State) (r : JRec) : Bool :=
  let c := 64 * s.commitLine r
  !s.bytesBad c 8 && !s.bytesBad (c + 16) 48 && s.mramWord c == (commitWords r 0).headD 0 &&
  (kindLines r.kind != 66 || (!s.recBad r && s.mramWord (c + 16) % 2 ^ 32 == crc32 (s.recData r)))

/-- The record is released (R267). -/
def State.recReleased (s : State) (r : JRec) : Bool :=
  let c := 64 * s.commitLine r
  !s.bytesBad (c + 8) 8 && bitsOf (s.mramWord (c + 8)) 40 24 == bitsOf (releaseWord r) 40 24

/-- The SEQ below which a delete of an instance discards its records (R236, R345). -/
def State.deleteSeq (s : State) (n : Nat) : Nat :=
  if s.pairByte (0x20 + n) 0 = 0 then 0 else s.pairNum (0x20 + n) 8 8

/-- What the scan has found: indexed records newest first, discarded, and where the last record ended:
next line, SEQ and LAP. -/
structure Scan where
  recs : List JRec := []
  discarded : Nat := 0
  line : Nat
  seq : Nat
  lap : Nat
  lastLine : Nat := 0
  deriving DecidableEq, Repr

/-- Scan on from a position, `fuel` records at most (R273). -/
def State.scan (s : State) : Nat → Scan → Scan
  | 0, a => a
  | fuel + 1, a =>
    let here := (s.goodLines a.line 1).headD a.line
    let line := if ringLines s.role ≤ here then (s.goodLines 0 1).headD 0 else here
    match s.readHeader line with
    | none => a
    | some (r, lines) =>
      if r.seq != a.seq then a
      else if r.kind = 3 then
        s.scan fuel { a with line := 0, seq := a.seq + 1, lap := r.lap, lastLine := line }
      else
        let b := { a with line := (s.goodLines line lines).getLastD 0 + 1, seq := a.seq + 1, lap := r.lap,
                          lastLine := line }
        if s.recReleased r && s.recValid r then s.scan fuel b
        else if r.seq < s.lnd.floor || r.seq < s.deleteSeq r.inst || !s.recValid r then
          s.scan fuel { b with discarded := b.discarded + 1 }
        else s.scan fuel { b with recs := { r with committed := true, replayed := true } :: b.recs }

/-- What the scan reports of the words it reads: the anchor record, and the lines from the anchor to the head (R261). -/
def State.noteScan (s : State) (line head : Nat) : State :=
  let t := s.noteArea 0x380000 0x380010
  if line ≤ head then t.noteArea (8 * line) (8 * head + 8)
  else (t.noteArea (8 * line) (8 * ringLines s.role)).noteArea 0 (8 * head + 8)

/-- Step 7: the anchor in force, the scan, the index, the head and the next LAP (R273, R274). -/
def State.replay (s : State) (gOf : Nat → Nat → Nat) : State :=
  match s.readTwo anchorA anchorB with
  | none => (s.fault 3 0 3 false)
  | some (_, _, ws) =>
    let line := ws.getD 0 0
    let seq := ws.getD 1 0
    let lap := ws.getD 2 0
    let s := { s with lnd := { s.lnd with floor := ws.getD 3 0, ancLine := line, ancSeq := seq,
                                          ancLap := lap, ancTime := s.uptime } }
    match s.readHeader line with
    | none => s.fault 3 0 3 false
    | some (r, _) =>
      if r.seq != seq || r.lap != lap then s.fault 3 0 3 false
      else
        let a := s.scan (ringLines s.role) { line := line, seq := seq, lap := lap }
        let recs := a.recs.reverse.map (fun x => { x with g := gOf x.inst x.addr })
        let t := { s with lnd := { s.lnd with
          recs := recs, head := a.line, seq := a.seq, lap := a.lap + 1, lastLine := a.lastLine,
          lastSeq := a.seq - 1, lastLap := a.lap } }
        let was : State := { s with lnd := { s.lnd with lap := a.lap } }
        was.noteWear (((t.noteScan line a.line).setFld SYS_REPLAY_STAT_VALID recs.length).setFld SYS_REPLAY_STAT_DISCARDED a.discarded)

end Sys2Proof.Machine
end

