-- ==== Sys2Proof/Machine/Flash.lean ====
section
/-! DEFINITION. What the flash of a card holds (chapters 12 to 14): slots and their places, superblocks and their
parity, the units of the host, and the internal ones: snapshots of map, directory and table pages, and tree units. -/

namespace Sys2Proof.Machine

open Sys2Proof.Crypto

/-! ## Map entries (R288) -/

/-- Unmapped. -/
def unmapped : Nat := 0xFFFFFFFF
def mapBlank (_ : Nat) : Nat := unmapped
def zeroBlank (_ : Nat) : Nat := 0

/-- The entry of global unit `g`. -/
def State.mapGet (s : State) (g : Nat) : Nat := Sparse.get mapBlank s.mapS.map g

/-- Pages per block as formatted. -/
def State.ppb (s : State) : Nat := s.fld PAR_GEOM_PAGES

/-- The LUN, block, page and codeword of an entry in half `h`. -/
def entryLun (e : Nat) : Nat := bitsOf e 25 7
def entrySlot (e : Nat) : Nat := bitsOf e 0 25
def entryPair (p e : Nat) : Nat := entrySlot e / (4 * p)
def entryPage (p e : Nat) : Nat := entrySlot e % (4 * p) / 4
def entryCw (e : Nat) : Nat := entrySlot e % 4

/-- The entry of a slot. -/
def entryOf (p lun b page cw : Nat) : Nat := lun * 2 ^ 25 + b * (4 * p) + page * 4 + cw

/-- The half of a global unit: its extent modulo 2. -/
def unitHalf (g : Nat) : Nat := g / 4096 % 2

/-- The key of a slot in the flash store: its entry and its half. -/
def slotKey (e h : Nat) : Nat := 2 * e + h

/-- The global unit of unit `addr` of an instance (R233). -/
def State.globalUnit (s : State) (inst addr : Nat) : Nat := 4096 * s.fld (INS_BASE_EXTENT inst) + addr

/-! ## Sets and superblocks (R303, R304, R326) -/

def State.setWidth (s : State) : Nat := s.fld PAR_GEOM_SET_WIDTH

/-- The LUNs in use that belong to a parity set. -/
def State.setMembers (s : State) (q : Nat) : List Nat :=
  s.media.luns.filter (fun l => if s.setWidth = 0 then l % 16 == q else l % 16 / 2 == q)

/-- The parity set of a LUN. -/
def State.setOf (s : State) (l : Nat) : Nat := if s.setWidth = 0 then l % 16 else l % 16 / 2

/-- Superblock index (R326). -/
def sbIndex (set b h : Nat) : Nat := (set * 12288 + b) * 2 + h

def sbSet (k : Nat) : Nat := k / 2 / 12288
def sbPair (k : Nat) : Nat := k / 2 % 12288
def sbHalf (k : Nat) : Nat := k % 2

/-- The superblock a slot lies in. -/
def State.sbOfEntry (s : State) (e h : Nat) : Nat := sbIndex (s.setOf (entryLun e)) (entryPair s.ppb e) h

/-- Superblocks that hold parity. -/
def State.heldSbs (s : State) : List OpenSb := s.media.sbs.filter (fun x => x.state ≤ 3)

def State.updSb (s : State) (k : Nat) (f : OpenSb → OpenSb) : State :=
  { s with media := { s.media with
      sbs := mapIf (fun x => sbIndex x.set x.b x.half == k && x.state ≤ 3) f s.media.sbs } }

def State.findSb (s : State) (k : Nat) : Option OpenSb :=
  s.media.sbs.find? (fun x => sbIndex x.set x.b x.half == k && x.state ≤ 3)

/-- Look a LUN up in an association. -/
def atLun (l : List (Nat × Nat)) (x : Nat) : Nat :=
  match l.find? (fun e => e.1 == x) with
  | some e => e.2
  | none => 0

def setLun (l : List (Nat × Nat)) (x v : Nat) : List (Nat × Nat) :=
  if l.any (fun e => e.1 == x) then mapIf (fun e => e.1 == x) (fun e => (e.1, v)) l else l ++ [(x, v)]

/-- The last page index of a page's wordline. Log 19 (DESIGN CHOICE). -/
def lastOfWordline (p page : Nat) : Nat :=
  ((List.range p).filter (fun q => Config.wordlineOf q == Config.wordlineOf page)).foldl max page

/-! ## The flash store -/

/-- What a slot of pad data holds. Log 14 (DESIGN CHOICE). -/
def padUnit : FlashUnit := ⟨[], []⟩

/-- What was written to slot `e` of half `h`; nothing for a slot erased. Log 14 (DESIGN CHOICE). -/
def State.flashAt (s : State) (e h : Nat) : Option FlashUnit :=
  Sparse.get (fun _ => none) s.media.flash (slotKey e h)

/-- A slot is written: it decodes. -/
def State.setFlash (s : State) (e h : Nat) (u : Option FlashUnit) : State :=
  { s with media := { s.media with
      flash := Sparse.set (fun _ => none) s.media.flash (slotKey e h) u,
      lost := s.media.lost.filter (· != slotKey e h) } }

/-- The LUN takes no reads. -/
def State.lunLost (s : State) (l : Nat) : Bool :=
  s.lunFenced l || !s.media.luns.contains l || s.pageFenced (pFCH (l / 16))

/-- The codeword in a slot is read and decodes; before the media is attached every LUN counts as present. -/
def State.slotReads (s : State) (e h : Nat) : Bool :=
  !s.media.lost.contains (slotKey e h) && (s.media.luns.isEmpty || !s.lunLost (entryLun e))

/-! ## Parity and rebuild (R306, R307, R310) -/

def parityAddr (i : Nat) : Nat := 0x00C00000 + 16384 * i
def parityMdAddr (i : Nat) : Nat := 0x01BE0000 + 128 * i

/-- The 16 KiB of ciphertext and the 128 bytes of metadata of a page; pad data counts as zeros.
Log 14 (DESIGN CHOICE). -/
def pageOf (us : List (Option FlashUnit)) : List Byte × List Byte :=
  (us.flatMap (fun u => padTo 4096 (u.elim [] (·.ct))), us.flatMap (fun u => padTo 32 (u.elim [] (·.md))))

/-- The slots of a page. -/
def State.pageSlots (s : State) (lun b page : Nat) : List Nat := (List.range 4).map (fun c => entryOf s.ppb lun b page c)

def State.pageBytes (s : State) (lun b page h : Nat) : List Byte × List Byte :=
  pageOf ((s.pageSlots lun b page).map (fun e => s.flashAt e h))

/-- ADDR of a unit's metadata: the global unit of a user unit (R355). -/
def mdAddr (u : FlashUnit) : Nat := natBE ((u.md.drop 25).take 5)

/-- An unreleased journal record holds unit `g`. -/
def State.journalHolds (s : State) (g : Nat) : Bool :=
  s.lnd.recs.any (fun r => r.committed && r.g ≤ g && g ≤ r.g + r.cnt)

/-- What a slot holds is at hand although it does not decode: it is pad data, or an unreleased record or the source of
a move still holds it (R310). -/
def State.slotKnown (s : State) (e h : Nat) : Bool :=
  match s.flashAt e h with
  | none => true
  | some u => u == padUnit || (u.md.getD 16 0).toNat / 16 == 0 && s.journalHolds (mdAddr u) ||
      s.media.moves.any (fun m => m.dst == e && unitHalf m.g == h)

/-- The page of a member of a group, when it can be read or computed again. -/
def State.memberPage (s : State) (x : OpenSb) (lun page : Nat) : Option (List Byte × List Byte) :=
  if (s.pageSlots lun x.b page).all (fun e => s.slotReads e x.half || s.slotKnown e x.half) then
    some (s.pageBytes lun x.b page x.half)
  else none

/-- The members of a page's group: those issued at that index, less void wordlines (R307). -/
def State.groupOf (x : OpenSb) (page : Nat) : List Nat :=
  (x.iss.filter (fun e => page < e.2 && !x.voids.contains (e.1, Config.wordlineOf page))).map (·.1)

/-- The parity of a page is out of use: its group, or the whole superblock, is held by a fault (R313). -/
def State.parityLost (s : State) (x : OpenSb) (page : Nat) : Bool :=
  s.flt.holds.any (fun h => (h.src == 84 && h.unit == .element pPAR (x.first + page)) ||
    (h.src == 85 && h.unit == .element pPAR (sbIndex x.set x.b x.half)))

/-- A parity slot holds no uncorrectable word. -/
def State.parityReads (s : State) (i : Nat) : Bool :=
  !s.bytesBad (parityAddr i) 16384 && !s.bytesBad (parityMdAddr i) 128

/-- XOR pages. -/
def xorPages (a b : List Byte × List Byte) : List Byte × List Byte := (xorBytes a.1 b.1, xorBytes a.2 b.2)

/-- What a parity slot holds. -/
def State.parityPage (s : State) (i : Nat) : List Byte × List Byte :=
  (s.mramBytes (parityAddr i) 16384, s.mramBytes (parityMdAddr i) 128)

/-- The four units of a page as bytes. -/
def pageUnits (d : List Byte × List Byte) : List FlashUnit :=
  (List.range 4).map (fun c => ⟨(d.1.drop (4096 * c)).take 4096, (d.2.drop (32 * c)).take 32⟩)

/-- A page rebuilt as the XOR of its slot and the other members of its group (R310). -/
def State.rebuildPage (s : State) (x : OpenSb) (lun page : Nat) : Option (List FlashUnit) :=
  let others := ((State.groupOf x page).filter (· != lun)).map (fun l => s.memberPage x l page)
  if !(State.groupOf x page).contains lun || s.parityLost x page || !s.parityReads (x.first + page) ||
      others.any (·.isNone) then none
  else some (pageUnits (others.foldl (fun a o => xorPages a (o.getD ([], []))) (s.parityPage (x.first + page))))

/-- The unit that reading a slot gives: as it decodes, or rebuilt (R324). -/
def State.slotUnit (s : State) (e h : Nat) : Option FlashUnit :=
  if s.slotReads e h then s.flashAt e h
  else match s.findSb (s.sbOfEntry e h) with
    | some x => (s.rebuildPage x (entryLun e) (entryPage s.ppb e)).bind (fun us => us[entryCw e]?)
    | none => none

/-! ## Snapshots (R291, R354, R355) -/

/-- The key TRK in force as KEYID names it. -/
def State.trkGen (s : State) : Nat :=
  match s.readKey 0x11 with
  | some (_, r) => r.kgen
  | none => 0

/-- Kind of a snapshot unit: 1 map, 2 directory. -/
def snapKind (isDir : Bool) : Nat := if isDir then 2 else 1

/-- The counter of snapshot unit `i` (R358). -/
def snapCtr (isDir : Bool) (i : Nat) : Nat := 2 ^ 32 + (if isDir then 2 ^ 22 else 0) + i

def snapIv (isDir : Bool) (i ctr : Nat) : List Byte := bytesBE 5 (snapKind isDir * 2 ^ 32 + i) ++ bytesBE 7 ctr

def snapAad (isDir : Bool) (kgen i ctr : Nat) : List Byte :=
  bytesBE 2 (snapKind isDir * 2 ^ 12 + kgen % 256) ++ bytesBE 7 ctr ++ bytesBE 5 i

/-- A snapshot unit as the flash holds it, under TRK. -/
def State.snapUnit (s : State) (isDir : Bool) (i ctr : Nat) (plain : List Byte) : FlashUnit :=
  let ct := gcmCrypt s.keys.trk (snapIv isDir i ctr) (padTo 4096 plain)
  let aad := snapAad isDir s.trkGen i ctr
  ⟨ct, gcmTag s.keys.trk (snapIv isDir i ctr) aad ct ++ aad ++ [0, 0]⟩

/-- The plaintext of a snapshot unit that passes its checks: KEYID and ADDR, a counter that is no higher than the tree's,
and the tag (R356). Log 165 (DEDUCED). -/
def State.openSnap (s : State) (isDir : Bool) (i : Nat) (u : FlashUnit) : Option (List Byte) :=
  let ctr := natBE ((u.md.drop 18).take 7)
  let aad := snapAad isDir s.trkGen i ctr
  if ctr ≤ Sparse.get zeroBlank s.tree.ctr (snapCtr isDir i) && (u.md.drop 16).take 14 == aad &&
      u.md.take 16 == gcmTag s.keys.trk (snapIv isDir i ctr) aad u.ct then
    some (gcmCrypt s.keys.trk (snapIv isDir i ctr) u.ct)
  else none

/-- The words of 32 bits of a byte string. Log 23 (DEDUCED). -/
def words32 (bs : List Byte) : List Nat := (Crypto.chunks 4 (bs.length / 4) bs).map natBE

/-- The 4096 words of the snapshot of page `p` at `loc`, when its four units verify (R292). -/
def State.readSnap (s : State) (isDir : Bool) (p loc : Nat) : Option (List Nat) :=
  let us := (List.range 4).map (fun i => (s.slotUnit (loc + i) (p % 2)).bind (s.openSnap isDir (4 * p + i)))
  if us.any (·.isNone) then none else some (us.flatMap (fun u => words32 (u.getD [])))

/-- What a failed check counts and fires: with a KEYID that does not match, the one found (R356, R373, R374). -/
def State.noteCheck (s : State) (inst g : Nat) (u : FlashUnit) (e : Ev) : State :=
  let t :=
    if e = EV_CRY_KEYID_MISMATCH then s.bump CRY_MEDIA_CNT_KEYID_MISMATCH
    else if e = EV_TRE_REPLAY_DETECT then s.bump TRE_CHECK_CNT_REPLAY
    else s.bump CRY_MEDIA_CNT_TAG_FAIL
  t.fireI e inst (if e = EV_CRY_KEYID_MISMATCH then natBE ((u.md.drop 16).take 2) else 0) g

/-- The check that a snapshot unit fails first (R356). Log 165 (DEDUCED). -/
def State.snapFault (s : State) (isDir : Bool) (i : Nat) (u : FlashUnit) : Option Ev :=
  let ctr := natBE ((u.md.drop 18).take 7)
  let aad := snapAad isDir s.trkGen i ctr
  if (u.md.drop 16).take 2 != aad.take 2 then some EV_CRY_KEYID_MISMATCH
  else if Sparse.get zeroBlank s.tree.ctr (snapCtr isDir i) < ctr || (u.md.drop 16).take 14 != aad then some EV_TRE_REPLAY_DETECT
  else if u.md.take 16 != gcmTag s.keys.trk (snapIv isDir i ctr) aad u.ct then some EV_CRY_MEDIA_TAG_FAIL
  else none

/-! ## Tree units (R359–R361) -/

/-- The key of a tree unit. -/
def treeKey (level u : Nat) : Nat := level * 2 ^ 28 + u
def keyLevel (k : Nat) : Nat := k / 2 ^ 28
def keyUnit (k : Nat) : Nat := k % 2 ^ 28

/-- The parent of a tree unit below L2. -/
def keyParent (k : Nat) : Nat := treeKey (keyLevel k + 1) (keyUnit k / 256)

def entBlank (_ : Nat) : TreeEnt := {}

/-- The 16 bytes of an interior entry (R360). -/
def entBytes (e : TreeEnt) : List Byte := bytesBE 7 e.ver ++ [0] ++ bytesBE 4 e.a ++ bytesBE 4 e.b

def entOfBytes (bs : List Byte) : TreeEnt :=
  { ver := natBE (bs.take 7), a := natBE ((bs.drop 8).take 4), b := natBE ((bs.drop 12).take 4) }

/-- The 4096 bytes of a tree unit: eight leaf nodes of 64 counters and 64 zero bytes, or 256 entries (R359). -/
def treeBytes (ents : List (Nat × TreeEnt)) (ctr : List (Nat × Nat)) (k : Nat) : List Byte :=
  if keyLevel k = 0 then
    (List.range 8).flatMap (fun n => (List.range 64).flatMap (fun j =>
      bytesBE 7 (Sparse.get zeroBlank ctr (512 * keyUnit k + 64 * n + j))) ++ List.replicate 64 0)
  else (List.range 256).flatMap (fun i =>
    entBytes (Sparse.get entBlank ents (treeKey (keyLevel k - 1) (256 * keyUnit k + i))))

def treeIv (k ver : Nat) : List Byte := bytesBE 5 (3 * 2 ^ 32 + k) ++ bytesBE 7 ver

def treeAad (k kgen ver : Nat) : List Byte :=
  bytesBE 2 (3 * 2 ^ 12 + keyLevel k * 2 ^ 8 + kgen % 256) ++ bytesBE 7 ver ++ bytesBE 5 (keyUnit k)

/-- A tree unit as the flash holds it: in clear, with a GMAC under TRK over its bytes and its metadata (R361). -/
def State.treeUnit (s : State) (k ver : Nat) (bs : List Byte) : FlashUnit :=
  let aad := treeAad k s.trkGen ver
  ⟨bs, gcmTag s.keys.trk (treeIv k ver) (bs ++ aad) [] ++ aad ++ [0, 0]⟩

/-- A copy carries the version its parent holds, and its tag verifies. -/
def State.treeTagOk (s : State) (k ver : Nat) (u : FlashUnit) : Bool := u == s.treeUnit k ver u.ct

/-- The bytes of a tree unit, from copy A or else copy B; else whether a copy decoded (R361). -/
def State.readTree (s : State) (k : Nat) (e : TreeEnt) : List Byte ⊕ Bool :=
  let h := keyUnit k % 2
  let a := s.slotUnit e.a h
  let b := s.slotUnit e.b h
  match a.filter (s.treeTagOk k e.ver), b.filter (s.treeTagOk k e.ver) with
  | some u, _ => .inl u.ct
  | none, some u => .inl u.ct
  | none, none => .inr (a.isSome || b.isSome)

end Sys2Proof.Machine
end

