-- ==== Sys2Proof/Machine/MapTree.lean ====
section
/-! DEFINITION. Translation and the counter tree (chapters 12 and 14): the caches of map pages and tree units, the delta
ring, the root, and what bring-up steps 8 and 9 rebuild. -/

namespace Sys2Proof.Machine

open Sys2Proof.Crypto

/-- The instance whose range holds `g`. -/
def State.instOf (s : State) (g : Nat) : Nat :=
  (firstBelow 16 (fun n => 0 < s.fld (INS_SIZE_EXTENTS n) &&
    4096 * s.fld (INS_BASE_EXTENT n) ≤ g &&
    g < 4096 * (s.fld (INS_BASE_EXTENT n) + s.fld (INS_SIZE_EXTENTS n)))).getD 0

/-! ## The counter cache (R359, R361, R362, R371) -/

def State.ctrGet (s : State) (c : Nat) : Nat := Sparse.get zeroBlank s.tree.ctr c

/-- The counter index a tree unit covers from, and how many (R359). -/
def treeSpan (level : Nat) : Nat := 512 * 256 ^ level

/-- A fenced tree unit covers counter index `c` (R371). -/
def State.ctrFenced (s : State) (c : Nat) : Bool :=
  s.flt.holds.any (fun h => match h.unit with
    | .element pg x => pg == pTRE && (h.src == 51 || h.src == 52) && c / treeSpan (keyLevel x) == keyUnit x
    | _ => false)

/-- The TREE engine is fenced: by its own faults, or because both records of TRK failed (R64, R371).
Log 30 (DESIGN CHOICE). -/
def State.treeFenced (s : State) : Bool :=
  s.fenced (.engine pTRE 0) || s.fenced (.island islTREE) || s.flag (PG_CTRL_FENCE_REQ pTRE) ||
  (s.keys.trk == [] && s.flt.holds.any (fun h => h.src == 92 && h.unit == .element pKEY 17))

/-- Count a miss; THRASH fires at the 65th within one millisecond (R362). Log 30 (DESIGN CHOICE). -/
def State.treeMiss (s : State) : State :=
  let ms := s.uptime.toNat / 1000
  let n := if s.tree.missMs = ms then s.tree.missCnt + 1 else 1
  let t := ({ s with tree := { s.tree with missMs := ms, missCnt := n } } : State).bump
    TRE_CKPT_CNT_MISSES
  if n = 65 then t.fire EV_TRE_CACHE_THRASH else t

/-- The entry of a tree unit that its parent holds. -/
def State.treeEnt (s : State) (k : Nat) : TreeEnt := Sparse.get entBlank s.tree.ents k

/-- A tree unit holds a change that no committed root covers: a leaf (R362). -/
def State.treeDirty (s : State) (k : Nat) : Bool := keyLevel k == 0 && s.tree.dirty.contains (keyUnit k)

/-- Neither copy of a tree unit can be used (R361, R371): the fault, and what is counted; `inj` says that an injection made
their tags fail (R420). -/
def State.treeUnitFails (s : State) (k : Nat) (decoded inj : Bool) : State :=
  if decoded then ((s.bump TRE_CHECK_CNT_NODE_TAG).fireD EV_TRE_NODE_TAG_FAIL (keyLevel k) (keyUnit k)).fault 51 k k inj
  else s.fault 52 k k false

/-- The copies of a tree unit as the tag check meets them: an injection makes the first one's tag fail, and with
CONTINUOUS the other's (R100, R361). -/
def State.treeCopies (s : State) (e : TreeEnt) : TreeEnt × Bool :=
  if s.injBits pTRE 1 = 0 then (e, false)
  else if s.flag (INJ_CTRL_CONTINUOUS pTRE) then (e, true)
  else ({ e with a := e.b }, false)

/-- Use a tree unit: on a miss it is read and verified, unless it was never written (R360–R362). -/
def State.touchUnit (s : State) (k : Nat) : State :=
  let c := s.tree.cache
  if c.contains k then { s with tree := { s.tree with cache := c.erase k ++ [k] } }
  else
    let t := s.treeMiss
    let e := t.treeEnt k
    let x := t.treeCopies e
    let fails := if e.ver = 0 then none else if x.2 then some true else (t.readTree k x.1).getRight?
    let t := if e.ver = 0 then t else t.injUsed pTRE 1
    match fails with
    | some decoded => t.treeUnitFails k decoded x.2
    | none =>
      let c := t.tree.cache
      let c := if c.length < 512 then c
        else match c.find? (fun x => !t.treeDirty x) with
          | some x => c.erase x
          | none => c
      { t with tree := { t.tree with cache := c ++ [k] } }

/-- Use leaf tree unit `u`: on a miss its parents are used first, as far as they verify (R361, R362). -/
def State.touchTree (s : State) (u : Nat) : State :=
  if s.tree.cache.contains u then s.touchUnit u
  else [treeKey 2 (u / 65536), treeKey 1 (u / 256), u].foldl
    (fun (t : State) k => if t.ctrFenced (512 * u) then t else t.touchUnit k) s

/-- A counter change needs no 385th dirty slot (R362). -/
def State.treeRoom (s : State) (c : Nat) : Bool :=
  s.tree.dirty.length < 384 || s.tree.dirty.contains (c / 512)

/-! ## The map cache (R292) -/

/-- Count a miss; THRASH fires at the 65th within one millisecond. Log 31 (DESIGN CHOICE). -/
def State.mapMiss (s : State) : State :=
  let ms := s.uptime.toNat / 1000
  let n := if s.mapS.missMs = ms then s.mapS.missCnt + 1 else 1
  let t := ({ s with mapS := { s.mapS with missMs := ms, missCnt := n } } : State).bump
    MAP_CACHE_CNT_MISSES
  if n = 65 then t.fire EV_MAP_CACHE_THRASH else t

/-- Drop the least recently used clean slot when all 512 are taken. -/
def evictMap (c : List MapSlot) : List MapSlot :=
  if c.length < 512 then c
  else match c.find? (fun x => x.oldest.isNone) with
    | some x => c.erase x
    | none => c

/-- A page as the events of MAP name it (R314). -/
def pageName (page : Nat) (isDir : Bool) : Nat := page + 2 ^ 31 * isDir.toNat

/-- Where the snapshot of a page lies. -/
def State.snapLoc (s : State) (page : Nat) (isDir : Bool) : Nat :=
  Sparse.get mapBlank (if isDir then s.mapS.top else s.mapS.dir) page

/-- The snapshot of a page can be used: its counters are at hand, and its units verify (R292, R356). -/
def State.snapReads (s : State) (page : Nat) (isDir : Bool) : Bool :=
  !s.treeFenced && !s.ctrFenced (snapCtr isDir (4 * page)) && (s.readSnap isDir page (s.snapLoc page isDir)).isSome

/-- The first unit of a page's snapshot that decodes and fails a check is counted and reported (R356). -/
def State.noteSnap (s : State) (page : Nat) (isDir : Bool) (inst : Nat) : State :=
  let bad := (List.range 4).filterMap (fun i => (s.slotUnit (s.snapLoc page isDir + i) (page % 2)).bind (fun u =>
    (s.snapFault isDir (4 * page + i) u).map (fun e => (i, u, e))))
  match bad.head? with
  | some x => s.noteCheck inst (4 * page + x.1) x.2.1 x.2.2
  | none => s

/-- Load a page into the cache; a snapshot that cannot be used, or whose verification an injection fails, fences the instance that owns the extent, INST_00 for a
directory page (R292, R313). -/
def State.loadSlot (s : State) (page : Nat) (isDir : Bool) : State :=
  let t := s.mapMiss
  let put := fun (t : State) => { t with mapS := { t.mapS with cache := evictMap t.mapS.cache ++ [⟨page, isDir, none, 0⟩] } }
  if t.snapLoc page isDir = unmapped then put t
  else
    let t := t.touchTree (snapCtr isDir (4 * page) / 512)
    let inj : Bool := t.injBits pMAP 2 != 0
    let ok := t.snapReads page isDir && !inj
    let t := t.injUsed pMAP 2
    if ok then put t
    else
      let n := if isDir then 0 else t.instOf (4096 * page)
      let t := t.noteSnap page isDir n
      let t := (t.fireD EV_MAP_PAGE_READ_FAIL 0 (pageName page isDir)).fault 47 n (pageName page isDir) inj
      { t with mapS := { t.mapS with hurt := (t.mapS.hurt ++ [n]).eraseDups } }

/-- Use a slot: it becomes the most recently used. -/
def State.touchSlot (s : State) (page : Nat) (isDir : Bool) : State :=
  match s.mapS.cache.find? (fun x => x.page == page && x.isDir == isDir) with
  | some x => { s with mapS := { s.mapS with cache := s.mapS.cache.erase x ++ [x] } }
  | none => s.loadSlot page isDir

def State.cachedPage (s : State) (page : Nat) (isDir : Bool) : Bool :=
  s.mapS.cache.any (fun x => x.page == page && x.isDir == isDir)

/-- Use a page: on a miss of a map page the directory page that names its snapshot is used first. -/
def State.touchMap (s : State) (page : Nat) (isDir : Bool) : State :=
  if isDir || s.cachedPage page false then s.touchSlot page isDir
  else (s.touchSlot (page / 4096) true).touchSlot page false

/-- A page takes a delta: it is dirty from this DSN on, if it was clean. -/
def State.dirtyMap (s : State) (page : Nat) (isDir : Bool) (dsn : Nat) : State :=
  let t := s.touchMap page isDir
  let c := mapIf (fun x => x.page == page && x.isDir == isDir)
    (fun x => { x with oldest := some (x.oldest.getD dsn), since := if x.oldest.isSome then x.since else s.uptime }) t.mapS.cache
  { t with mapS := { t.mapS with cache := c } }

def State.mapDirty (s : State) : Nat := (s.mapS.cache.filter (fun x => x.oldest.isSome)).length

/-- A change of map page `m` needs no 449th dirty slot. -/
def State.mapRoom (s : State) (m : Nat) : Bool :=
  s.mapDirty < 448 ||
  s.mapS.cache.any (fun x => x.page == m && !x.isDir && x.oldest.isSome)

/-! ## Deltas and the ring (R293–R297) -/

def deltaLines : Nat := 20416

def deltaAddr (line : Nat) : Nat := 0x01CA1000 + 64 * line

def deltaAncA : Nat := 0x01CA0B00
def deltaAncB : Nat := 0x01CA0B40

/-- Words a delta of a type takes, and deltas a line of it holds. -/
def deltaSlots (typ : Nat) : Nat := if typ = 1 ∨ typ = 2 then 1 else if typ < 0x20 then 2 else 5
def deltaMax (typ : Nat) : Nat := 5 / deltaSlots typ

/-- Queue a delta: it takes the next DSN (R295). -/
def State.queueDelta (s : State) (typ : Nat) (ws : List Nat) : State :=
  { s with mapS := { s.mapS with
      deltas := s.mapS.deltas ++ [{ typ := typ, dsn := s.mapS.dsn, words := ws }],
      dsn := s.mapS.dsn + 1 } }

/-- Lines from tail to head. -/
def State.deltaUsed (s : State) : Nat := (s.mapS.head + deltaLines - s.mapS.tail) % deltaLines

/-- Only the last 64 free lines remain (R297). -/
def State.deltaTight (s : State) : Bool := deltaLines ≤ s.deltaUsed + 64

/-- A new MAP or RANGE delta can be committed once those that wait are: more than the last 64 lines remain (R297). -/
def State.deltaRoom (s : State) : Bool :=
  s.deltaUsed + (s.mapS.deltas.filter (fun d => d.line.isNone)).length + 65 ≤ deltaLines

def State.wbMark (s : State) : Nat := min 90 (max 10 (s.fld MAP_CFG_WB_MARK))

/-- The deltas the next line takes: the oldest waiting ones of one type. -/
def State.nextBatch (s : State) : List Delta :=
  let w := s.mapS.deltas.filter (fun d => d.line.isNone)
  match w with
  | [] => []
  | d :: _ => (w.takeWhile (fun x => x.typ == d.typ)).take (deltaMax d.typ)

/-- Write one delta line (R293, R295); the DELTA_HIGH and DELTA_FULL events (R297). -/
def State.writeDeltaLine (s : State) : State :=
  let b := s.nextBatch
  match b with
  | [] => s
  | d :: _ =>
    let l := s.mapS.head
    let words := d.dsn :: (b.flatMap (fun x => (x.words ++ List.replicate 5 0).take (deltaSlots x.typ)))
    let t := s.writeSlr (deltaAddr l) (d.typ * 2 ^ 16 + b.length * 2 ^ 8) s.mapS.lap words
    let wrap := l + 1 == deltaLines
    let t := { t with mapS := { t.mapS with
      head := if wrap then 0 else l + 1,
      lap := if wrap then t.mapS.lap + 1 else t.mapS.lap,
      deltas := mapIf (fun x => b.any (fun y => y.dsn == x.dsn)) (fun x => { x with line := some l })
        t.mapS.deltas } }
    let t := if t.deltaTight && !t.flag MAP_DLOG_STAT_FULL then (t.setFlag MAP_DLOG_STAT_FULL true).fire EV_MAP_DELTA_FULL
      else t
    if 100 * s.deltaUsed < s.wbMark * deltaLines ∧ s.wbMark * deltaLines ≤ 100 * t.deltaUsed then
      t.fire EV_MAP_DELTA_HIGH
    else t

/-- Commit every waiting delta, oldest first. -/
def State.flushDeltas (s : State) : Nat → State
  | 0 => s
  | n + 1 => if s.nextBatch.isEmpty then s else s.writeDeltaLine.flushDeltas n

/-- Every delta queued so far is committed. -/
def State.commitDeltas (s : State) : State := s.flushDeltas (s.mapS.deltas.length + 1)

/-- The delta of this DSN is committed: its line is written. -/
def State.deltaDone (s : State) (dsn : Nat) : Bool :=
  dsn < s.mapS.dsn && !s.mapS.deltas.any (fun d => d.dsn == dsn && d.line.isNone)

/-- Retire the deltas that `p` picks and move the tail past the lines all of whose deltas are retired
(R296); FULL ends when lines beyond the reserve are free again. -/
def State.retireDeltas (s : State) (p : Delta → Bool) : State :=
  let ds := (mapIf p (fun d => { d with retired := true }) s.mapS.deltas)
  let live := fun (l : Nat) => ds.any (fun d => d.line == some l && !d.retired)
  let ds := ds.filter (fun d => match d.line with | some l => live l | none => true)
  let tail := match ds.find? (fun d => d.line.isSome) with
    | some d => d.line.getD s.mapS.head
    | none => s.mapS.head
  let t := { s with mapS := { s.mapS with deltas := ds, tail := tail } }
  if t.deltaTight then t else t.setFlag MAP_DLOG_STAT_FULL false

/-- Rewrite the delta anchor, at most ten times a second: tail line, its DSN, its LAP (R293).
Log 24 (DESIGN CHOICE). -/
def State.writeDeltaAnchor (s : State) : State :=
  if s.since s.mapS.ancTime < 100000 ∧ (s.readTwo deltaAncA deltaAncB).isSome then s
  else
    let dsn := match s.mapS.deltas with
      | d :: _ => d.dsn
      | [] => s.mapS.dsn
    let lap := if s.mapS.tail ≤ s.mapS.head then s.mapS.lap else s.mapS.lap - 1
    let t := s.writeTwo deltaAncA deltaAncB [s.mapS.tail, dsn, lap]
    { t with mapS := { t.mapS with ancTime := s.uptime } }

/-! ## Changing the map (R295, R301, R302) -/

/-- Slots of a half that hold no current unit, in per mille of its data area D_h (R314). -/
def State.reserveOf (s : State) (h : Nat) : Nat :=
  let d := 4 * s.ppb * (if h = 0 then s.media.good0 else s.media.good1)
  let used := (s.mapS.map.filter (fun e => unitHalf e.1 == h)).length
  if d = 0 then 1000 else 1000 * (d - used) / d

/-- The event of a reserve that falls below RESERVE_LOW. -/
def State.noteReserve (s t : State) : State :=
  let low := t.fld MAP_CFG_RESERVE_LOW
  let fell := fun (h : Nat) => low ≤ s.reserveOf h && t.reserveOf h < low
  if fell 0 || fell 1 then t.fire EV_MAP_CAPACITY_LOW else t

/-- Set one entry: the delta is queued and the cache page changed with it. -/
def State.setEntry (s : State) (g e : Nat) : State :=
  let t := (s.dirtyMap (g / 4096) false s.mapS.dsn).queueDelta 1 [g * 2 ^ 32 + e]
  s.noteReserve { t with mapS := { t.mapS with map := Sparse.set mapBlank t.mapS.map g e } }

/-- The map pages a range covers whole. -/
def wholePages (g n : Nat) : List Nat :=
  let first := (g + 4095) / 4096
  (List.range ((g + n) / 4096 - first)).map (first + ·)

/-- The map pages at the ends of a range that it covers in part. -/
def endPages (g n : Nat) : List Nat :=
  ([g / 4096, (g + n - 1) / 4096].eraseDups).filter (fun m => n != 0 && !(wholePages g n).contains m)

/-- Unmap a range by one RANGE delta: pages covered whole go through the directory (R302). -/
def State.unmapRange (s : State) (g n : Nat) : State :=
  if n = 0 then s
  else
    let dsn := s.mapS.dsn
    let t := (endPages g n).foldl (fun t m => t.dirtyMap m false dsn) s
    let t := (wholePages g n).foldl (fun t m =>
      let t := t.dirtyMap (m / 4096) true dsn
      { t with mapS := { t.mapS with
          cache := t.mapS.cache.filter (fun x => x.isDir || x.page != m),
          wbs := t.mapS.wbs.filter (fun x => x.isDir || x.page != m),
          dir := Sparse.set mapBlank t.mapS.dir m unmapped } }) t
    let t := t.queueDelta 2 [g * 2 ^ 32 + n]
    { t with mapS := { t.mapS with map := Sparse.clear t.mapS.map (fun k => g ≤ k && k < g + n) } }

/-- The pages a delta changes: map pages, and directory pages (R294, R302). -/
def deltaPages (d : Delta) : List (Nat × Bool) :=
  let w := d.words.headD 0
  match d.typ with
  | 1 => [(w / 2 ^ 32 / 4096, false)]
  | 2 => (endPages (w / 2 ^ 32) (w % 2 ^ 32)).map (fun m => (m, false)) ++
      (((wholePages (w / 2 ^ 32) (w % 2 ^ 32)).map (· / 4096)).eraseDups).map (fun m => (m, true))
  | 3 => [(bitsOf w 32 20 / 4096, true)]
  | _ => []

/-- The highest DSN that the committed snapshot of a page contains. -/
def State.coverOf (s : State) (page : Nat) (isDir : Bool) : Nat :=
  Sparse.get zeroBlank (if isDir then s.mapS.dcover else s.mapS.cover) page

/-- Whether the committed snapshots contain a map, range or directory delta. -/
def State.deltaCovered (s : State) (d : Delta) : Bool :=
  1 ≤ d.typ && d.typ ≤ 3 && (deltaPages d).all (fun p => d.dsn ≤ s.coverOf p.1 p.2)

/-- The slots of top-table record `k` (R291). -/
def topAddr (k : Nat) : Nat := 0x01CA0000 + 128 * k

/-- The six words of a top-table record: entries of twelve directory pages, even entries high. -/
def topWords (f : Nat → Nat) (k : Nat) : List Nat :=
  (List.range 6).map (fun i => f (12 * k + 2 * i) * 2 ^ 32 + f (12 * k + 2 * i + 1))

/-! ## Counters (R358, R363, R367) -/

/-- Increment counter `c`: the delta is queued with the new value (R363); COUNTER_HIGH fires once when a
counter reaches 2^HIGH_LOG (R367). -/
def State.bumpCtr (s : State) (c : Nat) : State :=
  let v := s.ctrGet c + 1
  let t := (s.touchTree (c / 512)).queueDelta 0x10 [c, v]
  let high := 2 ^ max 32 (s.fld TRE_CFG_HIGH_LOG)
  let d := t.tree
  let t := { t with tree := { d with
      ctr := Sparse.set zeroBlank d.ctr c v, applied := s.mapS.dsn, maxCtr := max d.maxCtr v,
      dirty := if d.dirty.contains (c / 512) then d.dirty else d.dirty ++ [c / 512],
      ckpt := d.ckpt.map (fun x => { x with
        again := if x.again.contains (c / 512) then x.again else x.again ++ [c / 512],
        againAt := if x.again.isEmpty then s.uptime else x.againAt }),
      oldest := if d.dirty.isEmpty then s.uptime else d.oldest } }
  if s.tree.maxCtr < high ∧ high ≤ v then t.fire EV_TRE_COUNTER_HIGH else t

/-- EV_TRE_DELTA_HIGH fires when counter deltas come to occupy DELTA_MARK per cent of the ring (R364). -/
def State.ctrDeltaLines (s : State) : Nat :=
  ((s.mapS.deltas.filter (fun d => d.typ == 0x10)).filterMap (·.line)).eraseDups.length

def State.noteDeltaHigh (s t : State) : State :=
  let m := s.fld TRE_CFG_DELTA_MARK * deltaLines
  if 100 * s.ctrDeltaLines < m ∧ m ≤ 100 * t.ctrDeltaLines then t.fire EV_TRE_DELTA_HIGH else t

/-! ## Checkpoint and root (R364–R367) -/

def rootA : Nat := 0x01C20000
def rootB : Nat := 0x01C20040

/-- The address of an L3 bank. -/
def bankAddr (b : Nat) : Nat := 0x01C21000 + 4096 * b

/-- The 4 KiB of an L3 bank: one entry per L2 tree unit, locations zero (R359, R360). -/
def bankBytes (ents : List (Nat × TreeEnt)) : List Byte :=
  (List.range 256).flatMap (fun j => bytesBE 7 (Sparse.get entBlank ents (treeKey 2 j)).ver ++ List.replicate 9 0)

/-- The digest of a root record: over the bank, then words 0 to 2 (R365). -/
def rootDigest (trk bank : List Byte) (gen b d : Nat) : List Byte :=
  hmac trk (bank ++ bytesOfWords [0x4D * 2 ^ 56 + gen % 2 ^ 32, b, d])

/-- Write the bank, and then the root record of the next generation over it (R364 steps 3 and 4, R367). -/
def State.commitRoot (s : State) (trk : List Byte) (ents : List (Nat × TreeEnt)) (d : Nat) : State :=
  let (gen, bank) := match s.readTwo rootA rootB with
    | some (_, g, ws) => (g + 1, 1 - ws.headD 0 % 2)
    | none => (1, 0)
  let bytes := bankBytes ents
  let t := (s.writeBytes (bankAddr bank) bytes).mramFence
  let t := t.writeTwo rootA rootB (bank :: d :: wordsOfBytes (rootDigest trk bytes gen bank d))
  let t := { t with tree := { t.tree with ents := ents, lastRoot := s.uptime } }
  let t := ((t.setFld TRE_STAT_BANK bank).setFld TRE_ROOT_GEN_GEN gen).setFld TRE_CKPT_DSN_LO_DSN d
  (t.setFld TRE_CKPT_DSN_HI_DSN (d / 2 ^ 32)).fireD EV_TRE_ROOT_COMMIT 0 gen

/-- Root commits are at least 100 ms apart (R364). -/
def State.rootSpaced (s : State) : Bool := 100000 ≤ s.since s.tree.lastRoot

/-- The root in force verifies against its bank (R366). -/
def State.rootVerifies (s : State) : Bool :=
  match s.readTwo rootA rootB with
  | none => false
  | some (_, g, ws) =>
    let b := ws.headD 0 % 2
    let bank := s.mramBytes (bankAddr b) 4096
    !s.bytesBad (bankAddr b) 4096 &&
    bytesOfWords ((ws.drop 2).take 4) == rootDigest s.keys.trk bank g (ws.headD 0) (ws.getD 1 0)

/-- Reset the tree to a new empty root under a fresh TRK (R367). -/
def State.resetTree (s : State) (trk : List Byte) : State :=
  let t := s.commitRoot trk [] s.mapS.dsn
  { t with tree := { lastRoot := s.uptime } }.fire EV_TRE_TREE_RESET

/-! ## Rebuilding from the ring (R300, R366) -/

/-- The deltas of a line. -/
def lineDeltas (line typ n dsn : Nat) (ws : List Nat) : List Delta :=
  (List.range n).map (fun i =>
    { typ := typ, dsn := dsn + i, words := (ws.drop (i * deltaSlots typ)).take (deltaSlots typ),
      line := some line })

/-- Scan the ring from a line for at most `fuel` lines: the deltas, the next DSN, and where it ends. -/
def State.scanRing (s : State) : Nat → Nat → Nat → Nat → List Delta → List Delta × Nat × Nat × Nat
  | 0, line, dsn, lap, acc => (acc, dsn, line, lap)
  | fuel + 1, line, dsn, lap, acc =>
    match s.readSlr (deltaAddr line) with
    | none => (acc, dsn, line, lap)
    | some (mid, gen, ws) =>
      let typ := mid / 2 ^ 16
      let n := mid / 2 ^ 8 % 2 ^ 8
      if gen != lap % 2 ^ 32 || ws.headD 0 != dsn || n = 0 then (acc, dsn, line, lap)
      else
        let acc := acc ++ lineDeltas line typ n dsn (ws.drop 1)
        if line + 1 = deltaLines then s.scanRing fuel 0 (dsn + n) (lap + 1) acc
        else s.scanRing fuel (line + 1) (dsn + n) lap acc

/-- Apply a delta to the map, or to the directory (R300). -/
def applyMapDelta (m : MapSt) (d : Delta) : MapSt :=
  let w := d.words.headD 0
  match d.typ with
  | 1 => { m with map := Sparse.set mapBlank m.map (w / 2 ^ 32) (w % 2 ^ 32) }
  | 2 => { m with
      map := Sparse.clear m.map (fun k => w / 2 ^ 32 ≤ k && k < w / 2 ^ 32 + w % 2 ^ 32),
      dir := Sparse.clear m.dir (fun p => (wholePages (w / 2 ^ 32) (w % 2 ^ 32)).contains p) }
  | 3 => { m with dir := Sparse.set mapBlank m.dir (bitsOf w 32 20) (w % 2 ^ 32) }
  | _ => m

/-- Apply the counter deltas above D (R366). -/
def applyCtrDelta (c : List (Nat × Nat)) (d : Delta) : List (Nat × Nat) :=
  if d.typ = 0x10 then Sparse.set zeroBlank c (d.words.headD 0 % 2 ^ 33) (d.words.getD 1 0 % 2 ^ 56)
  else c

/-- What the delta anchor in force and the ring give: deltas, next DSN, next line and lap. -/
def State.ringContent (s : State) : Option (List Delta × Nat × Nat × Nat) :=
  match s.readTwo deltaAncA deltaAncB with
  | none => none
  | some (_, _, ws) =>
    some (s.scanRing deltaLines (ws.getD 0 0) (ws.getD 1 0) (ws.getD 2 0) [])

/-- The line at which a scan ends is uncorrectable and lies inside the ring's content: the next line goes on with it
(R313). Log 166 (DEDUCED). -/
def State.ringBroken (s : State) (dsn line lap : Nat) : Bool :=
  let nl := if line + 1 = deltaLines then 0 else line + 1
  s.bytesBad (deltaAddr line) 64 && (match s.readSlr (deltaAddr nl) with
    | some (_, g, ws) => g == (if nl = 0 then lap + 1 else lap) % 2 ^ 32 && dsn < ws.headD 0 && ws.headD 0 ≤ dsn + 5
    | none => false)

/-- Where the copies of an L2 tree unit lie: the L3 nodes do not say; the flash is searched for the unit of the version
that they hold. Log 167 (DESIGN CHOICE). -/
def State.findL2 (s : State) (u ver : Nat) : TreeEnt :=
  let k := treeKey 2 u
  let is := fun (e : Nat × Option FlashUnit) => e.1 % 2 == u % 2 && (match e.2 with
    | some x => (x.md.drop 16).take 14 == treeAad k s.trkGen ver
    | none => false)
  let hits := (s.media.flash.filter is).map (·.1 / 2)
  ⟨ver, hits.headD unmapped, hits.getLastD unmapped⟩

/-- The entries that an interior tree unit holds, where it verifies: those of children that were written. -/
def State.readEnts (s : State) (k : Nat) (e : TreeEnt) : List (Nat × TreeEnt) :=
  match s.readTree k e with
  | .inl bs => ((List.range 256).map (fun i =>
      (treeKey (keyLevel k - 1) (256 * keyUnit k + i), entOfBytes ((bs.drop (16 * i)).take 16)))).filter (fun x => x.2.ver != 0)
  | .inr _ => []

/-- The counters other than 0 that a leaf tree unit holds, where it verifies. -/
def State.readCtrs (s : State) (k : Nat) (e : TreeEnt) : List (Nat × Nat) :=
  match s.readTree k e with
  | .inl bs => ((List.range 512).map (fun i =>
      (512 * keyUnit k + i, natBE ((bs.drop (512 * (i / 64) + 7 * (i % 64))).take 7)))).filter (fun x => x.2 != 0)
  | .inr _ => []

/-- The tree under an L3 bank, as far as its units verify: entries, and counters. -/
def State.readAll (s : State) (bank : List Byte) : List (Nat × TreeEnt) × List (Nat × Nat) :=
  let l2 := ((List.range 256).map (fun j => (j, natBE ((bank.drop (16 * j)).take 7)))).filter (fun x => x.2 != 0)
  let e2 := l2.map (fun x => (treeKey 2 x.1, s.findL2 x.1 x.2))
  let e1 := e2.flatMap (fun x => s.readEnts x.1 x.2)
  let e0 := e1.flatMap (fun x => s.readEnts x.1 x.2)
  ((e2 ++ e1 ++ e0).foldl (fun l x => Sparse.set entBlank l x.1 x.2) [],
   (e0.flatMap (fun x => s.readCtrs x.1 x.2)).foldl (fun l x => Sparse.set zeroBlank l x.1 x.2) [])

/-- No root verifies (R33): the fault, with no fallback. -/
def State.rootFails (s : State) : State :=
  (((s.setFlag TRE_STAT_ROOT_OK false).setFlag SYS_BRINGUP_TREE_FAIL true).fire EV_TRE_ROOT_FAIL).fault 50 0 2 false

/-- The counter deltas of the ring above `d` (R366). -/
def State.ctrDeltas (s : State) (d : Nat) : List Delta :=
  match s.ringContent with
  | some (all, _) => all.filter (fun (x : Delta) => x.typ == 0x10 && d < x.dsn)
  | none => []

/-- The root in force, and the counter deltas above D (R366). -/
def State.loadRoot (s : State) (g : Nat) (ws : List Nat) : State :=
  let d := ws.getD 1 0
  let ds := s.ctrDeltas d
  let t := { s with tree := { s.tree with
    ctr := ds.foldl applyCtrDelta [], applied := (ds.map (fun (x : Delta) => x.dsn)).foldl max d,
    dirty := (ds.map (fun (x : Delta) => x.words.headD 0 % 2 ^ 33 / 512)).eraseDups,
    oldest := s.uptime, lastRoot := s.uptime } }
  ((((t.setFlag TRE_STAT_ROOT_OK true).setFld TRE_STAT_BANK (ws.headD 0)).setFld TRE_ROOT_GEN_GEN g).setFld
    TRE_CKPT_DSN_LO_DSN d).setFld TRE_CKPT_DSN_HI_DSN (d / 2 ^ 32)

/-- What the tree units in flash hold, with the deltas above D applied. Log 171 (DESIGN CHOICE). -/
def State.readTreeIn (s : State) : State :=
  match s.readTwo rootA rootB with
  | some (_, _, ws) =>
    if !s.flag TRE_STAT_ROOT_OK || s.keys.trk == [] then s
    else
      let a := s.readAll (s.mramBytes (bankAddr (ws.headD 0 % 2)) 4096)
      let ctr := (s.ctrDeltas (ws.getD 1 0)).foldl applyCtrDelta a.2
      { s with tree := { s.tree with
        ents := a.1, ctr := ctr, maxCtr := (ctr.map (fun (x : Nat × Nat) => x.2)).foldl max s.tree.maxCtr } }
  | none => s

/-- Step 8: choose and verify the root, and apply the counter deltas above D (R366, R33).  Without TRK there is nothing
to verify with, and the outcome is that of R64. -/
def State.treeRootCheck (s : State) : State :=
  if s.keys.trk = [] then s.setFlag TRE_STAT_ROOT_OK false
  else match s.readTwo rootA rootB with
  | some (_, g, ws) => if s.rootVerifies then s.loadRoot g ws else s.rootFails
  | none => s.rootFails

/-! ## The map at step 9 (R291, R296, R300) -/

/-- The top table as its records hold it. -/
def State.readTop (s : State) : List (Nat × Nat) :=
  (List.range 256).foldl (fun l d => match s.readTwo (topAddr (d / 12)) (topAddr (d / 12) + 64) with
    | some (_, _, ws) => Sparse.set mapBlank l d (bitsOf (ws.getD (d % 12 / 2) 0) (if d % 2 = 0 then 32 else 0) 32)
    | none => l) []

/-- Numbered entries other than unmapped. -/
def numbered (first : Nat) (ws : List Nat) : List (Nat × Nat) :=
  (((List.range ws.length).map (first + ·)).zip ws).filter (fun e => e.2 != unmapped)

/-- What the snapshots of the pages of a table hold, as far as they verify; a page that does not is found out when it is
used (R292). -/
def State.readSnaps (s : State) (isDir : Bool) (locs : List (Nat × Nat)) : List (Nat × Nat) :=
  (locs.flatMap (fun e => match s.readSnap isDir e.1 e.2 with
    | some ws => numbered (4096 * e.1) ws
    | none => [])).foldl (fun l e => Sparse.set mapBlank l e.1 e.2) []

/-- The highest DSN that each map page's snapshot contains, from the DIR deltas of the ring (R296). -/
def coversOf (ds : List Delta) : List (Nat × Nat) :=
  (ds.filter (fun d => d.typ == 3)).foldl (fun l d =>
    Sparse.set zeroBlank l (bitsOf (d.words.headD 0) 32 20) (d.words.getD 1 0)) []

/-- The pages of a delta that no snapshot covers are dirty (R292). -/
def State.dirtyBy (s : State) (d : Delta) : State :=
  ((deltaPages d).filter (fun p => s.coverOf p.1 p.2 < d.dsn)).foldl (fun (t : State) p => t.dirtyMap p.1 p.2 d.dsn) s

/-- Step 9: the ring's deltas, and the top table (R300). -/
def State.mapResume (s : State) : State :=
  match s.ringContent with
  | none => s.fault 48 0 1 false
  | some (ds, dsn, line, lap) =>
    if s.ringBroken dsn line lap then s.fault 48 0 2 false
    else
      let tail := match s.readTwo deltaAncA deltaAncB with
        | some (_, _, ws) => ws.getD 0 0
        | none => 0
      { s with mapS := { s.mapS with
        top := s.readTop, cover := coversOf ds, dcover := [], wbs := [],
        deltas := ds, dsn := dsn, head := line, tail := tail, lap := lap, cache := [], ancTime := s.uptime } }

/-- The directory and the map, from the snapshots and the ring; what a snapshot covers is retired (R300). Log 171 (DESIGN
CHOICE). -/
def State.readMapIn (s : State) : State :=
  let ds := s.mapS.deltas
  let dir := (ds.foldl applyMapDelta { dir := s.readSnaps true s.mapS.top }).dir
  let m := ds.foldl applyMapDelta { map := s.readSnaps false dir, dir := dir }
  let t := ds.foldl State.dirtyBy { s with mapS := { s.mapS with map := m.map, dir := dir } }
  t.retireDeltas (fun d => t.deltaCovered d)

end Sys2Proof.Machine
end

