-- ==== Sys2Proof/Machine/Media.lean ====
section
/-! DEFINITION. The flash side of a card (chapters 12 and 13): the media table, superblocks and their parity, placement,
LUN operations and their in-flight entries, programs and erases, verification, and moves. -/

namespace Sys2Proof.Machine

open Sys2Proof.Crypto

/-- The format record's slots (R290). -/
def formatA : Nat := 0x01CA0B80
def formatB : Nat := 0x01CA0BC0

/-! ## Records rewritten in place -/

/-- Rewrite a single-line record in its place, with the next generation. -/
def State.rewriteSlr (s : State) (a : Nat) (ws : List Nat) : State :=
  let gen := match s.readSlr a with
    | some (_, g, _) => g + 1
    | none => 1
  s.writeSlr a 0 gen ws

/-! ## The media table (R326–R328) -/

/-- An untouched table entry: FREE, but for the pairs that hold the system blocks (R317). -/
def sbBlank (k : Nat) : SbEntry := if sbPair k < 2 then { state := 3 } else {}

def State.entry (s : State) (k : Nat) : SbEntry := Sparse.get sbBlank s.media.table k

/-- The flash units of a superblock that map entries name (R331). -/
def State.currentUnits (s : State) (k : Nat) : List Nat :=
  (s.mapS.map.filter (fun e => unitHalf e.1 == sbHalf k && s.sbOfEntry e.2 (sbHalf k) == k)).map (·.1)

/-- Cache slot `i` of the table, its tag, and the directory record of a table page (R327). -/
def tableSlot (i : Nat) : Nat := 0x01DEA000 + 16384 * i
def tableTag (i : Nat) : Nat := 0x01DE8000 + 64 * i
def tableDir (page : Nat) : Nat := 0x01DE0000 + 128 * (page / 12)

/-- Word 0, and the words of READS, of an entry. -/
def entryHead (e : SbEntry) (valid : Nat) : Nat :=
  min 65535 e.erases + e.state % 8 * 2 ^ 16 + e.maxcb % 256 * 2 ^ 19 + min 65535 valid * 2 ^ 27 + e.members % 65536 * 2 ^ 43
def entryReads (e : SbEntry) (i n : Nat) : List Nat :=
  (List.range n).map (fun j => e.reads.getD (2 * (i + j)) 0 % 2 ^ 32 + e.reads.getD (2 * (i + j) + 1) 0 % 2 ^ 32 * 2 ^ 32)

/-- The 128 bytes of an entry (R326). -/
def entryBytes (e : SbEntry) (valid : Nat) : List Byte :=
  let w0 := entryHead e valid
  let lo := entryReads e 0 6
  let hi := entryReads e 6 2 ++ List.replicate 5 0
  bytesOfWords ([w0, e.pass % 2 ^ 32 + crc32 (bytesOfWords (w0 :: lo)) * 2 ^ 32] ++ lo ++ hi ++ [crc32 (bytesOfWords hi)])

/-- The entry that 128 bytes hold, when both checks match. -/
def entryOfBytes (bs : List Byte) : Option SbEntry :=
  let w := wordsOfBytes bs
  let at' := fun (i : Nat) => w.getD i 0
  if at' 1 / 2 ^ 32 != crc32 (bytesOfWords (at' 0 :: (w.drop 2).take 6)) ||
      at' 15 != crc32 (bytesOfWords ((w.drop 8).take 7)) then none
  else some {
    erases := bitsOf (at' 0) 0 16, state := bitsOf (at' 0) 16 3, maxcb := bitsOf (at' 0) 19 8, members := bitsOf (at' 0) 43 16,
    pass := at' 1 % 2 ^ 32, vmax := bitsOf (at' 0) 27 16 == 65535, reads := (List.range 16).map (fun i => bitsOf (at' (2 + i / 2)) (32 * (i % 2)) 32) }

/-- REFRESH_LIMIT as it acts (R340). -/
def State.refreshLimit (s : State) : Nat := min 1000000 (max 1000 (s.fld MED_READ_CFG_REFRESH_LIMIT))

/-- VALID of an entry: its current units, or its maximum where the entry was lost (R326, R328). -/
def State.validOf (s : State) (k : Nat) : Nat := if (s.entry k).vmax then 65535 else (s.currentUnits k).length

/-- The conservative values of an entry that cannot be read (R328). -/
def State.sbDoubt (s : State) (k : Nat) : SbEntry :=
  if sbPair k < 2 then sbBlank k
  else
    let peers := s.media.table.filter (fun e => sbSet e.1 == sbSet k && sbHalf e.1 == sbHalf k)
    { erases := (peers.map (fun e => e.2.erases)).foldl max 0, state := if (s.findSb k).isSome then 1 else 2, maxcb := 255,
      reads := List.replicate 16 s.refreshLimit, vmax := true }

/-- The table takes an entry in MEDIA SRAM. -/
def State.putEntry (s : State) (k : Nat) (e : SbEntry) : State :=
  { s with media := { s.media with table := Sparse.set sbBlank s.media.table k e } }

/-- Write an entry into the cache slot of its page. -/
def State.saveEntry (s : State) (slot k : Nat) : State :=
  s.writeBytes (tableSlot slot + 128 * (k % 128)) (entryBytes (s.entry k) (s.validOf k))

/-- The superblocks of a table page. -/
def pageSbs (page : Nat) : List Nat := (List.range 128).map (128 * page + ·)

/-- Something stands in the bytes of the MRAM from `a` on. -/
def State.mramUsed (s : State) (a n : Nat) : Bool :=
  s.mram.any (fun c => a ≤ c.1 && c.1 < a + n) || s.ecc.any (fun e => a / 8 ≤ e.1 && e.1 < (a + n) / 8)

/-- The bytes of a table page as its snapshot holds them. -/
def State.tableBytes (s : State) (page loc : Nat) : Option (List Byte) :=
  let us := (List.range 4).map (fun i => s.slotUnit (loc + i) (page % 2))
  if us.any (·.isNone) then none else some (us.flatMap (fun u => padTo 4096 (u.elim [] (·.ct))))

/-- Load a table page into a cache slot, and then commit the tag; a page never placed is zero throughout, and one whose
snapshot is unreadable takes the values of R328 (R327, R339). Log 168 (DESIGN CHOICE). -/
def State.loadTable (s : State) (page slot : Nat) : State :=
  let s := s.bump MED_TABLE_STAT_MISSES
  let loc := Sparse.get mapBlank s.media.tdir page
  let t : State :=
    if loc = unmapped then
      if s.mramUsed (tableSlot slot) 16384 then s.writeBytes (tableSlot slot) (List.replicate 16384 0) else s
    else match s.tableBytes page loc with
    | some bs => s.writeBytes (tableSlot slot) bs
    | none =>
      (pageSbs page).foldl (fun (t : State) k => (t.putEntry k (t.sbDoubt k)).saveEntry slot k) (s.fault 88 page page false)
  let t := t.mramFence.rewriteSlr (tableTag slot) [page + 1]
  { t with media := { t.media with resident := t.media.resident ++ [(slot, page)] } }

/-- A cache slot that holds no page. -/
def State.freeTable (s : State) : Option Nat :=
  firstBelow 61 (fun i => !s.media.resident.any (fun r => r.1 == i) && !s.media.evict.any (fun r => r.1 == i))

/-- The cache slot that holds the page of an entry, with that page. -/
def State.residentOf (s : State) (k : Nat) : Option (Nat × Nat) := s.media.resident.find? (fun r => r.2 == k / 128)

/-- A change of an entry goes to its resident page, which becomes the most recently used. -/
def State.saveResident (s : State) (k : Nat) (r : Nat × Nat) : State :=
  let t := s.saveEntry r.1 k
  { t with media := { t.media with resident := t.media.resident.erase r ++ [r] } }

/-- Change an entry: in SRAM, and in its page, which is loaded into a free slot if it is not resident; else the change
waits for a page to be evicted (R327). -/
def State.setEntryK (s : State) (k : Nat) (e : SbEntry) : State :=
  let t := s.putEntry k e
  match t.residentOf k with
  | some r => t.saveResident k r
  | none => match t.freeTable with
    | some i => let u := t.loadTable (k / 128) i; (u.putEntry k e).saveEntry i k
    | none => { t with media := { t.media with unsaved := if t.media.unsaved.contains k then t.media.unsaved else t.media.unsaved ++ [k] } }

/-- The member number of a LUN in its set, and the LUN of a member (R303). -/
def State.memberOf (s : State) (lun : Nat) : Nat :=
  if s.setWidth = 0 then lun / 16 else 2 * (lun / 16) + lun % 2
def State.memberLun (s : State) (set m : Nat) : Nat :=
  if s.setWidth = 0 then 16 * m + set else 16 * (m / 2) + 2 * set + m % 2

/-- The block of superblock `k` on a LUN is not retired: its bit of MEMBERS (R335). -/
def State.blockGood (s : State) (k lun : Nat) : Bool := bitAt (s.entry k).members (s.memberOf lun)

/-- The LUNs that would be members of a superblock: those of its set, less retired blocks, fenced LUNs, and the LUN
being retired (R304, R335). -/
def State.sbMembers (s : State) (k : Nat) : List Nat :=
  (s.setMembers (sbSet k)).filter (fun l => s.blockGood k l && !s.lunFenced l && s.media.retiring != some l)

/-- Fewer than two blocks of a superblock are good (R304, R329). -/
def State.fewBlocks (s : State) (k : Nat) : Bool := ((s.setMembers (sbSet k)).filter (s.blockGood k)).length < 2

/-! ## Parity slots and superblock records (R304, R306) -/

/-- N_OPEN (R304). -/
def nOpen (p : Nat) : Nat := min 4 (1016 / max 1 p)

/-- A parity slot is free. -/
def State.slotFree (s : State) (i : Nat) : Bool :=
  !s.heldSbs.any (fun x => x.first ≤ i && i < x.first + s.ppb)

def State.freeSlots (s : State) : Nat := 1016 - s.heldSbs.length * s.ppb

/-- A run of P consecutive free parity slots (R306). -/
def State.freeRun (s : State) : Option Nat :=
  firstBelow 1016 (fun i => i + s.ppb ≤ 1016 && (List.range s.ppb).all (fun j => s.slotFree (i + j)))

/-- The record of superblock slot `r` in MRAM (R306). -/
def sbRecAddr (r : Nat) : Nat := 0x01BFFC00 + 128 * r

/-- A set of members of a superblock as bits. -/
def State.memberBits (s : State) (ls : List Nat) : Nat := bitsOfList 16 (fun m => ls.any (fun l => s.memberOf l == m))

/-- The words of a superblock record: word 1 set, half, b, state, first slot, and what it was opened for; word 2 its
members, those erased, those that take no further pages, and those to retire; words 3 and 4 the void wordlines.
Log 24 (DESIGN CHOICE). -/
def State.sbWords (s : State) (x : OpenSb) : List Nat :=
  let v := fun (i : Nat) => match x.voids[i]? with
    | some (l, w) => 2 ^ 15 + s.memberOf l * 2 ^ 9 + w % 512
    | none => 0
  let four := fun (i : Nat) => (List.range 4).foldl (fun a j => a + v (i + j) * 2 ^ (16 * j)) 0
  [x.set + 16 * x.half + 32 * x.b + x.state * 2 ^ 20 + x.first * 2 ^ 24 + x.forMove.toNat * 2 ^ 34,
   s.memberBits (x.fill.map (·.1)) + s.memberBits x.erased * 2 ^ 16 + s.memberBits x.shut * 2 ^ 32 +
     s.memberBits x.toRetire * 2 ^ 48,
   four 0, four 4]

/-- Commit the superblock record a superblock holds. -/
def State.writeSbRecord (s : State) (k : Nat) : State :=
  match s.media.sbs.findIdx? (fun x => sbIndex x.set x.b x.half == k) with
  | none => s
  | some r =>
    match s.media.sbs.drop r with
    | x :: _ => s.writeTwo (sbRecAddr (r % 4)) (sbRecAddr (r % 4) + 64) (s.sbWords x)
    | [] => s

/-! ## LUN operations (R320) -/

def inflightAddr (l : Nat) : Nat := 0x01C01000 + 64 * l

/-- Rewrite a LUN's in-flight entry in place with the next generation. -/
def State.writeInflight (s : State) (l w1 : Nat) : State := s.rewriteSlr (inflightAddr l) [w1]

/-- Word 1 of an in-flight entry. -/
def inflightWord (o : LunOp) : Nat :=
  (if o.kind = 1 then 1 else 2) + o.block * 2 ^ 2 + o.page * 2 ^ 17 + Config.wordlineOf o.page * 2 ^ 26 + o.sb * 2 ^ 35

/-- LUNs of a channel with a program or erase under way. -/
def State.busyOn (s : State) (ch : Nat) : Nat :=
  (s.media.ops.filter (fun o => o.issued && o.lun / 16 == ch)).length

/-- The programs and erases a channel may have at once under throttling (R436). -/
def State.throttleCap (s : State) : Nat :=
  if s.fld THS_STAT_LEVEL = 0 then 16 else if s.fld THS_STAT_LEVEL = 1 then 2 else 1

/-- A waiting operation may start on its LUN (R29, R320, R415, R430, R436). -/
def State.mayIssue (s : State) (o : LunOp) : Bool :=
  !o.issued && !s.media.ops.any (fun x => x.issued && x.lun == o.lun) && !s.safe &&
  s.coreRuns && !s.lunFenced o.lun && s.busyOn (o.lun / 16) < s.throttleCap &&
  !(o.kind == 1 && s.media.ops.any (fun x => x.issued && x.kind == 1 && x.sb == o.sb &&
      Config.wordlineOf x.page == Config.wordlineOf o.page))

/-- Words of a fold: one that read uncorrectable is poisoned as it is written (R262, R307). -/
def State.foldWords (s : State) (a : Nat) : List Nat → State
  | [] => s
  | w :: ws => (if s.wordBad (a / 8) then s.writePart a (bytesBE 8 w) else s.writeWord a w).foldWords (a + 8) ws

/-- Put a page into a parity slot that has been read. -/
def State.putParity (s : State) (i : Nat) (d : List Byte × List Byte) : State :=
  (s.foldWords (parityAddr i) (wordsOfBytes d.1)).foldWords (parityMdAddr i) (wordsOfBytes d.2)

/-- Fold a page into its parity slot: the first member issued at its index writes the slot, each later one XORs (R307).
Of a group whose parity is out of use nothing is folded. -/
def State.foldPage (s : State) (x : OpenSb) (lun page : Nat) : State :=
  let i := x.first + page
  let d := s.pageBytes lun x.b page x.half
  if (State.groupOf x page).isEmpty then (s.writeBytes (parityAddr i) d.1).writeBytes (parityMdAddr i) d.2
  else if s.parityLost x page then s
  else
    let t := s.putParity i (xorPages d (s.parityPage i))
    if s.parityReads i then t else t.fault 84 i i false

/-- A page of a superblock is issued: it counts among its group from now on. -/
def State.noteIssued (s : State) (o : LunOp) : State :=
  match s.findSb o.sb with
  | some x => if o.kind = 1 then
      (s.foldPage x o.lun o.page).updSb o.sb (fun y => { y with iss := setLun y.iss o.lun (o.page + 1) }) else s
  | none => s

/-- Start the first waiting operation of a LUN: its in-flight entry is written and the page folded, and only then is the
command issued (R29, R307). -/
def State.issueOn (s : State) (l : Nat) : State :=
  match s.media.ops.find? (fun o => o.lun == l) with
  | some o =>
    if s.mayIssue o then
      let t := (((s.writeInflight l (inflightWord o)).mramFence).noteIssued o).mramSync
      { t with media := { t.media with
          ops := t.media.ops.map (fun x => if x == o then { x with issued := true } else x) } }
    else s
  | none => s

/-- Start every operation that may start. Log 104 (DEDUCED). -/
def State.issueAll (s : State) : State :=
  (s.media.ops.map (·.lun)).eraseDups.foldl State.issueOn s

def State.pushOp (s : State) (o : LunOp) : State :=
  { s with media := { s.media with ops := s.media.ops ++ [o] } }

/-! ## Opening a superblock (R304, R308, R329) -/

/-- The FREE superblock of a half with the lowest ERASES in the next set in rotation that has one.
Log 105 (DESIGN CHOICE). -/
def State.pickFree (s : State) (h : Nat) : Option Nat :=
  let sets := (List.range 16).map (fun i => (s.media.rotate + i) % 16)
  let free := fun q => ((List.range s.media.pairs).map (fun b => sbIndex q b h)).filter
    (fun k => (s.entry k).state == 0 && 2 ≤ (s.sbMembers k).length)
  match sets.find? (fun q => !(free q).isEmpty) with
  | none => none
  | some q => (free q).foldl (fun a k => match a with
      | none => some k
      | some j => if (s.entry k).erases < (s.entry j).erases then some k else some j) none

/-- FREE superblocks of a half. -/
def State.freeCount (s : State) (h : Nat) : Nat :=
  ((List.range 16).flatMap (fun q => if (s.setMembers q).length < 2 then [] else
    ((List.range s.media.pairs).map (fun b => sbIndex q b h)).filter
      (fun k => (s.entry k).state == 0))).length

/-- Put a superblock into the first record slot that is free. -/
def State.addSb (s : State) (x : OpenSb) : State :=
  match (s.media.sbs.findIdx? (fun y => y.state == 4 && y.set == x.set && y.b == x.b &&
      y.half == x.half)).or (s.media.sbs.findIdx? (fun y => y.state == 4)) with
  | some i => { s with media := { s.media with sbs := s.media.sbs.set i x } }
  | none => { s with media := { s.media with sbs := s.media.sbs ++ [x] } }

/-- Take a superblock: parity slots from `i` on, the table, the record, and the erase of each member. -/
def State.takeSb (s : State) (k i : Nat) (forMove : Bool) : State :=
  let q := sbSet k
  let ms := s.sbMembers k
  let x : OpenSb := {
    set := q, half := sbHalf k, b := sbPair k, first := i, state := 1, forMove := forMove, fill := ms.map (fun l => (l, 0)) }
  let t : State := s.addSb x
  let t := (t.setEntryK k { s.entry k with state := 1, vmax := false }).writeSbRecord k
  let t : State := { t with media := { t.media with rotate := (q + 1) % 16 } }
  let t := if t.freeSlots < t.ppb ∧ t.ppb ≤ s.freeSlots then t.fire EV_PAR_SPACE_LOW else t
  (ms.foldl (fun (t : State) l => t.pushOp { lun := l, kind := 2, block := 2 * x.b + x.half, page := 0, sb := k }) t).issueAll

/-- Open a superblock for a half, if P parity slots and one of the N_OPEN places are free; none opens while PAR or MEDIA is
fenced (R304, R313, R339). -/
def State.openSb (s : State) (h : Nat) (forMove : Bool) : State :=
  if nOpen s.ppb ≤ s.heldSbs.length || s.fenced (.engine pPAR 0) || s.fenced (.engine pMED 0) then s
  else match s.freeRun, s.pickFree h with
    | some i, some k => s.takeSb k i forMove
    | _, _ => s

/-- The open superblock that takes host units of a half, or moves; moves share it when there is no
other. -/
def State.openFor (s : State) (h : Nat) (forMove : Bool) : Option OpenSb :=
  match s.media.sbs.find? (fun x => x.half == h && x.state == 1 && x.forMove == forMove) with
  | some x => some x
  | none => if forMove then
      s.media.sbs.find? (fun x => x.half == h && x.state == 1) else none

/-- Open one if the half has none. -/
def State.ensureOpen (s : State) (h : Nat) (forMove : Bool) : State :=
  match s.openFor h forMove with
  | some _ => s
  | none => s.openSb h (forMove && nOpen s.ppb == 4)

/-- From READY on, a half without an open superblock for host data must open one: where fewer than P slots are free it
waits for a release (R304, R308). -/
def State.mustOpen (s : State) (h : Nat) : State :=
  if !s.ready || (s.openFor h false).isSome then s
  else if s.freeSlots < s.ppb then s.fire EV_PAR_SPACE_FULL
  else s.openSb h false

/-- A superblock closes, and its half opens another (R304, R305). -/
def State.closeSb (s : State) (k : Nat) : State :=
  ((s.updSb k (fun y => { y with state := 2 })).writeSbRecord k).mustOpen (sbHalf k)

/-! ## Filling (R305) -/

/-- Every member is full, or takes no further pages. -/
def State.sbFull (s : State) (x : OpenSb) : Bool :=
  x.fill.all (fun e => 4 * s.ppb ≤ e.2 || x.shut.contains e.1)

/-- A superblock closes when its last page is issued (R305). Log 91 (DEDUCED). -/
def State.closeIfFull (s : State) (k : Nat) : State :=
  match s.findSb k with
  | some x => if x.state = 1 && s.sbFull x then s.closeSb k else s
  | none => s

/-- Fill the next slot of a member with a unit; the page it completes is to be programmed. -/
def State.fillSlot (s : State) (k lun : Nat) (u : FlashUnit) : State :=
  match s.findSb k with
  | none => s
  | some x =>
    let f := atLun x.fill lun
    let e := entryOf s.ppb lun x.b (f / 4) (f % 4)
    let t := (s.setFlash e x.half (some u)).updSb k (fun y => { y with fill := setLun y.fill lun (f + 1) })
    if f % 4 = 3 then
      (t.pushOp { lun := lun, kind := 1, block := 2 * x.b + x.half, page := f / 4, sb := k }).closeIfFull k
    else t

/-- Pad a member up to a number of slots. -/
def State.padSlots (s : State) (k lun : Nat) : Nat → State
  | 0 => s
  | n + 1 => (s.fillSlot k lun padUnit).padSlots k lun n

/-- Fill a member with pad data up to the end of its present wordline (R305). -/
def State.padMember (s : State) (k lun : Nat) : State :=
  match s.findSb k with
  | none => s
  | some x =>
    let f := atLun x.fill lun
    if f = 0 then s
    else s.padSlots k lun (4 * (lastOfWordline s.ppb ((f - 1) / 4) + 1) - f)

/-- Fill a member with pad data up to the end of its present page. -/
def State.padPage (s : State) (k lun : Nat) : State :=
  match s.findSb k with
  | none => s
  | some x => s.padSlots k lun ((4 - atLun x.fill lun % 4) % 4)

/-! ## The media cipher (R354, R355) -/

/-- The IV of a user unit. -/
def userIv (inst addr ctr : Nat) : List Byte :=
  bytesBE 5 (inst % 16 * 2 ^ 36 + addr % 2 ^ 36) ++ bytesBE 7 ctr

/-- KEYID of a user unit. -/
def userKeyId (inst kgen : Nat) : Nat := inst * 256 + kgen % 256

/-- Metadata bytes 16 to 29 of a user unit: the associated data. -/
def userAad (inst kgen ctr g : Nat) : List Byte :=
  bytesBE 2 (userKeyId inst kgen) ++ bytesBE 7 ctr ++ bytesBE 5 (g % 2 ^ 32)

/-- A unit as the flash holds it, under the instance's IMK. -/
def State.encryptUnit (s : State) (inst addr g ctr : Nat) (plain : List Byte) : FlashUnit :=
  let key := s.imk inst
  let kgen := s.keys.kgen.getD inst 0
  let ct := gcmCrypt key (userIv inst addr ctr) (padTo 4096 plain)
  let aad := userAad inst kgen ctr g
  ⟨ct, gcmTag key (userIv inst addr ctr) aad ct ++ aad ++ [0, 0]⟩

/-- Its plaintext again. -/
def State.decryptUnit (s : State) (inst addr ctr : Nat) (u : FlashUnit) : List Byte :=
  gcmCrypt (s.imk inst) (userIv inst addr ctr) u.ct

/-! ## Placement of a journal record (R28, stages 5 to 8) -/

/-- The slot that the placement names is the next one of its member in an open superblock of the half. -/
def State.locFits (s : State) (x : OpenSb) (loc : Nat) : Bool :=
  let l := entryLun loc
  x.fill.any (fun e => e.1 == l) && !x.shut.contains l && !s.lunFenced l &&
  entrySlot loc == x.b * (4 * s.ppb) + atLun x.fill l && atLun x.fill l < 4 * s.ppb

/-- Stages 5 to 8 may run. -/
def State.placing (s : State) : Bool :=
  s.ready && s.isCard && !s.safe && s.coreRuns && !s.journalFenced && !s.treeFenced &&
  !s.fenced (.engine pMAP 0) && !s.fenced (.engine pMED 0) && !s.fenced (.engine pCRY 1) &&
  !s.fenced (.engine pPAR 0)

/-- A record can be placed: its unit's counter and map page are at hand, and no cache or ring is short of room. -/
def State.canPlace (s : State) (r : JRec) : Bool :=
  s.deltaRoom && s.mapRoom (r.g / 4096) && s.treeRoom r.g && s.imk r.inst != [] && !s.ctrFenced r.g &&
  s.cachedPage (r.g / 4096) false && s.tree.cache.contains (r.g / 512)

/-- Place a write record in slot `loc`: map delta and counter delta are committed, and then the unit is encrypted under
the new counter and fills the slot (R28, R32, R295). -/
def State.placeWrite (s : State) (r : JRec) (loc : Nat) : State :=
  let h := unitHalf r.g
  let s := ((s.ensureOpen h false).touchMap (r.g / 4096) false).touchTree (r.g / 512)
  match s.openFor h false with
  | none => s
  | some x =>
    if !s.locFits x loc || !s.canPlace r then s
    else
      let mapDsn := s.mapS.dsn
      let t := s.setEntry r.g loc
      let ctrDsn := t.mapS.dsn
      let t := (t.bumpCtr r.g).commitDeltas.mramSync
      let u := s.encryptUnit r.inst r.addr r.g (t.ctrGet r.g) (s.recData r)
      let t := (t.fillSlot (sbIndex x.set x.b x.half) (entryLun loc) u).issueAll
      (s.noteDeltaHigh t).updRec r.seq (fun y => { y with
        loc := some loc, programmed := false, mapDsn := some mapDsn, ctrDsn := some ctrDsn })

/-- Stage 5 of a discard record: one RANGE delta (R301). -/
def State.placeDiscard (s : State) (r : JRec) : State :=
  if !s.deltaRoom then s
  else
    let t := (s.unmapRange r.g (r.cnt + 1)).commitDeltas.fireI EV_MAP_DISCARD_DONE r.inst 0 r.g
    t.updRec r.seq (fun y => { y with loc := some unmapped, programmed := true, mapDsn := some s.mapS.dsn })

/-! ## Release (R27, R299) -/

/-- The units of a record, as addresses of its instance. -/
def recUnits (r : JRec) : List Nat := (List.range (r.cnt + 1)).map (r.addr + ·)

def recHas (r : JRec) (inst addr : Nat) : Bool :=
  r.inst == inst && r.addr ≤ addr && addr ≤ r.addr + r.cnt

/-- Two records of one instance touch a common unit. -/
def recOverlap (a b : JRec) : Bool :=
  a.inst == b.inst && a.addr ≤ b.addr + b.cnt && b.addr ≤ a.addr + a.cnt

/-- A later record has committed the map or range delta of every unit of `r` (R299). -/
def State.superseded (s : State) (r : JRec) : Bool :=
  (recUnits r).all (fun a => s.lnd.recs.any (fun x =>
    r.seq < x.seq && recHas x r.inst a && (match x.mapDsn with
      | some d => s.deltaDone d
      | none => false)))

/-- The folded state of an instance's segment waits for its delta line (R395). Log 94 (DESIGN CHOICE). -/
def State.segWaits (s : State) (inst : Nat) : Bool :=
  s.mapS.deltas.any (fun d => d.typ == 0x20 && d.line.isNone && d.words.headD 0 / 2 ^ 60 == inst)

/-- The conditions of R27; a superseded record needs no program of its own (R299). -/
def State.releasable (s : State) (r : JRec) : Bool :=
  let done := fun (d : Option Nat) => match d with
    | some d => s.deltaDone d
    | none => false
  r.committed && !s.lnd.recs.any (fun x => x.seq < r.seq && recOverlap x r) &&
  r.segDone && !s.segWaits r.inst &&
  (s.superseded r || (r.programmed && done r.mapDsn && (r.kind == 2 || done r.ctrDsn)))

end Sys2Proof.Machine
end

