-- ==== Sys2Proof/Machine/Snapshots.lean ====
section
/-! DEFINITION. The internal units of a card's flash: snapshots of map and directory pages and their writebacks, tree
units and checkpoints, and table pages and their eviction (R291, R296, R327, R361, R364). -/

namespace Sys2Proof.Machine

/-! ## Places -/

/-- A slot's wordline is programmed to its last page, so that no later program can hurt it (R27). -/
def State.durable (s : State) (e h : Nat) : Bool :=
  match s.findSb (s.sbOfEntry e h) with
  | none => true
  | some x => lastOfWordline s.ppb (entryPage s.ppb e) < atLun x.prog (entryLun e)

/-- The member of an open superblock with room and the fewest slots filled, `bar` aside. Log 105 (DESIGN CHOICE). -/
def State.pickMember (s : State) (x : OpenSb) (bar : Nat → Bool) : Option Nat :=
  (x.fill.filter (fun e => e.2 < 4 * s.ppb && !x.shut.contains e.1 && !s.lunFenced e.1 && !bar e.1)).foldl
    (fun a e => match a with
      | none => some e.1
      | some l => if e.2 < atLun x.fill l then some e.1 else some l) none

/-- The next slot of a member. -/
def State.nextEntry (s : State) (x : OpenSb) (l : Nat) : Nat :=
  entryOf s.ppb l x.b (atLun x.fill l / 4) (atLun x.fill l % 4)

/-- Put a unit into the open superblock of a half: where, if there is one with room. Log 20 (DESIGN CHOICE). -/
def State.placeUnit (s : State) (h : Nat) (forMove : Bool) (u : FlashUnit) (bar : Nat → Bool) : Option Nat × State :=
  let s := s.ensureOpen h forMove
  match s.openFor h forMove with
  | none => (none, s)
  | some x => match s.pickMember x bar with
    | none => (none, s)
    | some l => (some (s.nextEntry x l), s.fillSlot (sbIndex x.set x.b x.half) l u)

/-- Put four units into a page of their own (R291). Log 20 (DESIGN CHOICE). -/
def State.placePage (s : State) (h : Nat) (us : List FlashUnit) : Option Nat × State :=
  let s := s.ensureOpen h false
  match s.openFor h false with
  | none => (none, s)
  | some x =>
    let k := sbIndex x.set x.b x.half
    match s.pickMember x (fun l => 4 * (s.ppb - 1) < atLun x.fill l) with
    | none => (none, s)
    | some l =>
      let t := s.padPage k l
      match t.findSb k with
      | none => (none, s)
      | some y => (some (t.nextEntry y l), us.foldl (fun (t : State) u => t.fillSlot k l u) t)

/-! ## Writebacks of map and directory pages (R296) -/

/-- The 16 KiB of a map page, or of a directory page. -/
def State.pageWords (s : State) (page : Nat) (isDir : Bool) : List Nat :=
  (List.range 4096).map (fun i => Sparse.get mapBlank (if isDir then s.mapS.dir else s.mapS.map) (4096 * page + i))

/-- The highest DSN that a page contains now. -/
def State.topOf (s : State) (page : Nat) (isDir : Bool) : Nat :=
  ((s.mapS.deltas.filter (fun d => (deltaPages d).contains (page, isDir))).map (·.dsn)).foldl max (s.coverOf page isDir)

/-- The counters of the four units of a page take their next values, committed before the units are encrypted (R32). -/
def State.bumpSnap (s : State) (page : Nat) (isDir : Bool) : State :=
  ((List.range 4).foldl (fun (t : State) i => t.bumpCtr (snapCtr isDir (4 * page + i))) s).commitDeltas.mramSync

/-- The four units of a page's snapshot. -/
def State.snapUnits (s : State) (page : Nat) (isDir : Bool) : List FlashUnit :=
  let bs := (s.pageWords page isDir).flatMap (bytesBE 4)
  (List.range 4).map (fun i => s.snapUnit isDir (4 * page + i) (s.ctrGet (snapCtr isDir (4 * page + i)))
    ((bs.drop (4096 * i)).take 4096))

/-- A page can be written back: its counters can be changed, and it is not being written back. -/
def State.wbMay (s : State) (page : Nat) (isDir : Bool) : Bool :=
  let c := snapCtr isDir (4 * page)
  s.keys.trk != [] && !s.treeFenced && s.treeRoom c && !s.ctrFenced c && s.tree.cache.contains (c / 512) &&
  s.cachedPage page isDir && !s.mapS.wbs.any (fun w => w.page == page && w.isDir == isDir)

/-- Start to write a page back: its snapshot is placed in half `page` mod 2, for its program (R291, R296). -/
def State.startWriteback (s : State) (page : Nat) (isDir : Bool) : State :=
  let s := (s.touchMap page isDir).touchTree (snapCtr isDir (4 * page) / 512)
  if !s.wbMay page isDir then s
  else
    let t := s.bumpSnap page isDir
    let r := t.placePage (page % 2) (t.snapUnits page isDir)
    match r.1 with
    | none => s.ensureOpen (page % 2) false
    | some loc =>
      let w : Writeback := { page := page, isDir := isDir, loc := loc, top := s.topOf page isDir }
      ({ r.2 with mapS := { r.2.mapS with wbs := r.2.mapS.wbs ++ [w] } } : State).issueAll

/-- A page's snapshot covers it up to a DSN: it is dirty only by what came later. -/
def State.coverPage (s : State) (w : Writeback) : State :=
  let left := ((s.mapS.deltas.filter (fun d => w.top < d.dsn && (deltaPages d).contains (w.page, w.isDir))).map (·.dsn)).head?
  let cache := mapIf (fun (x : MapSlot) => x.page == w.page && x.isDir == w.isDir) (fun x => { x with oldest := left }) s.mapS.cache
  { s with mapS := { s.mapS with
      cache := cache, wbs := s.mapS.wbs.erase w,
      cover := if w.isDir then s.mapS.cover else Sparse.set zeroBlank s.mapS.cover w.page w.top,
      dcover := if w.isDir then Sparse.set zeroBlank s.mapS.dcover w.page w.top else s.mapS.dcover } }

/-- The snapshot of a page is in flash: the DIR delta, or the top-table record of a directory page, is committed, and
what it covers is retired (R296, R31). -/
def State.finishWriteback (s : State) (w : Writeback) : State :=
  let t : State :=
    if w.isDir then
      let u : State := { s with mapS := { s.mapS with top := Sparse.set mapBlank s.mapS.top w.page w.loc } }
      u.writeTwo (topAddr (w.page / 12)) (topAddr (w.page / 12) + 64)
        (topWords (fun i => Sparse.get mapBlank u.mapS.top i) (w.page / 12))
    else
      let u := s.dirtyMap (w.page / 4096) true s.mapS.dsn
      let u := (u.queueDelta 3 [w.page * 2 ^ 32 + w.loc, w.top]).commitDeltas
      { u with mapS := { u.mapS with dir := Sparse.set mapBlank u.mapS.dir w.page w.loc } }
  let t := (t.coverPage w).bump MAP_CACHE_CNT_WRITEBACKS
  ((t.retireDeltas (fun d => t.deltaCovered d)).fireD EV_MAP_WRITEBACK_DONE 0 (pageName w.page w.isDir)).writeDeltaAnchor

/-! ## Checkpoints (R364) -/

/-- The tree units a checkpoint writes: every dirty leaf, those whose copies are to leave their place, and all their
parents, level by level. -/
def State.ckptKeys (s : State) : List Nat :=
  let own := fun (l : Nat) => s.tree.redo.filter (fun k => keyLevel k == l)
  let k0 := (s.tree.dirty ++ own 0).eraseDups
  let k1 := (k0.map keyParent ++ own 1).eraseDups
  let k2 := (k1.map keyParent ++ own 2).eraseDups
  k0 ++ k1 ++ k2

/-- Place both copies of a tree unit with the next version, on different channels where there are two; none once a unit
has found no place (R360, R364). -/
def State.placeTree (a : Option (List (Nat × TreeEnt)) × State) (k : Nat) : Option (List (Nat × TreeEnt)) × State :=
  match a.1 with
  | none => a
  | some ents =>
    let ver := (Sparse.get entBlank ents k).ver + 1
    let u := a.2.treeUnit k ver (treeBytes ents a.2.tree.ctr k)
    let h := keyUnit k % 2
    let p := a.2.placeUnit h false u (fun _ => false)
    match p.1 with
    | none => (none, a.2)
    | some ea =>
      let q := p.2.placeUnit h false u (fun l => l / 16 == entryLun ea / 16)
      let q := if q.1.isSome then q else p.2.placeUnit h false u (fun _ => false)
      match q.1 with
      | none => (none, a.2)
      | some eb => (some (Sparse.set entBlank ents k ⟨ver, ea, eb⟩), q.2)

/-- A checkpoint starts: step 1 sets the cutoff, and the units of step 2 are placed for their programs. -/
def State.startCheckpoint (s : State) : State :=
  if s.tree.ckpt.isSome || s.keys.trk == [] then s
  else
    let t := s.commitDeltas
    let r := t.ckptKeys.foldl State.placeTree (some t.tree.ents, t)
    match r.1 with
    | none => (t.ensureOpen 0 false).ensureOpen 1 false
    | some ents =>
      let c : Ckpt := { d := r.2.tree.applied, ents := ents, keys := t.ckptKeys }
      (({ r.2 with tree := { r.2.tree with ckpt := some c } } : State).setFlag TRE_STAT_CKPT_BUSY true).issueAll

/-- Every unit of a checkpoint is in flash. -/
def State.ckptPlaced (s : State) (c : Ckpt) : Bool :=
  c.keys.all (fun k =>
    let e := Sparse.get entBlank c.ents k
    s.durable e.a (keyUnit k % 2) && s.durable e.b (keyUnit k % 2))

/-- Steps 3 to 5 of a checkpoint (R364). -/
def State.finishCheckpoint (s : State) : State :=
  match s.tree.ckpt with
  | none => s
  | some c =>
    if !s.ckptPlaced c || !s.rootSpaced || s.keys.trk == [] then s
    else
      let t := s.commitRoot s.keys.trk c.ents c.d
      let t := { t with tree := { t.tree with
        ckpt := none, dirty := c.again, oldest := c.againAt, redo := t.tree.redo.filter (fun k => !c.keys.contains k) } }
      let t := (t.setFlag TRE_STAT_CKPT_BUSY false).bump TRE_CKPT_CNT_CHECKPOINTS
      (t.retireDeltas (fun x => x.typ == 0x10 && x.dsn ≤ c.d)).writeDeltaAnchor

/-- A checkpoint is given up before its root: the old root stays in force, and what was dirty stays so. -/
def State.dropCheckpoint (s : State) : State :=
  ({ s with tree := { s.tree with ckpt := none } } : State).setFlag TRE_STAT_CKPT_BUSY false

/-! ## Table pages (R327) -/

/-- No cache slot of the table: a page whose snapshot is only to move. -/
def noSlot : Nat := 61

/-- A table page is placed in flash. -/
def State.placeTable (s : State) (slot page : Nat) (bs : List Byte) : State :=
  if s.media.evict.any (fun e => e.2.1 == page) then s
  else
    let r := s.placePage (page % 2) ((Crypto.chunks 4096 4 bs).map (fun b => ⟨b, List.replicate 32 0⟩))
    match r.1 with
    | none => r.2
    | some loc => ({ r.2 with media := { r.2.media with evict := r.2.media.evict ++ [(slot, page, loc)] } } : State).issueAll

/-- The snapshot of a table page is in flash: its directory record is committed, and then its tag is cleared. -/
def State.finishTable (s : State) (e : Nat × Nat × Nat) : State :=
  let m := s.media
  let tdir := Sparse.set mapBlank m.tdir e.2.1 e.2.2
  let t : State := { s with media := { m with
    tdir := tdir, evict := m.evict.erase e, resident := m.resident.filter (fun r => r.1 != e.1) } }
  let t := (t.writeTwo (tableDir e.2.1) (tableDir e.2.1 + 64)
    (topWords (fun i => Sparse.get mapBlank tdir i) (e.2.1 / 12))).mramFence
  if e.1 < noSlot then t.rewriteSlr (tableTag e.1) [0] else t

/-- Entries that wait for their page: it is loaded once a slot is free, for which the least recently used page is
evicted. -/
def State.driveTable (s : State) : State :=
  match s.media.unsaved with
  | [] => s
  | k :: _ =>
    if (s.residentOf k).isSome || s.freeTable.isSome then
      (s.media.unsaved.filter (fun j => j / 128 == k / 128)).foldl (fun (t : State) j => t.setEntryK j (t.entry j))
        { s with media := { s.media with unsaved := s.media.unsaved.filter (fun j => j / 128 != k / 128) } }
    else match s.media.evict, s.media.resident with
      | [], r :: _ => s.placeTable r.1 r.2 (s.mramBytes (tableSlot r.1) 16384)
      | _, _ => s

/-! ## What is lost before it is programmed -/

/-- Snapshots, checkpoints and table pages that stand in lost slots are to be written anew; `p` picks the slots by entry
and half. -/
def State.undoInternal (s : State) (p : Nat → Nat → Bool) : State :=
  let t : State := { s with
    mapS := { s.mapS with wbs := s.mapS.wbs.filter (fun w => !p w.loc (w.page % 2)) },
    media := { s.media with evict := s.media.evict.filter (fun e => !p e.2.2 (e.2.1 % 2)) } }
  match t.tree.ckpt with
  | some c => if c.keys.any (fun k =>
      let e := Sparse.get entBlank c.ents k
      p e.a (keyUnit k % 2) || p e.b (keyUnit k % 2)) then t.dropCheckpoint else t
  | none => t

/-- The internal units that lie in places `p` picks: snapshots of pages, tree units, and table pages. -/
def State.pagesAt (s : State) (p : Nat → Nat → Bool) : List (Nat × Bool) :=
  ((s.mapS.dir.filter (fun e => p e.2 (e.1 % 2))).map (fun e => (e.1, false))) ++
  ((s.mapS.top.filter (fun e => p e.2 (e.1 % 2))).map (fun e => (e.1, true)))

def State.unitsAt (s : State) (p : Nat → Nat → Bool) : List Nat :=
  (s.tree.ents.filter (fun e => p e.2.a (keyUnit e.1 % 2) || p e.2.b (keyUnit e.1 % 2))).map (·.1)

def State.tablesAt (s : State) (p : Nat → Nat → Bool) : List Nat :=
  (s.media.tdir.filter (fun e => p e.2 (e.1 % 2))).map (·.1)

/-- A current internal unit lies there: until a root covers a checkpoint, the copies it replaces count as current
(R364). -/
def State.internalAt (s : State) (p : Nat → Nat → Bool) : Bool :=
  !(s.pagesAt p).isEmpty || !(s.unitsAt p).isEmpty || !(s.tablesAt p).isEmpty

/-- Write anew what lies there: the tree units with the next checkpoint, which starts. -/
def State.moveInternal (s : State) (p : Nat → Nat → Bool) : State :=
  let t := (s.pagesAt p).foldl (fun (t : State) e => t.startWriteback e.1 e.2) s
  let t := (s.tablesAt p).foldl (fun (t : State) page =>
    if t.media.resident.any (fun r => r.2 == page) then
      { t with media := { t.media with tdir := Sparse.set mapBlank t.media.tdir page unmapped } }
    else match t.tableBytes page (Sparse.get mapBlank t.media.tdir page) with
      | some bs => t.placeTable noSlot page bs
      | none => t) t
  let us := s.unitsAt p
  if us.isEmpty then t
  else ({ t with tree := { t.tree with redo := (t.tree.redo ++ us).eraseDups } } : State).startCheckpoint

end Sys2Proof.Machine
end

