-- ==== Sys2Proof/Machine/Moves.lean ====
section
/-! DEFINITION. The work of the media manager (chapters 12 and 13): moves, the end of programs and erases, void wordlines,
rebuild, verification, lost dies, and what is counted of reads. -/

namespace Sys2Proof.Machine

open Sys2Proof.Crypto

/-! ## Moves (R298, R330, R331) -/

/-- The DATA superblocks. -/
def State.dataSbs (s : State) : List Nat := (s.media.table.filter (fun e => e.2.state == 2)).map (·.1)

/-- The first superblock of a list for which `f` is lowest. Log 105 (DESIGN CHOICE). -/
def lowestOf (ks : List Nat) (f : Nat → Nat) : Option Nat :=
  ks.foldl (fun a k => match a with
    | none => some k
    | some j => if f k < f j then some k else some j) none

/-- Lowest and highest ERASES among FREE and DATA superblocks (R330, R340). -/
def State.eraseRange (s : State) : Nat × Nat :=
  let es := (s.media.table.filter (fun e => e.2.state == 0 || e.2.state == 2)).map (·.2.erases)
  let untouched := (List.range 2).any (fun h => (List.range s.media.pairs).any (fun b =>
    2 ≤ b && (List.range 16).any (fun q => 2 ≤ (s.setMembers q).length &&
      !s.media.table.any (fun e => e.1 == sbIndex q b h))))
  let es := if untouched then 0 :: es else es
  (es.foldl min (es.headD 0), es.foldl max 0)

/-- Copy one unit's ciphertext and metadata to a new slot; its map delta waits for the program (R298).
Log 90 (DEDUCED). -/
def State.moveUnit (s : State) (k g : Nat) : State :=
  let h := unitHalf g
  let src := s.mapGet g
  if src = unmapped ∨ s.journalHolds g ∨ s.media.moves.any (fun m => m.g == g) then s
  else match s.slotUnit src h with
  | none => s
  | some u =>
    let r := s.placeUnit h true u (fun _ => false)
    match r.1 with
    | none => r.2
    | some e => { r.2 with media := { r.2.media with moves := r.2.media.moves ++ [⟨g, src, e, k⟩] } }

/-- The slots of a superblock. -/
def State.inSb (s : State) (k e h : Nat) : Bool := h == sbHalf k && s.sbOfEntry e h == k

/-- A DATA superblock without current units is freed; with too few good blocks it is of no use (R329, R331, R332). -/
def State.freeIfEmpty (s : State) (k : Nat) : State :=
  if (s.entry k).state == 2 && (s.currentUnits k).isEmpty && !s.internalAt (s.inSb k) then
    s.setEntryK k { s.entry k with state := if s.fewBlocks k then 3 else 0, maxcb := 0 }
  else s

/-- What the end of a superblock's moves fires and counts (R330, R340). -/
def State.movesEnded (s : State) (k why : Nat) : State :=
  let t := { s with media := { s.media with moving := s.media.moving.erase (k, why) } }
  let t := t.freeIfEmpty k
  if why = 1 then (t.bump MED_MOVE_CNT_WEAR).fireD EV_MED_WEAR_MOVE_DONE 0 k
  else if why = 3 then t.bump MED_MOVE_CNT_REPAIR
  else t

/-- The current units of a superblock that can still leave it: by a move, or because a record holds them. -/
def State.leaving (s : State) (k : Nat) : List Nat :=
  (s.currentUnits k).filter (fun g => s.journalHolds g || (s.slotUnit (s.mapGet g) (unitHalf g)).isSome)

/-- Go on emptying a superblock: once none of its moves is under way, the units left are moved, and with nothing left
the moves have ended. -/
def State.driveMoving (s : State) (x : Nat × Nat) : State :=
  if s.media.moves.any (fun m => m.k == x.1) then s
  else if (s.leaving x.1).isEmpty && !s.internalAt (s.inSb x.1) then s.movesEnded x.1 x.2
  else (s.leaving x.1).foldl (fun (t : State) g => t.moveUnit x.1 g) s

/-- Start to empty a superblock: its units are moved, and its internal units written anew; it is freed once its moves
have committed. -/
def State.evacuate (s : State) (k why : Nat) : State :=
  let t := { s with media := { s.media with moving := s.media.moving ++ [(k, why)] } }
  ((t.moveInternal (s.inSb k)).driveMoving (k, why)).issueAll

/-- A move's page is programmed: its delta commits only if the entry still names the source and no unreleased record
holds the unit (R298), and waits while there is no room for it. Log 90 (DEDUCED). -/
def State.commitMove (s : State) (m : Move) : State :=
  let gone : State := { s with media := { s.media with moves := s.media.moves.erase m } }
  if s.mapGet m.g != m.src || s.journalHolds m.g then gone
  else if s.deltaRoom && s.mapRoom (m.g / 4096) then (gone.setEntry m.g m.dst).commitDeltas
  else s

/-! ## Rebuilt pages (R310) -/

/-- The three checks of a user unit read from flash: none where it passes, else the event (R356). -/
def State.checkUnit (s : State) (inst addr g ctr : Nat) (u : FlashUnit) : Option Ev :=
  let kgen := s.keys.kgen.getD inst 0
  if (u.md.drop 16).take 2 ≠ bytesBE 2 (userKeyId inst kgen) then some EV_CRY_KEYID_MISMATCH
  else if (u.md.drop 18).take 12 ≠ bytesBE 7 ctr ++ bytesBE 5 (g % 2 ^ 32) then some EV_TRE_REPLAY_DETECT
  else if u.md.take 16 ≠
      gcmTag (s.imk inst) (userIv inst addr ctr) ((u.md.drop 16).take 14) u.ct then
    some EV_CRY_MEDIA_TAG_FAIL
  else none

/-- The current units of a page. -/
def State.unitsOnPage (s : State) (e h : Nat) : List Nat :=
  (s.mapS.map.filter (fun x => unitHalf x.1 == h && x.2 / 4 == e / 4)).map (·.1)

/-- A unit of a rebuilt page that verifies is to be written anew. -/
def State.keepRebuilt (s : State) (us : List FlashUnit) (g : Nat) : State :=
  let e := s.mapGet g
  let inst := s.instOf g
  let addr := g - 4096 * s.fld (INS_BASE_EXTENT inst)
  match us[entryCw e]? with
  | some u =>
    if (s.checkUnit inst addr g (s.ctrGet g) u).isSome || s.media.rebuilt.any (fun r => r.1 == g) then s
    else { s with media := { s.media with
      rebuilt := s.media.rebuilt ++ [(g, slotKey e (unitHalf g), s.decryptUnit inst addr (s.ctrGet g) u)] } }
  | none => s

/-- A page of an open or closing superblock is rebuilt, or its rebuild fails; its units whose newest copy it is are then
written anew (R310). -/
def State.rebuildAt (s : State) (x : OpenSb) (lun page : Nat) : State :=
  let e := entryOf s.ppb lun x.b page 0
  match s.rebuildPage x lun page with
  | none =>
    let t := s.bump PAR_REBUILD_CNT_UNRECOVERED
    if s.parityReads (x.first + page) then t else t.fault 84 (x.first + page) (x.first + page) false
  | some us =>
    let t := (s.bump PAR_REBUILD_CNT_PAGES).fireD EV_PAR_REBUILD_DONE lun page
    let t := (s.unitsOnPage e x.half).foldl (fun (t : State) g => t.keepRebuilt us g) t
    t.moveInternal (fun e' h => h == x.half && e' / 4 == e / 4)

/-- Rebuilt units are committed to the journal as far as it has room, under the conditions of R298 (R310). -/
def State.driveRebuilt (s : State) : State :=
  s.media.rebuilt.foldl (fun (t : State) r =>
    let gone : State := { t with media := { t.media with rebuilt := t.media.rebuilt.erase r } }
    let g := r.1
    let inst := t.instOf g
    if slotKey (t.mapGet g) (unitHalf g) != r.2.1 || t.journalHolds g then gone
    else if !t.fits 1 1 || t.journalFenced || t.keys.jnk == [] then t
    else
      let u := gone.allocRecord 1 inst 0 (g - 4096 * t.fld (INS_BASE_EXTENT inst)) 0 g
      match u.lnd.recs.getLast? with
      | some x => (u.commitRec x r.2.2).updRec x.seq (fun y => { y with segDone := true })
      | none => u) s

/-! ## What is lost before it is programmed, and void wordlines (R28, R311, R322) -/

/-- What stands in lost slots is placed again: records, moves and internal units; `p` picks the slots. -/
def State.undoPlaced (s : State) (p : Nat → Nat → Bool) : State :=
  let hit := fun (r : JRec) => match r.loc with
    | some e => r.kind == 1 && p e (unitHalf r.g)
    | none => false
  let recs := mapIf hit (fun r => { r with loc := none, programmed := false, mapDsn := none, ctrDsn := none }) s.lnd.recs
  let t : State := { s with
    lnd := { s.lnd with recs := recs },
    media := { s.media with moves := s.media.moves.filter (fun m => !p m.dst (unitHalf m.g)) } }
  t.undoInternal p

/-- A void page goes out of its parity slot: the parity is what the other members of its group give, or, where one of
them does not read, the slot with the page taken out (R311). Log 169 (DEDUCED). -/
def State.unfoldPage (s : State) (x : OpenSb) (lun page : Nat) : State :=
  let others := ((State.groupOf x page).filter (· != lun)).map (fun l => s.memberPage x l page)
  let i := x.first + page
  if others.isEmpty || s.parityLost x page then s
  else if others.any (·.isNone) then s.putParity i (xorPages (s.pageBytes lun x.b page x.half) (s.parityPage i))
  else s.putParity i ((others.map (fun o => o.getD ([], []))).foldl xorPages
    (List.replicate 16384 0, List.replicate 128 0))

/-- Void a wordline: its folded pages go out of parity, the void is committed, the member takes no further pages, and
what was placed on it and is not programmed is placed again (R306, R311, R322). Log 19 (DESIGN CHOICE). -/
def State.voidWordline (s : State) (k lun wl : Nat) : State :=
  match s.findSb k with
  | none => s
  | some x =>
    let onMember := fun (e h : Nat) => h == x.half && entryLun e == lun && entryPair s.ppb e == x.b && !s.durable e h
    let t := if x.voids.contains (lun, wl) then s
      else ((List.range (atLun x.iss lun)).filter (fun p => Config.wordlineOf p == wl)).foldl
        (fun (t : State) p => t.unfoldPage x lun p) s
    let t := t.mramFence
    let t := t.updSb k (fun y => { y with
      voids := if y.voids.contains (lun, wl) then y.voids else y.voids ++ [(lun, wl)],
      shut := if y.shut.contains lun then y.shut else y.shut ++ [lun],
      state := if y.state = 1 ∧ 8 ≤ y.voids.length then 2 else y.state })
    let t := (t.writeSbRecord k).undoPlaced onMember
    let ops := t.media.ops.filter (fun o => !(o.lun == lun && o.sb == k))
    let t := ({ t with media := { t.media with ops := ops } } : State).closeIfFull k
    t.mustOpen x.half

/-! ## End of an operation (R320, R322) -/

/-- The records on a LUN's pages become programmed once their wordline's last page is. -/
def State.markProgrammed (s : State) (lun b h n : Nat) : State :=
  { s with lnd := { s.lnd with recs := s.lnd.recs.map (fun r => match r.loc with
      | some e => if r.kind == 1 && entryLun e == lun && entryPair s.ppb e == b && unitHalf r.g == h &&
            lastOfWordline s.ppb (entryPage s.ppb e) < n then { r with programmed := true } else r
      | none => r) } }

/-- A program passed: its page counts as programmed (R320). -/
def State.programDone (s : State) (o : LunOp) : State :=
  let s := { s with life := { s.life with programmed := s.life.programmed + 1 } }
  match s.findSb o.sb with
  | none => s
  | some x =>
    let t := s.updSb o.sb (fun y => { y with prog := setLun y.prog o.lun (o.page + 1) })
    t.markProgrammed o.lun x.b x.half (o.page + 1)

/-- A firmware copy cannot be kept on a LUN (R443). -/
def State.badCopy (s : State) (o : LunOp) : State :=
  match ((if o.lun = 0 then s.media.fw0 else s.media.fw16).take 2).findIdx? (· == o.block) with
  | some slot => { s with firm := { s.firm with bad := (s.firm.bad ++ [(slot, o.lun)]).eraseDups } }
  | none => s

/-- A program failed (R322). -/
def State.programFailed (s : State) (o : LunOp) : State :=
  let ch := o.lun / 16
  let t := (s.bump (FCH_FAIL_CNT_PROGRAM ch)).fireD (EV_FCH_PROGRAM_FAIL ch) o.lun
    (o.block * 65536 + o.page)
  if o.block < 4 then t.badCopy o
  else
    let t := t.voidWordline o.sb o.lun (Config.wordlineOf o.page)
    (t.updSb o.sb (fun y => { y with toRetire := y.toRetire ++ [o.lun] })).writeSbRecord o.sb

/-- Nothing stands in a block any more. -/
def State.clearBlock (s : State) (lun block : Nat) : State :=
  let h := block % 2
  let lo := entryOf s.ppb lun (block / 2) 0 0
  let inside := fun (key : Nat) => key % 2 == h && lo ≤ key / 2 && key / 2 < lo + 4 * s.ppb
  { s with media := { s.media with
    flash := Sparse.clear s.media.flash inside, lost := s.media.lost.filter (fun k => !inside k) } }

/-- An erase of a member passed; with the last one ERASES counts up (R329). -/
def State.memberErased (s : State) (o : LunOp) : State :=
  if (s.findSb o.sb).isNone then s
  else
    let t := (s.updSb o.sb (fun y => { y with erased := y.erased ++ [o.lun] })).writeSbRecord o.sb
    if t.media.ops.any (fun x => x.sb == o.sb && x.kind == 2) then t
    else t.setEntryK o.sb { t.entry o.sb with
      erases := satInc 16 (t.entry o.sb).erases, reads := List.replicate 16 0 }

/-- A block is retired: its bit of MEMBERS is cleared, and what follows from it (R335, R336). -/
def State.retireBlock (s : State) (lun block : Nat) : State :=
  let k := sbIndex (s.setOf lun) (block / 2) (block % 2)
  let m := s.memberOf lun
  let e := s.entry k
  let t := s.setEntryK k { e with members := if bitAt e.members m then e.members - 2 ^ m else e.members }
  let t := { t with media := { t.media with
    retiredBlocks := t.media.retiredBlocks ++ [lun * 65536 + block],
    good0 := if block % 2 = 0 then t.media.good0 - 1 else t.media.good0,
    good1 := if block % 2 = 1 then t.media.good1 - 1 else t.media.good1 } }
  (t.bump MED_RETIRED_BLOCKS).fire EV_MED_BLOCK_RETIRED

/-- Spare share of a half, in per mille (R336). -/
def State.spare (s : State) (h : Nat) : Nat :=
  let d := 4 * s.ppb * (if h = 0 then s.media.good0 else s.media.good1)
  let used := (s.fld MAP_CAP_EXTENTS + 1) / 2 * 4096
  if d = 0 then 0 else 1000 * (d - used) / d

/-- The spare events and WRITE_FENCED (R336). -/
def State.noteSpare (s t : State) : State :=
  let low := t.fld MED_SPARE_CFG_LOW
  let fell := fun n => (n ≤ s.spare 0 && t.spare 0 < n) || (n ≤ s.spare 1 && t.spare 1 < n)
  let u := if fell low then t.fire EV_MED_SPARE_LOW else t
  if fell 20 then (u.setFlag MED_STAT_WRITE_FENCED true).fire EV_MED_SPARE_OUT else u

/-- Fewer than two members of a superblock are left: it is not used (R304, R329). -/
def State.dropSb (s : State) (k : Nat) : State :=
  match s.findSb k with
  | some x => if x.fill.length < 2 then
      let t := ((s.updSb k (fun y => { y with state := 4 })).writeSbRecord k).setEntryK k { s.entry k with state := 3 }
      { t with media := { t.media with ops := t.media.ops.filter (fun o => o.issued || o.sb != k) } }
    else s
  | none => s

/-- An erase failed: the block is retired at once and its member is absent (R322). -/
def State.eraseFailed (s : State) (o : LunOp) : State :=
  let ch := o.lun / 16
  let t := (s.bump (FCH_FAIL_CNT_ERASE ch)).fireD (EV_FCH_ERASE_FAIL ch) o.lun (o.block * 65536)
  if o.block < 4 then t.badCopy o
  else
    let t := (t.updSb o.sb (fun y => { y with fill := y.fill.filter (fun e => e.1 != o.lun) })).writeSbRecord o.sb
    let t := { t with media := { t.media with
      ops := t.media.ops.filter (fun x => !(x.lun == o.lun && x.sb == o.sb)) } }
    (((t.retireBlock o.lun o.block).closeIfFull o.sb).dropSb o.sb).mustOpen (sbHalf o.sb)

/-! ## The background erase (R36, R37) -/

/-- The background erase's progress record (R279): whether it runs, and the next block. Log 24 (DESIGN CHOICE). -/
def progA : Nat := 0x01C00800
def progB : Nat := 0x01C00840

/-- The blocks the background erase covers. -/
def State.eraseTotal (s : State) : Nat := 2 * s.media.pairs * s.media.luns.length

/-- A block the background erase has still to erase: neither a system block nor retired, and not in use again.
Log 81 (DEDUCED). -/
def State.eraseWanted (s : State) (j : Nat) : Option LunOp :=
  let n := 2 * s.media.pairs
  let lun := s.media.luns.getD (j / n) 0
  let block := j % n
  let k := sbIndex (s.setOf lun) (block / 2) (block % 2)
  if block < 4 || s.lunFenced lun || !s.blockGood k lun || (s.entry k).state == 1 || !(s.currentUnits k).isEmpty ||
      s.internalAt (s.inSb k) then none
  else some { lun := lun, kind := 3, block := block, page := 0, sb := k }

/-- Superblocks whose blocks the background erase has passed and that hold nothing current are free. -/
def State.eraseStale (s : State) : State := s.dataSbs.foldl (fun (t : State) k => t.freeIfEmpty k) s

/-- Progress of the background erase: shown, committed, and at its end the superblocks it emptied are free. -/
def State.eraseProgress (s : State) : State :=
  if !s.media.erasing || s.media.ops.any (fun o => o.kind == 3) then s
  else
    let total := s.eraseTotal
    let ended : Bool := total ≤ s.media.eraseNext
    let t := s.writeTwo progA progB [if ended then 0 else 1, s.media.eraseNext]
    let t := t.setFld LCK_ERASE_STAT_PROGRESS (if ended then 1000 else 1000 * s.media.eraseNext / total)
    if ended then
      let u : State := { t with media := { t.media with erasing := false } }
      (if u.fld LCK_ERASE_STAT_STATE = 3 then u.setFld LCK_ERASE_STAT_STATE 0 else u).eraseStale
    else t

/-- The next `n` blocks of the background erase are taken. -/
def State.eraseMore (s : State) (n : Nat) : State :=
  let js := (List.range (min n (s.eraseTotal - s.media.eraseNext))).map (s.media.eraseNext + ·)
  let t := (js.filterMap s.eraseWanted).foldl State.pushOp s
  (({ t with media := { t.media with eraseNext := s.media.eraseNext + js.length } } : State).issueAll).eraseProgress

/-! ## The end of an operation, and what goes on after it -/

/-- What waited for the flash goes on: writebacks, a checkpoint, evictions, moves, rebuilt units. -/
def State.flashGoOn (s : State) : State :=
  let t := (s.mapS.wbs.filter (fun w => s.durable w.loc (w.page % 2))).foldl State.finishWriteback s
  let t := t.finishCheckpoint
  let t := (t.media.evict.filter (fun e => t.durable e.2.2 (e.2.1 % 2))).foldl State.finishTable t
  let t := (t.media.moves.filter (fun m => t.durable m.dst (unitHalf m.g))).foldl State.commitMove t
  let t := t.driveRebuilt.driveTable
  (t.media.moving.foldl State.driveMoving t).issueAll

/-- A LUN reports its operation ended: its in-flight entry is cleared (R320). -/
def State.lunDone (s : State) (lun : Nat) (ok : Bool) : State :=
  match s.media.ops.find? (fun o => o.lun == lun && o.issued) with
  | none => s
  | some o =>
    let t := s.writeInflight lun 0
    let t := { t with media := { t.media with ops := t.media.ops.erase o } }
    let u := match o.kind == 1, ok with
      | true, true => t.programDone o
      | true, false => t.programFailed o
      | false, true => (t.clearBlock o.lun o.block).memberErased o
      | false, false => t.eraseFailed o
    ((s.noteSpare u).eraseProgress).flashGoOn

/-! ## Verification (R309) -/

/-- Pages of a superblock that do not decode: those issued, less void wordlines, with a unit that is not at hand. -/
def State.failedPages (s : State) (x : OpenSb) : List (Nat × Nat) :=
  x.iss.flatMap (fun m => ((List.range m.2).filter (fun p => !x.voids.contains (m.1, Config.wordlineOf p) &&
    (s.pageSlots m.1 x.b p).any (fun e => !s.slotReads e x.half && (match s.flashAt e x.half with
      | some u => u != padUnit
      | none => false)))).map (fun p => (m.1, p)))

/-- A unit of a page is current, and nothing but the page holds it. -/
def State.strands (s : State) (x : OpenSb) (lp : Nat × Nat) : Bool :=
  let e := entryOf s.ppb lp.1 x.b lp.2 0
  (s.unitsOnPage e x.half).any (fun g => !s.journalHolds g && !s.media.rebuilt.any (fun r => r.1 == g))

/-- A page does not decode and units depend on it. -/
def State.toRebuild (s : State) (x : OpenSb) : List (Nat × Nat) :=
  (s.failedPages x).filter (fun lp => s.strands x lp ||
    s.internalAt (fun e h => h == x.half && e / 4 == entryOf s.ppb lp.1 x.b lp.2 0 / 4))

/-- DETAIL_A of the verification events (R315). -/
def sbDetail (x : OpenSb) : Nat := x.set + 16 * x.half

/-- Steps 1 to 3 of a verification (R309). -/
def State.releaseSb (s : State) (k : Nat) (x : OpenSb) (failed : Bool) : State :=
  let t := if failed then (s.bump PAR_VERIFY_CNT_FAIL).fireD EV_PAR_VERIFY_FAIL (sbDetail x) x.b
    else (s.bump PAR_VERIFY_CNT_PASS).fireD EV_PAR_VERIFY_PASS (sbDetail x) x.b
  let t := (t.mramFence.updSb k (fun y => { y with state := 4 })).writeSbRecord k
  let t := t.setEntryK k { t.entry k with state := 2 }
  let t := x.toRetire.eraseDups.foldl (fun (t : State) l => t.retireBlock l (2 * x.b + x.half)) t
  let t := ((s.noteSpare t).fireD EV_PAR_RELEASED (sbDetail x) x.b).fire EV_MED_SB_CLOSED
  (t.ensureOpen x.half false).ensureOpen (1 - x.half) false

/-- Count array reads of a member. Log 92 (DEDUCED). -/
def State.countReads (s : State) (k m n : Nat) : State :=
  let g := s.media.gathered
  let g := if g.any (fun x => x.1 == k && x.2.1 == m)
    then mapIf (fun (x : Nat × Nat × Nat) => x.1 == k && x.2.1 == m) (fun x => (x.1, x.2.1, x.2.2 + n)) g
    else g ++ [(k, m, n)]
  { s with media := { s.media with gathered := g } }

/-- Count the array reads of a codeword for the member its slot lies on. -/
def State.countRead (s : State) (e h n : Nat) : State := s.countReads (s.sbOfEntry e h) (s.memberOf (entryLun e)) n

/-- Block and page of a slot, as the FCH_n events show them (R341). -/
def State.placeOf (s : State) (e h : Nat) : Nat := (2 * entryPair s.ppb e + h) * 65536 + entryPage s.ppb e

/-- Add the gathered increments to the table entries (R327). -/
def State.flushReads (s : State) : State :=
  let t := s.media.gathered.foldl (fun t x =>
    let e := t.entry x.1
    t.setEntryK x.1 { e with reads := e.reads.set x.2.1 (satAdd 32 (e.reads.getD x.2.1 0) x.2.2) }) s
  { t with media := { t.media with gathered := [] } }

/-- A closed superblock whose pages are all programmed is verified (R309): every issued page is read, those that fail are
rebuilt, and once what they held is in the journal or in new places its parity is released. -/
def State.verifySb (s : State) (k : Nat) : State :=
  match s.findSb k with
  | none => s
  | some x =>
    if x.state = 1 || s.media.ops.any (fun o => o.sb == k) then s
    else
      let t := if x.state = 2 then x.iss.foldl (fun (t : State) m => t.countReads k (t.memberOf m.1) m.2) s else s
      let t := t.updSb k (fun y => { y with state := 3 })
      let hurt := t.toRebuild x
      let t := (hurt.foldl (fun (t : State) lp => t.rebuildAt x lp.1 lp.2) t).flashGoOn
      let waits := t.media.rebuilt.any (fun r => t.sbOfEntry (r.2.1 / 2) x.half == k && r.2.1 % 2 == x.half) ||
        t.mapS.wbs.any (fun w => t.internalAt (fun e h => t.inSb k e h && hurt.any (fun lp => e / 4 == entryOf t.ppb lp.1 x.b lp.2 0 / 4)
          && w.page % 2 == x.half))
      if waits then t.writeSbRecord k
      else t.releaseSb k x ((t.failedPages x).any (t.strands x))

/-! ## Counting and repair of reads (R325, R333) -/

/-- REWRITE_THRESHOLD as it acts (R340). -/
def State.rewriteLimit (s : State) : Nat := min 72 (max 8 (s.fld MED_READ_CFG_REWRITE_THRESHOLD))

/-- Reads of the busiest member, gathered ones included. -/
def State.readsOf (s : State) (k : Nat) : Nat :=
  ((List.range 16).map (fun m => (s.entry k).reads.getD m 0 +
    ((s.media.gathered.filter (fun x => x.1 == k && x.2.1 == m)).map (·.2.2)).foldl (· + ·) 0)).foldl
    max 0

/-- Schedule a rewrite of a superblock (R325). -/
def State.scheduleRewrite (s : State) (k : Nat) : State :=
  if s.media.refresh.contains k then s
  else { s with media := { s.media with refresh := s.media.refresh ++ [k] } }.fireD EV_MED_ERR_REWRITE 0 k

/-- Where a read ends on the ladder: without a parameter record there is no stage between hard decode and rebuild (R319). -/
def State.climb (s : State) (m : MediaRead) : MediaRead :=
  if s.media.param || m.ladder == 0 then m else { m with ladder := 3 }

/-- The array reads of a codeword: stage 1; the retry steps from the one that last succeeded on the LUN on, wrapping once;
and two reads, or two and six, of the soft stage (R324). -/
def State.arrayReads (s : State) (lun : Nat) (m : MediaRead) : Nat :=
  let n := s.media.retries
  if !s.media.param || m.ladder = 0 then 1
  else if m.ladder = 1 then 2 + (m.step + n - atLun s.media.lastStep lun) % n
  else 1 + n + (if m.ladder = 2 && !m.wide then 2 else 8)

/-- What the stages of a read count and fire: the LUN, the step of a retry, and the block and page; a success at a step is
where the LUN's next ladder starts (R324, R341). -/
def State.noteLadder (s : State) (lun loc : Nat) (m : MediaRead) : State :=
  if !s.media.param then s
  else
    let ch := lun / 16
    let t := if 1 ≤ m.ladder then (s.bump (FCH_READ_CNT_RETRY ch)).fireD (EV_FCH_READ_RETRY ch) (lun + 256 * (m.step % 16)) loc
      else s
    let t := if m.ladder = 1 then { t with media := { t.media with lastStep := setLun t.media.lastStep lun m.step } } else t
    if 2 ≤ m.ladder then (t.bump (FCH_READ_CNT_SOFT ch)).fireD (EV_FCH_SOFT_DECODE ch) lun loc else t

/-- The corrected bits of a decoded codeword: the highest of the channel and of the superblock, and the
rewrite they may call for (R324–R326). Log 71 (DEDUCED). -/
def State.noteCb (s : State) (k lun : Nat) (m : MediaRead) : State :=
  let t := s.raiseTo (FCH_CB_STAT_MAX (lun / 16)) m.corrected
  let t := if (t.entry k).maxcb < m.corrected then t.setEntryK k { t.entry k with maxcb := m.corrected } else t
  if m.ladder = 2 ∨ s.rewriteLimit ≤ m.corrected then t.scheduleRewrite k else t

/-! ## Loss of a die, a CE or a channel (R28, R312) -/

/-- The superblocks with a member on fenced LUNs close, and what waited for those LUNs is dropped. Log 91 (DEDUCED). -/
def State.closeOn (s : State) (p : Nat → Bool) : State :=
  let hit := fun (x : OpenSb) => x.state == 1 && x.fill.any (fun e => p e.1)
  { s with media := { s.media with
      sbs := mapIf hit (fun x => { x with state := 2 }) s.media.sbs,
      ops := s.media.ops.filter (fun o => !p o.lun) } }

/-- The operations of other LUNs of a CE are aborted by its RESET: programs void their wordlines, erases
are repeated (R337, R338). -/
def State.abortCe (s : State) (ce hung : Nat) : State :=
  let hit := s.media.ops.filter (fun o => o.issued && o.lun / 8 == ce && o.lun != hung)
  hit.foldl (fun (t : State) o =>
    let t := t.writeInflight o.lun 0
    let t : State := { t with media := { t.media with
      ops := mapIf (fun x => x == o) (fun x => { x with issued := false }) t.media.ops } }
    if o.kind = 1 then t.voidWordline o.sb o.lun (Config.wordlineOf o.page) else t) s

/-- LUNs are fenced: their superblocks close, what was placed on them in superblocks with parity and waits in the journal
is placed again, and what else their pages hold is rebuilt. -/
def State.lunsLost (s : State) (p : Nat → Bool) : State :=
  let t := s.closeOn p
  let t := t.undoPlaced (fun e h => p (entryLun e) && (t.findSb (t.sbOfEntry e h)).isSome)
  let hurt := t.heldSbs.filter (fun x => x.fill.any (fun e => p e.1))
  (hurt.foldl (fun (t : State) x =>
    ((t.toRebuild x).foldl (fun (t : State) lp => t.rebuildAt x lp.1 lp.2) t).writeSbRecord (sbIndex x.set x.b x.half)) t).flashGoOn.mustOpen 0 |>.mustOpen 1

/-- The level causes of a LUN fall when it reads ready: its die timeout, and its CE's hung bus (R409). -/
def State.lunReady (s : State) (lun : Nat) : State :=
  let only := fun (src : Nat) => s.flt.holds.all (fun h => h.src != src || h.unit == .die lun || h.unit == .ce (lun / 8))
  [7 + 5 * (lun / 16), 8 + 5 * (lun / 16)].foldl (fun t src =>
    if only src then t.setFlag (FLT_SRC_STAT_ASSERTED src) false else t) s

end Sys2Proof.Machine
end

