-- ==== Sys2Proof/Machine/Locks.lean ====
section
/-! DEFINITION. Password locks (chapter 15): lock records, attempt counters, LOCK_SET, UNLOCK and
relocking, shared by the Counlet and the Spantoen paths, and which instances are configured. -/

namespace Sys2Proof.Machine

open Sys2Proof.Crypto

/-- Instance `n` is configured: INST_00 always, another once its record gives it a size (R234, R237). -/
def State.configured (s : State) (n : Nat) : Bool := n == 0 || (n < 16 && 0 < s.fld (INS_SIZE_EXTENTS n))

/-! ## Records (R386, R390).  Scope 16 is card-wide. -/

/-- The scope a scope byte names. -/
def scopeOf (b : Nat) : Option Nat := if b < 16 then some b else if b = 0xFF then some 16 else none

/-- The scope byte of a scope. -/
def scopeByte (sc : Nat) : Nat := if sc = 16 then 0xFF else sc

def lockAddr (sc : Nat) : Nat := 0x01C04000 + 128 * sc
/-- Log 24 (DESIGN CHOICE). -/
def failsAddr (sc : Nat) : Nat := 0x01C04C00 + 128 * sc

/-- The lock record of a set scope: salt and verifier. -/
def State.lockRec (s : State) (sc : Nat) : Option (List Byte × List Byte) :=
  match s.readTwoM (lockAddr sc) (lockAddr sc + 64) with
  | some (mid, ws) =>
    if mid % 256 = 1 then some (bytesOfWords (ws.take 2), bytesOfWords ((ws.drop 2).take 4)) else none
  | none => none

/-- The scope is set. -/
def State.lockSet (s : State) (sc : Nat) : Bool := (s.lockRec sc).isSome

/-- FAILS of a scope; a record with neither slot valid reads as 10. -/
def State.lockFails (s : State) (sc : Nat) : Nat :=
  match s.readTwo (failsAddr sc) (failsAddr sc + 64) with
  | some (_, _, ws) => ws.headD 0
  | none => 10

/-- Commit FAILS of a scope. -/
def State.setFails (s : State) (sc n : Nat) : State := s.writeTwo (failsAddr sc) (failsAddr sc + 64) [n]

/-- Attempts left. -/
def State.lockLeft (s : State) (sc : Nat) : Nat := 10 - s.lockFails sc

/-- The lock of a scope is in force (R387). Log 75 (DEDUCED). -/
def State.lockForce (s : State) (sc : Nat) : Bool := bitAt (s.fld LCK_FORCE_SCOPES) sc

/-- Put the lock of a scope in force, or end it. -/
def State.setForce (s : State) (sc : Nat) (b : Bool) : State := s.setFlag (bitFld rLCK_FORCE.off sc) b

/-- The verifier of a password (R386). -/
def State.verifier (s : State) (sc : Nat) (salt pw : List Byte) : List Byte :=
  hmac s.lvk (label "LV" ++ bytesBE 1 (scopeByte sc) ++ salt ++ bytesBE 1 pw.length ++ pw)

/-- An LCK event of a scope: DETAIL_A the scope byte, DETAIL_B FAILS (R402). Log 78 (DEDUCED). -/
def State.fireLock (s : State) (e : Ev) (sc : Nat) : State :=
  s.fireI e (if sc = 16 then 0 else sc) (scopeByte sc) (s.lockFails sc)

/-- An LCK event of the forced erase: DETAIL_A names the card-wide scope (R402). -/
def State.fireErase (s : State) (e : Ev) : State := s.fireD e 0xFF (s.lockFails 16)

/-- Compare a password with the verifier of a set scope: FAILS + 1 is committed first, and 0 on a match;
a spent scope is not computed (R390). -/
def State.checkPassword (s : State) (sc : Nat) (pw : List Byte) : Bool × State :=
  match s.lockRec sc with
  | none => (false, s)
  | some (salt, v) =>
    let n := s.lockFails sc
    if 10 ≤ n then (false, s)
    else
      let t := s.setFails sc (n + 1)
      if s.verifier sc salt pw = v then (true, t.setFails sc 0)
      else (false, if n + 1 = 10 then t.fireLock EV_LCK_ATTEMPTS_SPENT sc else t)

/-- Commit a set lock record with a fresh salt. -/
def State.writeLock (s : State) (sc : Nat) (pw : List Byte) : State :=
  let salt := s.rand 16
  s.spend.writeTwoM (lockAddr sc) (lockAddr sc + 64) 1
    (wordsOfBytes salt ++ wordsOfBytes (s.verifier sc salt pw))

/-- Commit the scope unset and end its lock. -/
def State.dropLock (s : State) (sc : Nat) : State :=
  let t := if s.lockSet sc then s.writeTwoM (lockAddr sc) (lockAddr sc + 64) 0 [] else s
  (t.setForce sc false).setFails sc 0

/-- The lengths of the two passwords fit the action. -/
def lockLengths (action : Nat) (old new : List Byte) : Bool :=
  let ok := fun (l : List Byte) => 4 ≤ l.length && l.length ≤ 32
  match action with
  | 0 => old.length == 0 && ok new
  | 1 => old.length ≤ 32 && ok new
  | 2 => old.length ≤ 32 && new.length == 0
  | _ => false

/-- LOCK_SET (R388): status, attempts left, and the state. Log 78 (DEDUCED). -/
def State.runLockSet (s : State) (scope action : Nat) (old new : List Byte) : Nat × Nat × State :=
  match scopeOf scope with
  | none => (0x32, 0, s)
  | some sc =>
    if !lockLengths action old new then (0x32, 0, s)
    else if sc < 16 && !s.configured sc then (0x30, 0, s)
    else if sc < 16 && s.lockForce 16 then (0x20, 0, s)
    else if (action == 0) == s.lockSet sc then (0x32, 0, s)
    else if !s.ladderUp then (0x42, 0, s)
    else if action ≠ 2 ∧ !s.rngUp then (0x33, 0, s)
    else if action = 0 then (0x00, 0, (s.writeLock sc new).fireLock EV_LCK_LOCK_SET sc)
    else
      let c := s.checkPassword sc old
      let t := c.2
      if !c.1 then (0x20, t.lockLeft sc, t.fireLock EV_LCK_ATTEMPT_FAIL sc)
      else if action = 1 then (0x00, 0, (t.writeLock sc new).fireLock EV_LCK_LOCK_SET sc)
      else (0x00, 0, (t.dropLock sc).fireLock EV_LCK_LOCK_SET sc)

/-- UNLOCK (R389): status, attempts left, and the state. -/
def State.runUnlock (s : State) (scope : Nat) (pw : List Byte) : Nat × Nat × State :=
  match scopeOf scope with
  | none => (0x32, 0, s)
  | some sc =>
    if !s.lockSet sc then (0x32, 0, s)
    else if !s.ladderUp then (0x42, 0, s)
    else
      let c := s.checkPassword sc pw
      let t := c.2
      if c.1 then (0x00, 10, (t.setForce sc false).fireLock EV_LCK_UNLOCKED sc)
      else (0x20, t.lockLeft sc, t.fireLock EV_LCK_ATTEMPT_FAIL sc)

/-- Put every set lock in force, as at step 11 of every bring-up (R387). -/
def State.forceLocks (s : State) : State :=
  (List.range 17).foldl (fun t sc => t.setForce sc (t.lockSet sc)) s

/-- What LCK.CTRL does (R391, R402): the lock of a set scope is in force again; 31 takes every set
scope. -/
def State.lckCtrl (s : State) (w : Nat) : State :=
  let sc := bitsOf w 16 5
  if bitsOf w 0 16 ≠ 0x3E1C ∨ !bitAt w 21 then s
  else if sc = 31 then s.forceLocks
  else if sc < 17 ∧ s.lockSet sc then s.setForce sc true
  else s

/-- FAILS = 0 for every scope, at the end of step 6 of a bring-up started by the power-on clear
(R390). -/
def State.clearFails (s : State) : State := (List.range 17).foldl (fun t sc => t.setFails sc 0) s

end Sys2Proof.Machine
end

