-- ==== Sys2Proof/Machine/Segs.lean ====
section
/-! DEFINITION. Segments and their seals (chapter 15): open records, folding of committed units, the seal
log, and what bring-up step 9 recovers. -/

namespace Sys2Proof.Machine

open Sys2Proof.Crypto

/-! ## Open records and the fold (R393–R395) -/

def segAddr (n : Nat) : Nat := 0x01C05800 + 128 * n

/-- Commit the open record of an instance. -/
def State.writeOpenRec (s : State) (n state first dsn ctr : Nat) : State :=
  s.writeTwo (segAddr n) (segAddr n + 64) [state * 2 ^ 56 + first % 2 ^ 36, dsn, ctr]

/-- The open segment of an instance. -/
def State.segOf (s : State) (n : Nat) : Option Segment := s.segs.find? (fun x => x.inst == n)

def State.setSeg (s : State) (x : Segment) : State :=
  { s with segs := s.segs.filter (fun y => y.inst != x.inst) ++ [x] }

def State.dropSeg (s : State) (n : Nat) : State := { s with segs := s.segs.filter (fun y => y.inst != n) }

/-- The five slots of a SEG_STATE delta. -/
def segWords (x : Segment) : List Nat :=
  let w := fun i => (x.chain.getD i 0).toNat
  [x.inst * 2 ^ 60 + x.other * 2 ^ 36 + (x.next - x.first), w 0 * 2 ^ 32 + w 1, w 2 * 2 ^ 32 + w 3,
   w 4 * 2 ^ 32 + w 5, w 6 * 2 ^ 32 + w 7]

/-- A SEG_STATE delta of an instance. -/
def isSegDelta (n : Nat) (d : Delta) : Bool := d.typ == 0x20 && d.words.headD 0 / 2 ^ 60 == n

/-- Record a segment's state in a SEG_STATE delta: the one that waits takes the new words, or a new one
is queued; the committed ones before the newest are retired. Log 94 (DESIGN CHOICE). -/
def State.noteSeg (s : State) (x : Segment) : State :=
  let t := s.setSeg x
  let waits := fun (d : Delta) => isSegDelta x.inst d && d.line.isNone
  if t.mapS.deltas.any waits then
    { t with mapS := { t.mapS with
        deltas := mapIf waits (fun d => { d with words := segWords x }) t.mapS.deltas } }
  else
    let top := ((t.mapS.deltas.filter (isSegDelta x.inst)).map (·.dsn)).foldl max 0
    (t.retireDeltas (fun d => isSegDelta x.inst d && d.dsn < top)).queueDelta 0x20 (segWords x)

/-- The bytes one unit contributes (R395). -/
def segUnit (inst addr : Nat) (plain : List Byte) : List Byte :=
  bytesBE 4 0x53454755 ++ bytesBE 1 inst ++ [0, 0, 0] ++ bytesBE 8 addr ++ List.replicate 48 0 ++
    padTo 4096 plain

/-- Fold the unit at NEXT. -/
def foldUnit (x : Segment) (plain : List Byte) : Segment :=
  { x with chain := shaFold x.chain (segUnit x.inst x.next plain), next := x.next + 1,
           ahead := x.ahead.erase x.next }

/-- The newest committed write record of a unit. -/
def State.newestWrite (s : State) (inst addr : Nat) : Option JRec :=
  (s.lnd.recs.filter (fun r => r.committed && r.kind == 1 && r.inst == inst && r.addr == addr)).getLast?

/-- Every record of a unit has had its part in the segment. -/
def State.segDoneAt (s : State) (inst addr : Nat) : State :=
  let hit := fun (r : JRec) => r.committed && r.kind == 1 && r.inst == inst && r.addr == addr
  { s with lnd := { s.lnd with recs := mapIf hit (fun r => { r with segDone := true }) s.lnd.recs } }

/-- Fold the pending units at the new NEXT in turn. -/
def State.foldAhead (s : State) (x : Segment) : Nat → State
  | 0 => s.noteSeg x
  | n + 1 =>
    if x.ahead.contains x.next then
      match s.newestWrite x.inst x.next with
      | some r => (s.segDoneAt x.inst x.next).foldAhead (foldUnit x (s.recData r)) n
      | none => s.noteSeg x
    else s.noteSeg x

/-- Count units outside the sealed order, saturating (R394). -/
def addOther (x : Segment) (k : Nat) : Segment := { x with other := min (2 ^ 24 - 1) (x.other + k) }

/-- SEG takes a committed record (R394); `replay` skips units already folded (R400). -/
def State.segTake (s : State) (r : JRec) (replay : Bool) : State :=
  match s.segOf r.inst with
  | none => s.updRec r.seq (fun y => { y with segDone := true })
  | some x =>
    let done := fun (t : State) => t.updRec r.seq (fun y => { y with segDone := true })
    if r.kind = 1 ∧ r.addr = x.next then
      (done s).foldAhead (foldUnit x (s.recData r)) 256
    else if r.kind = 1 ∧ x.next < r.addr ∧ r.addr < x.next + 256 then
      let t := if x.ahead.contains r.addr then
          (s.segDoneAt r.inst r.addr).updRec r.seq (fun y => { y with segDone := false }) else s
      t.setSeg { x with ahead := if x.ahead.contains r.addr then x.ahead else x.ahead ++ [r.addr] }
    else
      let folded := if replay then min x.next (r.addr + r.cnt + 1) - max x.first r.addr else 0
      if r.cnt + 1 ≤ folded then done s else (done s).noteSeg (addOther x (r.cnt + 1 - folded))

/-- Units a RESIZE discards count in OTHER (R394). -/
def State.segResized (s : State) (inst n : Nat) : State :=
  match s.segOf inst with
  | some x => if n = 0 then s else s.noteSeg (addOther x n)
  | none => s

/-- SEG_OPEN's effect: the open record is committed (R393). -/
def State.openSegment (s : State) (inst first : Nat) : State :=
  let t := s.writeOpenRec inst 1 first s.mapS.dsn (s.fld SEG_COUNTER_COUNTER)
  (t.setSeg { inst := inst, first := first, next := first, chain := shaH0 }).fireI EV_SEG_OPENED inst 0 0

/-- The open record of an instance says that it has an open segment. -/
def State.openRec (s : State) (n : Nat) : Bool :=
  match s.readTwo (segAddr n) (segAddr n + 64) with
  | some (_, _, ws) => ws.headD 0 / 2 ^ 56 == 1
  | none => false

/-- An open segment goes without a seal, also one that step 9 has not read yet (R236, R392). -/
def State.abandonSeg (s : State) (n : Nat) : State :=
  let t := if s.openRec n then s.writeOpenRec n 0 0 0 0 else s
  match s.segOf n with
  | none => t
  | some x => x.ahead.foldl (fun t a => t.segDoneAt n a) (t.dropSeg n)

/-! ## Seals (R396–R399) -/

def sealAddr (c : Nat) : Nat := 0x01C08000 + 256 * (c % 384)

/-- The record with counter `c`, when its entry is valid (R398). -/
def State.sealAt (s : State) (c : Nat) : Option (List Byte) :=
  let a := sealAddr c
  let bs := s.mramBytes a 128
  let mark := s.mramWord (a + 128)
  if s.bytesBad a 192 || mark / 2 ^ 56 != 0x5C || mark % 2 ^ 32 != crc32 bs ||
      s.mramWord (a + 136) % 2 ^ 32 != c || natBE ((bs.drop 32).take 4) != c then none
  else some bs

/-- The counter an entry of the log names, when it is valid; 0 otherwise. -/
def State.sealEntry (s : State) (i : Nat) : Nat :=
  let c := s.mramWord (0x01C08000 + 256 * i + 136) % 2 ^ 32
  if c % 384 = i ∧ (s.sealAt c).isSome then c else 0

/-- The counters of the valid entries. -/
def State.sealCounters (s : State) : List Nat :=
  ((List.range 384).map (fun i => s.sealEntry i)).filter (· != 0)

/-- The seal counter: the highest valid one (R398). -/
def State.topSeal (s : State) : Nat := s.sealCounters.foldl max 0

/-- KGEN of the SLK in force. -/
def State.slkGen (s : State) : Nat :=
  match s.readKey 0x012 with
  | some (_, r) => r.kgen
  | none => 0

/-- Bytes 0 to 79 of a seal record (R397). -/
def State.sealHead (s : State) (inst first fin c other : Nat) (hash : List Byte) : List Byte :=
  bytesBE 4 0x5444534C ++ [0, 1] ++ bytesBE 1 inst ++ [0] ++ bytesBE 8 s.serial ++ bytesBE 8 first ++
    bytesBE 8 fin ++ bytesBE 4 c ++ bytesBE 4 s.slkGen ++ bytesBE 4 other ++ [0, 0, 0, 0] ++ hash

/-- The content hash of `n` folded units. -/
def segHash (chain : List Word) (n : Nat) : List Byte := shaOut (shaFold chain (shaPad (4160 * n)))

/-- The newest seal record of an instance in the log. -/
def State.newestSeal (s : State) (inst : Nat) : Option (List Byte) :=
  let mine := s.sealCounters.filter (fun c => match s.sealAt c with
    | some bs => (bs.getD 6 0).toNat == inst
    | none => false)
  if mine.isEmpty then none else s.sealAt (mine.foldl max 0)

/-- SEG_CLOSE (R396): status, the seal unit, and the state. -/
def State.closeSegment (s : State) (inst fin : Nat) : Nat × Option (List Byte) × State :=
  match s.segOf inst with
  | none =>
    match s.newestSeal inst with
    | some bs => if natBE ((bs.drop 24).take 8) = fin then (0x02, some (padTo 4096 bs), s) else (0x32, none, s)
    | none => (0x32, none, s)
  | some x =>
    let c := s.fld SEG_COUNTER_COUNTER + 1
    if fin ≠ x.next then (0x30, none, s)
    else if 2 ^ 32 ≤ c then (0x32, none, s)
    else
      let x := addOther x x.ahead.length
      let head := s.sealHead inst x.first fin c x.other (segHash x.chain (x.next - x.first))
      let bs := padTo 128 (head ++ hmac s.keys.slk head)
      let t := (s.writeBytes (sealAddr c) bs).writeWords (sealAddr c + 128)
        ([0x5C * 2 ^ 56 + crc32 bs, c] ++ List.replicate 14 0)
      let t := ((t.setFld SEG_COUNTER_COUNTER c).abandonSeg inst).bump SEG_CNT_SEALS
      let t := t.fireI EV_SEG_CLOSED inst 0 c
      (0x00, some (padTo 4096 bs), if c = 0xFFFF0000 then t.fire EV_SEG_COUNTER_HIGH else t)

/-- The first two checks of SEG_VERIFY (R399). -/
def State.sealChecks (s : State) (bs : List Byte) : Bool :=
  bs.take 6 == bytesBE 4 0x5444534C ++ [0, 1] && natBE ((bs.drop 8).take 8) == s.serial &&
  natBE ((bs.drop 36).take 4) == s.slkGen && (bs.drop 80).take 32 == hmac s.keys.slk (bs.take 80) &&
  natBE ((bs.drop 32).take 4) ≤ s.fld SEG_COUNTER_COUNTER

/-! ## Recovery at step 9 (R400) -/

/-- The state words of a SEG_STATE delta. -/
def segChainOf (ws : List Nat) : List Word :=
  (ws.drop 1).flatMap (fun w => [BitVec.ofNat 32 (w / 2 ^ 32), BitVec.ofNat 32 w])

/-- One instance's segment at step 9. -/
def State.recoverSeg (s : State) (n : Nat) : State :=
  match s.readTwo (segAddr n) (segAddr n + 64) with
  | none => s
  | some (_, _, ws) =>
    let w := ws.headD 0
    if w / 2 ^ 56 ≠ 1 then s
    else
      let newer := s.sealCounters.any (fun c => ws.getD 2 0 % 2 ^ 32 < c && (match s.sealAt c with
        | some bs => (bs.getD 6 0).toNat == n
        | none => false))
      if newer then s.writeOpenRec n 0 0 0 0
      else
        let first := w % 2 ^ 36
        let ds := s.mapS.deltas.filter (fun d => isSegDelta n d && ws.getD 1 0 ≤ d.dsn)
        match ds.getLast? with
        | some d =>
          let w0 := d.words.headD 0
          s.setSeg { inst := n, first := first, next := first + w0 % 2 ^ 36, chain := segChainOf d.words,
                     other := bitsOf w0 36 24 }
        | none => s.setSeg { inst := n, first := first, next := first, chain := shaH0 }

/-- Step 9 for the segments: the seal counter and every open record. -/
def State.recoverSegs (s : State) : State :=
  (List.range 16).foldl (fun t n => t.recoverSeg n) (s.setFld SEG_COUNTER_COUNTER s.topSeal)

/-- Step 11: the unreleased records are taken in commit order (R400). -/
def State.replaySegs (s : State) : State := s.lnd.recs.foldl (fun t r => t.segTake r true) s

end Sys2Proof.Machine
end

