-- ==== Sys2Proof/Machine/LinkCore.lean ====
section
/-! DEFINITION. The Spantoen link layer of both roles (chapters 07 and 08): IVs, MACs, sessions and their
end, frame counters, authentication failures, unit counts, tuning, and what a card answers. -/

namespace Sys2Proof.Machine

open Sys2Proof.Crypto

/-! ## Frames under a session key (R185–R187) -/

/-- The IV of a unit or of a frame MAC (R185). -/
def linkIv (epoch d kind inst tag unit fc : Nat) : List Byte :=
  bytesBE 12 (epoch % 4 * 2 ^ 94 + d * 2 ^ 93 + kind * 2 ^ 92 + inst % 16 * 2 ^ 88 + tag % 256 * 2 ^ 80 +
    unit % 4096 * 2 ^ 68 + fc % 2 ^ 64)

/-- Bits `[101:32]` of a command frame (R174). -/
def cmdBits (op : Nat) (c : Cmd) : Nat :=
  2 ^ 68 + op % 64 * 2 ^ 62 + c.inst % 16 * 2 ^ 58 + c.tag % 256 * 2 ^ 50 + c.arg % 2 ^ 48 * 4 + c.epoch % 4

/-- The command MAC under a reconstructed FC (R186). -/
def cmdMac (key : List Byte) (op : Nat) (c : Cmd) (fc : Nat) : Nat :=
  natBE ((gmac key (linkIv c.epoch 1 1 c.inst c.tag 0 fc) (bytesBE 9 (cmdBits op c))).take 3)

/-- The RMAC of a response (R186). -/
def respMac (key : List Byte) (epoch inst tag fc kind st info flags token : Nat) : Nat :=
  natBE ((gmac key (linkIv epoch 0 1 inst tag 0 fc)
    (bytesBE 7 (kind % 4 * 2 ^ 46 + tag % 256 * 2 ^ 38 + st % 256 * 2 ^ 30 + info % 65536 * 2 ^ 14 +
      flags % 64 * 2 ^ 8 + token % 256))).take 3)

/-- The 102 bits of a command frame, its CRC-7 included (R174, R175). -/
def cmdFrame (op : Nat) (c : Cmd) : Nat :=
  let body := cmdBits op c * 2 ^ 24 + c.mac % 2 ^ 24
  body * 256 + crc7 (natBits 94 body) * 2 + 1

/-- The 48 bits of a response frame or of a unit header (R176, R177). -/
def respFrame (tag st info flags : Nat) : Nat :=
  let body := tag % 256 * 2 ^ 30 + st % 256 * 2 ^ 22 + info % 65536 * 2 ^ 6 + flags % 64
  body * 256 + crc7 (natBits 40 body) * 2 + 1

/-- The FC with this TAG in [H − 127, H + 128] (R187). -/
def fcNear (h tag : Nat) : Option Nat :=
  let back := (h + 384 - tag % 256) % 256
  if back ≤ h + 128 then some (h + 128 - back) else none

/-- The response FC with this RSEQ in [HR + 1, HR + 256] (R187). -/
def rspNear (h rseq : Nat) : Nat := h + 256 - (h + 512 - rseq % 256) % 256

/-! ## Sessions (R184) -/

/-- The port has a session. -/
def State.session (s : State) (p : Nat) : Bool := s.flag (LSE_STAT_SESSION p)

/-- The session key of an epoch, when the port holds it (R369). Log 128 (DEDUCED). -/
def State.keyAt (s : State) (p e : Nat) : Option (List Byte) :=
  if !s.session p then none
  else if e = s.fld (LSE_STAT_EPOCH p) then some (s.sp p).key
  else if s.flag (LSE_STAT_NEXT_HELD p) ∧ e = s.fld (LSE_STAT_NEXT_EPOCH p) then some (s.sp p).nextKey
  else none

/-- A session ends: its keys and counters are zeroized, and a card's windows emptied (R184, R71).  A
command's records with a valid commit word stay. -/
def State.closeSession (s : State) (p : Nat) : State :=
  let x := s.sp p
  let t := if s.isCard then s.dropReserved (x.outst.flatMap (·.seqs)) else s
  let t := t.setSp p { x with
    secret := [], key := [], nextKey := [], rekeyNonce := 0, rekeys := 0, cmdFc := 0, rspFc := 0, units := 0,
    unitsNext := 0, accepted := [], outst := [], dedup := [], sessionSeen := false }
  let t := t.setReg (rLSE_STAT p).off 0
  if s.session p then t.fire (EV_LSE_SESSION_DOWN p) else t

/-- The port's trims are discarded, it is untuned, and no temperature is recorded for its mode (R167, R168). -/
def State.dropTrims (s : State) (p : Nat) : State :=
  let t := ((s.setReg (rSP_TRIM_LO p).off 0).setReg (rSP_TRIM_HI p).off 0).setFlag (SP_STAT_TUNED p) false
  t.setSp p { t.sp p with tempSeen := false }

/-- A dock port's SCLK stops; it goes on with the next command (R150, R164). -/
def State.stopClock (s : State) (p : Nat) : State :=
  if (s.sp p).sclk then
    ((s.setSp p { s.sp p with sclk := false }).setFlag (SP_STAT_CLK_STOPPED p) true).emit (.sclk p false)
  else s

/-- The port is back at SPD_0 without trims (R71); the clock stops for the change of its rate (R150). -/
def State.slowDown (s : State) (p : Nat) : State :=
  let t := if s.fld (SP_STAT_MODE p) = 0 then s else s.stopClock p
  let t := (t.dropTrims p).setFld (SP_STAT_MODE p) 0
  t.setSp p { t.sp p with tuneWrs := 0 }

/-- A pairing succeeded: a new session begins at epoch 0, and the port is back at SPD_0 without trims
(R129, R71, R197, R368). -/
def State.openSession (s : State) (p : Nat) (secret : List Byte) : State :=
  let t := (s.closeSession p).slowDown p
  let t := t.setSp p { t.sp p with secret := secret, key := sessionKey secret 0 0 0 0 }
  t.setFlag (LSE_STAT_SESSION p) true

/-- The link slot derives the key of the next epoch (R195, R368). -/
def State.openRekey (s : State) (p e hn cnonce : Nat) : State :=
  let x := s.sp p
  let t := s.setSp p { x with
    nextKey := sessionKey x.secret (x.rekeys + 1) e hn cnonce, rekeys := x.rekeys + 1 }
  ((t.setFlag (LSE_STAT_NEXT_HELD p) true).setFld (LSE_STAT_NEXT_EPOCH p) e).fire (EV_LSE_REKEY_START p)

/-- The old key is discarded and the next epoch becomes the current one (R195). -/
def State.closeRekey (s : State) (p : Nat) : State :=
  let x := s.sp p
  let t := s.setSp p { x with key := x.nextKey, nextKey := [], units := x.unitsNext, unitsNext := 0 }
  let t := (t.setFld (LSE_STAT_EPOCH p) (s.fld (LSE_STAT_NEXT_EPOCH p))).setFlag (LSE_STAT_NEXT_HELD p) false
  t.fire (EV_LSE_REKEY_DONE p)

/-- AUTH_LIMIT as it acts: 0 acts as 255 (R200). -/
def State.authLimit (s : State) (p : Nat) : Nat :=
  if s.fld (LSE_CFG_AUTH_LIMIT p) = 0 then 255 else s.fld (LSE_CFG_AUTH_LIMIT p)

/-- A MAC or a unit tag failed: it is counted and reported (R186, R200). Log 120 (DEDUCED). -/
def State.noteAuth (s : State) (p op inst tag epoch fc : Nat) : State :=
  (((s.bump (LSE_CNT_AUTH_FAIL p)).bump (LSE_STAT_AUTH_FAILS p)).fireI (EV_LSE_AUTH_FAIL p) inst
    (tag % 256 + op % 64 * 256 + epoch % 4 * 2 ^ 14) (fc % 2 ^ 32))

/-- The failures of the session have reached the limit. -/
def State.authSpent (s : State) (p : Nat) : Bool := s.authLimit p ≤ s.fld (LSE_STAT_AUTH_FAILS p)

/-- The epoch is that of the next key, held while a rekey window is open (R195). -/
def State.nextEpoch (s : State) (p e : Nat) : Bool :=
  s.flag (LSE_STAT_NEXT_HELD p) && e == s.fld (LSE_STAT_NEXT_EPOCH p) && e != s.fld (LSE_STAT_EPOCH p)

/-- Units moved in an epoch (R196). -/
def State.unitsOf (s : State) (p e : Nat) : Nat := if s.nextEpoch p e then (s.sp p).unitsNext else (s.sp p).units

/-- One more unit in an epoch; REKEY_DUE fires at 2^32 − 2^24 (R196). -/
def State.countUnit (s : State) (p e : Nat) : State :=
  let x := s.sp p
  let n := s.unitsOf p e + 1
  let t := s.setSp p (if s.nextEpoch p e then { x with unitsNext := n } else { x with units := n })
  if n = 2 ^ 32 - 2 ^ 24 then
    let u := t.setSp p { t.sp p with wantRekey := (t.sp p).wantRekey || (t.isDock && t.flag (LSE_CFG_AUTO_REKEY p)) }
    u.fire (EV_LSE_REKEY_DUE p)
  else t

/-- No further unit may move in an epoch (R196). -/
def State.unitsSpent (s : State) (p e : Nat) : Bool := 2 ^ 32 ≤ s.unitsOf p e

/-! ## The frame check (R175) -/

/-- A frame on SCMD fails R175: it is discarded. -/
def State.badFrame (s : State) (p : Nat) : State := (s.bump (SP_RETRAIN_CNT_FRAME_CRC p)).fire (EV_SP_FRAME_CRC p)

/-- The check of a frame that arrives whole: it passes, unless an injection inverts bits of its CRC (R100, R199). -/
def State.frameCheck (s : State) (p : Nat) : Bool × State :=
  let t := s.injUsed (pSP p) 0
  if s.injBits (pSP p) 0 % 128 = 0 then (true, t) else (false, t.badFrame p)

/-! ## Line failures and retries (R190, R191) -/

/-- The lines of a mask that failed, counted (R199). -/
def State.countLines (s : State) (p lines : Nat) : State :=
  (List.range 8).foldl (fun t n => if bitAt lines n then t
    else t.bump ⟨(if n < 4 then (rSP_LINE_ERR_LO p).off else (rSP_LINE_ERR_HI p).off), 8 * (n % 4), 8⟩) s

/-- A received unit had failing lines (R190, R199). -/
def State.noteLines (s : State) (p lines tag : Nat) : State :=
  (s.countLines p lines).fireD (EV_SP_LINE_FAIL p) ((255 - lines % 256) + tag % 256 * 256) 0

/-- Retries of a unit are exhausted at this end (R191, R199). -/
def State.noteExhausted (s : State) (p tag unit : Nat) : State :=
  (s.bump (SP_RETRY_CNT_EXHAUSTED p)).fireD (EV_SP_RETRY_EXHAUSTED p) (tag % 256) unit

/-- A unit is sent again (R190). -/
def State.noteResent (s : State) (p : Nat) : State :=
  (s.bump (SP_RETRY_CNT_RESENT p)).fire (EV_SP_UNIT_RESENT p)

/-- Sendings, or receptions, of one unit: 1 + MAX (R191). -/
def State.unitTries (s : State) (p : Nat) : Nat := 1 + s.fld (SP_RETRY_CFG_MAX p)

/-! ## Trims (R160, R163, R167) -/

/-- Put eight taps in force. -/
def State.setTaps (s : State) (p : Nat) (taps : List Nat) : State :=
  let lo := ((List.range 5).map (fun i => taps.getD i 0 % 64 * 2 ^ (6 * i))).foldl (· + ·) 0
  let hi := ((List.range 3).map (fun i => taps.getD (5 + i) 0 % 64 * 2 ^ (6 * i))).foldl (· + ·) 0
  (s.setReg (rSP_TRIM_LO p).off (BitVec.ofNat 32 lo)).setReg (rSP_TRIM_HI p).off (BitVec.ofNat 32 hi)

/-- The switch of R163. -/
def State.switchMode (s : State) (p mode : Nat) : State :=
  ((s.dropTrims p).setFld (SP_STAT_MODE p) mode).fire (EV_SP_SPEED_CHANGE p)

/-- A tune passed: TUNED, LAST_GOOD and the recorded temperature; the retune advice ends (R160, R168). -/
def State.tunePassed (s : State) (p : Nat) : State :=
  let t := ((s.setFlag (SP_STAT_TUNED p) true).setFld (SP_STAT_LAST_GOOD p) (s.fld (SP_STAT_MODE p))).setFld
    (SP_TUNE_TEMP_TEMP p) (s.fld THS_TEMP_TEMP)
  t.setSp p { t.sp p with retuneAdv := false, deltaSeen := false, tempSeen := true }

/-- A data phase is not possible: untuned at SPD_1 to SPD_3 (R160). -/
def State.untuned (s : State) (p : Nat) : Bool := s.fld (SP_STAT_MODE p) != 0 && !s.flag (SP_STAT_TUNED p)

/-! ## What a card answers (R176, R198) -/

/-- A forced erase runs its steps: data commands answer BUSY_RETRY (R36). Log 80 (DEDUCED). -/
def State.erasing (s : State) : Bool := s.fld LCK_ERASE_STAT_STATE == 2

/-- A fence is in force: by fault, by FENCE_REQ, or of an excluded die or channel (R64, R407). -/
def State.degraded (s : State) : Bool :=
  !s.flt.holds.isEmpty || s.flag SYS_BRINGUP_DEGRADED ||
  (List.range 0x50).any (fun p => pagePresent s.role p && s.flag (PG_CTRL_FENCE_REQ p))

/-- The card's data commands are being answered BUSY_RETRY. Log 66 (DEDUCED). -/
def State.cardBusy (s : State) : Bool :=
  !s.up || s.erasing || s.flag LND_JSTAT_FULL || s.flag (PG_CTRL_QUIESCE_REQ pLND) || s.quiesceAsked pCMD

/-- The FLAGS of a response to a command of instance `n`, TAMPER highest (R176). Log 66 (DEDUCED). -/
def State.cardFlags (s : State) (n : Nat) : Nat :=
  32 * (s.flag TMP_STAT_LATCHED).toNat + 16 * s.degraded.toNat +
  8 * (s.lockForce 16 || s.lockForce n).toNat +
  4 * (0 < s.fld EVT_RING_STAT_COUNT && s.flag EVT_DELIVER_CFG_FLAG_EN : Bool).toNat +
  2 * s.spA.retuneAdv.toNat + s.cardBusy.toNat

/-- The status an answer without a session carries (R198). -/
def State.noSessionSt (s : State) : Nat :=
  if s.safe then 0x60 else if s.flag TMP_STAT_LATCHED then 0x22 else 0x21

/-- An unauthenticated answer (R198). -/
def State.respondBare (s : State) (inst tag : Nat) : State :=
  s.emit (.resp (tag % 256) s.noSessionSt 0 (s.cardFlags inst) 2 0 0 0)

/-- The card sends a response under the next response FC, with a token when it ends a data phase (R178,
R184, R186). -/
def State.respond (s : State) (epoch inst tag st info : Nat) (token : Option Nat) : State :=
  let fc := s.spA.rspFc + 1
  let kind := if token.isSome then 3 else 2
  let key := (s.keyAt 0 epoch).getD s.spA.key
  let flags := s.cardFlags inst
  let mac := respMac key epoch inst tag fc kind st info flags (token.getD 0)
  { s with spA := { s.spA with rspFc := fc } }.emit
    (.resp (tag % 256) st (info % 65536) flags kind (token.getD 0) (fc % 256) mac)

/-- Keep the last `k` entries of each instance's window. -/
def trimDone (inst : Nat) (l : List Done) : List Done :=
  let own := l.filter (fun d => d.inst == inst)
  if 256 < own.length then l.erase (own.headD { inst := 0, tag := 0, fc := 0, op := 0, st := 0, info := 0 })
  else l

/-- The card completes a command: it answers, and its record enters the window (R189). -/
def State.finish (s : State) (o : Outst) (st info : Nat) (token : Option Nat) (keep : List (List Byte)) :
    State :=
  let t := s.respond o.epoch o.inst o.tag st info token
  let d : Done := {
    inst := o.inst, tag := o.tag, fc := o.fc, op := o.op, st := st, info := info, epoch := o.epoch, arg := o.arg,
    units := keep }
  { t with spA := { t.spA with
      outst := t.spA.outst.filter (fun x => x.fc != o.fc), dedup := trimDone o.inst (t.spA.dedup ++ [d]) } }

/-- Change one outstanding command of the card. -/
def State.updOut (s : State) (fc : Nat) (f : Outst → Outst) : State :=
  { s with spA := { s.spA with outst := mapIf (fun o => o.fc == fc) f s.spA.outst } }

/-- The card sends a unit of a command, its header beside it (R177, R180, R186). -/
def State.sendUnit (s : State) (o : Outst) (index : Nat) (plain : List Byte) : State :=
  let key := (s.keyAt 0 o.epoch).getD s.spA.key
  let iv := linkIv o.epoch 0 0 o.inst o.tag index o.fc
  let ct := gcmCrypt key iv (padTo 4096 plain)
  s.emit (.unit 0 (o.tag % 256) index (s.cardFlags o.inst) (padTo 4096 plain) ct (gcmTag key iv [] ct))

/-- The GCM tag of a received unit, as the check of the port's LSE meets it: an injection inverts bits of its last byte
(R100, R200). -/
def State.tagOf (s : State) (p : Nat) (u : UnitIn) : List Byte :=
  let inv := BitVec.ofNat 8 (s.injBits (pLSE p) 1)
  (u.tag.take 15) ++ (u.tag.drop 15).map (· ^^^ inv)

/-- A unit that arrives at the card: its plaintext, where `gt` is the tag its ciphertext has under the session key of
its command's epoch (R186). -/
def State.hostUnit (s : State) (epoch inst tag index fc : Nat) (ct gt : List Byte) : Option (List Byte) :=
  match s.keyAt 0 epoch with
  | none => none
  | some key =>
    let iv := linkIv epoch 1 0 inst tag index fc
    if gt == gcmTag key iv [] ct then some (gcmCrypt key iv ct) else none

/-- The card's Spantoen engine takes frames: port A and LSE run, and bring-up has passed step 6 (R65). -/
def State.cardLink (s : State) : Bool :=
  s.isCard && 7 ≤ s.bootStep && !s.chipWaits && !s.portFenced 0 && s.powerState < 3 &&
  !s.islandDown islHOSTA && !s.islandDown islLSE && !s.flag CLK_PLL_STAT_RELOCKING &&
  !s.flag (PG_CTRL_FENCE_REQ (pSP 0)) && !s.flag (PG_CTRL_FENCE_REQ (pLSE 0)) &&
  s.flag (PG_CTRL_ENABLE (pSP 0)) && s.flag (PG_CTRL_ENABLE (pLSE 0)) &&
  !s.flag (PG_STAT_RST_BUSY (pSP 0)) && !s.flag (PG_STAT_RST_BUSY (pLSE 0))

end Sys2Proof.Machine
end

