-- ==== Sys2Proof/Machine/ReadPath.lean ====
section
/-! DEFINITION. The card's read path (R16): a unit from the journal, as zeros, or from flash through the
decode ladder, the rebuild from parity and the integrity checks (R301, R310, R324, R325, R356). -/

namespace Sys2Proof.Machine

open Sys2Proof.Crypto

/-- What reading one unit gives: a status, the corrected bits per 1 KiB, and the data. -/
structure UnitRead where
  st : Nat
  corrected : Nat := 0
  data : List Byte := []
  deriving DecidableEq, Repr

def zeroUnit : List Byte := List.replicate 4096 0

/-- The newest committed record that holds a unit. -/
def State.newestRec (s : State) (inst addr : Nat) : Option JRec :=
  (s.lnd.recs.filter (fun r => r.committed && recHas r inst addr)).getLast?

/-- The checks of a unit, as an injection lets the tag check end (R100, R373). -/
def State.checkMedia (s : State) (inst addr g : Nat) (u : FlashUnit) : Option Ev × State :=
  match s.checkUnit inst addr g (s.ctrGet g) u with
  | none => (if s.injBits pCRY 1 = 0 then none else some EV_CRY_MEDIA_TAG_FAIL, s.injUsed pCRY 1)
  | some e => (some e, if e = EV_CRY_MEDIA_TAG_FAIL then s.injUsed pCRY 1 else s)

/-- What a unit read from flash gives, once it is decoded: its plaintext, or the check it fails (R356). -/
def State.checkedRead (s : State) (inst addr g corrected : Nat) (u : FlashUnit) : UnitRead × State :=
  let c := s.checkMedia inst addr g u
  match c.1 with
  | none => ({ st := if corrected = 0 then 0x00 else 0x01, corrected := corrected,
               data := s.decryptUnit inst addr (s.ctrGet g) u }, c.2)
  | some ev => ({ st := 0x41 }, c.2.noteCheck inst g u ev)

/-- A codeword that no stage decodes: rebuilt while its superblock holds parity, else unrecovered (R310, R324 stage 4). -/
def State.unrecovered (s : State) (inst addr g e : Nat) (m : MediaRead) : UnitRead × State :=
  let h := unitHalf g
  let page := entryPage s.ppb e
  let lost := fun (t : State) => (({ st := 0x40 } : UnitRead), t)
  match s.heldSbs.find? (fun x => sbIndex x.set x.b x.half == s.sbOfEntry e h) with
  | none => lost s
  | some x =>
    let unit := if m.rebuilt then (s.rebuildPage x (entryLun e) page).bind (fun us => us[entryCw e]?) else none
    match unit with
    | some u =>
      let r := s.checkedRead inst addr g 0 u
      (r.1, r.2.rebuildAt x (entryLun e) page)
    | none => lost (if m.rebuilt then s.rebuildAt x (entryLun e) page else s.bump PAR_REBUILD_CNT_UNRECOVERED)

/-- Read a unit from its slot in flash. -/
def State.flashRead (s : State) (inst addr g e : Nat) (m : MediaRead) : UnitRead × State :=
  let h := unitHalf g
  let k := s.sbOfEntry e h
  let lun := entryLun e
  if s.lunLost lun then s.unrecovered inst addr g e m
  else
    let m := s.climb (if s.slotReads e h then m else { m with ladder := 3 })
    let t := (s.countRead e h (s.arrayReads lun m)).noteLadder lun (s.placeOf e h) m
    if 3 ≤ m.ladder then (t.bump (FCH_CB_STAT_UNRECOVERED (lun / 16))).unrecovered inst addr g e m
    else
      let t := t.noteCb k lun m
      let u : FlashUnit := match m.other with
        | some (ct, md) => ⟨ct, md⟩
        | none => (s.flashAt e h).getD padUnit
      let c := t.checkMedia inst addr g u
      if c.1 == some EV_CRY_MEDIA_TAG_FAIL && t.heldSbs.any (fun x => sbIndex x.set x.b x.half == k) then
        (c.2.noteCheck inst g u EV_CRY_MEDIA_TAG_FAIL).unrecovered inst addr g e m
      else t.checkedRead inst addr g m.corrected u

/-- Read one unit of an instance (R16). While TREE is fenced, only the journal serves reads (R33, R371). -/
def State.readUnit (s : State) (inst addr : Nat) (m : MediaRead) : UnitRead × State :=
  match s.newestRec inst addr with
  | some r =>
    if r.kind ≠ 1 then ({ st := 0x00, data := zeroUnit }, s)
    else if s.recBad r then ({ st := 0x40 }, s.noteRecord r)
    else ({ st := 0x00, data := s.recData r }, s.noteRecord r)
  | none =>
    let g := s.globalUnit inst addr
    if s.treeFenced then ({ st := 0x41 }, s)
    else if s.fenced (.engine pMAP 0) || s.fenced (.island islMAP) then ({ st := 0x42 }, s)
    else
      let t := s.touchMap (g / 4096) false
      if !t.cachedPage (g / 4096) false then ({ st := 0x42 }, t)
      else
        let e := t.mapGet g
        if e = unmapped then ({ st := 0x00, data := zeroUnit }, t)
        else
          let t := t.touchTree (g / 512)
          if t.treeFenced || t.ctrFenced g then ({ st := 0x41 }, t)
          else t.flashRead inst addr g e m

/-- Read a run of units as far as they read: their data, the highest corrected count, and the status with
which the first one fails. Log 96 (DEDUCED). -/
def State.readUnits (s : State) (inst addr : Nat) : Nat → List MediaRead →
    List (List Byte) × Nat × Option Nat × State
  | 0, _ => ([], 0, none, s)
  | n + 1, env =>
    let r := s.readUnit inst addr (env.headD {})
    if r.1.st = 0x00 ∨ r.1.st = 0x01 then
      let rest := r.2.readUnits inst (addr + 1) n env.tail
      (r.1.data :: rest.1, max r.1.corrected rest.2.1, rest.2.2.1, rest.2.2.2)
    else ([], 0, some r.1.st, r.2)

/-- SEG_VERIFY's third check (R399): fold a range into a hash; the status of a unit that fails, with its
offset. -/
def State.verifyRange (s : State) (inst addr off : Nat) (chain : List Word) : Nat → List MediaRead →
    Option (Nat × Nat) × List Word × State
  | 0, _ => (none, chain, s)
  | n + 1, env =>
    let r := s.readUnit inst (addr + off) (env.headD {})
    if r.1.st = 0x00 ∨ r.1.st = 0x01 then
      r.2.verifyRange inst addr (off + 1) (shaFold chain (segUnit inst (addr + off) r.1.data)) n env.tail
    else (some (r.1.st, min 0xFFFD off), chain, r.2)

end Sys2Proof.Machine
end

