-- ==== Sys2Proof/Machine/Service.lean ====
section
/-! DEFINITION. Service operations shared by several commands (chapters 02, 06, 10, 14, 15 and 18): instance
records, the forced erase and the delete, the Card Parameter String, the identity and health records,
lifetime records, and firmware slots. -/

namespace Sys2Proof.Machine

open Sys2Proof.Crypto

/-! ## Instance records (R233–R235) -/

/-- The two slots of an instance record. -/
def instAddr (n : Nat) : Nat := 0x01C03000 + 128 * n

/-- Commit the record of an instance and show it in its page. Log 24 (DESIGN CHOICE). -/
def State.commitInst (s : State) (n base size cls weight : Nat) : State :=
  let t := s.writeTwo (instAddr n) (instAddr n + 64) [base, size, cls % 4 + weight % 256 * 256]
  (((t.setFld (INS_BASE_EXTENT n) base).setFld (INS_SIZE_EXTENTS n) size).setFld (INS_SCHED_CLASS n)
    cls).setFld (INS_SCHED_WEIGHT n) weight

/-- Read the record of an instance into its page. -/
def State.loadInst (s : State) (n : Nat) : State :=
  match s.readTwo (instAddr n) (instAddr n + 64) with
  | some (_, _, ws) =>
    let w := ws.getD 2 0
    (((s.setFld (INS_BASE_EXTENT n) (ws.getD 0 0)).setFld (INS_SIZE_EXTENTS n) (ws.getD 1 0)).setFld
      (INS_SCHED_CLASS n) (w % 4)).setFld (INS_SCHED_WEIGHT n) (w / 256)
  | none => s

/-- Read the instance records into the pages (step 6). -/
def State.loadInsts (s : State) : State := (List.range 16).foldl State.loadInst s

/-- An instance becomes unconfigured. -/
def State.unconfigure (s : State) (n : Nat) : State :=
  let t := if (s.readTwo (instAddr n) (instAddr n + 64)).isSome then s.commitInst n 0 0 0 0 else s
  let t := t.setFld (INS_IMK_GEN_GEN n) 0
  { t with spA := { t.spA with dedup := t.spA.dedup.filter (fun d => d.inst != n) } }

/-- A range of extents lies in the capacity and meets no other configured instance (R233). -/
def State.rangeFree (s : State) (n base size : Nat) : Bool :=
  base + size ≤ s.fld MAP_CAP_EXTENTS &&
  (List.range 16).all (fun k => k == n || s.fld (INS_SIZE_EXTENTS k) == 0 || size == 0 ||
    base + size ≤ s.fld (INS_BASE_EXTENT k) ||
    s.fld (INS_BASE_EXTENT k) + s.fld (INS_SIZE_EXTENTS k) ≤ base)

/-- The instance owns its commands' window anew. Log 44 (DEDUCED), 102 (DEDUCED). -/
def State.emptyWindow (s : State) (n : Nat) : State :=
  { s with spA := { s.spA with dedup := s.spA.dedup.filter (fun d => d.inst != n) } }

/-- INST_CFG CREATE (R234, R349): status and state. -/
def State.createInst (s : State) (n base size cls weight : Nat) : Nat × State :=
  if n = 0 ∨ s.configured n then (0x32, s)
  else if size = 0 ∨ !s.rangeFree n base size then (0x30, s)
  else if !s.rngUp then (0x33, s)
  else if !s.ladderUp then (0x42, s)
  else
    let kgen := s.nextKgen n
    let (k, t) := s.createKey n 1 kgen
    let t := (t.setImk n kgen k).commitInst n base size cls weight
    let t := (t.setFld (INS_IMK_GEN_GEN n) kgen).emptyWindow n
    (0x00, t.fireI EV_CMD_INST_CFG_DONE n 0 0)

/-- Journal records of an instance at or beyond a unit are released: the RANGE delta has taken their
place. Log 95 (DEDUCED). -/
def State.releaseFrom (s : State) (n first : Nat) : State :=
  (s.lnd.recs.filter (fun r => r.inst == n && first ≤ r.addr)).foldl (fun t r => t.releaseRec r) s

/-- INST_CFG RESIZE (R234, R302). Log 95 (DEDUCED). -/
def State.resizeInst (s : State) (n base size serial : Nat) : Nat × State :=
  let old := s.fld (INS_SIZE_EXTENTS n)
  if !s.configured n ∨ base ≠ s.fld (INS_BASE_EXTENT n) then (0x32, s)
  else if (size = 0 ∧ n ≠ 0) then (0x30, s)
  else if size < old ∧ serial ≠ s.serial then (0x32, s)
  else if old < size ∧ !s.rangeFree n base size then (0x30, s)
  else
    let t :=
      if size < old then
        ((s.unmapRange (4096 * (base + size)) (4096 * (old - size))).commitDeltas.releaseFrom n
          (4096 * size)).segResized n (4096 * (old - size))
      else s
    (0x00, (t.commitInst n base size (s.fld (INS_SCHED_CLASS n)) (s.fld (INS_SCHED_WEIGHT n))).fireI
      EV_CMD_INST_CFG_DONE n 0 0)

/-- A unit of the instance waits to be read out to the port. -/
def State.unitWaits (s : State) (n : Nat) : Bool :=
  s.spA.outst.any (fun o => o.inst == n && !o.held && c2hUnits o.op o.arg != 0 && !o.units.isEmpty && !o.sending)

/-- INST_CFG SCHED (R234, R249). Log 103 (DEDUCED). -/
def State.schedInst (s : State) (n cls weight : Nat) : Nat × State :=
  if !s.configured n then (0x32, s)
  else
    let t := s.commitInst n (s.fld (INS_BASE_EXTENT n)) (s.fld (INS_SIZE_EXTENTS n)) cls weight
    let t := t.rearrange n (s.fld (INS_SCHED_CLASS n)) cls (s.fld (INS_SCHED_WEIGHT n)) weight (s.unitWaits n)
    (0x00, (t.fireI EV_CMD_PRIO_CHANGE n 0 0).fireI EV_CMD_INST_CFG_DONE n 0 0)

/-- Commit a delete or erase state record (R345). -/
def State.commitStep (s : State) (p state seq : Nat) : State :=
  s.commitPair p ([BitVec.ofNat 8 state, 0, 0, 0, 0, 0, 0, 0] ++ bytesBE 8 seq)

/-- Unmap whole extents; before the map is resumed only the RANGE delta is committed, which step 9 applies. -/
def State.unmapWhole (s : State) (g n : Nat) : State :=
  if s.bootStep < 9 then (if n = 0 then s else s.queueDelta 2 [g * 2 ^ 32 + n]) else s.unmapRange g n

/-- Steps 3 to 8 of a delete (R236). -/
def State.deleteSteps (s : State) (n : Nat) : State :=
  let base := s.fld (INS_BASE_EXTENT n)
  let size := s.fld (INS_SIZE_EXTENTS n)
  let seq := s.pairNum (0x20 + n) 8 8
  let t := (s.overwriteKey n 1).setImk n 0 []
  let t := (t.unmapWhole (4096 * base) (4096 * size)).commitDeltas
  let t := ((t.dropLock n).abandonSeg n).unconfigure n
  let t := { t with lnd := { t.lnd with recs := t.lnd.recs.filter (fun r => !(r.inst == n && r.seq < seq)),
                                        ancMoved := true } }
  t.mramFence.commitStep (0x20 + n) 2 seq

/-! ## The forced erase (R36, R392) -/

/-- Step 5: the map is all unmapped and the ring empty. Log 81 (DEDUCED). -/
def State.clearMap (s : State) : State :=
  let pos : MapSt := match s.ringContent with
    | some (_, dsn, line, lap) => { dsn := max dsn s.mapS.dsn, head := line, tail := line, lap := lap }
    | none => { dsn := s.mapS.dsn, head := s.mapS.head, tail := s.mapS.head, lap := s.mapS.lap + 1 }
  let t := (List.range 22).foldl (fun t k =>
    if (t.readTwo (topAddr k) (topAddr k + 64)).isSome then
      t.writeTwo (topAddr k) (topAddr k + 64) (topWords (fun _ => unmapped) k) else t) s
  let t := t.writeTwo deltaAncA deltaAncB [pos.tail, pos.dsn, pos.lap]
  { t with mapS := { pos with ancTime := s.uptime },
           media := { t.media with moves := [], moving := [], rebuilt := [] } }

/-- The old keys are overwritten: every IMK, SLK and TRK. -/
def State.eraseOldKeys (s : State) : State :=
  ((((List.range 16).foldl (fun (t : State) n => (t.overwriteKey n 1).setImk n 0 []) s).overwriteKey 0x12 4).overwriteKey
    0x11 3)

/-- Fresh keys of instance 0, the tree and the seals, in that order, and the state. -/
def State.eraseNewKeys (s : State) : List Byte × List Byte × List Byte × State :=
  let a := s.createKey 0 1 (s.nextKgen 0)
  let b := a.2.createKey 0x11 3 (a.2.nextKgen 0x11)
  let c := b.2.createKey 0x12 4 (b.2.nextKgen 0x12)
  (a.1, b.1, c.1, c.2)

/-- The stores are emptied: tree, map, journal up to the floor, segments, locks and instances. Log 81 (DEDUCED). -/
def State.eraseStores (s : State) (trk : List Byte) (floor : Nat) : State :=
  let t := (s.resetTree trk).clearMap
  let t := { t with lnd := { t.lnd with
    floor := floor, recs := t.lnd.recs.filter (fun r => floor ≤ r.seq) } }
  let t := (t.setFlag LND_JSTAT_FULL false).writeAnchor
  let t := (List.range 16).foldl (fun (t : State) n => t.abandonSeg n) t
  let t := (List.range 17).foldl (fun (t : State) sc => t.dropLock sc) t
  (List.range 15).foldl (fun (t : State) i => t.unconfigure (i + 1)) t

/-- Steps 3 to 7 (R36, R349, R392). -/
def State.eraseSteps (s : State) : State :=
  let floor := s.pairNum 0x16 8 8
  let old := s.eraseOldKeys
  let g0 := old.nextKgen 0
  let r := old.eraseNewKeys
  let t := r.2.2.2.eraseStores r.2.1 floor
  let t := if s.flag TMP_STAT_LATCHED then t
    else
      let u := (t.setImk 0 g0 r.1).setFld (INS_IMK_GEN_GEN 0) g0
      { u with keys := { u.keys with trk := r.2.1, slk := r.2.2.1 } }
  let t := t.mramFence.commitStep 0x16 2 floor
  let runs : Bool := t.bootStep < 11 || t.readyLocked || t.eraseTotal != 0
  let t := { t with media := { t.media with erasing := runs, eraseNext := 0 } }
  let t := t.mramFence.writeTwo progA progB [runs.toNat, 0]
  let t := (t.setFld LCK_ERASE_STAT_STATE (if runs then 3 else 0)).setFld LCK_ERASE_STAT_PROGRESS 0
  t.fireErase EV_LCK_ERASE_DONE

/-- The armed erase is disarmed. Log 79 (DEDUCED). -/
def State.disarm (s : State) : State :=
  let t := { s with cnA := { s.cnA with token := none }, spA := { s.spA with eraseToken := none } }
  let t := (t.setFlag (CN_STAT_ERASE_ARMED 0) false).setFlag LCK_ERASE_STAT_BY_SPANTOEN false
  if s.fld LCK_ERASE_STAT_STATE = 1 then
    t.setFld LCK_ERASE_STAT_STATE (if s.media.erasing then 3 else 0)
  else t

/-- The position of the ring, of which the locked path reads nothing; the scan needs no key. -/
def State.ringFound (s : State) : State := { s with lnd := { (s.replay (fun _ _ => 0)).lnd with recs := [] } }

/-- The intent record is committed with the next SEQ (R36 step 1). -/
def State.eraseIntent (s : State) : State :=
  let t := if s.readyLocked then s.ringFound else s
  t.commitStep 0x16 1 t.lnd.seq

/-! ## Firmware slots (R441–R445) -/

/-- The copies of a card's slot that can be used: LUN and block. On LUN 0 and LUN 16, slot A takes the first good system
block and slot B the second; a LUN that is fenced, not in use, or failed to take the copy gives none (R443).
Log 27 (DESIGN CHOICE). -/
def State.fwCopies (s : State) (slot : Nat) : List (Nat × Nat) :=
  [(0, s.media.fw0), (16, s.media.fw16)].filterMap (fun x =>
    if s.media.luns.contains x.1 && !s.lunFenced x.1 && !s.firm.bad.contains (slot, x.1)
    then x.2[slot]?.map (fun b => (x.1, b)) else none)

/-- A copy of a slot can be placed (R443). -/
def State.slotPlaceable (s : State) (slot : Nat) : Bool := s.isDock || !(s.fwCopies slot).isEmpty

/-- The bytes of a slot: a card's on flash, a dock's in MRAM. -/
def State.slotBytes (s : State) (slot : Nat) : List Byte :=
  match s.role with
  | .card => if (s.fwCopies slot).isEmpty then [] else if slot = 0 then s.firm.slot0 else s.firm.slot1
  | .dock => s.mramBytes (0x01A00000 + 0x100000 * slot) 0x100000

/-- Put bytes into a slot at an offset. -/
def State.slotWrite (s : State) (slot off : Nat) (bs : List Byte) : State :=
  match s.role with
  | .dock => s.writePart (0x01A00000 + 0x100000 * slot + off) bs
  | .card =>
    let put := fun (l : List Byte) => padTo off l ++ bs ++ l.drop (off + bs.length)
    if slot = 0 then { s with firm := { s.firm with slot0 := put s.firm.slot0 } }
    else { s with firm := { s.firm with slot1 := put s.firm.slot1 } }

/-- Log 27 (DESIGN CHOICE). -/
def fwPair : Nat := 0x15

/-- RUN and VALID of the slot pointer record (R442). -/
def State.fwRun (s : State) : Nat := s.pairByte fwPair 0 % 2
def State.fwValid (s : State) (slot : Nat) : Bool := bitAt (s.pairByte fwPair 1) slot
def State.fwVersion (s : State) (slot : Nat) : Nat := s.pairNum fwPair (2 + 2 * slot) 2
def State.fwRollback (s : State) (slot : Nat) : Nat := s.pairByte fwPair (6 + slot)

/-- The record's bytes, zero where none is valid. -/
def State.fwRecord (s : State) : List Byte :=
  match s.readPair fwPair with
  | some (_, _, x) => padTo 128 x
  | none => List.replicate 128 0

/-- Replace bytes of a record. -/
def putBytes (x : List Byte) (i : Nat) (bs : List Byte) : List Byte := x.take i ++ bs ++ x.drop (i + bs.length)

/-- The rollback floor: fuses set in words 7 and 8. -/
def State.fwFloor (s : State) : Nat :=
  ((List.range 128).filter (fun i => s.floorBits.testBit i)).length

/-- An image passes its check (R441). -/
def State.imageOk (s : State) (img : List Byte) : Bool :=
  let len := natBE ((img.drop 12).take 4)
  let roles := (img.getD 4 0).toNat
  img.take 4 == bytesBE 4 0x4E465731 && img.getD 7 0 == 0 && (img.drop 10).take 2 == [0, 0] &&
  (img.drop 48).take 208 == List.replicate 208 0 && roles / 4 == 0 && (img.getD 6 0).toNat / 2 == 0 &&
  bitAt roles (match s.role with | .card => 0 | .dock => 1) &&
  256 ≤ len && len ≤ 1048576 && len % 4 == 0 && len ≤ img.length &&
  s.fwFloor ≤ (img.getD 5 0).toNat && (img.getD 5 0).toNat ≤ 128 &&
  (img.drop 16).take 32 == sha256 ((img.take len).drop 256)

/-- Commit VALID cleared for a slot (R445). -/
def State.invalidateSlot (s : State) (slot : Nat) : State :=
  let x := s.fwRecord
  let v := s.pairByte fwPair 1
  let v := if bitAt v slot then v - 2 ^ slot else v
  (s.commitPair fwPair (putBytes x 1 (bytesBE 1 v))).setFlag MPC_FW_STAT_OTHER_VALID false

/-- Commit a checked image's record. -/
def State.validateSlot (s : State) (slot : Nat) (img : List Byte) : State :=
  let x := s.fwRecord
  let v := s.pairByte fwPair 1
  let x := putBytes x 1 (bytesBE 1 (if bitAt v slot then v else v + 2 ^ slot))
  let x := putBytes x (2 + 2 * slot) ((img.drop 8).take 2)
  let x := putBytes x (6 + slot) [img.getD 5 0]
  let x := putBytes x (8 + 4 * slot) ((img.drop 12).take 4)
  let x := putBytes x (16 + 32 * slot) ((img.drop 16).take 32)
  (s.commitPair fwPair x).setFlag MPC_FW_STAT_OTHER_VALID true

/-- The present slot and the other one. Log 27 (DESIGN CHOICE). -/
def State.runSlot (s : State) : Nat := s.fld MPC_FW_STAT_RUN_SLOT
def State.otherSlot (s : State) : Nat := 1 - s.runSlot

/-- An operation on a system block. -/
def State.fwOp (s : State) (kind page : Nat) (c : Nat × Nat) : LunOp :=
  { lun := c.1, kind := kind, block := c.2, page := page, sb := sbIndex (s.setOf c.1) (c.2 / 2) (c.2 % 2) }

/-- Erase the blocks of a slot (R445). -/
def State.fwErase (s : State) (slot : Nat) : State :=
  (s.fwCopies slot).foldl (fun (t : State) c => t.pushOp (t.fwOp 2 0 c)) s

/-- Program pages `first` up to, not including, `last` to each copy (R445). -/
def State.fwProgram (s : State) (slot first last : Nat) : State :=
  (List.range (last - first)).foldl (fun (t : State) i =>
    (t.fwCopies slot).foldl (fun (t : State) c => t.pushOp (t.fwOp 1 (first + i) c)) t) s

/-- End the staging: the image is checked (R445, R446): status. -/
def State.checkStaged (s : State) (slot : Nat) : Nat × State :=
  let t := { s with firm := { s.firm with staging := none } }
  let img := s.slotBytes slot
  if s.imageOk img then (0x00, t.validateSlot slot img) else (0x41, t)

/-- Write staged bytes at an offset of a card's slot: full pages are programmed, and with LAST the rest (R445): status.
Log 170 (DESIGN CHOICE). -/
def State.stageBytes (s : State) (slot off : Nat) (bs : List Byte) (last : Bool) : Nat × State :=
  if slot = s.runSlot then (0x32, s)
  else if 1048576 < off + bs.length then (0x30, s)
  else if !s.slotPlaceable slot then (0x42, s)
  else
    let t :=
      if off = 0 then
        let u := (s.invalidateSlot slot).fwErase slot
        let f := u.firm
        { u with firm := if slot = 0 then { f with slot0 := [] } else { f with slot1 := [] } }
      else s
    let t := t.slotWrite slot off bs
    let fin := off + bs.length
    let t := (t.fwProgram slot (off / 16384) (if last then (fin + 16383) / 16384 else fin / 16384)).issueAll
    let t := { t with firm := { t.firm with staging := some fin } }
    if last then t.checkStaged slot else (0x00, t)

/-! ## Health, lifetime and identity (R119–R125, R449, R450) -/

/-- Fence units now fenced (FLT.SUMMARY.FENCES). -/
def State.fencesNow (s : State) : Nat :=
  (((s.flt.holds.map (·.unit)).eraseDups).filter (· != .none)).length

/-- GOOD 0, DEGRADED 1, WORN 2, FAILED 3 (R450). -/
def State.health (s : State) : Nat :=
  if s.safe || s.flag MED_STAT_WRITE_FENCED then 3
  else if s.isCard && s.up &&
      (s.spare 0 < s.fld MED_SPARE_CFG_LOW || s.spare 1 < s.fld MED_SPARE_CFG_LOW || 80 ≤ s.journalWear) then 2
  else if s.degraded then 1 else 0

/-- Words 1 to 6 of LIFE_1 and LIFE_2 as they stand (R449). -/
def State.life1 (s : State) : List Nat :=
  let b := fun i => s.life.base1.getD i 0
  [b 0 + s.uptime.toNat / 1000000, b 1 + s.life.written, b 2 + s.life.read, b 3 + s.life.programmed,
   b 4 + s.life.replays, b 5 + s.fld FLT_COUNT_RAISED]

/-- The signed value of a temperature. -/
def tempInt (t : Nat) : Int := if t < 32768 then t else (t : Int) - 65536

/-- The higher, and the lower, of two temperatures. -/
def tempMax (a b : Nat) : Nat := if tempInt a < tempInt b then b else a
def tempMin (a b : Nat) : Nat := if tempInt b < tempInt a then b else a

def State.life2 (s : State) : List Nat :=
  let b := fun i => s.life.base2.getD i 0
  let hi := s.fld THS_PEAK_HIGHEST
  let lo := s.fld THS_PEAK_LOWEST
  let hl := if s.life.base2.isEmpty then hi + 65536 * lo
    else tempMax (b 2 % 65536) hi + 65536 * tempMin (b 2 / 65536) lo
  [b 0 + s.fld TMP_COUNT_ALARMS, b 1 + s.life.retrains, hl, b 3 + s.fld PWR_DOZE_TIME_SECONDS, 0, 0]

/-- Rewrite both lifetime records (R449). -/
def State.writeLife (s : State) : State :=
  let t := (s.writeTwo 0x01C00100 0x01C00140 s.life1).writeTwo 0x01C00180 0x01C001C0 s.life2
  { t with life := { t.life with last := s.uptime } }

/-- BOOTS of the JNK record. -/
def State.boots (s : State) : Nat := s.fld KEY_BOOTS_BOOTS

/-- The 80-byte health record (R450). -/
def State.healthRecord (s : State) : List Byte :=
  let l1 := s.life1
  let l2 := s.life2
  let er := s.eraseRange
  let fallback := s.runSlot != s.fwRun
  let flags := (s.flag MED_STAT_WRITE_FENCED).toNat + 2 * fallback.toNat + 4 * (!s.media.param).toNat +
    8 * (s.flag TMP_STAT_LATCHED).toNat + 16 * s.safe.toNat
  let maxcb := ((s.dataSbs.map (fun k => (s.entry k).maxcb)).foldl max 0)
  bytesBE 2 1 ++ bytesBE 1 s.health ++ bytesBE 1 flags ++ bytesBE 8 (l1.getD 0 0) ++ bytesBE 8 (l1.getD 1 0) ++
  bytesBE 8 (l1.getD 2 0) ++ bytesBE 8 (l1.getD 3 0) ++ bytesBE 4 s.boots ++ bytesBE 4 (l1.getD 4 0) ++
  bytesBE 2 er.1 ++ bytesBE 2 er.2 ++ bytesBE 2 (s.spare 0) ++ bytesBE 2 (s.spare 1) ++
  bytesBE 4 (s.fld MED_RETIRED_BLOCKS) ++ bytesBE 1 (s.fld MED_RETIRED_DIES) ++ bytesBE 1 (min 255 s.fencesNow) ++
  bytesBE 1 (min 255 s.journalWear) ++ bytesBE 1 maxcb ++ bytesBE 4 (l1.getD 5 0) ++ bytesBE 4 (l2.getD 0 0) ++
  bytesBE 4 (s.fld SEG_COUNTER_COUNTER) ++ bytesBE 2 (l2.getD 2 0) ++ bytesBE 2 (l2.getD 2 0 / 65536) ++
  bytesBE 2 (s.fld MPC_FW_STAT_RUN_VERSION) ++ bytesBE 1 s.runSlot ++ bytesBE 1 s.fwFloor

/-- A pairing slot is in use: its record holds a key (R120, R130). -/
def State.pairUsed (s : State) (k : Nat) : Bool := s.pairByte (0x13 + k) 0 == 1

/-- The user capacity in extents, from the format record. -/
def State.capacity (s : State) : Nat :=
  match s.readTwo formatA formatB with
  | some (_, _, ws) => ws.getD 0 0
  | none => 0

/-- The configured instances, from their records. -/
def State.instBits (s : State) : Nat :=
  (List.range 16).foldl (fun a n => match s.readTwo (instAddr n) (instAddr n + 64) with
    | some (_, _, ws) => if ws.getD 1 0 = 0 ∧ n ≠ 0 then a else a + 2 ^ n
    | none => if n = 0 then a + 1 else a) 0

/-- How many bits of a number below 2^16 are set. -/
def popCount (x : Nat) : Nat := ((List.range 16).filter (fun i => x.testBit i)).length

/-- H13[3:0]: the highest mode, and the mode of the held trims. -/
def State.speedBits (s : State) : Nat :=
  12 + (if s.flag (SP_STAT_TUNED 0) then s.fld (SP_STAT_MODE 0) else 0)

/-- What the summary line says of the health and of the running version: the present ones once they are known, else
those of the last change before (R121). Log 26 (DESIGN CHOICE). -/
def State.summaryNow (s : State) : Nat × Nat :=
  (if s.up || s.safe then s.health else s.summary.1,
   if s.fld MPC_FW_STAT_RUN_VERSION = 0 then s.summary.2 else s.fld MPC_FW_STAT_RUN_VERSION / 256)

/-- H14 of R120 but for the trims and the tamper latch: locks, pairing and health, as they were last committed. -/
def State.cpsBits (s : State) : Nat :=
  64 * (s.isCard && s.lockSet 16 : Bool).toNat + 32 * (s.isCard && (List.range 16).any (fun n => s.lockSet n) : Bool).toNat +
  8 * (s.isCard && s.pairUsed 1 : Bool).toNat + 4 * (s.pairUsed 0).toNat + s.summaryNow.1

/-- H14 of R120, with given locks, pairing and health. -/
def State.cpsState (s : State) (bits : Nat) : Nat :=
  128 * (s.flag (SP_STAT_TUNED 0)).toNat + 16 * (s.flag TMP_STAT_LATCHED).toNat + bits

/-- The Card Parameter String, H1 to H15 (R120), with given locks, pairing and health, and a given version.
Log 26 (DESIGN CHOICE). -/
def State.cps (s : State) (bits ver : Nat) : List Byte :=
  let role := match s.role with | .card => 0 | .dock => 1
  [0x19, BitVec.ofNat 8 (0xB1 + 8 * role)] ++ bytesBE 8 s.serial ++
  [0x24, BitVec.ofNat 8 (s.capacity / 4096 - 1), BitVec.ofNat 8 ((popCount s.instBits - 1) * 16 + s.speedBits),
   BitVec.ofNat 8 (s.cpsState bits), BitVec.ofNat 8 ver]

/-- The string of the answer to reset: locks, pairing, health and firmware as they stood when CRST_N was released
(R121). -/
def State.atrCps (s : State) : List Byte := s.cps s.cnA.atrState.1 s.cnA.atrState.2

/-- The answer to reset (R119). -/
def State.atrBytes (s : State) : List Byte :=
  let body := [0x9F, 0x96, 0x0E] ++ s.atrCps
  0x3B :: body ++ [body.foldl (· ^^^ ·) 0]

/-- The 31 bytes of IDENT (R125). -/
def State.identBytes (s : State) : List Byte :=
  bytesBE 2 0x1680 ++ [0xB0, 0x01] ++ bytesBE 8 s.serial ++ bytesBE 5 (s.capacity * 4096) ++
  bytesBE 2 s.instBits ++ bytesBE 1 (s.speedBits + 128 * (s.flag (SP_STAT_TUNED 0)).toNat) ++
  bytesBE 1 s.runSlot ++ bytesBE 2 (s.fld MPC_FW_STAT_RUN_VERSION) ++
  bytesBE 1 (s.fwValid s.otherSlot).toNat ++
  bytesBE 2 (if s.fwValid s.otherSlot then s.fwVersion s.otherSlot else 0) ++ [0x01, 0, 0, 0, 0]

/-- A management processor is ACTIVE. -/
def State.mpActive (s : State) : Bool := s.fld MPC_MP_STAT_MP_A_STATE == 3 || s.fld MPC_MP_STAT_MP_B_STATE == 3

/-- A processor is ACTIVE with every lease valid: what the leases guard is served (R80, R81). -/
def State.mpServes (s : State) : Bool := s.mpActive && s.fld MPC_LEASE_VALID_VALID == 2 ^ 32 - 1

/-- A processor is in STANDBY. -/
def State.mpStandby (s : State) : Bool := s.fld MPC_MP_STAT_MP_A_STATE == 2 || s.fld MPC_MP_STAT_MP_B_STATE == 2

/-- Activation is refused (R447). -/
def State.activateBad (s : State) (slot : Nat) : Bool :=
  slot == s.runSlot || !s.fwValid slot || s.fwRollback slot < s.fwFloor || !s.mpStandby

end Sys2Proof.Machine
end

