-- ==== Sys2Proof/Machine/KeyLoad.lean ====
section
/-! DEFINITION. Unwrapping the keys (items 3 to 5 of R352): at bring-up step 6, and again after a block reset of
KEY (R370). -/

namespace Sys2Proof.Machine

/-- Both records of a key fail: KEY.FAIL, KEY_FAIL of SYS.BRINGUP, and the fault of R64. Log 29 (DESIGN CHOICE). -/
def State.keyFails (s : State) (p : Nat) : State :=
  (((s.setFlag (bitFld rKEY_FAIL.off p) true).setFlag SYS_BRINGUP_KEY_FAIL true).keyOp 1 3 p).fault 92 p p false

/-- Unwrap the key of a pair: what its record holds.  A pairing pair that was never written counts as empty
and is no failure. -/
def State.unwrap (s : State) (p cls : Nat) : Option KeyRec × State :=
  match s.readKey p with
  | some (_, r) => (some r, ((s.mendPair p cls).setFlag (bitFld rKEY_FAIL.off p) false).keyOp 1 0 p)
  | none => if cls = 5 ∧ s.pairBlank p then (none, s) else (none, s.keyFails p)

/-- A ladder key out of its record; empty where the record holds none. -/
def State.laddered (s : State) (p cls : Nat) (r : Option KeyRec) : List Byte :=
  match r with
  | some k => (match k.secret with
      | some seed => s.ladder cls p k.kgen seed
      | none => [])
  | none => []

/-- Unwrap JNK and commit its record with BOOTS one higher (R351); without it the journal is fenced. -/
def State.loadJnk (s : State) : State :=
  match s.unwrap 0x10 2 with
  | (some r, t) =>
    match r.secret with
    | some seed =>
      let t := (t.commitKey 0x10 2 r.kgen seed (r.boots + 1)).setFld KEY_BOOTS_BOOTS (r.boots + 1)
      { t with
        keys := { t.keys with jnk := t.ladder 2 0x10 r.kgen seed, nonces := 0 },
        lnd := { t.lnd with fenced := false } }
    | none => { t with lnd := { t.lnd with fenced := true } }
  | (none, t) => { t with lnd := { t.lnd with fenced := true } }

/-- Unwrap the IMK of a configured instance. Log 74 (DEDUCED). -/
def State.loadImk (s : State) (n : Nat) : State :=
  if n ≠ 0 ∧ s.fld (INS_SIZE_EXTENTS n) = 0 then s
  else
    let r := s.unwrap n 1
    let kgen := match r.1 with
      | some k => k.kgen
      | none => 0
    ((r.2.setImk n kgen (r.2.laddered n 1 r.1)).setFld (INS_IMK_GEN_GEN n) kgen)

/-- Unwrap a pairing key. -/
def State.loadPairKey (s : State) (k : Nat) : State :=
  let r := s.unwrap (0x13 + k) 5
  match r.1 with
  | some x => r.2.setPairKey k (x.secret.getD [])
  | none => r.2.setPairKey k []

/-- TRK and SLK of a card. -/
def State.loadTrkSlk (s : State) : State :=
  let a := s.unwrap 0x11 3
  let t := { a.2 with keys := { a.2.keys with trk := a.2.laddered 0x11 3 a.1 } }
  let b := t.unwrap 0x12 4
  { b.2 with keys := { b.2.keys with slk := b.2.laddered 0x12 4 b.1 } }

/-- The lanes of CRY take their keys from KEY again. Log 43 (DEDUCED). -/
def State.reloadCry (s : State) : State :=
  let secret := fun (t : State) (p cls : Nat) => t.laddered p cls ((t.readKey p).map (·.2))
  let t : State := { s with keys := { s.keys with jnk := secret s 0x10 2, cryWiped := false } }
  if t.isDock then t
  else ((List.range 16).filter t.configured).foldl (fun (t : State) n => t.setImk n (t.keys.kgen.getD n 0) (secret t n 1)) t

/-- Items 3 to 5 of R352. -/
def State.unwrapKeys (s : State) : State :=
  let t := s.loadJnk
  let t := match t.role with
    | .card => (((List.range 16).foldl State.loadImk t.loadTrkSlk).loadPairKey 0).loadPairKey 1
    | .dock => t.loadPairKey 0
  let t := { t with keys := { t.keys with wiped := false, cryWiped := false } }
  ((t.setFlag KEY_STAT_LADDER_READY true).setFlag KEY_STAT_ZEROIZED false).fire EV_KEY_LADDER_DONE

end Sys2Proof.Machine
end

