-- ==== Sys2Proof/Machine/MediaCmds.lean ====
section
/-! DEFINITION. The meanings of the storage family: what the card does behind the acknowledgement, its
timers, and the landing store's upkeep (chapters 11 to 14). -/

namespace Sys2Proof.Machine

abbrev Result := Host.Outcome State Fault Refusal

/-! ## Stages 5 to 8 -/

/-- The pages whose engines stages 5 to 8 need. -/
def State.enginesServe (s : State) : Bool :=
  s.pageServes pMAP && s.pageServes pTRE && s.pageServes pCRY && s.pageServes pPAR && s.pageServes pMED

/-- No earlier record goes first: records of step 7 in commit order, and records of one unit in SEQ order
(R66, R268). -/
def State.inTurn (s : State) (r : JRec) : Bool :=
  !s.lnd.recs.any (fun x => x.seq < r.seq && x.committed && x.loc.isNone &&
    (x.replayed || recOverlap x r))

/-- RECORD_PLACEMENT (R28): stages 5 to 8 of a committed record. -/
def execRecordPlacement (seq loc : Nat) (s : State) : Result :=
  match s.findRec seq with
  | none => .next s
  | some r =>
    if s.placing && s.enginesServe && s.inTurn r && r.committed && r.loc.isNone then
      .next (if r.kind = 1 then s.placeWrite r loc else s.placeDiscard r)
    else .next s

/-- A bit map of LUNs, 64 to a word. -/
def lunBits (ls : List Nat) (j : Nat) : Nat :=
  (ls.filter (fun l => l / 64 == j)).foldl (fun a l => a + 2 ^ (l % 64)) 0

/-- Commit the format record. -/
def State.writeFormat (s : State) (extents p width : Nat) (luns : List Nat) : State :=
  s.writeTwo formatA formatB [extents, p + width * 2 ^ 16, lunBits luns 0, lunBits luns 1]

/-- The slots of a LUN. -/
def onLun (l e : Nat) (_ : Nat) : Bool := entryLun e == l

/-- The current units of a LUN that can still leave it: by a move, or because a record holds them. -/
def State.leavingLun (s : State) (l : Nat) : List Nat :=
  (s.mapS.map.filter (fun e => entryLun e.2 == l &&
    (s.journalHolds e.1 || (s.slotUnit e.2 (unitHalf e.1)).isSome))).map (·.1)

/-- A retirement ends once no unit that can leave the LUN is left on it (R335). -/
def State.finishRetire (s : State) : State :=
  match s.media.retiring with
  | none => s
  | some l =>
    if !(s.leavingLun l).isEmpty || s.media.moves.any (fun m => entryLun m.src == l) || s.internalAt (onLun l) then s
    else
      let luns := s.media.luns.filter (fun x => x != l)
      let t := { s with media := { s.media with
        retiring := none, luns := luns, retiredDies := s.media.retiredDies ++ [l] } }
      let t := t.writeFormat (t.fld MAP_CAP_EXTENTS) t.ppb t.setWidth luns
      ((t.setFlag MED_STAT_RETIRING false).bump MED_RETIRED_DIES).fireD EV_MED_DIE_RETIRED l 0

/-- A LUN whose retired blocks reach DIE_LIMIT per mille starts to retire (R335). -/
def State.checkDieLimit (s : State) (l : Nat) : State :=
  let lim := s.fld MED_SPARE_CFG_DIE_LIMIT
  let n := (s.media.retiredBlocks.filter (fun x => x / 65536 == l)).length
  if lim = 0 ∨ s.media.pairs = 0 ∨ 1000 * n < lim * (2 * s.media.pairs) ∨ s.media.retiring.isSome ∨
      !s.media.luns.contains l then s
  else { s with media := { s.media with retiring := some l } }.setFlag MED_STAT_RETIRING true

/-- Move what lies on the LUN being retired (R335 step 2). -/
def State.driveRetire (s : State) : State :=
  match s.media.retiring with
  | none => s
  | some l =>
    let t := s.moveInternal (onLun l)
    (((t.leavingLun l).foldl (fun (t : State) g => t.moveUnit (t.sbOfEntry (t.mapGet g) (unitHalf g)) g) t).issueAll).finishRetire

/-- FLASH_OP_COMPLETE (R320): a LUN's operation ended. -/
def execFlashOpComplete (lun : Nat) (ok : Bool) (s : State) : Result :=
  .next ((((s.lunDone lun ok).lunReady lun).checkDieLimit lun).driveRetire)

/-- The dock's release condition: every target port is served (R39, R283). -/
def State.bridgeServed (r : JRec) : Bool :=
  r.committed && r.ports % 4 != 0 && r.ports % 4 == r.donePorts % 4

/-- RECORD_RELEASE (R272): word 1 of the commit line. -/
def execRecordRelease (seq : Nat) (s : State) : Result :=
  match s.findRec seq with
  | none => .next s
  | some r =>
    match s.role with
    | .card => .next (if s.ready && s.releasable r then s.releaseRec r else s)
    | .dock => .next (if s.ready && State.bridgeServed r then s.releaseRec r else s)

/-- ANCHOR_REWRITE (R272): 100 ms after the last rewrite, if the anchor moved. -/
def execAnchorRewrite (s : State) : Result :=
  .next (if s.up && s.lnd.ancMoved && 100000 ≤ s.since s.lnd.ancTime then s.writeAnchor
    else s)

/-- DELTA_LINE_WRITE (R295). -/
def execDeltaLineWrite (s : State) : Result :=
  .next (if s.ready && s.isCard && !s.safe then s.writeDeltaLine else s)

/-- The dirty slot that holds the oldest unretired delta (R296). -/
def State.oldestDirty (s : State) : Option MapSlot :=
  s.mapS.cache.foldl (fun a x => match x.oldest, a with
    | none, a => a
    | some _, none => some x
    | some d, some y => if d < y.oldest.getD 0 then some x else some y) none

/-- The ring's used lines reach WB_MARK (R296, R364). -/
def State.ringMarked (s : State) : Bool := s.wbMark * deltaLines ≤ 100 * s.deltaUsed

/-- A writeback starts: the ring reaches WB_MARK, 448 slots are dirty, or a page has been dirty for WB_AGE seconds (R296). -/
def State.wbDue (s : State) : Bool :=
  s.ringMarked || 448 ≤ s.mapDirty ||
  (s.fld MAP_CFG_WB_AGE != 0 && s.mapS.cache.any (fun x => x.oldest.isSome && 1000000 * s.fld MAP_CFG_WB_AGE ≤ s.since x.since))

/-- MAP_WRITEBACK (R296) of a map page, or of a directory page named with bit 31 set. -/
def execMapWriteback (page : Nat) (s : State) : Result :=
  match s.oldestDirty with
  | none => .next s
  | some x =>
    if s.wbDue && s.ready && s.isCard && !s.safe && s.coreRuns && s.pageServes pMAP && page == pageName x.page x.isDir then
      .next (s.startWriteback x.page x.isDir)
    else .next s

/-- A checkpoint may run now (R364). -/
def State.ckptMay (s : State) : Bool :=
  s.ready && s.isCard && !s.safe && s.coreRuns && s.pageServes pTRE && !s.treeFenced &&
  s.keys.trk != [] && s.rootSpaced

/-- A checkpoint starts of itself: by the age of the oldest dirty slot, the share of the 384 slots that are dirty, or the
mark of the delta ring (R364, R374). -/
def State.ckptDue (s : State) : Bool :=
  !s.tree.dirty.isEmpty &&
  ((s.fld TRE_CFG_CKPT_AGE != 0 && 1000000 * s.fld TRE_CFG_CKPT_AGE ≤ s.since s.tree.oldest) ||
   384 * min 100 (s.fld TRE_CFG_DIRTY_MARK) ≤ 100 * s.tree.dirty.length || s.ringMarked)

/-- CHECKPOINT (R364). -/
def execCheckpoint (s : State) : Result :=
  .next (if s.ckptMay && s.ckptDue then s.startCheckpoint else s)

/-- A record, a move or an internal unit waits on a page of a member (R305). -/
def State.waitsOn (s : State) (x : OpenSb) (l : Nat) : Bool :=
  let on := fun (e : Nat) (h : Nat) => entryLun e == l && entryPair s.ppb e == x.b && h == x.half && !s.durable e h
  s.lnd.recs.any (fun r => r.kind == 1 && !r.programmed && (match r.loc with
    | some e => on e (unitHalf r.g)
    | none => false)) ||
  s.media.moves.any (fun m => on m.dst (unitHalf m.g)) ||
  s.mapS.wbs.any (fun w => on w.loc (w.page % 2)) || s.media.evict.any (fun e => on e.2.2 (e.2.1 % 2)) ||
  (match s.tree.ckpt with
    | some c => c.keys.any (fun k =>
      let e := Sparse.get entBlank c.ents k
      on e.a (keyUnit k % 2) || on e.b (keyUnit k % 2))
    | none => false)

/-- Pad every waiting page of a half up to the end of its wordline (R305). -/
def State.padHalf (s : State) (h : Nat) : State :=
  (s.media.sbs.foldl (fun t x => if x.half = h ∧ x.state = 1 then
    x.fill.foldl (fun t e => if t.waitsOn x e.1 then t.padMember (sbIndex x.set x.b x.half) e.1 else t) t
    else t) s).issueAll

/-- PAGE_PAD_TIMER (R305). -/
def execPagePadTimer (half : Nat) (s : State) : Result :=
  .next (if s.placing then s.padHalf half else s)

/-- SUPERBLOCK_VERIFY (R309) of superblock `k`. -/
def execSuperblockVerify (k : Nat) (s : State) : Result :=
  .next (if s.ready && s.isCard && !s.safe && s.pageServes pPAR then s.verifySb k else s)

/-- The media manager may start a move. -/
def State.moving (s : State) : Bool :=
  s.ready && s.isCard && !s.safe && s.coreRuns && s.pageServes pMED && !s.fenced (.engine pMED 0)

/-- WEAR_MOVE (R330): the units of the least-worn DATA superblock. -/
def execWearMove (s : State) : Result :=
  let r := s.eraseRange
  let lim := min 2000 (max 50 (s.fld MED_WEAR_CFG_SPREAD_LIMIT))
  if s.moving && s.flag MED_WEAR_CFG_MOVE_EN && lim < r.2 - r.1 &&
      !s.media.moving.any (fun x => x.2 == 1) then
    match lowestOf s.dataSbs (fun k => (s.entry k).erases) with
    | some k => .next ((s.fireD EV_MED_WEAR_MOVE_START 0 k).evacuate k 1)
    | none => .next s
  else .next s

/-- START and PRESSURE as they act (R340). -/
def State.reclaimStart (s : State) : Nat := max 1 (s.fld MED_RECLAIM_CFG_START)
def State.reclaimPressure (s : State) : Nat := min s.reclaimStart (s.fld MED_RECLAIM_CFG_PRESSURE)

/-- RECLAIM (R331): the DATA superblock of a half with the lowest VALID. -/
def execMedReclaim (half : Nat) (s : State) : Result :=
  if s.moving && s.freeCount half ≤ s.reclaimStart && half < 2 then
    let t := if s.freeCount half ≤ s.reclaimPressure then s.fire EV_MED_RECLAIM_PRESSURE else s
    match lowestOf ((s.dataSbs.filter (fun k => sbHalf k == half &&
        !s.media.moving.any (fun x => x.1 == k)))) s.validOf with
    | some k => .next (t.evacuate k 2)
    | none => .next t
  else .next s

/-- READ_REFRESH (R333, R325): a superblock whose reads reached REFRESH_LIMIT, or that a rewrite was
scheduled for; an open one is closed first. -/
def execReadRefresh (k : Nat) (s : State) : Result :=
  let hot : Bool := s.refreshLimit ≤ s.readsOf k
  if s.moving && (hot || s.media.refresh.contains k) then
    let t := if hot then s.fireD EV_MED_READ_REFRESH 0 k else s
    match s.findSb k with
    | some x =>
      let u := if x.state = 1 then t.closeSb k else t
      let l := if u.media.refresh.contains k then u.media.refresh else u.media.refresh ++ [k]
      .next { u with media := { u.media with refresh := l } }
    | none =>
      if (s.entry k).state = 2 then
        .next ({ t with media := { t.media with refresh := t.media.refresh.erase k } }.evacuate k 3)
      else .next s
  else .next s

/-! ## Retention scan (R334) -/

/-- A superblock index beyond every other: the pass is over. -/
def scanEnd : Nat := 2 * 12288 * 16

/-- Start a pass if none runs. -/
def State.startScan (s : State) : State :=
  if s.media.scanning then s
  else { s with media := { s.media with
    scanning := true, pass := s.media.pass + 1, scanNext := 0, scanSecs := 0 } }.fire EV_MED_SCAN_START

/-- The scan record's slots (R327). Log 24 (DESIGN CHOICE). -/
def scanA : Nat := 0x01DE9000
def scanB : Nat := 0x01DE9040

/-- The seconds of a pass (R334, R340). -/
def State.scanPeriod (s : State) : Nat := 86400 * max 1 (s.fld MED_SCAN_CFG_PERIOD)

/-- The share of the period elapsed exceeds the share of DATA superblocks done; at the end of a pass, the period has
elapsed. -/
def State.scanDue (s : State) : Bool :=
  let n := s.dataSbs.length
  let done := (s.dataSbs.filter (fun k => k < s.media.scanNext)).length
  if done < n then done * s.scanPeriod < s.media.scanSecs * n else s.scanPeriod ≤ s.media.scanSecs

/-- The pages of a member that a scan reads: its last programmed wordline, and one page in every STRIDE wordlines. -/
def State.scanPages (s : State) (k l : Nat) : List Nat :=
  let used := (List.range s.ppb).filter (fun p =>
    (s.pageSlots l (sbPair k) p).any (fun e => (s.flashAt e (sbHalf k)).isSome))
  let last := Config.wordlineOf (used.getLast?.getD 0)
  let first := fun (p : Nat) => !used.any (fun q => q < p && Config.wordlineOf q == Config.wordlineOf p)
  used.filter (fun p => Config.wordlineOf p == last ||
    (Config.wordlineOf p % max 1 (s.fld MED_SCAN_CFG_STRIDE) == 0 && first p))

/-- One page, of a LUN, read by the scan. -/
def State.scanPage (k : Nat) (s : State) (x : (Nat × Nat) × MediaRead) : State :=
  let l := x.1.1
  let e := entryOf s.ppb l (sbPair k) x.1.2 0
  let m := s.climb (if (s.pageSlots l (sbPair k) x.1.2).all (fun e => s.slotReads e (sbHalf k)) then x.2 else { x.2 with ladder := 3 })
  let t := (s.countReads k (s.memberOf l) (s.arrayReads l m)).noteLadder l (s.placeOf e (sbHalf k)) m
  if 3 ≤ m.ladder then t.bump (FCH_CB_STAT_UNRECOVERED (l / 16)) else t.noteCb k l m

/-- Read a DATA superblock for the scan; `reads` says how its pages read, in order. -/
def State.scanSb (s : State) (k : Nat) (reads : List MediaRead) : State :=
  let ls := (s.sbMembers k).flatMap (fun l => (s.scanPages k l).map (fun p => (l, p)))
  (ls.zip (reads ++ List.replicate ls.length ({} : MediaRead))).foldl (State.scanPage k)
    (s.setEntryK k { s.entry k with pass := s.media.pass, maxcb := 0 })

/-- Commit the scan record, at most 10 times per second. -/
def State.writeScan (s : State) : State :=
  if s.since s.media.scanTime < 100000 then s
  else ({ s with media := { s.media with scanTime := s.uptime } } : State).writeTwo scanA scanB
    [s.media.pass, s.media.scanNext, s.media.scanSecs]

/-- RETENTION_SCAN (R334): the next DATA superblock is read, or the pass ends. Log 92 (DEDUCED). -/
def execRetentionScan (reads : List MediaRead) (s : State) : Result :=
  if s.moving && s.flag MED_SCAN_CFG_EN && s.media.scanning && s.scanDue then
    match s.dataSbs.find? (fun k => s.media.scanNext ≤ k) with
    | some k =>
      let t := s.scanSb k reads
      .next ({ t with media := { t.media with scanNext := k + 1 } } : State).writeScan
    | none => .next (({ s with media := { s.media with scanning := false, scanNext := scanEnd } } : State).writeScan.fire EV_MED_SCAN_DONE)
  else .next s

/-- READ_COUNT_FLUSH (R327): at most once per 100 ms. -/
def execReadCountFlush (s : State) : Result :=
  .next (if s.up && s.isCard && 100000 ≤ s.since s.media.flushTime then
    ({ s with media := { s.media with flushTime := s.uptime } } : State).flushReads else s)

/-! ## Hung dies (R337) -/

/-- The operation a hung LUN holds: its program or erase, else a read of a LUN in use, kind 0, of a block and page. -/
def State.hungOp (s : State) (lun : Nat) (read : Nat × Nat) : Option LunOp :=
  match s.media.ops.find? (fun o => o.lun == lun && o.issued) with
  | some o => some o
  | none =>
    if s.ready && s.isCard && s.media.luns.contains lun && !s.lunFenced lun then
      some { lun := lun, kind := 0, block := read.1, page := read.2, sb := sbIndex (s.setOf lun) (read.1 / 2) (read.1 % 2) }
    else none

/-- An operation in a syndrome: 1 read, 2 program, 3 erase (R409). -/
def opCode (kind : Nat) : Nat := if kind = 0 then 1 else if kind = 1 then 2 else 3

/-- DIE_TIMEOUT (R337): the channel seizes its bus; `ready` says whether the LUN reads ready after RESET
LUN, `busHeld` whether the bus stays held, and `read` the block and page of a read. Log 179 (DESIGN CHOICE). -/
def execDieTimeout (lun : Nat) (ready busHeld : Bool) (read : Nat × Nat) (s : State) : Result :=
  let ch := lun / 16
  match s.hungOp lun read with
  | none => .next s
  | some o =>
    let syn := o.block * 65536 + opCode o.kind * 4096 + o.page
    let t := (s.fault (7 + 5 * ch) lun syn false)
    let t := if ready then t else t.abortCe (lun / 8) lun
    let t := if o.kind = 1 then t.voidWordline o.sb o.lun (Config.wordlineOf o.page) else t
    let t := t.lunsLost (fun l => l == lun)
    let t := if busHeld then (t.fault (8 + 5 * ch) (lun / 8) syn false).lunsLost (fun l => l / 8 == lun / 8)
      else t
    let t := ((t.bump (FCH_SEIZE_STAT_COUNT ch)).setFld (FCH_SEIZE_STAT_LAST_LUN ch) lun).setFlag
      (FCH_SEIZE_STAT_CE_FENCED ch) busHeld
    let d := o.block * 65536 + o.page
    .next (((t.fireD (EV_FCH_BUS_SEIZED ch) lun d).fireD (EV_FCH_DIE_FENCED ch) lun d).issueAll)

/-! ## Patrol scrub (R284) -/

/-- The two-slot single-line records outside the areas rewritten in place, by their slots. -/
def twoSlots : List (Nat × Nat) :=
  [(anchorA, anchorB), (deltaAncA, deltaAncB), (rootA, rootB), (formatA, formatB), (scanA, scanB), (progA, progB)] ++
  ((List.range 4).map (fun r => (sbRecAddr r, sbRecAddr r + 64))) ++
  ((List.range 5).map (fun r => (0x01C00100 + 128 * r, 0x01C00140 + 128 * r))) ++
  ((List.range 16).map (fun n => (0x01C03000 + 128 * n, 0x01C03040 + 128 * n))) ++
  ((List.range 17).map (fun n => (0x01C04000 + 128 * n, 0x01C04040 + 128 * n))) ++
  ((List.range 16).map (fun n => (0x01C05800 + 128 * n, 0x01C05840 + 128 * n))) ++
  ((List.range 22).map (fun k => (topAddr k, topAddr k + 64))) ++
  ((List.range 256).map (fun k => (tableDir (12 * k), tableDir (12 * k) + 64)))

/-- The areas whose words are rewritten in place: parity, the wear counters behind the table directory but for the scan
record, the attempt counters of the locks; resync log and dock firmware slots. -/
def scrubInPlace (r : Role) (a : Nat) : Bool :=
  match r with
  | .card => (0x00C00000 ≤ a && a < 0x01BFFC00) || (0x01DE8000 ≤ a && a < 0x01EE0000 && a / 128 != scanA / 128) ||
      (0x01C04C00 ≤ a && a < 0x01C05480)
  | .dock => 0x01800000 ≤ a && a < 0x01C00000

/-- What the scrub does about a correctable word; its own requests rank below parity (R260, R284). -/
def State.scrubWord (s : State) (a : Nat) : State :=
  if s.logWord (a / 8) then s.writeLog 6 (a / 8) (s.trackWord (a / 8))
  else if scrubInPlace s.role a then s.writeRanked 6 a (s.mramWord a)
  else if 0x01F00000 ≤ a then
    let p := (a - 0x01F00000) / 512
    match s.readPair p with
    | some (sl, _, x) => if (a - 0x01F00000) / 256 % 2 = sl then s.commitPair p x else s
    | none => s
  else if 0x01C00400 ≤ a && a < 0x01C00800 then
    match s.readBad with
    | some (sl, _, _) => if (a - 0x01C00400) / 512 = sl then s.writeBad else s
    | none => s
  else
    match twoSlots.find? (fun t => a / 64 == t.1 / 64 || a / 64 == t.2 / 64) with
    | some (x, y) =>
      match s.readTwo x y, s.readTwoM x y with
      | some (b, _, _), some (mid, ws) => if (a / 64 == y / 64) = b then s.writeTwoM x y mid ws else s
      | _, _ => s
    | none => s

/-- A line of the ring that no unreleased record holds. -/
def State.lineFree (s : State) (l : Nat) : Bool :=
  l < ringLines s.role && !s.lnd.recs.any (fun r => (s.recordLines r).contains l)

/-- The scrub reads one word. -/
def State.scrubOne (s : State) (a : Nat) : State :=
  if s.eccOf (a / 8) = 1 then (s.noteCorrected (a / 8)).scrubWord a
  else if s.wordBad (a / 8) then
    let t := s.noteUncorr (a / 8)
    if t.lineFree (a / 64) then t.retireLine (a / 64) else t
  else s

/-! ## Writes of MED.CTRL and TRE.CTRL -/

/-- What writing MED.CTRL does (R340): RETIRE_GO of a LUN in use, and SCAN_NOW. -/
def State.medCtrl (s : State) (w : Nat) : State :=
  let l := bitsOf w 0 7
  let t := if bitAt w 7 && s.media.luns.contains l && s.media.retiring.isNone then
      ({ s with media := { s.media with retiring := some l } }.setFlag MED_STAT_RETIRING true).driveRetire
    else s
  if bitAt w 8 then t.startScan else t

/-- What writing TRE.CTRL does (R374). -/
def State.treCtrl (s : State) (w : Nat) : State :=
  if bitAt w 0 && s.ckptMay then s.startCheckpoint else s

end Sys2Proof.Machine
end

