-- ==== Sys2Proof/Machine/DockSend.lean ====
section
/-! DEFINITION. How a dock port sends (chapters 07 and 08): its link state, the commands that wait on it, the
conditions under which one goes out, host units, and what is sent again. -/

namespace Sys2Proof.Machine

open Sys2Proof.Crypto

/-! ## Link states (R199, R221) -/

abbrev lnkDown := 0
abbrev lnkLinkup := 1
abbrev lnkTuning := 2
abbrev lnkRun := 3
abbrev lnkRetrain := 4
abbrev lnkRemoved := 5

def State.linkState (s : State) (p : Nat) : Nat := s.fld (SP_STAT_LINK_STATE p)

def State.setLink (s : State) (p l : Nat) : State := s.setFld (SP_STAT_LINK_STATE p) l

/-- A dock port is in RUN. -/
def State.portRun (s : State) (p : Nat) : Bool := s.isDock && p < 2 && s.linkState p == lnkRun

/-- A port without a card the dock could send to: DOWN or REMOVED. -/
def State.portEmpty (s : State) (p : Nat) : Bool := s.linkState p == lnkDown || s.linkState p == lnkRemoved

/-- A dock port's engine and its LSE run. -/
def State.dockEngine (s : State) (p : Nat) : Bool :=
  s.isDock && p < 2 && 10 ≤ s.bootStep && !s.chipWaits && !s.portFenced p && s.powerState < 3 &&
  !s.safe && !s.islandDown (islHOSTA + p) && !s.islandDown islLSE && !s.flag CLK_PLL_STAT_RELOCKING &&
  !s.flag (PG_CTRL_FENCE_REQ (pSP p)) && !s.flag (PG_CTRL_FENCE_REQ (pLSE p)) &&
  s.flag (PG_CTRL_ENABLE (pSP p)) && s.flag (PG_CTRL_ENABLE (pLSE p)) &&
  !s.flag (PG_STAT_RST_BUSY (pSP p)) && !s.flag (PG_STAT_RST_BUSY (pLSE p))

/-- They run, and there is a session to send under. -/
def State.dockLink (s : State) (p : Nat) : Bool := s.dockEngine p && s.session p

/-! ## The list of a port's commands -/

/-- Queue a command on a port, behind those that wait; it takes the next number. -/
def State.pushD (s : State) (p : Nat) (c : DCmd) : State :=
  let x := s.sp p
  s.setSp p { x with dcmds := x.dcmds ++ [{ c with id := x.nextId }], nextId := x.nextId + 1 }

/-- Queue a command ahead of every command that has not been sent (R193). -/
def State.pushAhead (s : State) (p : Nat) (c : DCmd) : State :=
  let x := s.sp p
  let sent := x.dcmds.filter (·.sent)
  let rest := x.dcmds.filter (fun d => !d.sent)
  s.setSp p { x with dcmds := sent ++ [{ c with id := x.nextId }] ++ rest, nextId := x.nextId + 1 }

def State.dropD (s : State) (p id : Nat) : State :=
  let x := s.sp p
  s.setSp p { x with dcmds := x.dcmds.filter (fun d => d.id != id) }

def State.updD (s : State) (p id : Nat) (f : DCmd → DCmd) : State :=
  let x := s.sp p
  s.setSp p { x with dcmds := mapIf (fun d => d.id == id) f x.dcmds }

/-- The sent command with a TAG. -/
def State.findSent (s : State) (p tag : Nat) : Option DCmd :=
  (s.sp p).dcmds.find? (fun d => d.sent && d.tag == tag % 256)

/-- Commands outstanding on the link. -/
def State.dockSent (s : State) (p : Nat) : List DCmd := (s.sp p).dcmds.filter (·.sent)

def DCmd.h2c (d : DCmd) : Nat := h2cUnits d.op d.arg

def DCmd.c2h (d : DCmd) : Nat := c2hUnits d.op d.arg

/-- The command whose data phase towards the card is in progress (R180). -/
def State.h2cNow (s : State) (p : Nat) : Option DCmd := (s.dockSent p).find? (fun d => d.h2c != 0)

/-- A WRITE or DISCARD. -/
def isWriteOp (op : Nat) : Bool := op == 0x03 || op == 0x05

/-- Two writes of one instance that touch a common unit (R193). -/
def DCmd.clashes (a b : DCmd) : Bool :=
  isWriteOp a.op && isWriteOp b.op && a.inst == b.inst &&
  a.arg / 4096 ≤ b.arg / 4096 + b.arg % 4096 && b.arg / 4096 ≤ a.arg / 4096 + a.arg % 4096

/-! ## Sending -/

/-- The port's clock runs again, and a card in DOZE is woken (R166, R432). -/
def State.startClock (s : State) (p : Nat) : State :=
  let s := s.setFlag ⟨rPWR_STAT.off, 12 + p, 1⟩ false
  if (s.sp p).sclk then s
  else ((s.setSp p { s.sp p with sclk := true }).setFlag (SP_STAT_CLK_STOPPED p) false).emit (.sclk p true)

/-- A unit of a bridge record goes to the active card of a ROTATE (R451). -/
def State.countRot (s : State) (p : Nat) (d : DCmd) : State :=
  match d.origin with
  | .bridge _ => if s.fld BRG_MODE_MODE = 2 ∧ s.fld BRG_MODE_ACTIVE = p then s.bump BRG_ROT_UNITS_UNITS else s
  | _ => s

/-- Send the unit in turn of a command (R180, R186). -/
def State.sendHostUnit (s : State) (p : Nat) (d : DCmd) : State :=
  let key := (s.keyAt p d.epoch).getD []
  let plain := padTo 4096 (d.units.getD d.next [])
  let iv := linkIv d.epoch 1 0 d.inst d.tag d.next d.fc
  let ct := gcmCrypt key iv plain
  let t := s.emit (.unit p d.tag d.next 0 plain ct (gcmTag key iv [] ct))
  if d.fails = 0 then (t.countUnit p d.epoch).countRot p d else t

/-- Send a command frame under its FC, and unit 0 with it (R174, R180, R186). -/
def State.sendFrame (s : State) (p : Nat) (d : DCmd) : State :=
  let key := (s.keyAt p d.epoch).getD []
  let mac := cmdMac key d.op { inst := d.inst, tag := d.tag, arg := d.arg, epoch := d.epoch, mac := 0 } d.fc
  let t := (s.startClock p).emit (.cmd p d.op d.inst d.tag d.arg d.epoch mac)
  if d.h2c = 0 then t else t.sendHostUnit p d

/-- Send a waiting command under the next FC. -/
def State.sendNew (s : State) (p : Nat) (d : DCmd) (epoch : Nat) : State :=
  let fc := (s.sp p).cmdFc + 1
  let d := { d with sent := true, fc := fc, tag := fc % 256, epoch := epoch, next := 0, fails := 0, heard := false }
  let t := s.updD p d.id (fun _ => d)
  let t := t.setSp p { t.sp p with cmdFc := fc }
  t.sendFrame p d

/-- The epoch a command is sent at: inside a rekey window the next one, once no command of the old one is
outstanding (R195).  A command of the link layer need not wait for that. Log 128 (DEDUCED). -/
def State.epochFor (s : State) (p : Nat) (o : Origin) : Option Nat :=
  let cur := s.fld (LSE_STAT_EPOCH p)
  if !s.flag (LSE_STAT_NEXT_HELD p) then some cur
  else if (s.dockSent p).any (fun d => d.epoch == cur) then (if o = .link then some cur else none)
  else some (s.fld (LSE_STAT_NEXT_EPOCH p))

/-- The port has nothing outstanding: IDLE (R164). -/
def State.portIdle (s : State) (p : Nat) : Bool := (s.dockSent p).isEmpty

/-- The port has begun with the host command of a part: another part of it has been sent (R193, R221). -/
def State.begun (s : State) (p : Nat) (d : DCmd) : Bool :=
  d.rest ||
  match d.origin with
  | .host i k cid => (s.dockSent p).any (fun x => x.origin == d.origin) ||
      (s.findCmd i k cid).any (fun c => c.ends.any (fun e => e.port == p))
  | _ => false

/-- New commands of the port are held for a tune: retries were exhausted (R192), or the port is to be retuned and is
IDLE (R169). -/
def State.holdsNew (s : State) (p : Nat) : Bool :=
  (s.sp p).wantRetrain || ((s.sp p).wantRetune && s.portIdle p && s.fld (SP_STAT_MODE p) != 0)

/-- The port takes a command now (R192, R197, R221); a drained one only what it has begun and, until the drain is
complete, bridge records (R219). -/
def State.takes (s : State) (p : Nat) (d : DCmd) : Bool :=
  match d.origin with
  | .link => true
  | o => s.portRun p && !s.holdsNew p && !s.quiesceAsked (pSP p) &&
    (!(s.sp p).drained || (match o with
      | .bridge _ => (s.sp p).drainCmd.isSome
      | _ => s.begun p d))

/-- The lowest FC outstanding on the port; the next one to be sent where none is. -/
def State.lowFc (s : State) (p : Nat) : Nat := (s.dockSent p).foldl (fun m c => min m c.fc) ((s.sp p).cmdFc + 1)

/-- A waiting command may go out, given the commands before it in the list (R180, R187, R193, R196). -/
def State.mayDrive (s : State) (p : Nat) (d : DCmd) (before : List DCmd) : Bool :=
  s.dockLink p && s.takes p d && (s.sp p).cmdFc + 1 < s.lowFc p + 128 &&
  (d.h2c == 0 || (s.h2cNow p).isNone) && !before.any (fun b => b.clashes d) &&
  !(0 < d.h2c + d.c2h && (s.epochFor p d.origin).any (s.unitsSpent p))

/-- Send every waiting command that may go, oldest first. -/
def State.driveList (s : State) (p : Nat) : List DCmd → List DCmd → State
  | _, [] => s
  | before, d :: rest =>
    if d.sent || !s.mayDrive p d before then s.driveList p (before ++ [d]) rest
    else
      match s.epochFor p d.origin with
      | some e => (s.sendNew p d e).driveList p (before ++ [d]) rest
      | none => s.driveList p (before ++ [d]) rest

/-- Log 5 (DESIGN CHOICE). -/
def State.drive (s : State) (p : Nat) : State :=
  if s.dockLink p then s.driveList p [] (s.sp p).dcmds else s

/-- Send a command of the link layer at once. -/
def State.linkCmd (s : State) (p op arg : Nat) : State :=
  (s.pushD p { op := op, inst := 0, arg := arg, origin := .link }).drive p

/-! ## Sending again (R189, R194) -/

/-- Opcodes of class N, which are never resent (R181). -/
def classN (op : Nat) : Bool :=
  op == 0x00 || op == 0x01 || op == 0x02 || op == 0x0A || op == 0x0C || op == 0x10 || op == 0x11 || op == 0x12 ||
  op == 0x15 || op == 0x16

/-- The command that moves the units of another from unit `k` on (R193): ADDR and CNT, or the unit offset and
CNT of FW_STAGE, follow, and the units before `k` that came in are kept. -/
def DCmd.remain (d : DCmd) (k : Nat) : DCmd :=
  { d with
    arg := if d.op = 0x02 ∨ d.op = 0x03 ∨ d.op = 0x18 then d.arg + 4095 * k else d.arg,
    base := d.base + k, units := d.units.drop k, seqs := d.seqs.drop k, got := d.got.take (d.got.length - d.next + k),
    sent := false, next := 0, fails := 0, heard := false, rest := true }

/-- Resend a command as the same frame, or reissue it whole under a new FC, by its class; a PING asks anew from the
lowest FC outstanding (R181, R194). -/
def State.sendAgain (s : State) (p : Nat) (d : DCmd) : State :=
  if classN d.op then
    let t := s.dropD p d.id
    t.pushAhead p (if d.op = 0 then { d.remain 0 with arg := t.lowFc p % 2 ^ 32 } else d.remain 0)
  else
    let d := { d with next := 0, fails := 1, heard := false, resent := true }
    (s.updD p d.id (fun _ => d)).sendFrame p d

end Sys2Proof.Machine
end

