-- ==== Sys2Proof/Machine/Bridge.lean ====
section
/-! DEFINITION. The bridge of a dock (chapters 09 and 18): mode record, resync tracks, delivery of bridge records
to the cards, refusals and blocking, the switch of the active port, what a port's coming and going does, and
what ends a host command that has been sent in parts. -/

namespace Sys2Proof.Machine

/-! ## Mode (R218, R452) -/

def State.brgMode (s : State) : Nat := s.fld BRG_MODE_MODE
def State.brgActive (s : State) : Nat := s.fld BRG_MODE_ACTIVE
def State.portOf (s : State) (n : Nat) : Nat := (bitAt (s.fld BRG_MODE_PORT_MAP) n).toNat

/-- MIRROR or ROTATE. -/
def State.bridged (s : State) : Bool := s.brgMode == 1 || s.brgMode == 2

/-- Commit the mode record: mode, active port, port map, and the cards known.
Log 24 (DESIGN CHOICE), 25 (DESIGN CHOICE). -/
def State.writeMode (s : State) : State :=
  s.writeTwo 0x01C00200 0x01C00240
    [s.brgMode, s.brgActive + 2 * (s.flag BRG_STAT_NO_ACTIVE).toNat, s.fld BRG_MODE_PORT_MAP,
     s.brg.known.getD 0 0, s.brg.known.getD 1 0]

/-- Restore the mode from its record at bring-up (R452). Log 25 (DESIGN CHOICE), 144 (DESIGN CHOICE). -/
def State.loadMode (s : State) : State :=
  match s.readTwo 0x01C00200 0x01C00240 with
  | none => s
  | some (_, _, ws) =>
    let t := ((s.setFld BRG_MODE_MODE (ws.getD 0 0)).setFld BRG_MODE_ACTIVE (ws.getD 1 0 % 2)).setFld
      BRG_MODE_PORT_MAP (ws.getD 2 0)
    let t := t.setFlag BRG_STAT_NO_ACTIVE (bitAt (ws.getD 1 0) 1)
    { t with brg := { t.brg with known := [ws.getD 3 0, ws.getD 4 0].filter (· != 0) } }

/-- EV_BRG_MODE_CHANGE with the mode and the active port. -/
def State.fireMode (s : State) : State := s.fireD EV_BRG_MODE_CHANGE (s.brgMode + 4 * s.brgActive) 0

/-! ## Tracks (R456–R458) -/

/-- The header record of a track. Log 24 (DESIGN CHOICE), 154 (DESIGN CHOICE). -/
def State.trackHeader (s : State) (t : Nat) : State :=
  s.writeTwo (0x01C00280 + 128 * t) (0x01C002C0 + 128 * t) [(s.track t).serial, (s.track t).inUse.toNat]

/-- The region of a unit, numbered over all instances. -/
def regionOf (inst addr : Nat) : Nat := inst * 2 ^ 19 + addr / 2 ^ 17

def State.serialAt (s : State) (p : Nat) : Nat := s.brg.serials.getD p 0

/-- The track of a card by its serial. -/
def State.trackFor (s : State) (ser : Nat) : Option Nat :=
  [0, 1].find? (fun t => (s.track t).inUse && ser != 0 && (s.track t).serial == ser)

/-- The track of the card on a port. -/
def State.trackOf (s : State) (p : Nat) : Option Nat := s.trackFor (s.serialAt p)

/-- The card's track, or a free one assigned to it (R457). -/
def State.takeTrackFor (s : State) (ser : Nat) : Option Nat × State :=
  match s.trackFor ser with
  | some t => (some t, s)
  | none =>
    match [0, 1].find? (fun t => !(s.track t).inUse) with
    | some t => if ser = 0 then (none, s) else (some t, (s.setTrack t { inUse := true, serial := ser }).trackHeader t)
    | none => (none, s)

def State.takeTrack (s : State) (p : Nat) : Option Nat × State := s.takeTrackFor (s.serialAt p)

/-- Set the regions of some units of an instance in a track. Log 154 (DESIGN CHOICE). -/
def State.setBits (s : State) (t inst addr cnt : Nat) : State :=
  let lo := regionOf inst addr
  let hi := regionOf inst (addr + cnt) + 1
  let s := s.putRegions t lo hi true
  let x := s.track t
  let hit := match x.region with
    | some r => lo ≤ r && r < hi
    | none => false
  s.setTrack t { x with chunk := if hit then 0 else x.chunk }

/-- Set the whole bitmap of an instance. -/
def State.setAll (s : State) (t inst : Nat) : State :=
  let s := s.fillRegions t (inst * 2 ^ 19) ((inst + 1) * 2 ^ 19) true
  s.setTrack t { s.track t with chunk := 0, region := none }

/-- At bring-up the headers say which cards the tracks are of; a copy begins its region anew. Log 154 (DESIGN CHOICE). -/
def State.loadTracks (s : State) : State :=
  [0, 1].foldl (fun (s : State) t =>
    let h := match s.readTwo (0x01C00280 + 128 * t) (0x01C002C0 + 128 * t) with
      | some (_, _, ws) => (ws.getD 0 0, ws.getD 1 0 == 1)
      | none => (0, false)
    s.setTrack t { bits := (s.track t).bits, serial := h.1, inUse := h.2 }) s

/-- The card on a port may lack a unit. -/
def State.lacks (s : State) (p inst addr : Nat) : Bool :=
  match s.trackOf p with
  | some t => inRuns (s.track t).bits (regionOf inst addr)
  | none => false

/-- A track that is empty is given up (R459). -/
def State.endTrack (s : State) (t : Nat) : State :=
  let x := s.track t
  if x.inUse && x.bits.isEmpty then
    ((s.setTrack t { x with inUse := false, copied := 0, chunk := 0, region := none }).trackHeader t).fireD EV_BRG_RESYNC_DONE t
      x.copied
  else s

/-- The dock counts a card as one that holds the mirror's content. Log 153 (DEDUCED). -/
def State.knowCard (s : State) (ser : Nat) : State :=
  if ser = 0 ∨ s.brg.known.contains ser then s
  else
    let l := (s.brg.known ++ [ser])
    ({ s with brg := { s.brg with known := l.drop (l.length - 2) } }).writeMode

/-! ## Records that wait for a card (R39) -/

/-- The committed records a port's card has not been served, in SEQ order. -/
def State.awaits (s : State) (p : Nat) : List JRec :=
  s.lnd.recs.filter (fun r => r.committed && bitAt r.ports p && !bitAt r.donePorts p)

/-- The host command that a record belongs to. -/
def State.hostOf (s : State) (seq : Nat) : Option HCmd := s.host.cmds.find? (fun c => c.recs.contains seq)

/-- A record that a port's card answered BUSY_RETRY is not answered yet (R223). -/
def State.busyAt (s : State) (p : Nat) : Bool :=
  s.brg.busy.any (fun e => e.1 == p) || s.brg.again.any (fun e => e.1 == p)

/-- A port's card does not count as one in RUN for a completion (R219, R223, R453). Log 147 (DEDUCED). -/
def State.standsOff (s : State) (p : Nat) : Bool :=
  !s.portRun p || (s.sp p).drained || s.busyAt p ||
  s.brg.blocked.any (fun e => e.1 == p) || s.brg.noRoute.contains p

/-- The end of one part on a port covers record `j` of its command. -/
def PartEnd.covers (e : PartEnd) (p j : Nat) : Bool := e.port == p && e.base ≤ j && j < e.base + e.cnt

/-- The outcome of record `j` of a command whose target ports have answered: none where a card holds it. -/
def recordFailure (c : HCmd) (ports : List Nat) (j : Nat) : Option PartEnd :=
  let ends := c.ends.filter (fun e => ports.any (fun p => e.covers p j))
  let bad := ends.filter (fun e => !partOk e.st && !e.gap)
  if ends.any (fun e => partOk e.st) && bad.all (fun e => e.reason != 0x0D) then none
  else bad.foldl firstEnd none

/-- Give a bridged write its completion: what its own data failed with comes behind an OK. -/
def State.endWrite (s : State) (c : HCmd) (st info : Nat) (gap carried : Bool) : State :=
  s.updCmd c.inst c.sq c.cid (fun x => match x.done with
    | some _ => x
    | none => { x with done := (match c.fail with
        | some (u, fst, reason) => if st = 0 then some (fst, u, reason, gap, carried)
            else some (st, info, 0, gap, carried)
        | none => some (st, info, 0, gap, carried)) })

/-- The completion of a bridged write, at the first moment one of the two conditions of R223 holds.
Log 146 (DEDUCED). -/
def State.evalWrite (s : State) (c : HCmd) : State :=
  match s.findCmd c.inst c.sq c.cid with
  | none => s
  | some c =>
    if !c.routed || c.recs.isEmpty || c.done.isSome then s
    else
      let ports := [0, 1].filter (fun p => bitAt c.targets p)
      let js := List.range c.recs.length
      let got := fun (p : Nat) => js.all (fun j => c.ends.any (fun e => e.covers p j))
      let good := fun (p : Nat) => js.all (fun j => c.ends.any (fun e => e.covers p j && partOk e.st))
      if !ports.isEmpty && ports.all (fun p => !s.standsOff p && got p) then
        match (js.filterMap (recordFailure c ports)).head? with
        | some e => s.endWrite c e.st (if infoCounts e.st then e.base + e.info else e.info) false false
        | none => s.endWrite c 0 0 (c.ends.any (fun e => !partOk e.st)) false
      else if ports.all (fun p => s.standsOff p || good p) then s.endWrite c 0 0 false true
      else s

/-- Test every bridged write. -/
def State.evalAll (s : State) : State := s.host.cmds.foldl (fun t c => t.evalWrite c) s

/-- Carrying to a card ends when no record awaits it (R453). -/
def State.carryCheck (s : State) (p : Nat) : State :=
  match s.brg.carrying.find? (fun e => e.1 == p) with
  | some (_, n) =>
    if (s.awaits p).isEmpty then
      ({ s with brg := { s.brg with carrying := s.brg.carrying.filter (fun e => e.1 != p) } }).fireD
        EV_BRG_CARRY_DONE p n
    else s
  | none => s

/-- Carrying to a card begins when records of another time await it. -/
def State.carryStart (s : State) (p : Nat) : State :=
  let n := (s.awaits p).length
  if n = 0 ∨ s.brg.carrying.any (fun e => e.1 == p) ∨ !s.portRun p then s
  else (({ s with brg := { s.brg with carrying := s.brg.carrying ++ [(p, n)] } }).bump BRG_CNT_CARRIES).fireD
    EV_BRG_CARRY_START p n

/-! ## Delivery (R221, R223, R459) -/

/-- The chunk being copied to this port's card touches a record (R459). -/
def State.chunkHolds (s : State) (p : Nat) (r : JRec) : Bool :=
  match s.brg.copying with
  | some (t, inst, first) => s.trackOf p == some t && r.inst == inst && r.addr < first + 256 && first ≤ r.addr + r.cnt
  | none => false

/-- Two successive records of one host command go as one WRITE. -/
def State.joins (s : State) (a b : JRec) : Bool :=
  a.kind == 4 && b.kind == 4 && a.inst == b.inst && b.addr == a.addr + 1 && b.seq == a.seq + 1 &&
  (match s.hostOf a.seq, s.hostOf b.seq with
   | some x, some y => x.sq == y.sq && x.cid == y.cid && x.inst == y.inst
   | _, _ => false)

/-- Records in runs of at most 1024 that go as one command. -/
def State.groups (s : State) : List JRec → List (List JRec)
  | [] => []
  | r :: rest =>
    match s.groups rest with
    | (x :: g) :: gs => if s.joins r x && g.length < 1023 then (r :: x :: g) :: gs else [r] :: (x :: g) :: gs
    | gs => [r] :: gs

/-- Queue one run of records for a port's card. -/
def State.pushGroup (s : State) (p : Nat) (g : List JRec) : State :=
  match g with
  | [] => s
  | r :: _ =>
    let seqs := g.map (·.seq)
    let base := match s.hostOf r.seq with
      | some c => (c.recs.findIdx? (· == r.seq)).getD 0
      | none => 0
    let d : DCmd :=
      if r.kind = 4 then { op := 0x03, inst := r.inst, arg := r.addr * 4096 + (g.length - 1), origin := .bridge r.seq,
                           units := g.map s.recData, base := base, seqs := seqs }
      else { op := 0x05, inst := r.inst, arg := r.addr * 4096 + r.cnt, origin := .bridge r.seq, base := base, seqs := seqs }
    let t := s.pushD p d
    { t with brg := { t.brg with sent := t.brg.sent ++ seqs.map (fun q => (p, q)) } }

/-- The runs of records that await a port's card and are not on their way, in SEQ order. -/
def State.dueGroups (s : State) (p : Nat) : List (List JRec) :=
  s.groups (((s.awaits p).takeWhile (fun r => !s.chunkHolds p r)).filter (fun r => !s.brg.sent.contains (p, r.seq)))

/-- Queue every record that awaits a port's card and is not on its way, in SEQ order. -/
def State.deliverTo (s : State) (p : Nat) : State :=
  if !s.portRun p || s.brg.replayHold || s.brg.blocked.any (fun e => e.1 == p) || s.busyAt p ||
      s.brg.noRoute.contains p then s
  else ((s.dueGroups p).foldl (fun t g => t.pushGroup p g) s).drive p

/-- The records queued for a port's card and not sent wait again. -/
def State.unqueue (s : State) (p : Nat) : State :=
  let x := s.sp p
  let mine := fun (d : DCmd) => !d.sent && (match d.origin with
    | .bridge _ => true
    | _ => false)
  let seqs := (x.dcmds.filter mine).flatMap (·.seqs)
  let t := s.setSp p { x with dcmds := x.dcmds.filter (fun d => !mine d) }
  { t with brg := { t.brg with sent := t.brg.sent.filter (fun e => !(e.1 == p && seqs.contains e.2)) } }

/-! ## Blocking and refusals (R453, R454) -/

/-- Delivery to a card stops at a record. Log 147 (DEDUCED). -/
def State.blockAt (s : State) (p seq inst st : Nat) : State :=
  let t := s.unqueue p
  let t := { t with brg := { t.brg with blocked := t.brg.blocked.filter (fun (e : Nat × Nat) => e.1 != p) ++ [(p, seq)] } }
  (((t.setFlag BRG_STAT_CARRY_BLOCKED true).setFld BRG_STAT_BLOCKED_INST inst).setFld BRG_STAT_BLOCKED_PORT p).setFld
    BRG_STAT_BLOCK_ST st

/-- Delivery to a card may go on. -/
def State.unblock (s : State) (p : Nat) : State :=
  let l := s.brg.blocked.filter (fun e => e.1 != p)
  let t := { s with brg := { s.brg with blocked := l } }
  if l.isEmpty then t.setFlag BRG_STAT_CARRY_BLOCKED false else t

/-- Count a port as served for a record. -/
def State.markDone (s : State) (p seq : Nat) : State :=
  s.updRec seq (fun r => { r with donePorts := orBit r.donePorts p })

/-- Forget a refusal. -/
def State.dropRefusal (s : State) (p seq : Nat) : State :=
  let t := { s with brg := { s.brg with refused := s.brg.refused.filter (fun e => !(e.1 == p && e.2.1 == seq)) } }
  if s.brg.blocked.contains (p, seq) then t.unblock p else t

/-- Mark the refused end of a record in its host command. Log 148 (DEDUCED). -/
def State.markGap (s : State) (p seq : Nat) (f : PartEnd → PartEnd) : State :=
  match s.hostOf seq with
  | none => s
  | some c =>
    let j := (c.recs.findIdx? (· == seq)).getD 0
    s.updCmd c.inst c.sq c.cid (fun x => { x with ends := mapIf (fun e => e.covers p j && !partOk e.st) f x.ends })

/-- A unit that one card refused and another holds is entered in the refusing card's track; without a free
track the refusing status stands and the card is routed no more (R454, R457). -/
def State.enterGap (s : State) (p : Nat) (r : JRec) : State :=
  match s.takeTrack p with
  | (some t, u) =>
    let u := (u.setBits t r.inst r.addr r.cnt).markGap p r.seq (fun e => { e with gap := true })
    (u.markDone p r.seq).dropRefusal p r.seq
  | (none, u) =>
    let u := ({ u with brg := { u.brg with noRoute := p :: u.brg.noRoute.filter (· != p) } }).setFlag
      BRG_STAT_NO_TRACK true
    let u := u.markGap p r.seq (fun e => { e with reason := 0x0D })
    (u.markDone p r.seq).dropRefusal p r.seq

/-- The completion of a record's command is not posted. -/
def State.unposted (s : State) (seq : Nat) : Bool :=
  match s.hostOf seq with
  | some c => c.done.isNone
  | none => false

/-- Every target card refused: the record goes without effect, and the command ends with the status of the
lower port (R454 case 4). -/
def State.failRecord (s : State) (r : JRec) : State :=
  let t := s.releaseRec r
  match s.hostOf r.seq with
  | none => t
  | some c =>
    let j := (c.recs.findIdx? (· == r.seq)).getD 0
    let bad := c.ends.filter (fun e => (e.covers 0 j || e.covers 1 j) && !partOk e.st)
    match bad.foldl firstEnd none with
    | some e => t.endWrite c e.st (if infoCounts e.st then e.base + e.info else e.info) false false
    | none => t

/-- Settle what is known of a record that some card refused (R454 cases 3 to 5). Log 147 (DEDUCED), 148 (DEDUCED). -/
def State.settleRefusal (s : State) (seq : Nat) : State :=
  match s.findRec seq with
  | none => { s with brg := { s.brg with refused := s.brg.refused.filter (fun e => e.2.1 != seq) } }
  | some r =>
    let mine := s.brg.refused.filter (fun e => e.2.1 == seq)
    let stands := fun (q : Nat) => bitAt r.ports q && !bitAt r.donePorts q && !mine.any (fun e => e.1 == q) &&
      !s.portEmpty q
    if mine.isEmpty then s
    else if r.donePorts ≠ 0 then mine.foldl (fun t e => t.enterGap e.1 r) s
    else if stands 0 || stands 1 then s
    else if s.unposted seq then
      let t := s.failRecord r
      { t with brg := { t.brg with refused := t.brg.refused.filter (fun e => e.2.1 != seq) } }
    else mine.foldl (fun t e => t.blockAt e.1 seq r.inst e.2.2) s

/-! ## Retargeting and the active port (R39, R451, R455) -/

/-- The ports in RUN as bits. -/
def State.runBits (s : State) : Nat := (s.portRun 0).toNat + 2 * (s.portRun 1).toNat

/-- The ports of a record under the mode in force. -/
def State.newPorts (s : State) (r : JRec) : Nat :=
  let keep := (r.ports &&& s.runBits) ||| r.donePorts
  if keep = r.ports ∧ r.ports ≠ 0 then r.ports
  else
    let add := match s.brgMode with
      | 1 => s.runBits
      | 2 => if s.flag BRG_STAT_NO_ACTIVE then 0 else 2 ^ s.brgActive
      | _ => 2 ^ s.portOf r.inst
    let n := keep ||| add
    if n = 0 then (if s.brgMode = 2 then 0 else r.ports) else n

/-- The dock no longer counts a card as one that holds the mirror's content. -/
def State.forgetCard (s : State) (ser : Nat) : State :=
  if s.brg.known.contains ser then
    ({ s with brg := { s.brg with known := s.brg.known.filter (· != ser) } }).writeMode
  else s

/-- A card that holds the mirror's content and is on no port gets a track; with none free it is known no more (R457,
R458). Log 153 (DEDUCED). -/
def State.trackAbsent (s : State) (ser : Nat) : State :=
  if s.brg.serials.contains ser then s
  else match s.takeTrackFor ser with
    | (some _, t) => t
    | (none, t) => t.forgetCard ser

/-- In MIRROR the tracks of cards that are on no port take the units of a record that another card gets (R457). -/
def State.markAbsent (s : State) (r : JRec) : State :=
  if s.brgMode ≠ 1 then s
  else [0, 1].foldl (fun (u : State) t =>
    if (u.track t).inUse && !u.brg.serials.contains (u.track t).serial then u.setBits t r.inst r.addr r.cnt else u)
    (s.brg.known.foldl State.trackAbsent s)

/-- Retarget the records whose target is not in RUN; in MIRROR a card that loses one gets it in its track. -/
def State.retarget (s : State) : State :=
  s.lnd.recs.foldl (fun t r =>
    let n := t.newPorts r
    if !r.committed || n = r.ports then t
    else
      let lost := [0, 1].filter (fun p => bitAt r.ports p && !bitAt n p)
      let t := if t.brgMode = 1 then lost.foldl (fun t p => match t.takeTrack p with
          | (some k, u) => u.setBits k r.inst r.addr r.cnt
          | (none, u) => u) t
        else t
      let t := if n &&& t.runBits = 0 then t else t.markAbsent r
      t.updRec r.seq (fun x => { x with ports := n })) s

/-- The active port is `p` (R451). -/
def State.setActive (s : State) (p : Nat) : State :=
  let t := (s.setFld BRG_MODE_ACTIVE p).setFlag BRG_STAT_NO_ACTIVE false
  (((t.setFld BRG_ROT_UNITS_UNITS 0).bump BRG_CNT_SWITCHES).writeMode).fireMode

/-- Switch the active port: the other one if its card is in RUN, else none (R451). -/
def State.switchActive (s : State) : State :=
  let q := 1 - s.brgActive
  if s.portRun q then
    let t := ((s.setActive q).unblock 0).unblock 1
    ((t.retarget).carryStart q).deliverTo q
  else ((s.setFlag BRG_STAT_NO_ACTIVE true).setFld BRG_ROT_UNITS_UNITS 0).writeMode

/-- The share of writes the manager set for the active card is taken (R451). -/
def State.unitsLimit (s : State) : State :=
  let lim := s.fld BRG_ROTATE_CFG_UNITS_LIMIT * 4096
  if s.brgMode = 2 ∧ lim ≠ 0 ∧ lim ≤ s.fld BRG_ROT_UNITS_UNITS then s.switchActive else s

/-- A record of the old active card goes to the new one (R454 case 2). -/
def State.moveRecord (s : State) (seq : Nat) : State :=
  let n := if s.flag BRG_STAT_NO_ACTIVE then 0 else 2 ^ s.brgActive
  let t := s.updRec seq (fun r => { r with ports := n })
  match t.hostOf seq with
  | some c => t.updCmd c.inst c.sq c.cid (fun x => { x with targets := n, ends := [] })
  | none => t

/-- A card refuses one record (R454). -/
def State.refuse (s : State) (p seq st info : Nat) : State :=
  match s.findRec seq with
  | none => s
  | some r =>
    if st = 0x30 ∧ info = 0xFFFF then s.blockAt p seq r.inst st
    else if s.brgMode = 2 ∧ p = s.brgActive ∧ st = 0x42 then
      let t := (s.switchActive).moveRecord seq
      t.deliverTo t.brgActive
    else
      ({ s with brg := { s.brg with
          refused := s.brg.refused.filter (fun (e : Nat × Nat × Nat) => !(e.1 == p && e.2.1 == seq)) ++
            [(p, seq, st)] } }).settleRefusal seq

/-- The answer of a card to records it was sent (R223, R454). -/
def State.bridgeAnswer (s : State) (p : Nat) (d : DCmd) (st info flags : Nat) : State :=
  let s := { s with brg := { s.brg with sent := s.brg.sent.filter (fun e => !(e.1 == p && d.seqs.contains e.2)) } }
  let s := { s with brg := { s.brg with again := s.brg.again.filter (fun e => !(e.1 == p && d.seqs.contains e.2)) } }
  if st = 0x33 then
    let t := s.unqueue p
    let l := t.brg.busy.filter (fun (e : Nat × Nat) => e.1 != p) ++ [(p, d.seqs.headD 0)]
    ({ t with brg := { t.brg with busy := l } }).evalAll
  else
    let t := match s.hostOf (d.seqs.headD 0) with
      | some c => s.notePart c.inst c.sq c.cid
          { base := d.base, cnt := d.seqs.length, st := if st = 0x02 then 0 else st, info := info, port := p } flags
      | none => s
    let t := if partOk st then d.seqs.foldl (fun t q => (t.markDone p q).settleRefusal q) t
      else d.seqs.foldl (fun t q => t.refuse p q st info) t
    ((((t.evalAll).carryCheck 0).carryCheck 1).deliverTo p).unitsLimit

/-! ## Reads (R224) -/

/-- Where a unit is read from. -/
inductive Src where
  | journal (seq : Nat)
  | card (p : Nat)
  | none
  deriving DecidableEq, Repr

/-- The source of one unit: the newest bridge record, else a target card in RUN with a current copy.
Log 149 (DEDUCED). -/
def State.sourceOf (s : State) (inst addr : Nat) : Src :=
  match s.newestRec inst addr with
  | some r => .journal r.seq
  | none =>
    let ok := fun (p : Nat) => s.portRun p && !(s.sp p).drained && !s.lacks p inst addr && !s.brg.noRoute.contains p
    let ports := match s.brgMode with
      | 1 => [0, 1]
      | 2 => if s.flag BRG_STAT_NO_ACTIVE then [] else [s.brgActive]
      | _ => [s.portOf inst]
    match ports.find? ok with
    | some p => .card p
    | none => .none

/-- Serve the units `i` to `i + n − 1` of a READ: from the journal at once, from a card in runs (R224).
Log 149 (DEDUCED). -/
def State.serveRead (s : State) (c : HCmd) (i : Nat) : Nat → State
  | 0 => s
  | n + 1 =>
    let addr := c.arg / 4096 + i
    match s.sourceOf c.inst addr with
    | .journal seq =>
      let data := match s.findRec seq with
        | some r => if r.kind = 4 then s.recData r else zeroUnit
        | none => zeroUnit
      (s.updCmd c.inst c.sq c.cid (fun x => { x with deliver := x.deliver ++ [(i, data)] })).serveRead c (i + 1) n
    | .card p =>
      let last := (s.sp p).dcmds.getLast?
      let grows := match last with
        | some d => !d.sent && d.op == 0x02 && d.origin == .host c.inst c.sq c.cid && d.base + d.arg % 4096 + 1 == i
        | none => false
      match grows, last with
      | true, some d => (s.updD p d.id (fun x => { x with arg := x.arg + 1 })).serveRead c (i + 1) n
      | _, _ =>
        let t := s.pushD p { op := 0x02, inst := c.inst, arg := addr * 4096, origin := .host c.inst c.sq c.cid, base := i }
        (t.updCmd c.inst c.sq c.cid (fun x => { x with parts := x.parts + 1 })).serveRead c (i + 1) n
    | .none =>
      s.updCmd c.inst c.sq c.cid (fun x => { x with ends := x.ends ++ [{
        base := i, cnt := 1, st := 0x50, info := i, port := 2,
        reason := if s.portRun 0 || s.portRun 1 then 0x0D else 0x05 }] })

/-! ## Copying (R459) -/

/-- The port of the card a track describes. -/
def State.trackPort (s : State) (t : Nat) : Option Nat :=
  [0, 1].find? (fun p => s.portRun p && (s.track t).serial == s.serialAt p && s.serialAt p != 0)

/-- The first region set in a track and not in the other card's. -/
def State.nextRegion (s : State) (t : Nat) : Option Nat :=
  let other := s.track (1 - t)
  let l := if other.inUse then other.bits.foldl (fun l r => cutRun l r.1 r.2) (s.track t).bits else (s.track t).bits
  l.head?.map (·.1)

/-- A chunk is done, unless its region was set anew meanwhile: the next one, or the next region, or the end of the track. -/
def State.chunkDone (s : State) (t : Nat) : State :=
  let x := s.track t
  let again := match s.brg.copying with
    | some (_, _, first) => first % 2 ^ 17 / 256 != x.chunk
    | none => true
  let s := { s with brg := { s.brg with copying := none } }
  if again then s
  else if x.chunk + 1 < 512 then s.setTrack t { x with chunk := x.chunk + 1 }
  else
    match x.region with
    | some r =>
      let u := s.putRegions t r (r + 1) false
      (u.setTrack t { u.track t with copied := x.copied + 1, chunk := 0, region := none }).endTrack t
    | none => s.endTrack t

/-- Units of a chunk as runs of zero and of other units: first index and units. -/
def zeroRuns (i : Nat) : List (List Byte) → List (Nat × List (List Byte))
  | [] => []
  | u :: rest =>
    match zeroRuns (i + 1) rest with
    | (j, x :: xs) :: more => if (x == zeroUnit) == (u == zeroUnit) then (i, u :: x :: xs) :: more
        else (i, [u]) :: (j, x :: xs) :: more
    | more => (i, [u]) :: more

/-- Write a chunk that has been read to the lacking card, an all-zero unit as DISCARD. -/
def State.writeChunk (s : State) (t p inst first : Nat) (units : List (List Byte)) : State :=
  ((zeroRuns 0 units).foldl (fun u r =>
    let arg := (first + r.1) * 4096 + (r.2.length - 1)
    if r.2.headD [] = zeroUnit then u.pushD p { op := 0x05, inst := inst, arg := arg, origin := .resync t }
    else u.pushD p { op := 0x03, inst := inst, arg := arg, origin := .resync t, units := r.2 }) s).drive p

/-- What a command of the copy ended with. -/
def State.resyncAnswer (s : State) (p t : Nat) (d : DCmd) (st info : Nat) : State :=
  match s.brg.copying with
  | none => s
  | some (_, inst, first) =>
    let stop := { s with brg := { s.brg with copying := none } }
    if d.op = 0x02 then
      if partOk st then
        match s.trackPort t with
        | some q => s.writeChunk t q inst first d.got
        | none => stop
      else if st = 0x30 then
        let lo := if info = 0xFFFF then inst * 2 ^ 19 else regionOf inst first
        let u := stop.fillRegions t lo ((inst + 1) * 2 ^ 19) false
        ((u.setTrack t { u.track t with chunk := 0, region := none }).endTrack t).deliverTo (1 - p)
      else stop.deliverTo (1 - p)
    else if st = 0x30 ∧ info = 0xFFFF then stop.blockAt p 0 inst st
    else if !partOk st then stop.deliverTo p
    else if (s.sp p).dcmds.any (fun y => y.origin == .resync t) then s
    else (s.chunkDone t).deliverTo p

/-! ## A port comes and goes (R39, R40, R219, R451, R457, R458) -/

/-- How a command for a port that is DOWN ends: status and REASON (R141, R221). -/
def State.downSt (s : State) (p : Nat) : Nat × Nat :=
  if s.fld (CN_DOCK_STAT_LINKUP_RESULT p) = 0x21 then (0x21, 0x06) else (0x50, 0x05)

/-- Host commands that wait on a port, unsent, end there (R219, R221, R253). -/
def State.endWaiting (s : State) (p st reason : Nat) (hit : DCmd → Bool) : State :=
  ((s.sp p).dcmds.filter (fun d => !d.sent && hit d)).foldl (fun (t : State) d =>
    match d.origin with
    | .host i k cid =>
      ((t.dropD p d.id).notePart i k cid { base := d.base, cnt := 1, st := st, info := 0, port := p, reason := reason }
        0).closeParts i k cid
    | _ => t) s

/-- A drain completes once the port has nothing outstanding, what it has begun is done, and no bridge record awaits its
card (R219). -/
def State.drainCheck (s : State) (p : Nat) : State :=
  let x := s.sp p
  match x.drainCmd with
  | none => s
  | some (k, cid) =>
    if x.dcmds.any (fun d => d.sent || d.origin == .link || s.begun p d) || (!s.portEmpty p && !(s.awaits p).isEmpty) then s
    else
      let t := s.setSp p { x with drainCmd := none }
      match t.findCmd 0 k cid with
      | some c => t.endCmd c 0 0 0
      | none => t

/-- One command of a port whose card is gone (R40, R221, R224). -/
def State.loseCmd (s : State) (p : Nat) (d : DCmd) : State :=
  match d.origin with
  | .host i k cid =>
    match s.findCmd i k cid with
    | none => s
    | some c =>
      if d.op = 0x02 ∧ s.bridged then
        let t := s.updCmd i k cid (fun x => { x with parts := x.parts - 1 })
        (t.serveRead c (d.base + d.next) (d.arg % 4096 + 1 - d.next)).closeParts i k cid
      else
        let why := if d.sent then 0x09 else 0x05
        (s.notePart i k cid { base := d.base, cnt := 1, st := 0x50, info := 0, port := p, reason := why } 0).closeParts
          i k cid
  | .resync _ => { s with brg := { s.brg with copying := none } }
  | _ => s

/-- A reclaim's card is gone: its share is complete (R253). -/
def State.reclaimGone (s : State) (p : Nat) : State :=
  { s with host := { s.host with reclaims := s.host.reclaims.map (fun e =>
      (e.1, if bitAt e.2 p then e.2 - 2 ^ p else e.2)) } }

/-- The port has lost its card, or its session: what was outstanding there, and its bridge records.
Log 149 (DEDUCED). -/
def State.portGone (s : State) (p : Nat) : State :=
  let x := s.sp p
  let t := s.setSp p { x with dcmds := [], wantRetune := false, wantRekey := false, wantRetrain := false, starting := 0 }
  let others := fun (e : Nat × Nat) => e.1 != p
  let t : State := { t with brg := { t.brg with
    sent := t.brg.sent.filter others, busy := t.brg.busy.filter others, again := t.brg.again.filter others,
    noRoute := t.brg.noRoute.filter (· != p) } }
  let t := if t.brg.noRoute.isEmpty then t.setFlag BRG_STAT_NO_TRACK false else t
  let t := (t.reclaimGone p).evalAll
  let t := x.dcmds.foldl (fun t d => t.loseCmd p d) t
  let t := if t.brgMode = 1 ∧ t.serialAt p ≠ 0 then
      match t.takeTrack p with
      | (some k, u) => (u.awaits p).foldl (fun u r => u.setBits k r.inst r.addr r.cnt) u
      | (none, u) => u.forgetCard (t.serialAt p)
    else if t.brgMode = 2 ∧ p = t.brgActive ∧ t.linkState p = lnkRemoved ∧ t.flag BRG_ROTATE_CFG_AUTO_SWITCH then t.switchActive
    else t
  let t := { t with brg := { t.brg with serials := t.brg.serials.set p 0 } }
  let t := (t.brg.refused.map (·.2.1)).eraseDups.foldl State.settleRefusal t.retarget
  let t := { t with brg := { t.brg with carrying := t.brg.carrying.filter (fun e => e.1 != p) } }
  (((t.evalAll).drainCheck p).deliverTo (1 - p)).drive (1 - p)

/-- A port of a bridge reaches RUN: its card is matched to a track, becomes active, or is left unrouted.
Log 153 (DEDUCED). -/
def State.joinMirror (s : State) (p : Nat) : State :=
  let ser := s.serialAt p
  if (s.trackOf p).isSome ∨ s.brg.known.contains ser then s
  else if s.brg.known.isEmpty then s.knowCard ser
  else
    match s.takeTrack p with
    | (some t, u) => ((List.range 16).foldl (fun u n => u.setAll t n) u).knowCard ser
    | (none, u) => ({ u with brg := { u.brg with noRoute := p :: u.brg.noRoute.filter (· != p) } }).setFlag
        BRG_STAT_NO_TRACK true

/-- A dock port reaches RUN (R197, R221, R451, R454, R458). Log 155 (DEDUCED). -/
def State.portReady (s : State) (p : Nat) (linkup : Bool) : State :=
  let t := s.setLink p lnkRun
  let t := t.setSp p { t.sp p with starting := 0 }
  let t := if !linkup then t
    else
      let t := t.unblock p
      match t.brgMode with
      | 1 => t.joinMirror p
      | 2 => if t.flag BRG_STAT_NO_ACTIVE then t.setActive p else t
      | _ => t
  let t := if linkup then (t.retarget).carryStart p else t
  (t.deliverTo p).drive p

/-- Entering MIRROR: every card in RUN that is not the reference of an instance gets that instance's bitmap in
full (R455). -/
def State.enterMirror (s : State) (old active : Nat) (noActive : Bool) (map : Nat) : State :=
  let ref := fun (n : Nat) => if old = 2 then (if noActive then 0 else active) else (bitAt map n).toNat
  [0, 1].foldl (fun t p =>
    if !t.portRun p then t
    else
      let ns := (List.range 16).filter (fun n => ref n != p)
      if ns.isEmpty then t.knowCard (t.serialAt p)
      else match t.takeTrack p with
        | (some k, u) => (ns.foldl (fun u n => u.setAll k n) u).knowCard (t.serialAt p)
        | (none, u) => ({ u with brg := { u.brg with noRoute := p :: u.brg.noRoute.filter (· != p) } }).setFlag
            BRG_STAT_NO_TRACK true) s

/-- A port is drained no more: a drain that still waits completes with OK (R219). -/
def State.clearDrain (s : State) (p : Nat) : State :=
  let x := s.sp p
  let t := s.setSp p { x with drained := false, drainCmd := none }
  match x.drainCmd with
  | some (k, cid) => (match t.findCmd 0 k cid with
    | some c => t.endCmd c 0 0 0
    | none => t)
  | none => t

/-- Apply a mode (R218, R455). -/
def State.applyMode (s : State) (mode active map : Nat) : State :=
  let old := s.brgMode
  let was := (s.brgActive, s.flag BRG_STAT_NO_ACTIVE, s.fld BRG_MODE_PORT_MAP)
  let t := ((s.setFld BRG_MODE_MODE mode).setFld BRG_MODE_ACTIVE active).setFld BRG_MODE_PORT_MAP map
  let t := t.setFlag BRG_STAT_NO_ACTIVE false
  let t := if mode ≠ 1 then { t with brg := { t.brg with known := [] } } else t
  let t := if mode = 1 ∧ old ≠ 1 then t.enterMirror old was.1 was.2.1 was.2.2 else t
  let t := (t.clearDrain 0).clearDrain 1
  let t := t.setFld BRG_ROT_UNITS_UNITS 0
  ((((t.writeMode).fireMode).retarget).deliverTo 0).deliverTo 1

end Sys2Proof.Machine
end

