-- ==== Sys2Proof/Machine/DockPair.lean ====
section
/-! DEFINITION. What a dock sends over Counlet (chapter 06): requests of its own and of the mailbox, one at a time
(R122, R142), how it begins to pair or to enrol, and how a channel and a link-up end (R129, R132, R140–R143). -/

namespace Sys2Proof.Machine

open Sys2Proof.Crypto

/-- A Counlet frame with its CRC (R122). -/
def cnFrame (op seq : Nat) (payload : List Byte) : List Byte :=
  let body := [BitVec.ofNat 8 op, BitVec.ofNat 8 seq, BitVec.ofNat 8 payload.length] ++ payload
  body ++ bytesBE 2 (crc16 body)

/-- The OP of the response to a request (R122). -/
def respOp (op : Nat) : Nat := op % 128 + 128

/-- The link of a port takes another state; a bridged write that waited for a port in RUN is judged anew (R223). -/
def State.toLink (s : State) (p l : Nat) : State :=
  let t := s.setLink p l
  if s.portRun p && l != lnkRun then t.evalAll else t

/-! ## The channel -/

/-- The Counlet engine of a dock port runs. -/
def State.cnRuns (s : State) (p : Nat) : Bool :=
  s.isDock && p < 2 && s.up && !s.safe && !s.pageFenced (pCN p) && s.flag (PG_CTRL_ENABLE (pCN p)) &&
  !s.flag (PG_STAT_RST_BUSY (pCN p))

/-- The Counlet channel of a port is OPEN or PAIRED. -/
def State.cnOpen (s : State) (p : Nat) : Bool := s.fld (CN_STAT_STATE p) == 3 || s.fld (CN_STAT_STATE p) == 4

/-- A request of the dock's own link-up or enrolment is outstanding, or the link-up has not come so far. -/
def State.cnOwn (s : State) (p : Nat) : Bool := (s.cn p).phase != .idle && (s.cn p).phase != .done

/-- A new request may go out: the one before it has its response (R122, R142). -/
def State.cnFree (s : State) (p : Nat) : Bool :=
  s.cnOpen p && !s.cnOwn p && s.cnRuns p && !s.quiesceAsked (pCN p) &&
  (match (s.cn p).mbx with
    | some (_, seq, _) => seq == 256
    | none => true)

/-- The card in the port is a B0 card, by its Card Parameter String (R4, R17, R141). Log 159 (DESIGN CHOICE). -/
def State.peerCard (s : State) (p : Nat) : Bool :=
  s.flag (CN_DOCK_STAT_CPS_VALID p) && (s.reg (rCN_CPS p 0).off).toNat / 2 ^ 16 % 256 == 0xB1

/-- Send a new request of the dock's own: it takes the next SEQ. -/
def State.cnRequest (s : State) (p op : Nat) (payload : List Byte) : State :=
  let x := s.cn p
  let seq := (x.seq + 1) % 256
  let t := s.setCn p { x with seq := seq, resends := 0, rested := false, last := some (op, seq, []) }
  (t.setFld (CN_STAT_LAST_SEQ p) seq).emit (.counlet p (cnFrame op seq payload))

/-- A response has arrived whole: with CCLK_STOP the clock rests until the next request (R145). -/
def State.cnRest (s : State) (p : Nat) : State := s.setCn p { s.cn p with rested := true }

/-! ## What arrives (R114, R124, R146) -/

/-- A frame error of a port: OP, and the index of the failing character (R145). Log 116 (DEDUCED). -/
def State.frameError (s : State) (p op index : Nat) : State :=
  (s.bump (CN_ERR_CNT_FRAME p)).fireD (EV_CN_FRAME_ERROR p) (op % 256 + 256 * (index % 256)) 0

/-- This end finds parity errors and signals each: the other end repeats the character (R114). Log 117 (DEDUCED). -/
def State.charSignalled (s : State) (p n : Nat) : State :=
  if n = 0 then s else (s.bumpBy (CN_ERR_CNT_REPEATS p) n).fire (EV_CN_CHAR_REPEAT p)

/-- Characters arrive: an injection makes one fail its parity, or every one, so that the sender gives up (R146). -/
def State.cnChars (s : State) (p : Nat) : Bool × State :=
  if s.injects (pCN p) 0 then
    let stays := s.flag (INJ_CTRL_CONTINUOUS (pCN p))
    (!stays, (s.charSignalled p (if stays then 1 + s.fld (CN_CFG_REPEAT_MAX p) else 1)).injUsed (pCN p) 0)
  else (true, s)

/-- A frame arrives whole, unless an injection keeps its characters away or inverts the low byte of its CRC (R146). -/
def State.cnReceive (s : State) (p op : Nat) : Bool × State :=
  let r := s.cnChars p
  let inv := r.2.injBits (pCN p) 1 % 256
  if !r.1 then r
  else if inv = 0 then (true, r.2.injUsed (pCN p) 1)
  else (false, (r.2.injUsed (pCN p) 1).frameError p op 0)

/-! ## Pairing, enrolment and the mailbox begin -/

/-- Begin to pair in prove mode with P_0 (R129, R140). -/
def State.beginPair (s : State) (p : Nat) : State :=
  let n := s.pairNonce
  let t := s.drawNonce
  let t := t.setCn p { t.cn p with phase := .begin, nonceH := n, wantPair := false }
  (t.toLink p lnkLinkup).cnRequest p 0x20 ([0, 0, 0xB0] ++ n)

/-- Begin to enrol P_0 into a slot of the card (R132). -/
def State.beginEnrol (s : State) (p slot : Nat) : State :=
  let n := s.pairNonce
  let t := s.drawNonce
  (t.setCn p { t.cn p with phase := .enrolBegin, nonceH := n }).cnRequest p 0x20
    ([1, BitVec.ofNat 8 slot, 0xB0] ++ n)

/-- Send the mailbox request that waits: it carries SEQ 256 until then (R142). -/
def State.sendMailbox (s : State) (p : Nat) : State :=
  match (s.cn p).mbx with
  | some (op, 256, payload) =>
    let t := s.cnRequest p op payload
    (t.setCn p { t.cn p with mbx := some (op, (t.cn p).seq, payload), resends := 0 }).setFld (CN_MBX_STAT_SEQ p)
      (t.cn p).seq
  | _ => s

/-- The link-up of a port ends without a session: what was held for it ends (R141, R221). Log 109 (DEDUCED). -/
def State.linkupEnd (s : State) (p st : Nat) : State :=
  let t := s.setCn p { s.cn p with phase := .done, wantPair := false }
  let t := (t.setFld (CN_DOCK_STAT_LINKUP_RESULT p) st).toLink p lnkDown
  let e := t.downSt p
  t.endWaiting p e.1 e.2 (fun _ => true)

/-- The dock's own enrolment ends with a status (R145). -/
def State.enrolEnd (s : State) (p st : Nat) : State :=
  let t := s.setCn p { s.cn p with phase := .done, enrol := none }
  (t.setFld (CN_DOCK_STAT_ENROL_RESULT p) st).setFlag (CN_DOCK_CTRL_ENROL_REQ p) false

/-- The channel is free for the next request: a pairing the dock owes, else an enrolment asked for, else the mailbox.
With no P_0 there is nothing to pair or to enrol with. Log 108 (DEDUCED), 110 (DEDUCED). -/
def State.cnGo (s : State) (p : Nat) : State :=
  if !s.cnFree p then s
  else
    let none0 := s.keys.p0 == []
    let s := if (s.cn p).wantPair && none0 then s.linkupEnd p 0x21 else s
    let s := if (s.cn p).enrol.isSome && (none0 || !s.peerCard p) then s.enrolEnd p 0x21 else s
    if (s.cn p).wantPair then s.beginPair p
    else
      match (s.cn p).enrol with
      | some slot => s.beginEnrol p slot
      | none => s.sendMailbox p

/-- The dock is to pair with the card again, once its channel is free; it never pairs with another peer than a B0 card
(R4, R17, R141). -/
def State.askPair (s : State) (p : Nat) : State :=
  if (s.cn p).phase == .done && s.peerCard p then (s.setCn p { s.cn p with wantPair := true }).cnGo p else s

/-- The link-up of a port ends without a session. -/
def State.linkupFails (s : State) (p st : Nat) : State := (s.linkupEnd p st).cnGo p

/-- An enrolment ends with a status. -/
def State.enrolEnds (s : State) (p st : Nat) : State := (s.enrolEnd p st).cnGo p

/-! ## The channel ends -/

/-- The mailbox request under way ends with a RESULT (R142, R143). -/
def State.endMailbox (s : State) (p result : Nat) : State :=
  if (s.cn p).mbx.isNone then s
  else
    let t := s.setCn p { s.cn p with mbx := none, resends := 0 }
    (((t.setFlag (CN_MBX_STAT_BUSY p) false).setFlag (CN_MBX_STAT_DONE p) true).setFld (CN_MBX_STAT_RESULT p)
      result).setFlag (CN_MBX_CTRL_GO p) false

/-- The dock drives CRST_N low and stops CCLK: the channel is in RESET (R143). -/
def State.cnLow (s : State) (p : Nat) : State :=
  let x := s.cn p
  let u := if x.crstHigh then (s.emit (.crst p false)).fire (EV_CN_CRST p) else s
  let u := u.setCn p { x with
    crstHigh := false, phase := .idle, resends := 0, last := none, wantPair := false, rested := false }
  let u := (u.setReg (rCN_STAT p).off 0x1100).setReg (rCN_ETU p).off 372
  (u.setReg (rCN_CCLK_KHZ p).off 0).setFlag (CN_DOCK_CTRL_RESTART p) false

/-- The channel is reset, and the mailbox request and the enrolment in progress end (R143). Log 110 (DEDUCED). -/
def State.cnReset (s : State) (p result : Nat) : State :=
  let t := (s.endMailbox p result).cnLow p
  (t.setCn p { t.cn p with enrol := none }).setFlag (CN_DOCK_CTRL_ENROL_REQ p) false

/-- The link-up of R140 starts from its insertion delay. -/
def State.startLinkup (s : State) (p : Nat) : State :=
  let t := s.setCn p { s.cn p with phase := .insDelay, tries := 0 }
  (t.setFld (CN_DOCK_STAT_ATR_TRIES p) 0).toLink p lnkLinkup

end Sys2Proof.Machine
end

