-- ==== Sys2Proof/Machine/DockLink.lean ====
section
/-! DEFINITION. The dock's end of the link (chapters 07 and 08): link resets and
removals, tuning, answers, units and status frames, and what recovers a lost one. -/

namespace Sys2Proof.Machine

open Sys2Proof.Crypto

/-! ## Link resets and removals (R71, R171, R172, R192) -/

/-- The session of a dock port ends and its commands with it; `l` is the link state left.  Trims and mode stay until
a link reset or the next pairing (R167). -/
def State.dropPort (s : State) (p l : Nat) : State :=
  (((s.closeSession p).setFlag ⟨rPWR_STAT.off, 12 + p, 1⟩ false).setLink p l).portGone p

/-- Count a link reset of a port (R85). Log 118 (DEDUCED). -/
def State.countLinkReset (s : State) (p : Nat) : State :=
  if p = 0 then (s.bump RST_LINK_RST_PORT_A).fire EV_RST_LINK_A else (s.bump RST_LINK_RST_PORT_B).fire EV_RST_LINK_B

/-- A dock performs a link reset: SCMD is held low, the session ends, the Counlet channel is reset, and the
card that is still there is linked up again (R71, R143, R192). Log 119 (DEDUCED). -/
def State.resetLink (s : State) (p : Nat) : State :=
  let t := (((s.emit (.linkResetPulse p)).slowDown p).dropPort p lnkDown).countLinkReset p
  let t := t.cnReset p 6
  if t.flag (SP_STAT_CARD_PRESENT p) then t.startLinkup p else t

/-- A card is declared REMOVED: the port's lines are released (R170, R171). Log 112 (DEDUCED). -/
def State.removePort (s : State) (p : Nat) : State :=
  let t := s.fire (EV_SP_CARD_REMOVED p)
  let t := (t.stopClock p).setFlag (SP_STAT_CLK_STOPPED p) true
  let t := (t.dropPort p lnkRemoved).cnReset p 5
  let t := t.setCn p { t.cn p with atrDone := false }
  t.setFlag (CN_DOCK_STAT_CPS_VALID p) false

/-- REMOVED while CD_N is still low: after three within 10 s the port stops, else it waits 100 ms (R172). -/
def State.removeLow (s : State) (p : Nat) : State :=
  let t := s.removePort p
  let x := t.cn p
  let recent := (x.removals.filter (fun u => s.since u ≤ 10000000)) ++ [s.uptime]
  if 3 ≤ recent.length then
    (t.setCn p { x with removals := recent, phase := .idle }).setFld (CN_STAT_STATE p) 5
  else t.setCn p { x with removals := recent, phase := .retryHold }

/-- Retries were exhausted: the port is to be retrained; at SPD_0 the link is reset, and a second time within
1 s the card is REMOVED (R192). -/
def State.exhausted (s : State) (p : Nat) : State :=
  if s.fld (SP_STAT_MODE p) ≠ 0 then s.setSp p { s.sp p with wantRetrain := true }
  else
    match (s.sp p).exhaustedAt with
    | some u =>
      if s.since u ≤ 1000000 then
        (s.setSp p { s.sp p with exhaustedAt := none }).removeLow p
      else (s.setSp p { s.sp p with exhaustedAt := some s.uptime }).resetLink p
    | none => (s.setSp p { s.sp p with exhaustedAt := some s.uptime }).resetLink p

/-- A dock's session ends by its own act, its authentication limit or an answer without a session: the port
pairs again over Counlet (R184, R198, R200). Log 119 (DEDUCED). -/
def State.endDockSession (s : State) (p : Nat) : State :=
  (s.dropPort p lnkDown).askPair p

/-! ## Tuning (R158, R161, R163) -/

/-- The least width of a window at a mode. -/
def minWindow (mode : Nat) : Nat := if mode = 1 then 48 else if mode = 2 then 32 else 20

/-- The widest run of taps that passed, the lower of two equal ones: first tap and width. -/
def bestWindow (pass : Nat) : Nat × Nat :=
  let run := fun (i : Nat) => ((List.range (64 - i)).takeWhile (fun j => bitAt pass (i + j))).length
  (List.range 64).foldl (fun a i =>
    if (i = 0 ∨ !bitAt pass (i - 1)) ∧ a.2 < run i then (i, run i) else a) (0, 0)

/-- The tap in the middle of the window, when it is wide enough. -/
def pickCentre (pass mode : Nat) : Option Nat :=
  let w := bestWindow pass
  if w.2 < minWindow mode ∨ w.2 = 0 then none else some (w.1 + (w.2 - 1) / 2)

/-- The taps of all eight lines. -/
def pickAll (passes : Nat → Nat) (mode : Nat) : Option (List Nat) :=
  let l := (List.range 8).map (fun n => pickCentre (passes n) mode)
  if l.all (·.isSome) then some (l.filterMap id) else none

/-- Eight taps as the ARG of TUNE_WR. -/
def tapsArg (taps : List Nat) : Nat := ((List.range 8).map (fun i => taps.getD i 0 % 64 * 2 ^ (6 * i))).foldl (· + ·) 0

/-- Send a command of a tune, whose answer comes within the same procedure. -/
def State.tuneCmd (s : State) (p op arg : Nat) : State :=
  let x := s.sp p
  let fc := x.cmdFc + 1
  let e := s.fld (LSE_STAT_EPOCH p)
  let key := (s.keyAt p e).getD []
  let mac := cmdMac key op { inst := 0, tag := fc % 256, arg := arg, epoch := e, mac := 0 } fc
  let t := (s.startClock p).setSp p { x with cmdFc := fc, rspFc := x.rspFc + 1 }
  let t := t.emit (.cmd p op 0 (fc % 256) arg e mac)
  if op = 0x11 then t.emit (.tuneFrame p tuneFrames) else t

/-- SPEED_SET and its switch, with SCLK stopped for it (R163). Log 161 (DESIGN CHOICE). -/
def State.setSpeed (s : State) (p mode : Nat) : State :=
  (((s.tuneCmd p 0x12 mode).stopClock p).switchMode p mode).startClock p

/-- Sweep all 64 taps with TUNE_RD, or with TUNE_WR. -/
def State.sweepRd (s : State) (p : Nat) : State := (List.range 64).foldl (fun t _ => t.tuneCmd p 0x10 0) s
def State.sweepWr (s : State) (p : Nat) : State :=
  (List.range 64).foldl (fun t tap => t.tuneCmd p 0x11 (tapsArg (List.replicate 8 tap))) s

/-- What tune_port does at one mode: whether it passed, and the state. -/
def State.tuneAt (s : State) (p mode : Nat) (sweep : Sweep) : Bool × State :=
  let t := if mode = s.fld (SP_STAT_MODE p) then s else s.setSpeed p mode
  let t := t.sweepRd p
  match pickAll sweep.rdPass mode with
  | none => (false, t)
  | some rd =>
    let t := (t.setTaps p rd).sweepWr p
    match pickAll sweep.wrPass mode with
    | none => (false, t)
    | some wr =>
      let t := t.tuneCmd p 0x11 (tapsArg wr)
      if sweep.finalInfo % 256 = 0xFF then (true, t) else (false, t)

/-- The end of a tune (R161, R169, R192, R197). -/
def State.tuneEnd (s : State) (p : Nat) : State :=
  let link := s.linkState p
  let t := (s.fire (EV_SP_TUNE_DONE p))
  let t := t.setSp p { t.sp p with wantRetune := false, wantRetrain := false, newMode := 0 }
  let t := if link = lnkRetrain then (t.bump (SP_RETRAIN_CNT_RETRAINS p)).fire (EV_SP_RETRAIN_DONE p) else t
  t.portReady p (link == lnkTuning)

/-- Run tune_port at a mode: it passes, or the next lower mode is tried next, or the link stays at SPD_0.
Log 127 (DESIGN CHOICE). -/
def State.runTune (s : State) (p mode : Nat) (sweep : Sweep) : State :=
  if mode = 0 then (if s.fld (SP_STAT_MODE p) = 0 then s else s.setSpeed p 0).tuneEnd p
  else
    let r := s.tuneAt p mode sweep
    if r.1 then (r.2.tunePassed p).tuneEnd p
    else if mode = 1 then (r.2.setSpeed p 0).tuneEnd p
    else
      let t := r.2.setSp p { r.2.sp p with newMode := mode - 1 }
      if t.linkState p = lnkRun then t.toLink p lnkRetrain else t

/-! ## Answers (R187, R194, R195, R197) -/

/-- The state of FC Q + i in a PING's INFO. -/
def pingState (info i : Nat) : Nat := info / 4 ^ i % 4

/-- What a PING tells: every FC the dock sent that the card has not accepted, or has completed without its
response arriving, is sent again (R194). -/
def State.pingMap (s : State) (p q info : Nat) : State :=
  (s.dockSent p).foldl (fun t d =>
    let i := (d.fc + 2 ^ 32 - q % 2 ^ 32) % 2 ^ 32
    if 8 ≤ i then t
    else if pingState info i = 0 || pingState info i = 2 then t.sendAgain p d
    else t) s

/-- The answer to a command of the link layer itself. -/
def State.linkAnswer (s : State) (p : Nat) (d : DCmd) (st info : Nat) : State :=
  let x := s.sp p
  match d.op with
  | 0x00 => if x.starting = 1 then (s.setSp p { x with starting := 2 }).linkCmd p 0x01 0
      else if st = 0 then s.pingMap p d.arg info else s
  | 0x01 =>
    let id := d.got.headD []
    let t := if partOk st then
        { s with brg := { s.brg with serials := s.brg.serials.set p (natBE ((id.drop 4).take 8)) } }.setSp p
          { x with insts := natBE ((id.drop 17).take 2) }
      else s
    if x.starting ≠ 2 then t
    else
      let mode := t.fld (SP_TUNE_CFG_TARGET_MODE p)
      if mode = 0 then t.portReady p true
      else (t.setSp p { t.sp p with starting := 3, newMode := mode }).setLink p lnkTuning
  | 0x13 => if st = 0 ∨ st = 2 then s.openRekey p (d.arg % 4) x.rekeyNonce info else s
  | 0x14 =>
    let n := (d.units.headD []).getD 1 0
    { s with host := { s.host with reclaims := s.host.reclaims.map (fun e =>
        if e.1 = n.toNat then (e.1, if bitAt e.2 p then e.2 - 2 ^ p else e.2) else e) } }
  | _ => s

/-- An INST_CFG CREATE that a card answered OK lets delivery to it go on (R453). -/
def State.noteCreate (s : State) (p : Nat) (d : DCmd) (st : Nat) : State :=
  let u := d.units.headD []
  if d.op = 0x14 ∧ partOk st ∧ u.getD 0 0 = 1 ∧ (u.getD 1 0).toNat = s.fld BRG_STAT_BLOCKED_INST ∧
      s.fld BRG_STAT_BLOCK_ST = 0x30 then (s.unblock p).deliverTo p
  else s

/-- A command ends with the card's answer. -/
def State.endD (s : State) (p : Nat) (d : DCmd) (st info flags : Nat) : State :=
  let s := s.dropD p d.id
  let s := if d.op = 0x17 ∧ partOk st then s.setFlag ⟨rPWR_STAT.off, 12 + p, 1⟩ true else s
  let t := match d.origin with
    | .link => s.linkAnswer p d st info
    | .host i k cid =>
      let posted := if st = 0x02 ∧ d.resent then 0 else st
      let e : PartEnd := { base := d.base, cnt := d.arg % 4096 + 1, st := posted, info := info, port := p }
      ((s.notePart i k cid e flags).closeParts i k cid).noteCreate p d st
    | .bridge _ => s.bridgeAnswer p d st info flags
    | .resync t => s.resyncAnswer p t d st info
    | .lost => s
  ((t.drainCheck p).drive p).pump

/-- The units before `k` of a command that the link ended have had their effect (R193). -/
def State.endUnits (s : State) (p : Nat) (d : DCmd) (k : Nat) : State :=
  match d.origin with
  | .bridge _ =>
    if k = 0 then s
    else
      let t := d.seqs.take k |>.foldl (fun t q => (t.markDone p q).settleRefusal q) s
      let t := { t with brg := { t.brg with sent := t.brg.sent.filter (fun e => !(e.1 == p && (d.seqs.take k).contains e.2)) } }
      match t.hostOf (d.seqs.headD 0) with
      | some c => t.updCmd c.inst c.sq c.cid (fun x => { x with
          ends := x.ends ++ [{ base := d.base, cnt := k, st := 0, info := 0, port := p }] })
      | none => t
  | _ => s

/-- The unfinished units of a command that ended in LINK_RETRY_EXHAUSTED, or in AUTH_FAIL on a unit tag, go out
as a new command, ahead of what waits; a second AUTH_FAIL resets the link (R192, R193). -/
def State.reissue (s : State) (p : Nat) (d : DCmd) (st k : Nat) : State :=
  let t := (s.endUnits p d k).dropD p d.id
  let t := t.pushAhead p { d.remain k with authed := d.authed || st == 0x11 }
  if st = 0x10 then t.exhausted p
  else if d.authed then t.resetLink p
  else t.drive p

/-- FLAGS that ask for something: the first RETUNE_ADV (R168, R169). -/
def State.noteFlags (s : State) (p flags : Nat) : State :=
  let x := s.sp p
  let adv := bitAt flags 1
  if adv && !x.retuneAdv then
    (s.setSp p { x with retuneAdv := true, wantRetune := s.flag (SP_TUNE_CFG_AUTO_RETUNE p) }).fire
      (EV_SP_RETUNE_ADV p)
  else if !adv && x.retuneAdv then s.setSp p { x with retuneAdv := false }
  else s

/-- The first command of the session, or of a new epoch, has been answered (R195, R197). -/
def State.noteEpoch (s : State) (p : Nat) (d : DCmd) : State :=
  let t := if (s.sp p).sessionSeen then s
    else (s.setSp p { s.sp p with sessionSeen := true }).fire (EV_LSE_SESSION_UP p)
  if t.nextEpoch p d.epoch then t.closeRekey p else t

/-- An answer without a session: the port has none (R198). Log 129 (DEDUCED). -/
def State.noSession (s : State) (p : Nat) (d : DCmd) (st flags : Nat) : State :=
  let t := match d.origin with
    | .host i k cid =>
      let e : PartEnd := { base := d.base, cnt := 1, st := st, info := 0, port := p }
      ((s.dropD p d.id).notePart i k cid e flags).closeParts i k cid
    | _ => s
  (t.endDockSession p).pump

/-- A response arrives (R187, R198). -/
def State.dockResponse (s : State) (p : Nat) (r : RespIn) : State :=
  match s.findSent p r.tag with
  | none => s
  | some d =>
    let fc := rspNear (s.sp p).rspFc r.rseq
    let key := (s.keyAt p d.epoch).getD []
    let good := r.rmac == respMac key d.epoch d.inst d.tag fc r.kind r.st r.info r.flags
      (if r.kind = 3 then r.token else 0) ^^^ s.injBits (pLSE p) 0
    let s := s.injUsed (pLSE p) 0
    if s.session p && good then
      let t := s.setSp p { s.sp p with rspFc := fc }
      let t := (t.noteEpoch p d).noteFlags p r.flags
      if r.st = 0x10 ∨ (r.st = 0x11 ∧ r.info ≠ 0xFFFF) then (t.reissue p d r.st (min r.info (d.arg % 4096 + 1))).pump
      else t.endD p d r.st r.info r.flags
    else if r.rseq = 0 ∧ r.rmac = 0 ∧ r.kind = 2 ∧ (r.st = 0x60 ∨ r.st = 0x22 ∨ r.st = 0x21) then
      s.noSession p d r.st r.flags
    else
      let t := s.noteAuth p d.op d.inst d.tag d.epoch fc
      if t.authSpent p then (t.endDockSession p).pump else t

/-! ## Units and status frames (R180, R190, R191) -/

/-- The host's unit in turn was not taken: it is sent again, or the dock gives up (R190, R191). -/
def State.unitAgain (s : State) (p : Nat) (heard : Bool) : State :=
  match s.h2cNow p with
  | none => s
  | some d =>
    let d' := { d with fails := d.fails + 1, heard := d.heard || heard }
    let t := s.updD p d.id (fun _ => d')
    if t.unitTries p ≤ d'.fails ∧ !d'.heard then ((t.noteExhausted p d.tag d.next).resetLink p).pump
    else (t.noteResent p).sendHostUnit p d'

/-- A status token for the host's unit in turn. -/
def State.dockToken (s : State) (p : Nat) (valid : Bool) (token : Nat) : State :=
  match s.h2cNow p with
  | none => s
  | some d =>
    if valid && token == 0xFF then
      let d' := { d with next := d.next + 1, fails := 0, heard := false }
      let t := s.updD p d.id (fun _ => d')
      if d'.next < d.h2c then (if t.unitsSpent p d.epoch then t else t.sendHostUnit p d') else t
    else s.unitAgain p valid

/-- Where a unit of a READ goes: to the host's buffer, to the copy, or to the link layer.  A unit at or after one that
has failed its command is not delivered (R214). -/
def State.takeUnit (s : State) (p : Nat) (d : DCmd) (index : Nat) (plain : List Byte) : State :=
  let t := s.updD p d.id (fun x => { x with got := x.got ++ [plain], next := index + 1, fails := 0 })
  match d.origin with
  | .host i k cid => t.updCmd i k cid (fun c =>
      if c.fail.any (fun f => f.1 ≤ d.base + index) then c
      else { c with deliver := c.deliver ++ [(d.base + index, plain)] })
  | _ => t

/-- A unit of no outstanding command, or out of its order: where its lines pass, its tag fails (R177), which is a failed
authentication and a token of zeros (R190, R200). Log 120 (DEDUCED). -/
def State.strayUnit (s : State) (p mask op inst tag epoch fc : Nat) : State :=
  if mask ≠ 0xFF then (s.noteLines p mask tag).emit (.status p true mask)
  else
    let t := s.noteAuth p op inst tag epoch fc
    if t.authSpent p then (t.endDockSession p).pump else t.emit (.status p true 0)

/-- The unit in turn was not taken: the dock answers with a token, or abandons it (R190, R191). -/
def State.refuseUnit (s : State) (p index token : Nat) (d : DCmd) : State :=
  let t := s.updD p d.id (fun x => { x with fails := x.fails + 1 })
  if t.unitTries p ≤ d.fails + 1 then (t.noteExhausted p d.tag index).emit (.status p false 0)
  else t.emit (.status p true token)

/-- A unit sent by the card arrives: its lines are checked (R152), then its tag (R180, R186, R190, R191). -/
def State.dockUnit (s : State) (p tag index : Nat) (u : UnitIn) : State :=
  let mask := u.mask (s.injBits (pSP p) 1)
  let s := s.injUsed (pSP p) 1
  match s.findSent p tag with
  | none => s.strayUnit p mask 0 0 tag (s.fld (LSE_STAT_EPOCH p)) 0
  | some d =>
    if index < d.next then s.emit (.status p true 0xFF)
    else if index ≠ d.next ∨ d.c2h ≤ index then s.strayUnit p mask d.op d.inst d.tag d.epoch d.fc
    else if mask ≠ 0xFF then (s.noteLines p mask d.tag).refuseUnit p index mask d
    else
      let key := (s.keyAt p d.epoch).getD []
      let iv := linkIv d.epoch 0 0 d.inst d.tag index d.fc
      let good := s.tagOf p u == gcmTag key iv [] u.ct
      let s := s.injUsed (pLSE p) 1
      if good then
        (((s.takeUnit p d index (gcmCrypt key iv u.ct)).countUnit p d.epoch).emit (.status p true 0xFF)).pump
      else
        let t := s.noteAuth p d.op d.inst d.tag d.epoch d.fc
        if t.authSpent p then (t.endDockSession p).pump else t.refuseUnit p index 0 d

end Sys2Proof.Machine
end

