-- ==== Sys2Proof/Machine/Resets.lean ====
section
/-! DEFINITION. What the resets clear and keep (chapter 04): the reset of a page's registers, of a block, of an
island, of the PCIe side, of a card's Counlet engine and link layer, and of the chip (R70, R71, R76, R255, R277,
R370), and what a loss of the volatile state leaves of the stores (R23). -/

namespace Sys2Proof.Machine

/-! ## Registers -/

/-- The registers of a page whose reset value is what a stored record, the format or the log says, and those that hold
what another rule ends: the locks in force (R387) and the failed attempts (R131). Log 41 (DEDUCED). -/
def pageKept (r : Role) (p : Nat) : List Nat :=
  if p = pMAP ∨ p = pPAR ∨ p = pSEG then [0x44]
  else if p = pKEY then [0x50]
  else if p = pLCK then [0x44]
  else if p = pBRG then [0x40]
  else if p = pMPC then [0x5C]
  else if p = pCN 0 ∨ p = pCN 1 then [0x54]
  else if 0x40 ≤ p ∧ p ≤ 0x4F ∧ r = .card then [0x100, 0x104, 0x108, 0x10C]
  else []

/-- The registers of a page take their reset values (R70, R76). Log 41 (DEDUCED). -/
def State.clearPage (s : State) (p : Nat) : State :=
  let gone := fun (o : Nat) => o / 4096 == p && !(pageKept s.role p).contains (o % 4096)
  { s with
    regs := Sparse.clear s.regs gone, hiLatch := Sparse.clear s.hiLatch gone,
    injArmed := s.injArmed.filter (· != p) }

/-- What a port's page shows of the card and the link, which a reset of its registers leaves. -/
def State.keepPort (s t : State) (p : Nat) : State :=
  ((t.setFld (SP_STAT_LINK_STATE p) (s.linkState p)).setFld (SP_STAT_CARD_PRESENT p)
    (s.fld (SP_STAT_CARD_PRESENT p))).setFld (SP_STAT_CLK_STOPPED p) (s.fld (SP_STAT_CLK_STOPPED p))

/-- The state of an instance on the dock after a reset of its page (R255). -/
def State.settleInst (s : State) (n : Nat) : State :=
  if s.isCard then s
  else s.setFld (INS_STATE_STATE n)
    (if s.fenced (.inst n) || s.flag (PG_CTRL_FENCE_REQ (pINS n)) then 4
     else if s.flag (PG_CTRL_QUIESCE_REQ (pINS n)) then 2 else 0)

/-- After a reset of their registers, the blocks show again what stands outside them: a retirement or a lack of spare
blocks goes on, as does the background erase, and the root record of the tree is in force. Log 41 (DEDUCED). -/
def State.showAgain (s t : State) (p : Nat) : State :=
  if p = pMED then
    (((t.setFlag MED_STAT_RETIRING t.media.retiring.isSome).setFlag MED_STAT_WRITE_FENCED
      (s.flag MED_STAT_WRITE_FENCED && (t.spare 0 < 20 || t.spare 1 < 20))).setFld MED_RETIRED_BLOCKS
      (min (2 ^ 24 - 1) t.media.retiredBlocks.length)).setFld MED_RETIRED_DIES t.media.retiredDies.length
  else if p = pLCK then t.setFld LCK_ERASE_STAT_STATE (if t.media.erasing then 3 else 0)
  else if p = pTRE then
    [rTRE_STAT, rTRE_ROOT_GEN, rTRE_CKPT_DSN_LO, rTRE_CKPT_DSN_HI].foldl (fun (u : State) f => u.setReg f.off (s.reg f.off)) t
  else t

/-- A page's registers take their reset values; `hold` keeps QUIESCE_REQ (R76). Log 41 (DEDUCED). -/
def State.pageReset (s : State) (p : Nat) (hold : Bool) : State :=
  let q := hold && s.flag (PG_CTRL_QUIESCE_REQ p)
  let t := s.clearPage p
  let t := (t.setFlag (PG_CTRL_QUIESCE_REQ p) q).setFlag (PG_STAT_QUIESCED p) q
  if p = pSP 0 then s.keepPort t 0
  else if p = pSP 1 then s.keepPort t 1
  else if p = pMPC then t.setFld MPC_MP_STAT_TAKEOVERS (s.fld MPC_MP_STAT_TAKEOVERS)
  else if 0x40 ≤ p ∧ p ≤ 0x4F then t.settleInst (p - 0x40)
  else s.showAgain t p

/-! ## Links and Counlet (R71, R127, R135, R143) -/

/-- The management credential ends (R127). Log 113 (DESIGN CHOICE). -/
def State.dropCred (s : State) : State :=
  if s.flag (CN_STAT_CRED 0) then (s.setFlag (CN_STAT_CRED 0) false).setFld (CN_STAT_STATE 0) 3 else s

/-- The requests that wait are served without an answer (R128). -/
def State.loseHeld (s : State) : State :=
  { s with keys := { s.keys with heldReq := s.keys.heldReq.map (fun h => { h with lost := true }) } }

/-- The card's Counlet engine is reset: the request remembered, a pairing begun, the credential and an erase
armed over it are gone. -/
def State.cardCnReset (s : State) : State :=
  let t := if s.cnA.token.isSome then s.disarm else s
  (({ t.loseHeld with cnA := {} } : State).setReg (rCN_STAT 0).off 0x1100).setReg (rCN_ETU 0).off 372

/-- The card's link layer is reset (R71): SPD_0 without trims, no session, empty windows. -/
def State.cardLinkReset (s : State) : State := (s.closeSession 0).slowDown 0

/-- The link layer of a port is cleared, and a dock links its card up again. Log 45 (DEDUCED). -/
def State.clearLink (s : State) (p : Nat) : State :=
  if s.isCard then s.cardLinkReset
  else
    let t := (((s.stopClock p).slowDown p).dropPort p lnkDown).cnReset p 6
    if t.flag (SP_STAT_CARD_PRESENT p) && t.flag (CN_CFG_AUTO_LINKUP p) then t.startLinkup p else t

/-- The link security of a port is cleared: its session ends, and a dock pairs again. Log 45 (DEDUCED). -/
def State.clearSession (s : State) (p : Nat) : State :=
  if s.isCard then s.closeSession p else s.endDockSession p

/-- The Counlet engine of a port is reset; a dock starts its link-up over. -/
def State.clearCn (s : State) (p : Nat) : State :=
  if s.isCard then s.cardCnReset
  else
    let t := s.cnReset p 6
    if t.flag (SP_STAT_CARD_PRESENT p) && t.flag (CN_CFG_AUTO_LINKUP p) && !s.session p then t.startLinkup p else t

/-! ## Blocks (R70, R255, R277, R370) -/

/-- KEY loses its volatile keys; every link session ends, and work that needs TRK, SLK or a pairing waits until
the keys are unwrapped again. Log 43 (DEDUCED). -/
def State.wipeKey (s : State) : State :=
  let t := [0, 1].foldl (fun t p => if !t.isPort p then t
    else if t.isCard then t.closeSession p else t.dropPort p lnkDown) s
  { t with keys := { t.keys with
    trk := [], slk := [], p0 := [], p1 := [], imp := List.replicate 32 0, wiped := true } }

/-- LND reads its anchor record again; with none in force the journal is fenced. Log 38 (DEDUCED). -/
def State.rereadAnchor (s : State) : State :=
  match s.readTwo anchorA anchorB with
  | some (_, _, ws) => { s with lnd := { s.lnd with
      ancLine := ws.getD 0 0, ancSeq := ws.getD 1 0, ancLap := ws.getD 2 0, floor := ws.getD 3 0 } }
  | none => if s.up then s.fault 3 0 3 false else s

/-- Clean slots of the map cache are dropped; a dirty page is rebuilt from its snapshot and the ring.
Log 42 (DEDUCED). -/
def State.mapRestart (s : State) : State :=
  { s with mapS := { s.mapS with cache := s.mapS.cache.filter (fun x => x.oldest.isSome) } }

/-- Clean tree units leave the counter cache, and a checkpoint under way is given up; a dirty unit is rebuilt from its copy
and the counter deltas. Log 42 (DEDUCED). -/
def State.treeRestart (s : State) : State :=
  let t := s.dropCheckpoint
  { t with tree := { t.tree with cache := t.tree.cache.filter t.tree.dirty.contains } }

/-- CRY loses the keys its lanes hold. Log 43 (DEDUCED). -/
def State.wipeCry (s : State) : State :=
  { s with keys := { s.keys with imk := List.replicate 16 [], jnk := [], cryWiped := true } }

/-- The buckets of every instance are filled, their deficits and the rings as after reset. -/
def State.qosRestart (s : State) : State :=
  (List.range 16).foldl (fun t n => t.refillQos n)
    { s with host := { s.host with rings := [[], [], List.range 16, []] } }

/-- The command and queue state of an instance is cleared (R255). -/
def State.instRestart (s : State) (n : Nat) : State :=
  if s.isCard then s.emptyWindow n else ((s.disableQueues n).dropTlb n).refillQos n

/-- The endpoint is cleared: its configuration, the link, the queues and the commands fetched. -/
def State.endpointRestart (s : State) : State :=
  let t := s.dropReserved (s.host.cmds.flatMap (·.recs))
  let t := ((t.setReg rPCE_LINK_STAT.off 0).setReg rPCE_FUNC_STAT.off 1).setReg rPCE_XFER_STAT.off 0
  (List.range 16).foldl (fun (t : State) n => (t.orphan n 0).orphan n 1)
    { t with host := { tlb := t.host.tlb, inval := t.host.inval, rings := t.host.rings }, fnRegs := [] }

/-- What the reset of a block clears beside its registers. Log 43 (DEDUCED), 44 (DEDUCED), 45 (DEDUCED). -/
def State.blockEffect (s : State) (p : Nat) : State :=
  if p = pKEY then s.wipeKey
  else if p = pCRY then s.wipeCry
  else if p = pPCE then s.endpointRestart
  else if p = pLCK then s.disarm
  else if p = pLND then s.rereadAnchor
  else if p = pMAP then s.mapRestart
  else if p = pTRE then s.treeRestart
  else if p = pMED then { s with media := { s.media with gathered := [] } }
  else if p = pCMD then { s with spA := { s.spA with dedup := [] } }.qosRestart
  else if p = pSP 0 ∨ p = pSP 1 then s.clearLink (p - pSP 0)
  else if p = pLSE 0 ∨ p = pLSE 1 then s.clearSession (p - pLSE 0)
  else if p = pCN 0 ∨ p = pCN 1 then s.clearCn (p - pCN 0)
  else if p = pITU then { s with host := { s.host with tlb := [], inval := none } }
  else if p = pQOS then s.qosRestart
  else if 0x40 ≤ p ∧ p ≤ 0x4F then s.instRestart (p - 0x40)
  else s

/-- A block is reset, keeping QUIESCE_REQ. -/
def State.resetBlock (s : State) (p : Nat) : State := (s.pageReset p true).blockEffect p

/-! ## PCIe and islands (R12, R70, R202) -/

/-- The PCIE island is cleared: queues, translation and scheduling take their reset values, and the commands
fetched are forgotten. -/
def State.clearPcie (s : State) : State :=
  let pages := [pPCE, pITU, pQOS] ++ (List.range 16).map (fun n => pINS n)
  let t := pages.foldl (fun t p => t.pageReset p false) s
  let t := t.endpointRestart
  ({ t with host := {} } : State).qosRestart

/-- The pages an island hosts. -/
def islandPages (r : Role) (i : Nat) : List Nat :=
  (List.range 0x50).filter (fun p => pagePresent r p && pageIsland r p == i)

/-- Both processors start their self-check; no lease is held. Log 46 (DESIGN CHOICE). -/
def State.mpRestart (s : State) : State :=
  let t := (s.setFld MPC_MP_STAT_MP_A_STATE 1).setFld MPC_MP_STAT_MP_B_STATE 1
  (t.setFld MPC_MP_STAT_ACTIVE 0).setFld MPC_LEASE_VALID_VALID 0

/-- An island is reset on its own. -/
def State.resetIsland (s : State) (i : Nat) : State :=
  if i = islPCIE then s.clearPcie
  else
    let t := (islandPages s.role i).foldl (fun t p => (t.pageReset p false).blockEffect p) s
    if i = islMP then t.mpRestart else t

/-! ## Loss of the volatile state (R23, R70) -/

/-- The flash slots of the superblocks that still hold parity, beyond the pages issued. Log 7 (DESIGN CHOICE). -/
def State.unissued (s : State) (key : Nat) : Bool :=
  s.heldSbs.any (fun x => key % 2 == x.half && x.fill.any (fun e =>
    let lo := entryOf s.ppb e.1 x.b 0 0
    lo + 4 * atLun x.iss e.1 ≤ key / 2 && key / 2 < lo + 4 * s.ppb))

/-- What stands in the flash: the pages issued, and which of their slots do not decode. The rest of the media manager's
state is read again at bring-up. -/
def State.mediaKept (s : State) : MediaSt :=
  { flash := Sparse.clear s.media.flash s.unissued, lost := s.media.lost }

/-- What a loss of the volatile state leaves: MRAM and what stands in it, the flash, the fuses and the firmware
slots. Log 7 (DESIGN CHOICE). -/
def State.dropVolatile (s : State) : State :=
  { s with
    keys := {}, spA := {}, spB := {}, host := {}, segs := [], media := s.mediaKept,
    lnd := {}, mapS := {}, tree := {},
    brg := { track0 := s.brg.track0, track1 := s.brg.track1 },
    firm := { slot0 := s.firm.slot0, slot1 := s.firm.slot1, bad := s.firm.bad },
    held := [], ringDrop := false, hiLatch := [], injArmed := [], flt := {}, summary := s.summaryNow,
    pins := { s.pins with wakeLow := false } }

/-! ## Chip resets (R67, R70) -/

/-- The registers RST_N and a chip reset keep: reset counts, the tamper latch, the fault history, and totals
since the power-on clear. -/
def chipKept (o : Nat) : Bool :=
  (o / 4096 == pRST && 0x40 ≤ o % 4096) ||
  [rTMP_LATCH_TIME_LO.off, rTMP_LATCH_TIME_HI.off, rTMP_COUNT.off, rFLT_HIST_HEAD.off, rFLT_COUNT.off,
   rTHS_PEAK.off, rPWR_DOZE_TIME.off, (rCN_PAIR_STAT 0).off].contains o ||
  ((rFLT_HIST 0).off ≤ o && o < (rFLT_HIST 0).off + 256)

/-- The registers an MP watchdog reset keeps: those of the AON island, and the fault history. -/
def wdogKept (r : Role) (o : Nat) : Bool :=
  pageIsland r (o / 4096) == islAON || o == rFLT_HIST_HEAD.off || o == rFLT_COUNT.off ||
  ((rFLT_HIST 0).off ≤ o && o < (rFLT_HIST 0).off + 256)

/-- Fields of registers that are cleared otherwise and that every chip reset keeps. -/
def State.keepFields (s t : State) : State :=
  let t := (t.setFld SYS_BRINGUP_RESTARTS (s.fld SYS_BRINGUP_RESTARTS)).setFld MPC_MP_STAT_TAKEOVERS
    (s.fld MPC_MP_STAT_TAKEOVERS)
  (t.setFld TMP_STAT_LATCHED (s.fld TMP_STAT_LATCHED)).setFld TMP_STAT_CAUSE (s.fld TMP_STAT_CAUSE)

/-- RST_N or a chip reset clears the part (R70). -/
def State.clearChip (s : State) : State :=
  let t := s.dropVolatile
  let t := { t with regs := Sparse.clear t.regs (fun o => !chipKept o), cnA := {}, cnB := {}, shadow := [], tamper := {} }
  s.keepFields t

/-- The MP watchdog clears the part but for AON, the Counlet engines and the fault history (R70). -/
def State.clearWdog (s : State) : State :=
  let t := s.dropVolatile
  s.keepFields { t with
    regs := Sparse.clear t.regs (fun o => !wdogKept t.role o), keys := { t.keys with heldReq := s.keys.heldReq } }

end Sys2Proof.Machine
end

