-- ==== Sys2Proof/Machine/Recovery.lean ====
section
/-! DEFINITION. What fencing and restoring a unit does to the unit (R407), the end of a fence action, the exits of
a source (R410–R412), the management processors (R78–R82), the store's scrub, and the meanings of the fault commands. -/

namespace Sys2Proof.Machine

/-! ## Management processors (R78–R80): `mp` is false for MP_A, true for MP_B -/

/-- The state field of a processor: 1 SELF_CHECK, 2 STANDBY, 3 ACTIVE, 4 FENCED, while the fence action of its fault
runs, 5 RESETTING (R86). Log 46 (DESIGN CHOICE). -/
def mpState (mp : Bool) : Fld := if mp then MPC_MP_STAT_MP_B_STATE else MPC_MP_STAT_MP_A_STATE

def State.mpIs (s : State) (mp : Bool) : Nat := s.fld (mpState mp)

/-- A processor is no longer ACTIVE: MP_STAT.ACTIVE is 1 only while MP_B is (R86). -/
def State.mpNot (s : State) (mp : Bool) : State :=
  s.setFld MPC_MP_STAT_ACTIVE (if s.mpIs (!mp) = 3 then (!mp).toNat else 0)

/-- A processor is fenced by a fault. -/
def State.mpFence (s : State) (mp : Bool) : State := (s.setFld (mpState mp) 4).mpNot mp

/-- A processor is reset on its own, after the fence action where a fault fences it. -/
def State.mpDown (s : State) (mp : Bool) : State :=
  if s.mpIs mp = 4 then s else (s.setFld (mpState mp) 5).mpNot mp

/-- A processor becomes ACTIVE and holds every lease. Log 48 (DEDUCED). -/
def State.mpTake (s : State) (mp : Bool) : State :=
  (((s.setFld (mpState mp) 3).setFld MPC_MP_STAT_ACTIVE mp.toNat).setFld MPC_LEASE_VALID_VALID (2 ^ 32 - 1)).setFld
    MPC_WDOG_STAT_COUNT_MS 0

/-- The standby becomes ACTIVE and takes every lease (R80). Log 48 (DEDUCED). -/
def State.takeover (s : State) (us : Nat) : State :=
  match [false, true].find? (fun mp => s.mpIs mp == 2) with
  | none => s
  | some mp =>
    let t := (s.mpDown (!mp)).mpTake mp
    ((t.bump MPC_MP_STAT_TAKEOVERS).setFld MPC_TAKEOVER_TIME_TIME_US us).fire EV_MPC_TAKEOVER

/-- The lease table fails: every lease counts as expired, and a takeover follows. Log 47 (DESIGN CHOICE). -/
def State.leasesLost (s : State) : State :=
  (((s.setFld MPC_LEASE_EXPIRED_EXPIRED (2 ^ 32 - 1)).setFld MPC_LEASE_VALID_VALID 0).fire
    EV_MPC_LEASE_EXPIRED).takeover 0

/-! ## Fencing (R407) -/

/-- The card ends a command it has accepted, and what it reserved and did not commit goes. -/
def State.failOut (s : State) (o : Outst) (st info : Nat) : State := (s.dropReserved o.seqs).finish o st info none []

/-- A port's link or its LSE is fenced: its session ends. -/
def State.fencePort (s : State) (p : Nat) : State := if s.isCard then s.closeSession p else s.dropPort p lnkDown

/-- An instance is fenced: a card's commands of it complete with FENCED, a dock's that have not started with
ABORTED (R251, R254). -/
def State.fenceInst (s : State) (n : Nat) : State :=
  if s.isCard then (s.spA.outst.filter (fun o => o.inst == n)).foldl (fun t o => t.failOut o 0x42 0) s
  else ((s.setFld (INS_STATE_STATE n) 4).abortUnstarted n 0x51).pump

/-- A bridge is DISCONNECTED and the far island goes into its own reset (R12). -/
def State.fenceIsland (s : State) (i syn : Nat) : State :=
  let t := s.setFlag (bitFld rCLK_BRIDGE_DISC.off i) true
  let t := ((t.bump CLK_CNT_BRIDGE_TIMEOUTS).setFld CLK_LAST_BRIDGE_WAITING syn).setFld CLK_LAST_BRIDGE_FAR i
  (t.fireD EV_CLK_BRIDGE_DISC syn 0).fireD EV_CLK_ISLAND_RST_START i 0

/-- The key slots of KEY by number: 0 to 15 IMK, 16 JNK, 17 TRK, 18 SLK, 19 and 20 P_0 and P_1, 24 and 25 the link
slots. -/
def State.reloadKey (s : State) (x : Nat) : State :=
  let secret := fun (cls : Nat) => s.laddered x cls ((s.readKey x).map (·.2))
  if 24 ≤ x ∧ x < 26 then (if s.isPort (x - 24) then s.clearSession (x - 24) else s)
  else if x < 16 then s.setImk x (s.keys.kgen.getD x 0) (secret 1)
  else if x = 17 then { s with keys := { s.keys with trk := secret 3 } }
  else if x = 18 then { s with keys := { s.keys with slk := secret 4 } }
  else s

/-- A storage element is taken out of use, reloaded or rebuilt. -/
def State.fenceElement (s : State) (src x : Nat) : State :=
  if src < 3 then (if s.lineFree x then s.retireLine x else s)
  else if src = 92 then (if s.ladderUp ∧ !s.flag TMP_STAT_LATCHED then s.reloadKey x else s)
  else if src = 85 then (match s.findSb x with
    | some y => if y.state = 1 then s.closeSb x else s.writeSbRecord x
    | none => s)
  else if src = 88 then (if x < 3072 then (pageSbs x).foldl (fun (t : State) k => t.setEntryK k (t.sbDoubt k)) s else s)
  else if src = 106 then { s with host := { s.host with tlb := [] } }
  else s

/-- A dock instance's fetched entry or completion is uncorrectable: the command that `syn` names, its queue in bits 31 to 16
and its CID below, completes with INTERNAL, or its completion is lost (R408). Log 180 (DEDUCED). -/
def State.loseEntry (s : State) (src n syn : Nat) : State :=
  match s.findCmd n (syn / 65536) (syn % 65536) with
  | some c => if src = 102 then s.endCmd c 0x7F 0 0 else if src = 103 then s.removeCmd c else s
  | none => s

/-- What fencing a unit does to it. -/
def State.fenceEffect (s : State) (src syn : Nat) (u : FenceUnit) : State :=
  match u with
  | .die l => s.lunsLost (fun x => x == l)
  | .ce i => s.lunsLost (fun x => x / 8 == i)
  | .channel n => s.lunsLost (fun x => x / 16 == n)
  | .port _ 2 => if s.isCard then s.loseHeld else s
  | .port p _ =>
    let t := if src = 114 then (match s.trackOf p with
        | some t => (List.range 16).foldl (fun (u : State) n => u.setAll t n) s
        | none => s) else s
    (if src = 70 ∨ src = 74 then t.dropTrims p else t).fencePort p
  | .inst n => (s.loseEntry src n syn).fenceInst n
  | .island i => s.fenceIsland i syn
  | .engine pg part =>
    if pg = pMPC ∧ part ≠ 0 then
      (if src = 100 then (s.mpFence (part == 2)).leasesLost else s.mpFence (part == 2))
    else if pg = pPCE ∧ part = 1 then (s.setFlag PCE_LINK_STAT_DL_ACTIVE false).fire EV_PCE_LINK_DOWN
    else s
  | .element _ x => s.fenceElement src x
  | .none => s

/-- The sources whose operand names their unit: the operand is one the part has. -/
def srcFits (r : Role) (src x : Nat) : Bool :=
  match srcUnit src x with
  | .die l => l < 128 && l / 16 == (src - 6) / 5
  | .ce i => i < 16 && i / 2 == (src - 6) / 5
  | .inst n => n < 16
  | .port p _ => p < 2 && (p == 0 || r == .dock)
  | .island i => islandRuns r i && (
      if src = 116 then i == islHOSTA || i == islHOSTB || i == islPCIE
      else if src = 117 then i == islLSE || i == islCMD || i == islLAND
      else if src = 118 then i == islMAP || i == islTREE || i == islMEDIA || i == islPAR
      else if src = 119 then 13 ≤ i && i ≤ 16
      else if src = 120 then 17 ≤ i && i ≤ 20
      else i == islMP)
  | .engine pg part => if src = 57 ∨ src = 100 then part == 1 || part == 2 else if pg = pTHS then part ≤ 4 else true
  | _ => true

/-- Every fetched command of a dock completes with a status, and its sessions end (R379, R415). -/
def State.stopDock (s : State) (st : Nat) : State :=
  let t := s.host.cmds.foldl (fun t c => t.endCmd c st 0 0) s
  let t := [0, 1].foldl (fun (t : State) p =>
    if t.session p then (t.closeSession p).setLink p lnkDown else t) t
  (([0, 1].foldl (fun (u : State) p => if s.session p then u.portGone p else u) t)).pump

/-- What a port and the queues see of the entry into the safe state (R415). -/
def State.safeStop (s t : State) : State :=
  if s.safe || !t.safe then t else if t.isCard then t.closeSession 0 else t.stopDock 0x60

/-- What is counted and reported where a map snapshot or a tree unit cannot be used, and of the random source's health tests
(R314, R372, R374). -/
def State.noteCause (s : State) (src x syn : Nat) : State :=
  if src = 47 then s.fireD EV_MAP_PAGE_READ_FAIL 0 syn
  else if src = 51 then (s.bump TRE_CHECK_CNT_NODE_TAG).fireD EV_TRE_NODE_TAG_FAIL (x / 2 ^ 28) (x % 2 ^ 28)
  else if src = 93 then s.bump KEY_RNG_STAT_FAILS
  else s

/-- A source detects its cause: recorded, and its unit fenced (R404); a fault that merges or that its source
already fences runs no action, and none runs in the safe state (R409, R413, R416). -/
def State.faultFull (s : State) (src x syn : Nat) (injected : Bool) : State :=
  let x := if src = 100 then 1 + s.fld MPC_MP_STAT_ACTIVE else x
  if !srcFits s.role src x then s
  else
    let s := s.noteCause src x syn
    let t := s.safeStop (s.fault src x syn injected)
    let before := s.flt.holds.length
    if t.flt.holds.length = before + 1 && t.flag (FLT_SRC_STAT_FENCING src) && !s.safe &&
        (s.mergeInto (srcUnit src x)).isNone then t.fenceEffect src syn (srcUnit src x)
    else t

/-- A read-back fails: the commit line takes a zero word, its line is retired, and the record is invalid (R271, R286); `inj`
says that an injection made it fail (R420). -/
def State.readbackLost (s : State) (r : JRec) (inj : Bool) : State :=
  let line := s.commitLine r
  let t := ((s.writeCommit (64 * line) 0).retireLine line).dropRec r.seq
  (t.fireD EV_LND_READBACK_FAIL 0 line).faultFull 1 line line inj

/-! ## The resync log's lines (R460) -/

/-- A track with an uncorrectable line: BRG_RESYNC_ECC is raised, against the port its card is on if it is on one, and all
its bits are set. Log 182 (DESIGN CHOICE). -/
def State.trackLost (s : State) (t : Nat) : State :=
  let ser := (s.track t).serial
  let u := match [0, 1].find? (fun p => ser != 0 && s.serialAt p == ser) with
    | some p => s.faultFull 114 p 2 false
    | none => s.newFault 114 .none 2 false
  (List.range 16).foldl (fun (u : State) n => u.setAll t n) u

/-- What reading a track reports of its words (R261). -/
def State.noteTrack (s : State) (t : Nat) : State := s.noteArea (logAt t 0) (logAt t (2 ^ 17))

/-- The tracks in use whose lines no longer decode. -/
def State.checkTracks (s : State) : State :=
  [0, 1].foldl (fun (u : State) t => if u.isDock && (u.track t).inUse && u.trackBad t then u.trackLost t else u) s

/-- Read the tracks at bring-up (R452, R456). -/
def State.readTracks (s : State) : State :=
  if s.isCard then s else (((s.loadTracks.noteTrack 0).noteTrack 1)).checkTracks

/-- SCRUB (R284): the next line. -/
def execLndScrub (s : State) : Result :=
  if s.up && s.flag LND_SCRUB_CFG_EN && !s.safe && s.powerState < 3 && !s.flag CLK_PLL_STAT_RELOCKING then
    let l := s.fld LND_SCRUB_STAT_NEXT
    let t := (List.range 8).foldl (fun t i => t.scrubOne (64 * l + 8 * i)) s
    .next (t.checkTracks.setFld LND_SCRUB_STAT_NEXT ((l + 1) % 524288))
  else .next s

/-! ## Restoring (R407) -/

/-- The halves whose superblock could not be opened for want of the unit open one (R304). -/
def State.reopen (s : State) : State := if s.freeSlots < s.ppb || s.isDock then s else (s.mustOpen 0).mustOpen 1

/-- A unit is in use again. -/
def State.restoreUnit (s : State) (src : Nat) (u : FenceUnit) : State :=
  match u with
  | .port p 2 => s.clearCn p
  | .port p _ => if s.isCard then s.cardLinkReset else s.resetLink p
  | .inst n =>
    if s.isCard then s
    else
      let t := if src = 110 then s.refillQos n else s
      if t.flag (PG_CTRL_FENCE_REQ (pINS n)) then t
      else (t.setFld (INS_STATE_STATE n) 2).setFlag (PG_CTRL_QUIESCE_REQ (pINS n)) true
  | .engine pg 0 => if pg = pPAR ∨ pg = pMED then (s.resetBlock pg).reopen else s.resetBlock pg
  | .die _ => s.reopen
  | .ce _ => s.reopen
  | .channel _ => s.reopen
  | .engine pg part => if pg = pPCE ∧ part = 1 ∧ s.pins.perstHigh then s.setFld PCE_LINK_STAT_LTSSM 1 else s
  | .island _ => (s.drive 0).drive 1
  | _ => s

/-- CRY serves again after a reset: its keys are loaded from KEY. Log 43 (DEDUCED). -/
def State.cryResume (s : State) : State :=
  if s.keys.cryWiped && !s.keys.wiped && !s.flag (PG_CTRL_QUIESCE_REQ pCRY) && !s.flag (PG_STAT_RST_BUSY pCRY) &&
      !s.flag TMP_STAT_LATCHED && !s.safe && 7 ≤ s.bootStep && s.ladderUp then s.reloadCry
  else s

/-- KEY serves again after a block reset, and a dock pairs its cards again (R370); CRY after it. -/
def State.keyResume (s : State) : State :=
  let s := s.cryResume
  if s.keys.wiped && !s.flag (PG_CTRL_QUIESCE_REQ pKEY) && !s.flag TMP_STAT_LATCHED && !s.safe && 6 ≤ s.bootStep &&
      !s.flag (PG_STAT_RST_BUSY pKEY) && s.ladderUp then
    let t := s.unwrapKeys
    if t.isCard then t
    else [0, 1].foldl (fun (t : State) p =>
      if t.flag (SP_STAT_CARD_PRESENT p) && !t.session p then t.askPair p else t) t
  else s

/-- The exit of a source of CMD empties the deduplication window of the instance and reloads its record (R408). -/
def State.reloadInst (s t : State) (src : Nat) : State :=
  if 80 ≤ src && src ≤ 82 && t.isCard then
    (s.flt.holds.filter (fun h => h.src == src)).foldl (fun (t : State) h => match h.unit with
      | .inst n => (t.emptyWindow n).loadInst n
      | _ => t) t
  else t

/-- Restore every unit that no source holds any more. -/
def State.restoreFreed (s t : State) (src : Nat) : State :=
  let t := s.reloadInst t src
  ((freedUnits s t).foldl (fun u x => if u.softHeld x then u else u.restoreUnit src x) t).keyResume

/-! ## Causes and exits (R409–R412) -/

/-- The level cause of a source that the part itself can test, at this moment. -/
def State.levelNow (s : State) (src : Nat) : Bool :=
  match src with
  | 3 => (match s.readTwo anchorA anchorB with
      | none => true
      | some (_, _, ws) => (match s.readHeader (ws.getD 0 0) with
        | none => true
        | some (r, _) => r.seq != ws.getD 1 0 || r.lap != ws.getD 2 0))
  | 4 => 64 ≤ s.lnd.bad.length
  | 48 => (s.readTwo deltaAncA deltaAncB).isNone
  | 50 => !s.rootVerifies
  | 90 => !s.media.param
  | 92 => s.flt.holds.any (fun h => match h.unit with
      | .element pg x => h.src == 92 && pg == pKEY && x < 24 && (s.readKey x).isNone
      | _ => false)
  | n => s.flag (FLT_SRC_STAT_ASSERTED n)

/-- The cause line of a source as it stands. Log 60 (DEDUCED). -/
def State.causeNow (s : State) (src : Nat) : Bool :=
  if s.flag (FLT_SRC_STAT_FENCING src) then s.flag (FLT_SRC_STAT_ASSERTED src)
  else if srcLevel src then s.flag (FLT_SRC_STAT_ASSERTED src) && s.levelNow src
  else false

/-- A software clear of one source (R410). -/
def State.tryClear (s : State) (src : Nat) : State :=
  if !s.flag (FLT_SRC_STAT_STATUS src) then s
  else
    let d := fltDetail src (s.histOf src)
    let syn := (s.reg (histOff (s.histOf src) + 8)).toNat
    if 124 ≤ src ∨ s.safe ∨ s.causeNow src ∨ s.flag (FLT_SRC_STAT_FENCING src) then s.fireD EV_FLT_CLEAR_REFUSED d syn
    else
      let t := (s.exitSource src 1).setFlag (FLT_SRC_STAT_LATCHED src) false
      let t := t.setFld (FLT_SRC_STAT_WINDOW_CNT src) 0
      let t : State := { t with flt := { t.flt with windows := t.flt.windows.filter (· != src) } }
      (s.restoreFreed (t.fireD EV_FLT_FAULT_CLEARED d syn) src)

/-- FLT.CLEAR (R410, R422). -/
def State.fltClear (s : State) (key src : Nat) (all : Bool) : State :=
  if key ≠ 0x4C7E then s
  else if all then (List.range 128).foldl State.tryClear s
  else s.tryClear src

/-- The fence action of a source ends (R413): event causes fall, and so does a level cause that is over. -/
def State.actionDone (s : State) (src : Nat) (holds : Bool) : State :=
  if !s.flag (FLT_SRC_STAT_FENCING src) then s
  else
    let t := (s.setFlag (FLT_SRC_STAT_FENCING src) false).setFlag (FLT_SRC_STAT_ASSERTED src) (srcLevel src && holds)
    if 96 ≤ src ∧ src ≤ 100 then
      [false, true].foldl (fun t mp => if t.mpIs mp = 4 && t.fenced (.engine pMPC (1 + mp.toNat)) then
        t.setFld (mpState mp) 5 else t) t
    else t

/-- The lull of a source ends: it recovers, or latches beyond LIMIT (R410, R411). Log 60 (DEDUCED). -/
def State.lullDone (s : State) (src : Nat) : State :=
  if !s.flag (FLT_SRC_STAT_STATUS src) || s.flag (FLT_SRC_STAT_LATCHED src) || s.flag (FLT_SRC_STAT_FENCING src) ||
      !s.flag (FLT_SRC_CFG_EXIT src) || s.safe || 124 ≤ src then s
  else if srcLevel src && [3, 4, 48, 50, 90, 92].contains src && s.causeNow src then s
  else
    let d := fltDetail src (s.histOf src)
    let syn := (s.reg (histOff (s.histOf src) + 8)).toNat
    let cnt := if s.flt.windows.contains src then s.fld (FLT_SRC_STAT_WINDOW_CNT src) else 0
    if s.fld FLT_LULL_CFG_LIMIT < cnt + 1 then
      (((s.setFlag (FLT_SRC_STAT_LATCHED src) true).setFlag (FLT_SRC_STAT_ASSERTED src) false).histClose src 3).fireD
        EV_FLT_LULL_LATCHED d syn
    else
      let t := (s.exitSource src 2).bump (FLT_SRC_STAT_RECOVERIES src)
      let t := t.setFld (FLT_SRC_STAT_WINDOW_CNT src) (cnt + 1)
      let t : State := if s.flt.windows.contains src then t
        else { t with flt := { t.flt with windows := t.flt.windows ++ [src] } }
      s.restoreFreed (t.fireD EV_FLT_LULL_RECOVERED d syn) src

/-! ## The fault commands -/

/-- A one-shot injection of a page is consumed (R93, R420). -/
def State.injectDone (s : State) (p : Nat) : State :=
  if s.flag (INJ_CTRL_ACTIVE p) && !s.flag (INJ_CTRL_CONTINUOUS p) then
    (s.setFlag (INJ_CTRL_ACTIVE p) false).fire EV_FLT_INJECT_DONE
  else s

/-- FAULT_DETECTED (R404).  Faults are taken from bring-up step 1 on (R414); a fault is injected where the page's
injection is active (R420). Log 179 (DESIGN CHOICE). -/
def execFaultDetected (src x syn : Nat) (injected : Bool) (s : State) : Result :=
  let p := srcPage src
  let inj := injected && s.flag (INJ_CTRL_ACTIVE p)
  if s.bootStep = 0 then .next s
  else
    let t := s.faultFull src x syn inj
    .next (if inj then t.injectDone p else t)

/-- FENCE_ACTION_DONE (R413). -/
def execFenceActionDone (src : Nat) (holds : Bool) (s : State) : Result := .next (s.actionDone src holds)

/-- LULL_EXPIRY (R410, R411). Log 60 (DEDUCED). -/
def execLullExpiry (src : Nat) (s : State) : Result := .next (s.lullDone src)

/-- LULL_WINDOW_END (R411). -/
def execLullWindowEnd (src : Nat) (s : State) : Result :=
  .next (if s.flt.windows.contains src then
    { s with flt := { s.flt with windows := s.flt.windows.filter (· != src) } }.setFld (FLT_SRC_STAT_WINDOW_CNT src) 0
    else s)

/-- FLT_CLEAR_SOURCE (R410); as any write to the page it disarms an injection (R100). -/
def execFltClearSource (key src : Nat) (s : State) : Result :=
  .next (if s.up then (s.touchPage pFLT).fltClear (key % 65536) (src % 128) false else s)

/-- FLT_CLEAR_ALL (R410); as any write to the page it disarms an injection (R100). -/
def execFltClearAll (key : Nat) (s : State) : Result :=
  .next (if s.up then (s.touchPage pFLT).fltClear (key % 65536) 0 true else s)

/-- The island is gated for DOZE, or held while the PLL relocks: a bridge toward it is PARKED, and it waits for none itself
(R425, R431). -/
def State.parked (s : State) (i : Nat) : Bool :=
  i != islAON && i != islFLT &&
    (s.powerState == 3 || s.powerState == 4 || (i != islPCIE && s.flag CLK_PLL_STAT_RELOCKING))

/-- BRIDGE_TIMEOUT (R12, R13, R415): the far island is fenced; on a bridge to AON the island on the other side, and
a bridge of FLT leads to the safe state.  An injection armed on CLK toward the far island is consumed (R439). -/
def execBridgeTimeout (waiting far : Nat) (s : State) : Result :=
  let victim := if far = islAON then waiting else far
  let inj := 2 ≤ far && s.injects pCLK far
  let used := fun (t : State) => if inj then t.injectDone pCLK else t
  if s.bootStep = 0 ∨ !islandRuns s.role waiting ∨ !islandRuns s.role far ∨ waiting = far ∨ s.parked waiting ∨
      s.parked far then .next s
  else if waiting = islFLT ∨ far = islFLT then .next (used (s.faultFull 127 0 (waiting + 256 * far) inj))
  else
    let src := if victim = islMP then 121 else if 17 ≤ victim then 120 else if 13 ≤ victim then 119
      else if 9 ≤ victim then 118 else if 6 ≤ victim then 117 else 116
    .next (used (s.faultFull src victim (waiting + 256 * victim) inj))

/-- ISLAND_RESET_DONE (R12): the island's state is cleared and the bridge reconnects; it waits for a burn, and a reset of
the chip absorbs it (R72, R73). -/
def execIslandResetDone (i : Nat) (s : State) : Result :=
  if s.islandDown i && i < 21 && !s.safe && s.boot.fuse.isNone && !s.chipWaits then
    let t := (s.resetIsland i).setFlag (bitFld rCLK_BRIDGE_DISC.off i) false
    let syn := s.fld CLK_LAST_BRIDGE_WAITING + 256 * i
    .next (((t.fireD EV_CLK_BRIDGE_RECONN syn 0).fireD EV_CLK_ISLAND_RST_DONE i 0).keyResume)
  else .next s

end Sys2Proof.Machine
end

