-- ==== Sys2Proof/Machine/Tamper.lean ====
section
/-! DEFINITION. The tamper monitor (chapter 15): loop words, the latch and what it does, and the conditions of a
clear (R375–R385). -/

namespace Sys2Proof.Machine

/-! ## The loop (R376) -/

/-- MISS as it acts. -/
def State.tmpMiss (s : State) : Nat := max 1 (s.fld TMP_LOOP_CFG_MISS)

/-- The 32 halves of a code word, the first half at bit 0: 0 is low then high, 1 high then low.
Log 18 (DESIGN CHOICE). -/
def codeHalves (code : Nat) : Nat :=
  (List.range 16).foldl (fun a j => a + (if bitAt code j then 2 ^ (2 * j) else 2 ^ (2 * j + 1))) 0

/-- The code bits read back: the first half of each. Log 18 (DESIGN CHOICE). -/
def halvesCode (halves : Nat) : Nat := (List.range 16).foldl (fun a j => a + (if bitAt halves (2 * j) then 2 ^ j else 0)) 0

/-- Send one code word and look at the 32 half samples of TAMPER_A; 0 good, 1 LOOP_OPEN, 2 LOOP_CODE.
Log 17 (DESIGN CHOICE). -/
def State.loopWord (s : State) (halves : Nat) : Nat × State :=
  let c := Config.loopCode s.tamper.lfsr
  let h := halves % 2 ^ 32
  let kind := if h = codeHalves c.1.toNat then 0 else if h = 0 ∨ h = 2 ^ 32 - 1 then 1 else 2
  let t := { s with tamper := { s.tamper with
    lfsr := c.2,
    missRun := if kind = 0 then 0 else s.tamper.missRun + 1,
    goodRun := if kind = 0 then s.tamper.goodRun + 1 else 0 } }
  let t := (t.setFld TMP_CODE_SENT c.1.toNat).setFld TMP_CODE_RECEIVED (halvesCode h)
  (kind, (t.setFlag TMP_STAT_LOOP_OPEN_NOW (kind == 1)).setFlag TMP_STAT_LOOP_CODE_NOW (kind == 2))

/-! ## The latch (R379–R381) -/

/-- A tamper meets MRAM requests that wait: those of `served` were pulsed, the others never are; a key update cut short
ends ABORTED_TAMPER (R34, R380). -/
def State.tamperStop (s : State) (served : List Nat) : State :=
  let q := s.mq.reqs.reverse
  let done := (mramServed q served [] 0).1
  let cut := (List.range q.length).any (fun i =>
    let r := q.getD i ⟨0, 0, 0, []⟩
    !done.contains i && pairAddr 0 0 ≤ 64 * r.line && 64 * r.line < pairAddr 0x15 0)
  let t := s.mramStop served none
  if cut then (t.setFld KEY_OP_STAT_RESULT 2).fire EV_KEY_OP_ABORTED else t

/-- KEY zeroizes for the tamper (R379). -/
def State.tamperWipe (s : State) : State := s.zeroizeAll.fire EV_TMP_ZEROIZED

/-- The tamper latches for a cause: 1 loop open, 2 loop code, 3 switch open; a fuse burn under way completes before the
zeroization runs (R379, R382). Log 32 (DEDUCED). -/
def State.latchTamper (s : State) (cause : Nat) (served : List Nat) : State :=
  if s.flag TMP_STAT_LATCHED then s
  else
    let t := ((s.tamperStop served).setFlag TMP_STAT_LATCHED true).setFld TMP_STAT_CAUSE cause
    let t := ((t.setFld TMP_LATCH_TIME_LO_US (s.uptime.toNat % 2 ^ 32)).setFld TMP_LATCH_TIME_HI_US
      (s.uptime.toNat / 2 ^ 32)).bump TMP_COUNT_ALARMS
    let t := if t.isCard then (t.closeSession 0).dropCred else t.stopDock 0x22
    let t := { t with cnA := { t.cnA with pair := .none } }
    let t := if t.up then (t.setFlag SYS_BRINGUP_READY_LOCKED true) else { t with boot := { t.boot with locked := true } }
    let t := if t.isCard && t.up then t.forceLocks else t
    let t := t.fireD EV_TMP_ALARM cause 0
    let t := t.fire (if cause = 1 then EV_TMP_LOOP_OPEN else if cause = 2 then EV_TMP_LOOP_CODE else EV_TMP_SWITCH_OPEN)
    if t.boot.fuse.isSome then t else t.tamperWipe

/-- One loop word, and the latch after `miss` bad ones. -/
def State.loopStep (s : State) (miss halves : Nat) (served : List Nat) : State :=
  let r := s.loopWord halves
  if r.1 ≠ 0 ∧ miss ≤ r.2.tamper.missRun then r.2.latchTamper r.1 served else r.2

/-- The switch reads open, or closed. -/
def State.setSwitch (s : State) (high : Bool) : State :=
  { s with tamper := { s.tamper with switchHigh := high } }.setFlag TMP_STAT_SWITCH_OPEN_NOW high

/-- The first three conditions of R383. -/
def State.tamperClearable (s : State) (switchLow : Bool) : Bool :=
  s.flag TMP_STAT_LATCHED && s.tmpMiss ≤ s.tamper.goodRun && switchLow

/-- Step 5 (R378): sixteen words, with MISS at its reset value of 2, and the switch; a failure, or a latch already set,
selects the locked path. Log 32 (DEDUCED). -/
def State.tamperStep5 (s : State) (words : List Nat) (switchHigh : Bool) : State :=
  let t : State := { s with tamper := { s.tamper with lfsr := Config.loopSeed s.freeCtr, missRun := 0, goodRun := 0 } }.spend
  let t := words.foldl (fun (t : State) w => t.loopStep 2 w []) t.mramSync
  let t := t.setSwitch switchHigh
  let t := if switchHigh then t.latchTamper 3 [] else t
  if t.flag TMP_STAT_LATCHED then
    { t.setFlag TMP_STAT_AT_STEP5 true with boot := { t.boot with locked := true } }
  else { t with boot := { t.boot with locked := false } }

/-- TAMPER_LOOP_WORD (R376): the monitor runs from the end of bring-up step 1; `served` are the MRAM requests pulsed. -/
def execTamperLoopWord (halves : Nat) (served : List Nat) (s : State) : Result :=
  .next (if 2 ≤ s.bootStep && s.bootStep != 5 then s.loopStep s.tmpMiss halves served else s)

/-- TAMPER_SWITCH_OPEN (R377). -/
def execTamperSwitchOpen (served : List Nat) (s : State) : Result :=
  .next (if 2 ≤ s.bootStep && s.bootStep != 5 then (s.setSwitch true).latchTamper 3 served else s)

end Sys2Proof.Machine
end

