-- ==== Sys2Proof/Machine/BringUp.lean ====
section
/-! DEFINITION. Power-on clear, chip resets and bring-up (chapter 04): when a reset takes effect, what each step does
when it ends, and READY. -/

namespace Sys2Proof.Machine

/-! ## Fuses (R343, R448) -/

/-- The burn under way ends: its bit is set, and the zeroization of a tamper that waited for it runs (R382). -/
def State.endBurn (s : State) : State :=
  match s.boot.fuse with
  | none => s
  | some i =>
    let w := 7 + i / 64 % 2
    let t : State := { s with
      otp := Sparse.set otpBlank s.otp w (s.fuseWord w ||| 2 ^ (i % 64)),
      boot := { s.boot with fuse := none } }
    let t : State := if t.shadow.isEmpty then t else { t with shadow := Sparse.set otpBlank t.shadow w (t.fuseWord w) }
    let t := (t.keyOp 6 0 0).fire EV_KEY_OTP_BURN_DONE
    if t.flag TMP_STAT_LATCHED && !t.flag KEY_STAT_ZEROIZED then t.tamperWipe else t

/-- The floor that the running image asks for, when it raises the floor (R448). -/
def State.floorWanted (s : State) : Option Nat :=
  let slot := s.runSlot
  let img := s.slotBytes slot
  if s.fwValid slot && slot == s.fwRun && bitAt (img.getD 6 0).toNat 0 && s.fwFloor < s.fwRollback slot then
    some (s.fwRollback slot)
  else none

/-! ## Starting a bring-up (R67, R74, R417) -/

/-- Entries still open, or latched, take ENDED_BY_RESET. -/
def State.histReset (s : State) : State :=
  (List.range 16).foldl (fun (t : State) i => if t.histLive i then t.setFld (histExit i) 5 else t) s

/-- The outcome of an earlier bring-up is no longer shown: BRINGUP and REPLAY_STAT are of the latest one (R84). -/
def State.clearOutcome (s : State) : State :=
  [SYS_BRINGUP_ERASE_COMPLETED, SYS_BRINGUP_TREE_FAIL, SYS_BRINGUP_KEY_FAIL, SYS_BRINGUP_DEGRADED,
    SYS_BRINGUP_READY_LOCKED].foldl (fun (t : State) f => t.setFlag f false) (s.setReg rSYS_REPLAY_STAT.off 0)

/-- The sequencer starts at a step. -/
def State.startAt (s : State) (step : Nat) (poc wdog : Bool) : State :=
  let t : State := { s with boot := { poc := false, started := s.uptime, fromPoc := poc, fromWdog := wdog } }
  ((if poc then t else t.histReset).clearOutcome).setFld SYS_BRINGUP_STEP step

/-- ROLE_SEL was sampled at a level, and bring-up starts (R8). -/
def State.startChip (s : State) (poc strap : Bool) : State :=
  { s with role := if strap then .dock else .card }.startAt 1 poc false

/-- The card's answer to reset is due, if CRST_N is released (R51, R118). -/
def State.askAtr (s : State) : State :=
  if s.isCard && s.pins.crstHigh then
    { s with cnA := { s.cnA with atrDue := true, atrState := (s.cpsBits, s.summaryNow.2) } }.setFld (CN_STAT_STATE 0) 1
  else s

/-- The chip is held in step 0 while RST_N is low (R68). -/
def State.holdChip (s : State) (poc : Bool) : State :=
  { s with boot := { poc := false, rstLow := true, fromPoc := poc } }.setFld SYS_BRINGUP_STEP 0

/-- A chip-wide reset takes effect (R67, R70, R74, R85). ROLE_SEL counts as it was when RST_N was released, if it was
released meanwhile (R68). Log 7 (DESIGN CHOICE). -/
def State.takeReset (s : State) (k : ResetKind) (deferred : Bool) : State :=
  let early := 1 ≤ s.bootStep && s.bootStep < 11
  let low := s.boot.rstLow
  let strap := s.boot.roleAt.getD s.pins.strap
  let t := if k = .mpWdog then s.clearWdog else s.clearChip
  let t := match k with
    | .rstN => (t.bump RST_COUNT0_RST_N_CNT).setFlag RST_CAUSE_RST_N true
    | .chipSw => (t.bump RST_COUNT0_CHIP_SW_CNT).setFlag RST_CAUSE_CHIP_SW true
    | _ => (t.bump RST_COUNT1_WDOG_CNT).setFlag RST_CAUSE_MP_WDOG true
  let t := (t.setFlag RST_CAUSE_DEFERRED deferred).setFlag RST_CAUSE_IN_BRINGUP early
  let t := if early then (t.bump SYS_BRINGUP_RESTARTS).fire EV_SYS_BRINGUP_RESTART else t
  if k = .mpWdog then t.startAt 5 false true
  else if low then t.holdChip false
  else t.startChip false strap

/-- A reset waits already that takes in another: one of the chip as wide or wider, or the very same (R73). -/
def State.absorbs (s : State) (k : ResetKind) : Bool :=
  s.boot.waiting.any (fun j => j == k || (j.chip && k.scope ≤ j.scope))

/-- A reset must wait: for the pulse in progress, for a burn, or with one that waits (R72). -/
def State.defers (s : State) (pulse : Bool) : Bool := pulse || s.boot.fuse.isSome || !s.boot.waiting.isEmpty

/-- A reset joins those that wait and cancels the narrower ones (R73). -/
def State.await (s : State) (k : ResetKind) : State :=
  { s with boot := { s.boot with waiting := s.boot.waiting.filter (fun j => k.scope ≤ j.scope) ++ [k] } }

/-- Ask for a chip-wide reset: at once, or once the pulse or the burn in progress has ended (R72, R73). -/
def State.askReset (s : State) (k : ResetKind) (pulse : Bool) : State :=
  if s.absorbs k then s else if s.defers pulse then s.await k else s.takeReset k false

/-! ## The steps (R61) -/

/-- Step 2: the PLL locks, or is tried again up to three times (R64). -/
def State.endStep2 (s : State) (locked : Bool) : State :=
  if locked then
    ((s.setFlag CLK_PLL_STAT_LOCKED true).setFlag CLK_PLL_STAT_REF_PRESENT true).setFld SYS_BRINGUP_STEP 3
  else
    let n := s.boot.pllTries + 1
    { s with boot := { s.boot with pllTries := n, stuck := 4 ≤ n } }.setFld CLK_PLL_STAT_ATTEMPT (min 3 n)

/-- Step 3: the fuses are read into the shadow. Log 33 (DEDUCED). -/
def State.endStep3 (s : State) (ok : Bool) : State :=
  if ok then { s with shadow := s.otp.filter (fun e => 4 ≤ e.1) }.setFld SYS_BRINGUP_STEP 4
  else { s with boot := { s.boot with stuck := true } }

/-- The geometry and the capacity in force, from the format record (R290). Log 37 (DEDUCED). -/
def State.loadFormat (s : State) : State :=
  match s.readTwo formatA formatB with
  | none => s
  | some (_, _, ws) =>
    let p := bitsOf (ws.getD 1 0) 0 10
    (((s.setFld MAP_CAP_EXTENTS (ws.getD 0 0)).setFld PAR_GEOM_PAGES p).setFld PAR_GEOM_N_OPEN (nOpen p)).setFld
      PAR_GEOM_SET_WIDTH (bitsOf (ws.getD 1 0) 16 1)

/-- The records of the ring's position that a pending erase or delete needs before steps 7 and 9. -/
def State.findRing (s : State) : State :=
  match s.readTwo anchorA anchorB with
  | some (_, _, ws) => { s with lnd := { s.lnd with
      lastLine := ws.getD 0 0, lastSeq := ws.getD 1 0, lastLap := ws.getD 2 0, floor := ws.getD 3 0 } }
  | none => s

/-- A pending forced erase is completed (R37). Log 6 (DESIGN CHOICE), 38 (DEDUCED). -/
def State.finishErase (s : State) : State :=
  if s.pairByte 0x16 0 ≠ 1 then s
  else ((s.findRing.eraseSteps).setFlag SYS_BRINGUP_ERASE_COMPLETED true).fire EV_SYS_ERASE_COMPLETED

/-- Pending deletes are completed (R236). Log 6 (DESIGN CHOICE), 38 (DEDUCED). -/
def State.finishDeletes (s : State) : State :=
  let ns := (List.range 16).filter (fun n => s.pairByte (0x20 + n) 0 == 1)
  if ns.isEmpty then s else ns.foldl State.deleteSteps s.findRing.mapResume

/-- The background erase goes on where its progress record says (R37). -/
def State.showErase (s : State) : State :=
  let runs := match s.readTwo progA progB with
    | some (_, _, ws) => ws.headD 0 == 1
    | none => false
  if s.isCard && runs then s.setFld LCK_ERASE_STAT_STATE 3 else s

/-- The lifetime records as found at power-up (R449). -/
def State.loadLife (s : State) : State :=
  if !s.boot.fromPoc then s
  else
    let get := fun (a b : Nat) => match s.readTwo a b with
      | some (_, _, ws) => ws
      | none => []
    { s with life := { base1 := get 0x01C00100 0x01C00140, base2 := get 0x01C00180 0x01C001C0, last := s.uptime } }

/-- The known-answer tests; they do not run on the locked path (R352). -/
def State.runKat (s : State) (ok : Bool) : State :=
  if s.boot.locked then s
  else
    let t := (s.setFlag KEY_STAT_KAT_PASS ok).setFlag CRY_STAT_KAT_PASS ok
    if ok then t else (if t.isCard then t.faultFull 57 1 0 false else t).faultFull 57 2 0 false

/-- Step 6 (R352, R63, R390). What it reads of the store is reported, as at the steps after it (R261). -/
def State.endStep6 (s : State) (katOk : Bool) : State :=
  let s := ((s.noteArea 0x3E0000 0x400000).noteArea 0x380010 0x380110).loadBad
  let t := if s.isCard then ((s.noteArea 0x380600 0x381000).loadFormat.loadInsts).loadLife else s
  let t := t.runKat katOk
  let t := t.setFlag KEY_STAT_RNG_OK t.rngUp
  let t := if t.isCard then (statePairs.foldl State.mendState t).finishErase.finishDeletes else t
  let t := if t.boot.locked then t else t.unwrapKeys
  let t := if t.isCard && t.boot.fromPoc then t.clearFails else t
  t.setFld SYS_BRINGUP_STEP (if t.boot.locked then 10 else 7)

/-- Step 7 (R273, R274): the journal, or the bridge journal, is scanned. -/
def State.endStep7 (s : State) : State :=
  let t := if s.journalFenced then s else s.replay (fun inst addr => s.globalUnit inst addr)
  let n := t.lnd.recs.length
  let t := if n = 0 then t
    else { t with life := { t.life with replays := t.life.replays + 1 }, brg := { t.brg with replayHold := t.isDock } }
  t.setFld SYS_BRINGUP_STEP 8

/-- Step 8 (R366) and step 9 (R300, R400); both end at once on a dock. -/
def State.endStep8 (s : State) : State := (if s.isCard then (s.noteArea 0x384000 0x394000).treeRootCheck else s).setFld SYS_BRINGUP_STEP 9

def State.endStep9 (s : State) : State := (if s.isCard then (s.noteArea 0x394000 0x3BC000).mapResume.recoverSegs else s).setFld SYS_BRINGUP_STEP 10

/-! ## Media attach (R318–R321, R290) -/

/-- The data area that holds a capacity in extents (R290). -/
def extentsFor (d0 d1 : Nat) : Nat :=
  let d := min d0 d1
  let n := 9 * d / 10 / 4096
  min (2 ^ 20) (2 * n / 4096 * 4096)

/-- A card with no valid format record is formatted. Log 35 (DEDUCED). -/
def State.formatCard (s : State) (e : StepIn) (luns : List Nat) : State :=
  if (s.readTwo formatA formatB).isSome then s
  else
    let p := e.blockPages
    let ext := extentsFor (4 * p * e.good.1) (4 * p * e.good.2)
    (s.writeFormat ext p (s.fld PAR_CFG_SET_WIDTH) luns).loadFormat

/-- The LUNs of the format record. -/
def State.formatLuns (s : State) : Option (List Nat) :=
  match s.readTwo formatA formatB with
  | some (_, _, ws) => some ((List.range 128).filter (fun l => bitAt (ws.getD (2 + l / 64) 0) (l % 64)))
  | none => none

/-- The table as the resident pages and the snapshots of the others hold it; an entry that cannot be read takes the values
of R328 and is rewritten at once (R327, R328). -/
def State.loadTables (s : State) : State :=
  let tdir := (List.range 3072).foldl (fun l p => match s.readTwo (tableDir p) (tableDir p + 64) with
    | some (_, _, ws) => Sparse.set mapBlank l p (bitsOf (ws.getD (p % 12 / 2) 0) (if p % 2 = 0 then 32 else 0) 32)
    | none => l) []
  let resident := (List.range 61).filterMap (fun i => match s.readSlr (tableTag i) with
    | some (_, _, ws) => if ws.headD 0 = 0 then none else some (i, ws.headD 0 - 1)
    | none => none)
  let s : State := { s with media := { s.media with tdir := tdir, resident := resident } }
  let here := resident.flatMap (fun r => (pageSbs r.2).map (fun k =>
    let a := tableSlot r.1 + 128 * (k % 128)
    (k, if s.bytesBad a 128 then none else some (s.mramBytes a 128))))
  let away := (tdir.filter (fun e => !resident.any (fun r => r.2 == e.1))).map (fun e => (e.1, s.tableBytes e.1 e.2))
  let there := away.flatMap (fun e => (pageSbs e.1).map (fun k =>
    (k, e.2.map (fun bs => (bs.drop (128 * (k % 128))).take 128))))
  let all := (here ++ there).filter (fun e => e.2 != some (List.replicate 128 0))
  let t := all.foldl (fun (t : State) e => match e.2.bind entryOfBytes with
    | some x => t.putEntry e.1 x
    | none => t) s
  let t := (away.filter (fun e => e.2.isNone)).foldl (fun (t : State) e => t.fault 88 e.1 e.1 false) t
  (all.filter (fun e => (e.2.bind entryOfBytes).isNone)).foldl (fun (t : State) e => t.setEntryK e.1 (t.sbDoubt e.1)) t

/-- The blocks whose bit of MEMBERS is cleared are retired, and so are the LUNs that the format record no longer names
(R335). Log 37 (DEDUCED). -/
def State.loadRetired (s : State) (dies : List Nat) : State :=
  let bs := s.media.table.flatMap (fun e => ((s.setMembers (sbSet e.1)).filter (fun l => !bitAt e.2.members (s.memberOf l))).map
    (fun l => l * 65536 + (2 * sbPair e.1 + sbHalf e.1)))
  let t : State := { s with media := { s.media with
    retiredBlocks := bs, retiredDies := dies,
    good0 := s.media.good0 - (bs.filter (fun b => b % 2 == 0)).length,
    good1 := s.media.good1 - (bs.filter (fun b => b % 2 == 1)).length } }
  (t.setFld MED_RETIRED_BLOCKS (min (2 ^ 24 - 1) bs.length)).setFld MED_RETIRED_DIES dies.length

/-- The pages of a member that are written, from its first one on. -/
def State.writtenPages (s : State) (lun b h : Nat) : Nat :=
  (firstBelow s.ppb (fun p => (s.pageSlots lun b p).all (fun e => (s.flashAt e h).isNone))).getD s.ppb

/-- The superblock that a record names, as far as its members' pages are written. Log 24 (DESIGN CHOICE). -/
def State.sbOfRecord (s : State) (ws : List Nat) : OpenSb :=
  let w := ws.getD 0 0
  let set := bitsOf w 0 4
  let half := bitsOf w 4 1
  let b := bitsOf w 5 14
  let luns := fun (lo : Nat) => (s.setMembers set).filter (fun l => bitAt (bitsOf (ws.getD 1 0) lo 16) (s.memberOf l))
  let fill := (luns 0).map (fun l => (l, s.writtenPages l b half))
  let voids := ((List.range 8).map (fun i => bitsOf (ws.getD (2 + i / 4) 0) (16 * (i % 4)) 16)).filter (fun v => bitAt v 15)
  { set := set, half := half, b := b, first := bitsOf w 24 10, state := bitsOf w 20 3, forMove := bitAt w 34,
    fill := fill.map (fun e => (e.1, 4 * e.2)), iss := fill, prog := fill, erased := luns 16, shut := luns 32,
    toRetire := luns 48, voids := voids.map (fun v => (s.memberLun set (bitsOf v 9 6), bitsOf v 0 9)) }

/-- The superblock records (R306), in their places: one that holds nothing, or was released, has no slots. -/
def State.loadSbs (s : State) : State :=
  { s with media := { s.media with sbs := (List.range 4).map (fun r =>
      match s.readTwo (sbRecAddr r) (sbRecAddr r + 64) with
      | some x => s.sbOfRecord x.2.2
      | none => { set := 0, half := 0, b := 0, first := 0, state := 4, forMove := false, fill := [] }) } }

/-- A superblock that is taken but that no record names has lost both slots of its record: it is closed and verified
without parity (R313). Log 37 (DEDUCED). -/
def State.lostSbs (s : State) : State :=
  let torn := (List.range 4).any (fun r => (s.readTwo (sbRecAddr r) (sbRecAddr r + 64)).isNone && s.mramUsed (sbRecAddr r) 128)
  if !torn then s
  else (s.media.table.filter (fun e => e.2.state == 1 && (s.findSb e.1).isNone)).foldl (fun (t : State) e =>
    let k := e.1
    let fill := (t.sbMembers k).map (fun l => (l, t.writtenPages l (sbPair k) (sbHalf k)))
    let x : OpenSb := {
      set := sbSet k, half := sbHalf k, b := sbPair k, first := 1016, state := 2, forMove := false,
      fill := fill.map (fun e => (e.1, 4 * e.2)), iss := fill, prog := fill, erased := fill.map (·.1) }
    ((t.addSb x).writeSbRecord k).fault 85 k k false) s

/-- The scan record, and the progress record of the background erase (R334, R37). -/
def State.loadScan (s : State) : State :=
  let t : State := match s.readTwo scanA scanB with
    | some (_, _, ws) => { s with media := { s.media with
        pass := ws.getD 0 0, scanNext := ws.getD 1 0, scanSecs := ws.getD 2 0, scanning := ws.getD 1 0 < scanEnd } }
    | none => s
  match t.readTwo progA progB with
  | some (_, _, ws) => { t with media := { t.media with erasing := ws.headD 0 == 1, eraseNext := ws.getD 1 0 } }
  | none => t

/-- Erase a block again, unless its erase waits already. -/
def State.eraseAgain (s : State) (l block sb : Nat) : State :=
  if s.media.ops.any (fun o => o.lun == l && o.kind != 1 && o.block == block) then s
  else s.pushOp { lun := l, kind := if (s.findSb sb).isSome then 2 else 3, block := block, page := 0, sb := sb }

/-- The recovery of one LUN from its in-flight entry: what was cut is void or erased again; and the wordlines to verify,
as superblock, LUN and wordline, with whether the wordline is made void after that (R30, R321). Log 37 (DEDUCED). -/
def State.recoverLun (s : State) (l : Nat) : State × List (Nat × Nat × Nat × Bool) :=
  if s.lunFenced l then (s, [])
  else
    let below := fun (k wl : Nat) => if wl = 0 then [] else [(k, l, wl - 1, false)]
    match s.readSlr (inflightAddr l) with
    | some (_, _, ws) =>
      let w := ws.getD 0 0
      let block := bitsOf w 2 15
      let wl := bitsOf w 26 9
      let k := bitsOf w 35 29
      if bitsOf w 0 2 = 1 ∧ 4 ≤ block then ((s.voidWordline k l wl).writeInflight l 0, below k wl)
      else if bitsOf w 0 2 = 2 ∧ 4 ≤ block then ((s.eraseAgain l block k).writeInflight l 0, [])
      else if bitsOf w 0 2 = 0 then (s, [])
      else (s.writeInflight l 0, [])
    | none =>
      if !s.mramUsed (inflightAddr l) 64 then (s, [])
      else
        let mine := s.heldSbs.filter (fun x => x.fill.any (fun e => e.1 == l))
        let r := mine.foldl (fun (a : State × List (Nat × Nat × Nat × Bool)) x =>
          let k := sbIndex x.set x.b x.half
          let n := atLun x.prog l
          if n = 0 then (a.1.eraseAgain l (2 * x.b + x.half) k, a.2)
          else
            let wl := Config.wordlineOf (n - 1)
            (a.1, a.2 ++ below k wl ++ [(k, l, wl, true)])) (s, [])
        (r.1.writeInflight l 0, r.2)

/-- Members of open superblocks that were not erased yet are erased now (R329). -/
def State.eraseOpen (s : State) : State :=
  (s.media.sbs.filter (fun x => x.state == 1)).foldl (fun (t : State) x =>
    (x.fill.filter (fun e => e.2 == 0 && !x.erased.contains e.1 && !x.shut.contains e.1)).foldl (fun (t : State) e =>
      t.eraseAgain e.1 (2 * x.b + x.half) (sbIndex x.set x.b x.half)) t) s

/-- Read-verify a wordline: its pages that do not decode, by the store or by `pages` in order, are rebuilt; one that is
to be void is so then (R30, R321). -/
def State.verifyWl (a : State × List Bool) (v : Nat × Nat × Nat × Bool) : State × List Bool :=
  match a.1.findSb v.1 with
  | none => a
  | some x =>
    let ps := (List.range (atLun x.prog v.2.1)).filter (fun p => Config.wordlineOf p == v.2.2.1)
    let ok := fun (p : Nat) => (a.1.pageSlots v.2.1 x.b p).all (fun e => a.1.slotReads e x.half)
    let bad := (ps.zip (a.2 ++ List.replicate ps.length true)).filter (fun e => !e.2 || !ok e.1)
    let t := bad.foldl (fun (t : State) e => t.rebuildAt x v.2.1 e.1) a.1
    (if v.2.2.2 then t.voidWordline v.1 v.2.1 v.2.2.1 else t, a.2.drop ps.length)

/-- The channels left with no LUN in use are held as by a software fence (R64). -/
def State.shutChannels (s : State) (ns : List Nat) : State :=
  ns.foldl (fun (t : State) n =>
    { t with media := { t.media with excl := t.media.excl ++ (List.range 16).map (16 * n + ·) } }.setFlag (PG_CTRL_FENCE_REQ (pFCH n)) true)
    s

/-- What LUN `l` answers during media attach. -/
def lunAt (e : StepIn) (l : Nat) : LunIn := e.luns.getD l { ready := true, fits := true }

/-- The LUNs that are there, and those of them that are of the card: all, or the ones of its format (R304). -/
def allLuns (e : StepIn) : List Nat := List.range (min 128 e.luns.length)
def State.lunsHere (s : State) (e : StepIn) : List Nat :=
  match s.formatLuns with
  | some l => (allLuns e).filter l.contains
  | none => allLuns e

/-- Steps 5 and 6 of a channel (R318): the highest rate that its LUNs advertise and MAX_RATE allows, and, above 800 MT/s,
the taps that DQ training finds. -/
def State.trainChannel (s : State) (n rates : Nat) (taps : Nat × Nat) : State :=
  let r := (((List.range 8).filter (fun c => bitAt rates c && c ≤ s.fld (FCH_CFG_MAX_RATE n))).getLast?).getD 0
  let t := ((s.setFld (FCH_TIMING_RATE n) r).setFlag (FCH_TIMING_DDR3 n) true).setFlag (FCH_TIMING_TRAINED n) (4 ≤ r)
  (t.setFld (FCH_DESKEW_RD_DQ n) (if 4 ≤ r then taps.1 else 0)).setFld (FCH_DESKEW_WR_DQ n) (if 4 ≤ r then taps.2 else 0)

/-- Identification of every LUN: those in use, those fenced or excluded, and the rates of the channels (R64, R289, R317,
R318). Log 35 (DEDUCED), 37 (DEDUCED). -/
def State.identify (s : State) (e : StepIn) : State :=
  let here := s.lunsHere e
  let dead := here.filter (fun l => !(lunAt e l).ready)
  let excl := here.filter (fun l => (lunAt e l).ready && !(lunAt e l).fits)
  let luns := here.filter (fun l => if s.formatLuns.isNone then (lunAt e l).ready && (lunAt e l).fits else !excl.contains l)
  let empty := (List.range 8).filter (fun n => !luns.any (fun l => l / 16 == n && (lunAt e l).ready))
  let t : State := { s with media := { s.media with
    luns := luns, excl := excl, pairs := e.blocks / 2, good0 := e.good.1, good1 := e.good.2, param := e.param, retries := min 15 e.retries,
    fw0 := (lunAt e 0).sys, fw16 := (lunAt e 16).sys } }
  let t := if dead.isEmpty && excl.isEmpty && empty.isEmpty && e.param then t else t.setFlag SYS_BRINGUP_DEGRADED true
  let t := (dead.foldl (fun (t : State) l => t.faultFull (7 + 5 * (l / 16)) l 0 false) t).shutChannels empty
  let t := if e.param then t else t.faultFull 90 0 0 false
  (List.range 8).foldl (fun (t : State) n => if empty.contains n then t else t.trainChannel n (e.rates.getD n 0) (e.taps.getD n (0, 0))) t

/-- The recovery of every LUN, the wordlines that it verifies gathered (R30). -/
def State.recoverAll (s : State) : State × List (Nat × Nat × Nat × Bool) :=
  s.media.luns.foldl (fun a l => ((a.1.recoverLun l).1, a.2 ++ (a.1.recoverLun l).2)) (s, [])

/-- The in-flight work of R30, and what steps 8 and 9 left to be read from flash. Log 171 (DESIGN CHOICE). -/
def State.recoverMedia (s : State) (pages : List Bool) : State :=
  let r := s.recoverAll
  (r.2.foldl State.verifyWl (r.1.eraseOpen.readTreeIn.readMapIn, pages)).1.flashGoOn

/-- A spare share that was too low stays so: writes are fenced from bring-up on (R336). Log 183 (DEDUCED). -/
def State.showSpare (s : State) : State :=
  if s.fld MAP_CAP_EXTENTS ≠ 0 ∧ (s.spare 0 < 20 ∨ s.spare 1 < 20) then s.setFlag MED_STAT_WRITE_FENCED true else s

/-- Step 10 of a card: identification, the format, and the recovery of the LUNs; on the locked path
identification only. -/
def State.attachMedia (s : State) (e : StepIn) : State :=
  let t := s.identify e
  if t.boot.locked then t
  else
    let t := (t.noteArea 0x37FF80 0x380000).noteArea 0x380200 0x380600 |>.noteArea 0x3BC000 0x3DC000
    let gone := if s.formatLuns.isNone then []
      else (allLuns e).filter (fun l => !(s.lunsHere e).contains l && (lunAt e l).ready && (lunAt e l).fits)
    (((t.formatCard e t.media.luns).loadSbs.loadTables.loadRetired gone).lostSbs.loadScan).showSpare.recoverMedia e.pages

/-! ## Ports and READY -/

/-- A card has been in its slot for 1 ms (R140, R170). -/
def State.portInsert (s : State) (p : Nat) : State :=
  let t := (s.setFlag (SP_STAT_CARD_PRESENT p) true).fire (EV_SP_CARD_IN p)
  if t.flag (CN_CFG_AUTO_LINKUP p) then t.startLinkup p else t

/-- The card ports of a dock are started (R61, R385). Log 34 (DEDUCED). -/
def State.startPorts (s : State) : State :=
  [0, 1].foldl (fun (t : State) p => if (t.cn p).cdLow && !t.session p then t.portInsert p else t) s.loadMode.readTracks

/-- Step 11: READY or READY_LOCKED (R61, R66, R84, R103, R334, R387, R448). -/
def State.reachReady (s : State) : State :=
  let locked := s.boot.locked
  let t := (s.setFld SYS_BRINGUP_STEP 11).setFlag SYS_BRINGUP_READY_LOCKED locked
  let t := t.setFld SYS_BRINGUP_TIME_TIME_US ((s.uptime - s.boot.started).toNat % 2 ^ 32)
  let t := if t.isCard then t.forceLocks else t
  let t := t.releaseHeld
  let t := t.fire (if locked then EV_SYS_READY_LOCKED else EV_SYS_READY)
  let t := if t.boot.fromWdog && !locked then t.fire EV_RST_MP_WDOG else t
  if locked then t.showErase
  else
    let t := if t.isCard then t.replaySegs.showErase else t
    let t := if t.isCard && t.flag MED_SCAN_CFG_EN && t.flag MED_SCAN_CFG_ON_INSERT then t.startScan else t
    let t := if t.isCard then (t.mustOpen 0).mustOpen 1 else t
    { t with boot := { t.boot with floorTo := t.floorWanted, fromTamper := false } }

/-- The present step ends. A dock on the locked path starts its ports all the same at step 10. Log 34 (DEDUCED). -/
def State.endStep (s : State) (e : StepIn) : State :=
  match s.bootStep with
  | 1 => s.setFld SYS_BRINGUP_STEP 2
  | 2 => s.endStep2 e.pllLocked
  | 3 => s.endStep3 e.fuseOk
  | 4 => s.setFld SYS_BRINGUP_STEP 5
  | 5 => (((s.tamperStep5 e.loop e.switchHigh).mpRestart)).setFld SYS_BRINGUP_STEP 6
  | 6 => s.endStep6 e.katOk
  | 7 => s.endStep7
  | 8 => s.endStep8
  | 9 =>
    let t := s.endStep9
    if t.isDock && t.boot.fromTamper then (t.startPorts).reachReady else t
  | 10 => (if s.isCard then s.attachMedia e else s.startPorts).reachReady
  | _ => s

/-! ## Clearing a tamper (R384, R385) -/

/-- What steps 6 to 10 build anew after a tamper: the stores, but for the queues of a dock and its ports. -/
def State.dropStores (s : State) : State :=
  let t := s.dropVolatile
  { t with
    keys := s.keys, spA := s.spA, spB := s.spB, host := s.host, brg := s.brg, firm := s.firm,
    held := s.held, ringDrop := s.ringDrop, hiLatch := s.hiLatch, injArmed := s.injArmed, flt := s.flt }

/-- The latch is cleared and bring-up runs from step 6. Log 34 (DEDUCED). -/
def State.clearTamper (s : State) : State :=
  let t := (s.setFlag TMP_STAT_LATCHED false).setFld TMP_STAT_CAUSE 0
  let t := ((t.setFlag TMP_STAT_AT_STEP5 false).bump TMP_COUNT_CLEARS).fire EV_TMP_CLEARED
  let t := t.clearOutcome.dropStores
  { t with boot := { poc := false, started := s.uptime, fromPoc := false, fromTamper := true } }.setFld SYS_BRINGUP_STEP 6

/-- What TMP.CTRL does on a dock. -/
def State.tmpCtrl (s : State) (w : Nat) (switchLow : Bool) : State :=
  let s := if switchLow then s.setSwitch false else s
  if bitsOf w 0 16 = 0x7A3C ∧ bitAt w 16 ∧ s.isDock ∧ s.up ∧ s.tamperClearable switchLow then s.clearTamper else s

/-! ## The commands -/

/-- A pull, or a loss of supply, meets a program or an erase (R25): of a program pages of the target wordline and of the one
below it, of an erase any pages of the block, no longer decode. Log 106 (DEDUCED). -/
def State.cutBlock (s : State) (x : CutBlock) : State :=
  match s.media.ops.find? (fun o => o.issued && o.lun == x.lun) with
  | none => s
  | some o =>
    let wl := Config.wordlineOf o.page
    let may := fun (p : Nat) => p < s.ppb && (o.kind != 1 || Config.wordlineOf p == wl || Config.wordlineOf p + 1 == wl)
    let keys := (x.pages.filter may).flatMap (fun p =>
      (s.pageSlots o.lun (o.block / 2) p).map (fun e => slotKey e (o.block % 2)))
    { s with media := { s.media with lost := (s.media.lost ++ keys).eraseDups } }

/-- SUPPLY_LOSS (R25): of the MRAM requests that wait those of `served` were pulsed, and the pulse of `torn` was cut; the
volatile state is gone. Log 106 (DEDUCED). -/
def execSupplyLoss (served : List Nat) (torn : Option TornLine) (hurt : List CutBlock) (s : State) : Result :=
  let t := (hurt.foldl State.cutBlock (s.mramStop served torn)).dropVolatile
  .next { t with
    regs := [], uptime := 0, boot := {}, tamper := {}, cnA := {}, cnB := {}, shadow := [], life := {},
    pins := { strap := t.pins.strap } }

/-- POWER_ON_CLEAR_RELEASE (R48, R8): with RST_N low the chip stays in step 0 (R68). Log 4 (DEDUCED). -/
def execPowerOnClearRelease (s : State) : Result :=
  .next (if !s.boot.poc then s
    else if s.boot.rstLow then s.holdChip true
    else (s.startChip true s.pins.strap).askAtr)

/-- RST_N_LOW (R68): `ns` the length of the low pulse so far; of the MRAM requests that wait those of `served` are still
pulsed, and `pulse` says whether one of them is in progress. -/
def execRstNLow (ns : Nat) (served : List Nat) (pulse : Bool) (s : State) : Result :=
  let between := 200 ≤ ns && ns < 500
  let honoured := 500 ≤ ns || (between && Config.pulseHonoured s.freeCtr)
  let t := if between then s.spend else s
  if !honoured || s.boot.rstLow then .next t
  else
    let t : State := { t with boot := { t.boot with rstLow := true } }
    .next (if t.boot.poc then t else (t.mramStop served none).askReset .rstN pulse)

/-- RST_N_RELEASE (R68): ROLE_SEL is sampled, and bring-up starts once the deferral has ended.
Log 16 (DESIGN CHOICE), 36 (DEDUCED). -/
def execRstNRelease (s : State) : Result :=
  if !s.boot.rstLow then .next s
  else
    let t : State := { s with boot := { s.boot with rstLow := false } }
    .next (if t.boot.poc then t
      else if t.chipWaits then { t with boot := { t.boot with roleAt := some t.pins.strap } }
      else
        let u := t.startChip t.boot.fromPoc t.pins.strap
        if t.boot.fromPoc then u.askAtr else u)

/-- ROLE_SEL_CHANGE (R84, R9). -/
def execRoleSelChange (level : Bool) (s : State) : Result :=
  let t := { s with pins := { s.pins with strap := level } }
  .next (if s.alive && level != s.isDock then t.fire EV_SYS_STRAP_MISMATCH else t)

/-- BRINGUP_STEP_DONE (R61). Log 4 (DEDUCED), 33 (DEDUCED). -/
def execBringupStepDone (e : StepIn) (s : State) : Result :=
  .next (if s.alive && s.bootStep < 11 && !s.boot.stuck && !s.chipWaits && !s.safe then s.endStep e else s)

/-- CHIP_RST (R69): 0xD1E5 starts a chip reset; none in the safe state (R75). -/
def State.chipReset (s : State) (key : Nat) (pulse : Bool) : State :=
  if key % 65536 = 0xD1E5 ∧ 1 ≤ s.bootStep ∧ !s.boot.poc ∧ !s.boot.rstLow ∧ !s.safe then s.askReset .chipSw pulse else s

/-- The command, with the MRAM requests that are still pulsed before the reset. -/
def execChipRst (key : Nat) (served : List Nat) (pulse : Bool) (s : State) : Result :=
  .next ((if key % 65536 = 0xD1E5 ∧ !s.safe then s.mramStop served none else s).chipReset key pulse)

/-- WDOG_CFG.PERIOD as it acts (R86). -/
def State.wdogPeriod (s : State) : Nat := max 4 (min 200 (s.fld MPC_WDOG_CFG_PERIOD))

/-- The watchdog resets the chip: it is armed, and its count has reached the period (R82). -/
def State.wdogDue (s : State) : Bool :=
  s.up && !s.safe && s.flag MPC_WDOG_CFG_ENABLE && !s.mpServes && s.wdogPeriod ≤ s.fld MPC_WDOG_STAT_COUNT_MS

/-- MP_WATCHDOG_EXPIRY (R82), with the MRAM requests that are still pulsed before the reset. -/
def execMpWatchdogExpiry (served : List Nat) (pulse : Bool) (s : State) : Result :=
  .next (if s.wdogDue then (s.mramStop served none).askReset .mpWdog pulse else s)

/-- FLOOR_BURN (R448): the next fuse of the floor starts to burn. -/
def execFloorBurn (s : State) : Result :=
  match s.boot.floorTo with
  | none => .next s
  | some v =>
    if v ≤ s.fwFloor then .next { s with boot := { s.boot with floorTo := none } }
    else if s.ready && s.boot.fuse.isNone && s.boot.waiting.isEmpty && !s.keyHolds && s.ladderUp then
      match (List.range 128).find? (fun i => !s.floorBits.testBit i) with
      | some i => .next { s with boot := { s.boot with fuse := some i } }
      | none => .next s
    else .next s

/-- FUSE_BURN_DONE (R343). -/
def execFuseBurnDone (s : State) : Result :=
  let t := s.endBurn
  .next (match t.boot.floorTo with
    | some v => if v ≤ t.fwFloor then { t with boot := { t.boot with floorTo := none } } else t
    | none => t)

/-- TMP_CTRL_CLEAR (R385). -/
def execTmpCtrlClear (word : Nat) (switchLow : Bool) (s : State) : Result := .next (s.tmpCtrl word switchLow)

end Sys2Proof.Machine
end

