-- ==== Sys2Proof/Machine/RegRead.lean ====
section
/-! DEFINITION. Reading the register window (R87–R97): the registers that show a state held elsewhere, the bits that
a role does not have, the pages that do not answer, and the latched high words. -/

namespace Sys2Proof.Machine

/-! ## Pages that answer (R95–R97) -/

/-- The island of a page is in its own reset, or fenced by a bridge timeout. -/
def State.pageSilent (s : State) (p : Nat) : Bool :=
  s.islandDown (pageIsland s.role p) || s.fenced (.island (pageIsland s.role p))

/-- Records whose stages 5 to 8 have not run. -/
def State.unplaced (s : State) : Bool := s.lnd.recs.any (fun r => r.committed && r.loc.isNone)

/-- PG_STAT.IDLE: no work of the block in flight and none queued. Log 40 (DEDUCED). -/
def State.pageIdle (s : State) (p : Nat) : Bool :=
  if p = pSP 0 ∨ p = pLSE 0 then s.spA.outst.isEmpty && s.spA.dcmds.isEmpty
  else if p = pSP 1 ∨ p = pLSE 1 then s.spB.dcmds.isEmpty
  else if p = pCN 0 then s.cnA.mbx.isNone && (s.cnA.phase == .idle || s.cnA.phase == .done)
  else if p = pCN 1 then s.cnB.mbx.isNone && (s.cnB.phase == .idle || s.cnB.phase == .done)
  else if p = pKEY then s.keys.heldReq.isEmpty && s.boot.fuse.isNone
  else if p = pCMD then s.spA.outst.isEmpty
  else if p = pLND then !s.lnd.recs.any (fun r => !r.committed)
  else if p = pMAP ∨ p = pTRE ∨ p = pCRY then !s.unplaced
  else if p = pPAR then !s.media.sbs.any (fun x => x.state == 2 || x.state == 3)
  else if p = pMED then !s.unplaced && s.media.moves.isEmpty && s.media.moving.isEmpty
  else if 0x18 ≤ p ∧ p ≤ 0x1F then !s.media.ops.any (fun o => o.lun / 16 == p - 0x18)
  else if p = pPCE then s.host.reads.isEmpty && s.host.bells.isEmpty
  else if p = pITU then s.host.inval.isNone && !s.host.reads.any (fun r => match r.use with
    | .walk _ _ _ => true
    | _ => false)
  else if p = pQOS then !s.host.cmds.any (·.wantsGrant)
  else if p = pBRG then s.lnd.recs.isEmpty && s.brg.copying.isNone
  else if 0x40 ≤ p ∧ p ≤ 0x4F then
    !s.spA.outst.any (fun o => o.inst == p - 0x40) &&
    !s.host.cmds.any (fun c => c.inst == p - 0x40) && !s.host.bells.any (fun b => b.inst == p - 0x40)
  else true

/-- PG_STAT.QUIESCED. Log 50 (DEDUCED). -/
def State.quiescedNow (s : State) (p : Nat) : Bool :=
  if s.isDock && 0x40 ≤ p && p ≤ 0x4F then s.fld (INS_STATE_STATE (p - 0x40)) == 2 || s.pageFenced p
  else s.pageQuiesced p

/-- PG_STAT of a page that answers. Log 39 (DEDUCED). -/
def State.pgStat (s : State) (p : Nat) : Nat :=
  (s.up && s.pageIdle p).toNat + 2 * (s.quiescedNow p).toNat + 4 * (s.pageFenced p).toNat +
  8 * (s.flag (PG_STAT_RST_BUSY p)).toNat + 16 * (s.flag (PG_STAT_RST_REFUSED p)).toNat

/-! ## Values held elsewhere, page by page -/

/-- Fields of `w` bits side by side, the first lowest. -/
def packFields (w : Nat) (vs : List Nat) : Nat := vs.foldr (fun v a => v % 2 ^ w + 2 ^ w * a) 0

/-- The sources of a page in ascending order. -/
def pageSources (r : Role) (p : Nat) : List Nat := (List.range 128).filter (fun n => srcPresent r n && srcPage n == p)

/-- FLT_STAT of a page (R99). -/
def State.fltStat (s : State) (p : Nat) : Nat :=
  packFields 1 ((pageSources s.role p).map (fun n => (s.flag (FLT_SRC_STAT_ASSERTED n)).toNat))

def State.viewSys (s : State) (o : Nat) : Option Nat :=
  if o = 0x4C then some ((match s.role with | .card => 0 | .dock => 1) + 2 * s.pins.strap.toNat)
  else if o = 0x50 then some (s.serial % 2 ^ 32)
  else if o = 0x54 then some (s.serial / 2 ^ 32)
  else if o = 0x58 then some (s.uptime.toNat % 2 ^ 32)
  else if o = 0x5C then some (s.uptime.toNat / 2 ^ 32)
  else if o = 0x64 then some (bitsOfList 4 (fun n =>
    if bitAt (s.fld SYS_GPIO_CTRL_OE) n then bitAt (s.fld SYS_GPIO_CTRL_OUT) n else bitAt s.pins.gpio n))
  else none

/-- The state of an island in CLK.ISL_STAT (R440). Log 39 (DEDUCED). -/
def State.islState (s : State) (i : Nat) : Nat :=
  let pll := i != islAON && i != islFLT && i != islPCIE
  if !islandRuns s.role i || 21 ≤ i then 0
  else if s.islandDown i then 5
  else if pll && s.flag CLK_PLL_STAT_RELOCKING then 4
  else if pll && s.powerState == 3 then 3
  else if bitsOf (s.reg (rCLK_ISL_STAT (i / 8)).off).toNat (4 * (i % 8)) 4 = 2 then 2 else 1

/-- Log 67 (DEDUCED). -/
def State.viewClk (s : State) (o : Nat) : Option Nat :=
  if 0x44 ≤ o ∧ o < 0x50 then some (packFields 4 ((List.range 8).map (fun j => s.islState (8 * ((o - 0x44) / 4) + j))))
  else none

/-- CARD: port A in clock stop; DOCK: every port in clock stop or without a card (R428). -/
def State.allStopped (s : State) : Bool :=
  [0, 1].all (fun p => !s.isPort p || s.flag (SP_STAT_CLK_STOPPED p) ||
    (s.isDock && !s.flag (SP_STAT_CARD_PRESENT p)))

/-- The power state: STOPPED is a RUN without link traffic. -/
def State.viewPwr (s : State) (o v : Nat) : Option Nat :=
  if o = 0x40 ∧ s.up ∧ s.powerState = 0 ∧ s.allStopped then some (v + 1) else none

/-- The pages of a summary word with a pending event (R110). -/
def State.evtSum (s : State) (first n : Nat) : Nat :=
  bitsOfList n (fun i => pagePresent s.role (first + i) && (s.reg (rEVT_PEND (first + i)).off) != 0)

def State.viewEvt (s : State) (o : Nat) : Option Nat :=
  if o = 0x40 then some (s.evtSum 0 32) else if o = 0x44 then some (s.evtSum 0x20 5) else none

def State.viewFlt (s : State) (o : Nat) : Option Nat :=
  if 0x40 ≤ o ∧ o < 0x50 then some (bitsOfList 32 (fun i => s.flag (FLT_SRC_STAT_STATUS (8 * (o - 0x40) + i))))
  else if 0x50 ≤ o ∧ o < 0x60 then some (bitsOfList 32 (fun i => s.flag (FLT_SRC_STAT_ASSERTED (8 * (o - 0x50) + i))))
  else if o = 0x78 then
    let n := fun (f : Nat → Bool) => min 255 ((List.range 128).filter f).length
    some (n (fun i => s.flag (FLT_SRC_STAT_STATUS i)) + 256 * min 255 s.fencesNow +
      65536 * n (fun i => s.flag (FLT_SRC_STAT_LATCHED i)))
  else none

/-- The keys held (R372). -/
def State.keysLoaded (s : State) : Nat :=
  bitsOfList 16 (fun n => !(s.imk n).isEmpty) + 2 ^ 16 * (!s.keys.jnk.isEmpty).toNat + 2 ^ 17 * (!s.keys.trk.isEmpty).toNat +
  2 ^ 18 * (!s.keys.slk.isEmpty).toNat + 2 ^ 19 * (!s.keys.p0.isEmpty).toNat + 2 ^ 20 * (!s.keys.p1.isEmpty).toNat

/-- The eight bits of a port's link slot. -/
def State.linkSlot (s : State) (p : Nat) : Nat :=
  if !s.isPort p || !s.session p then 0
  else (!(s.sp p).key.isEmpty).toNat + 2 * (!(s.sp p).nextKey.isEmpty).toNat + 4 * s.fld (LSE_STAT_EPOCH p) +
    16 * (if s.flag (LSE_STAT_NEXT_HELD p) then s.fld (LSE_STAT_NEXT_EPOCH p) else 0)

/-- The fuse word selected for reading; words 0 to 3 and those beyond the array read zero. -/
def State.otpSelected (s : State) : Nat :=
  let w := s.fld KEY_OTP_SEL_WORD
  if w < 56 then s.shadowWord w else 0

def State.viewKey (s : State) (o : Nat) : Option Nat :=
  if o = 0x44 then some s.keysLoaded
  else if o = 0x54 then some (s.linkSlot 0 + 256 * s.linkSlot 1)
  else if o = 0x5C then some (s.fld KEY_RNG_STAT_FAILS + 65536 * (s.flag KEY_STAT_RNG_OK && s.rngUp).toNat)
  else if o = 0x84 then some (s.otpSelected % 2 ^ 32)
  else if o = 0x88 then some (s.otpSelected / 2 ^ 32)
  else none

def State.viewLck (s : State) (o : Nat) : Option Nat :=
  if o = 0x40 then some (bitsOfList 17 s.lockSet)
  else if o = 0x48 then some (packFields 4 ((List.range 8).map s.lockFails))
  else if o = 0x4C then some (packFields 4 ((List.range 8).map (fun k => s.lockFails (8 + k))))
  else if o = 0x50 then some (s.lockFails 16)
  else none

def State.viewLse (s : State) (n o : Nat) : Option Nat :=
  let x := s.sp n
  let half := fun (v : Nat) (hi : Bool) => if hi then v / 2 ^ 32 % 2 ^ 32 else v % 2 ^ 32
  if o = 0x48 ∨ o = 0x4C then some (half x.cmdFc (o == 0x4C))
  else if o = 0x50 ∨ o = 0x54 then some (half x.rspFc (o == 0x54))
  else if o = 0x58 ∨ o = 0x5C then some (half x.units (o == 0x5C))
  else none

/-- Log 64 (DEDUCED). -/
def State.viewSp (s : State) (n o : Nat) : Option Nat :=
  if o = 0x40 then
    let k := if s.isCard then s.spA.outst.length else (s.dockSent n).length
    let w := (s.reg (rSP_STAT n).off).toNat
    some (insBits (insBits (BitVec.ofNat 32 w) 5 1 (k == 0 : Bool).toNat) 16 8 (min 255 k)).toNat
  else none

/-- CCLK of a dock rests after a response while CCLK_STOP is set (R145). -/
def State.cclkRests (s : State) (n : Nat) : Bool := s.isDock && s.flag (CN_CFG_CCLK_STOP n) && (s.cn n).rested

def State.viewCn (s : State) (n o v : Nat) : Option Nat :=
  if o = 0x4C ∧ s.cclkRests n then some 0
  else if o = 0x54 then some ((insBits (BitVec.ofNat 32 v) 0 2 ((s.pairUsed 0).toNat + 2 * (s.pairUsed 1).toNat)).toNat)
  else none

def State.viewLnd (s : State) (o : Nat) : Option Nat :=
  if o = 0x44 then some (s.usedLines % 2 ^ 19 + 2 ^ 19 * (s.flag LND_JSTAT_FULL).toNat)
  else if o = 0x48 then some s.lnd.head
  else if o = 0x4C then some s.anchorLine
  else if o = 0x50 then some (min 65535 s.lnd.recs.length)
  else if o = 0x54 then some (s.lnd.seq % 2 ^ 32)
  else if o = 0x58 then some (s.lnd.seq / 2 ^ 32)
  else if o = 0x5C then some (s.lnd.lap % 2 ^ 32)
  else if o = 0x78 then some (min 255 s.journalWear)
  else if o = 0x7C then some s.lnd.bad.length
  else none

/-- Log 65 (DEDUCED). -/
def State.viewMap (s : State) (o : Nat) : Option Nat :=
  if o = 0x48 then some (s.mapS.cache.length + 65536 * s.mapDirty)
  else if o = 0x50 then some (s.deltaUsed + 2 ^ 15 * (s.flag MAP_DLOG_STAT_FULL).toNat)
  else if o = 0x54 then some s.mapS.head
  else if o = 0x58 then some s.mapS.tail
  else if o = 0x5C then some (s.mapS.dsn % 2 ^ 32)
  else if o = 0x60 then some (s.mapS.dsn / 2 ^ 32)
  else if o = 0x64 then some (s.reserveOf 0 + 65536 * s.reserveOf 1)
  else none

def State.viewTre (s : State) (o : Nat) : Option Nat :=
  if o = 0x54 then some (s.tree.cache.length + 65536 * s.tree.dirty.length)
  else if o = 0x60 then some (s.tree.maxCtr % 2 ^ 32)
  else if o = 0x64 then some (s.tree.maxCtr / 2 ^ 32)
  else none

def State.viewCry (s : State) (o v : Nat) : Option Nat :=
  if o = 0x40 then
    let lane := fun (k : Nat) => 6 < s.bootStep && s.flag CRY_STAT_KAT_PASS && !s.fenced (.engine pCRY k) &&
      !s.islandDown islTREE && !s.fenced (.island islTREE)
    some (bitsOf v 2 1 * 4 + (s.isCard && lane 1).toNat + 2 * (lane 2).toNat)
  else none

/-- The segment of the instance SEG.SEL names. -/
def State.segSel (s : State) : Option Segment := s.segOf (s.fld SEG_SEL_INST)

def State.viewSeg (s : State) (o : Nat) : Option Nat :=
  let get := fun (f : Segment → Nat) => match s.segSel with
    | some x => f x
    | none => 0
  if o = 0x40 then some (bitsOfList 16 (fun n => (s.segOf n).isSome))
  else if o = 0x4C then some (get (fun x => x.first % 2 ^ 32))
  else if o = 0x50 then some (get (fun x => x.first / 2 ^ 32))
  else if o = 0x54 then some (get (fun x => x.next % 2 ^ 32))
  else if o = 0x58 then some (get (fun x => x.next / 2 ^ 32))
  else if o = 0x5C then some (get (fun x => 1 + 256 * min 255 x.ahead.length))
  else if o = 0x60 then some (get (·.other))
  else none

/-- Per cent of a retention pass that is done. -/
def State.scanPct (s : State) : Nat :=
  let n := s.dataSbs.length
  if !s.media.scanning then 0
  else if n = 0 then 100 else 100 * (s.dataSbs.filter (fun k => k < s.media.scanNext)).length / n

def State.viewMed (s : State) (o v : Nat) : Option Nat :=
  if o = 0x64 then
    let busy := !s.media.moving.isEmpty || !s.media.moves.isEmpty
    some (busy.toNat + 2 * s.media.scanning.toNat + bitsOf v 2 1 * 4 + 8 * s.media.retiring.isSome.toNat +
      256 * s.scanPct)
  else if o = 0x68 then some (min 65535 s.eraseRange.1 + 65536 * min 65535 s.eraseRange.2)
  else if o = 0x6C then some (s.spare 0 + 65536 * s.spare 1)
  else if o = 0x78 then some (v / 64 * 64 + min 61 s.media.resident.length)
  else if 0x80 ≤ o ∧ o < 0x90 then some (bitsOfList 32 (fun i => s.media.luns.contains (8 * (o - 0x80) + i)))
  else none

/-- SB_k: the superblock of record slot `k`. -/
def State.sbWord (s : State) (k : Nat) : Nat :=
  match s.media.sbs[k]? with
  | none => 0
  | some x =>
    let room := 4 * s.ppb * x.fill.length
    let n := x.fill.foldl (fun a e => a + e.2) 0
    x.set + 16 * x.half + 32 * x.b + 2 ^ 20 * (x.state % 8) + 2 ^ 23 * (if room = 0 then 0 else 100 * n / room)

def State.viewPar (s : State) (o : Nat) : Option Nat :=
  if o = 0x48 then some (s.freeSlots + 65536 * (1016 - s.freeSlots))
  else if o = 0x4C then some (min 7 (s.media.sbs.filter (fun x => x.state == 1)).length +
    8 * min 7 (s.media.sbs.filter (fun x => x.state == 2 || x.state == 3)).length)
  else if 0x60 ≤ o ∧ o < 0x70 then some (s.sbWord ((o - 0x60) / 4))
  else none

/-- LUN_STAT of a LUN: 0 absent, 1 in use, 2 fenced, 3 retired. -/
def State.lunStat (s : State) (l : Nat) : Nat :=
  if s.media.retiredDies.contains l then 3
  else if s.media.excl.contains l || (s.lunFenced l && (s.media.luns.contains l || s.fenced (.die l))) then 2
  else if s.media.luns.contains l then 1 else 0

def State.viewFch (s : State) (n o : Nat) : Option Nat :=
  if o = 0x48 then some (packFields 2 ((List.range 16).map (fun m => s.lunStat (16 * n + m)))) else none

def State.viewPce (s : State) (o : Nat) : Option Nat := if o = 0x60 then some s.host.cmds.length else none

/-- Misses of the last complete millisecond (R256). -/
def State.ituMisses (s : State) : Nat :=
  let ms := s.uptime.toNat / 1000
  if s.host.missMs = ms then s.fld ITU_STAT_MISSES
  else if s.host.missMs + 1 = ms then min 65535 s.host.missCnt else 0

def State.viewItu (s : State) (o : Nat) : Option Nat :=
  if o = 0x44 then some (s.host.tlb.length + 65536 * s.ituMisses) else none

/-- A signed count saturated to 16 bits. -/
def sat16 (x : Int) : Nat :=
  let y := max (-32768) (min 32767 x)
  (y % 65536).toNat

def State.viewQos (s : State) (o : Nat) : Option Nat :=
  if 0x100 ≤ o ∧ o < 0x200 ∧ o % 16 = 0xC then
    let q := s.qosOf ((o - 0x100) / 16)
    some (sat16 (q.bytes / (4096 * 1000000)) + 65536 * sat16 (q.ops / 1000000))
  else none

def State.viewBrg (s : State) (o v : Nat) : Option Nat :=
  let t0 := s.brg.track0
  let t1 := s.brg.track1
  if o = 0x44 then some ((insBits (BitVec.ofNat 32 v) 0 2
    ((!s.brg.carrying.isEmpty).toNat + 2 * s.brg.copying.isSome.toNat)).toNat)
  else if o = 0x48 then some (min 65535 s.lnd.recs.length + 65536 * (100 * s.usedLines / ringLines s.role))
  else if o = 0x54 then some (t0.serial % 2 ^ 32)
  else if o = 0x58 then some (t0.serial / 2 ^ 32)
  else if o = 0x5C then some (t1.serial % 2 ^ 32)
  else if o = 0x60 then some (t1.serial / 2 ^ 32)
  else if o = 0x64 then some (t0.inUse.toNat + 2 * t1.inUse.toNat)
  else if o = 0x68 then some (runCount t0.bits)
  else if o = 0x6C then some (runCount t1.bits)
  else if o = 0x8C then some ((insBits (BitVec.ofNat 32 v) 8 8 s.fwFloor).toNat)
  else none

/-- INS_nn.STATE on a card (R254, R258). -/
def State.instState (s : State) (n : Nat) : Nat :=
  if !s.configured n then 0
  else if s.fenced (.inst n) || s.flag (PG_CTRL_FENCE_REQ (pINS n)) then 4
  else if s.quiesceAsked (pINS n) then (if s.flag (PG_STAT_QUIESCED (pINS n)) then 3 else 2)
  else 1

def State.viewIns (s : State) (n o v : Nat) : Option Nat :=
  match s.role with
  | .card =>
    if o = 0x40 then some (s.instState n)
    else if o = 0x110 then some ((insBits (BitVec.ofNat 32 v) 0 16
      (s.spA.outst.filter (fun c => c.inst == n)).length).toNat)
    else none
  | .dock =>
    if o = 0x40 then some ((insBits (BitVec.ofNat 32 v) 16 13
      (s.host.cmds.filter (fun c => c.inst == n)).length).toNat)
    else if 0x80 ≤ o ∧ o < 0xC0 ∧ o % 16 = 0xC then
      some ((insBits (BitVec.ofNat 32 v) 30 1 (s.sqLive n ((o - 0x80) / 16)).toNat).toNat)
    else none

/-! ## One register -/

/-- What a register shows of a state held elsewhere; `v` is what it stores. Log 65 (DEDUCED). -/
def State.view (s : State) (p o v : Nat) : Option Nat :=
  if o = 0x0C then some (s.pgStat p)
  else if o = 0x20 then some (s.fltStat p)
  else if o < 0x40 then none
  else match p with
  | 0x00 => s.viewSys o
  | 0x02 => s.viewClk o
  | 0x03 => s.viewPwr o v
  | 0x04 => s.viewEvt o
  | 0x05 => s.viewFlt o
  | 0x07 => s.viewKey o
  | 0x08 => s.viewLck o
  | 0x09 => s.viewLse 0 o
  | 0x0A => s.viewLse 1 o
  | 0x0B => s.viewSp 0 o
  | 0x0C => s.viewSp 1 o
  | 0x0D => s.viewCn 0 o v
  | 0x0E => s.viewCn 1 o v
  | 0x10 => s.viewLnd o
  | 0x11 => s.viewMap o
  | 0x12 => s.viewTre o
  | 0x13 => s.viewCry o v
  | 0x14 => s.viewSeg o
  | 0x15 => s.viewMed o v
  | 0x16 => s.viewPar o
  | 0x20 => s.viewPce o
  | 0x21 => s.viewItu o
  | 0x22 => s.viewQos o
  | 0x23 => s.viewBrg o v
  | p => if 0x18 ≤ p ∧ p ≤ 0x1F then s.viewFch (p - 0x18) o
    else if 0x40 ≤ p ∧ p ≤ 0x4F then s.viewIns (p - 0x40) o v else none

/-- The bits of a register that a role has: fields of the other role read zero and ignore writes (R85, R145,
R199, R200). -/
def roleBits (r : Role) (p o : Nat) : Nat :=
  let all := 2 ^ 32 - 1
  match r with
  | .card =>
    if p = pCN 0 then
      (if o = 0x40 then 0x7 else if o ≤ 0x54 ∨ (0x60 ≤ o ∧ o < 0x70) then all else 0)
    else if p = pSP 0 then
      (if o = 0x40 then all - 128 else if o = 0x44 ∨ o = 0x4C ∨ o = 0x50 ∨ o = 0x54 ∨ o = 0x74 then 0 else all)
    else if p = pLSE 0 then (if o = 0x40 then 0xFF00 else all)
    else if p = pRST then (if o = 0x4C ∨ o = 0x50 then 0xFFFF else all)
    else if p = pPWR then (if o = 0x40 then all - 0x3000 else all)
    else all
  | .dock =>
    if p = pCN 0 ∨ p = pCN 1 then (if o = 0x44 then all - 2 ^ 18 else if o = 0x54 then 0 else all) else all

/-- The register exists in the role and can be read. -/
def regThere (r : Role) (p o : Nat) : Bool :=
  if o < 0x40 then o % 4 == 0 && o ≤ 0x2C && o != 0x1C && o != 0x28
  else match findRow (pageRows p) o with
  | some (row, _) => rowInRole r row.role && row.readable
  | none => false

/-- The registers wider than 32 bits: their low words (R90). Log 63 (DEDUCED). -/
def lowWords : List Nat :=
  [0x00058, 0x00050, 0x0604C, 0x07084, 0x09048, 0x09050, 0x09058, 0x0A048, 0x0A050, 0x0A058, 0x10054, 0x1105C, 0x1204C,
   0x12060, 0x1404C, 0x14054, 0x21058, 0x23054, 0x2305C]

/-- The 32-bit word of a register that a page which answers holds. -/
def State.wordAt (s : State) (p o : Nat) : Nat :=
  let v := (s.reg (4096 * p + o)).toNat
  (s.view p o v).getD v % 2 ^ 32 &&& roleBits s.role p o

/-- What a read of the window returns (R87–R97). -/
def State.regWord (s : State) (off : Nat) : Nat :=
  let p := off / 4096 % 256
  let o := off % 4096 / 4 * 4
  if (pageCode p).isNone then 0
  else if o = 0x00 then pageId p
  else if o = 0x04 then pageVer p
  else if !pagePresent s.role p then (if o = 0x0C then 0x20 else 0)
  else if s.pageSilent p then
    (if o = 0x0C then (if s.islandDown (pageIsland s.role p) then 8 else 6) else 0)
  else if !regThere s.role p o then 0
  else if lowWords.contains (4096 * p + o - 4) then
    (match s.hiLatch.find? (fun e => e.1 == 4096 * p + o) with
     | some e => e.2.toNat
     | none => if p = pSYS ∧ o = 0x5C then 0 else s.wordAt p o)
  else s.wordAt p o

/-- Read a register: a low word latches its high word, and nothing else changes (R90). -/
def State.regRead (s : State) (off : Nat) : Nat × State :=
  let lo := off % 1048576 / 4 * 4
  let v := s.regWord lo
  if lowWords.contains lo ∧ pagePresent s.role (lo / 4096) ∧ !s.pageSilent (lo / 4096) then
    (v, { s with hiLatch := s.hiLatch.filter (fun e => e.1 != lo + 4) ++
      [(lo + 4, BitVec.ofNat 32 (s.wordAt ((lo + 4) / 4096) ((lo + 4) % 4096)))] })
  else (v, s)

end Sys2Proof.Machine
end

