-- ==== Sys2Proof/Machine/Pages.lean ====
section
/-! DEFINITION. What the header of a page does (R93–R101), quiescing and fencing by software (R96), block resets
(R76), and the event rings (R105, R110). -/

namespace Sys2Proof.Machine

/-- A page takes a register write: present, and its island answers (R95, R97). -/
def State.pageTakes (s : State) (p : Nat) : Bool := pagePresent s.role p && !s.pageSilent p && s.alive

/-- Bits of an event register that a page defines. -/
def evtBits (p v : Nat) : Nat := v % 2 ^ evtCount p

/-! ## Events by register (R98) -/

/-- EVT_PEND: a 1 clears the pending bit and the raw bit. -/
def State.pendClear (s : State) (p mask : Nat) : State :=
  let keep := ~~~(BitVec.ofNat 32 (evtBits p mask))
  let t := (s.setReg (rEVT_PEND p).off (s.reg (rEVT_PEND p).off &&& keep)).setReg (rEVT_RAW p).off
    (s.reg (rEVT_RAW p).off &&& keep)
  { t with held := t.held.filter (fun h => !(h.hidden && h.page == p && bitAt (evtBits p mask) h.bit)) }

/-- An event that is raw and not pending is delivered once, as if what its mask hid had fired at this moment.
The copy of a VF does not depend on the masks of the PF and is not made again (R98, R108). Log 54 (DESIGN CHOICE). -/
def State.deliverRaw (s : State) (p k : Nat) : State :=
  if !s.flag (bitFld (rEVT_RAW p).off k) || s.flag (bitFld (rEVT_PEND p).off k) || !s.up then s
  else
    let h := (s.held.find? (HeldEvent.hides p k)).getD ⟨p, k, none, 0, 0, false, s.uptime, evtBase p + k, true⟩
    let t : State := { s with held := s.held.filter (fun h => !h.hides p k) }
    if 0x40 ≤ p then t.instDeliver (p - 0x40) h.id h.detailA h.detailB h.test s.uptime
    else (t.raisePend (p, k)).record (p, k) h.inst h.detailA h.detailB h.test s.uptime

/-- EVT_MASK: bits that go from 0 to 1 deliver what is raw. -/
def State.maskWrite (s : State) (p mask : Nat) : State :=
  let old := (s.reg (rEVT_MASK p).off).toNat
  let new := evtBits p mask
  let t := s.setReg (rEVT_MASK p).off (BitVec.ofNat 32 new)
  (List.range (evtCount p)).foldl (fun (t : State) k => if bitAt new k && !bitAt old k then t.deliverRaw p k else t) t

/-- EVT_SET: each event named fires with TEST. The instance that an event marked I carries, and the ID in the record
of an instance's ring, are free values. Log 54 (DESIGN CHOICE). -/
def State.evtTest (s : State) (p mask : Nat) : State :=
  (List.range (evtCount p)).foldl (fun (t : State) k =>
    if !bitAt mask k then t
    else if 0x40 ≤ p then
      (if t.isDock && p != 0x40 then
        t.spend.instFire (p - 0x40) (Config.testId t.freeCtr).toNat 0 0 true t.uptime
      else t)
    else if evtOfInst p k then t.spend.fireFull (p, k) (some (Config.testInst t.freeCtr).toNat) 0 0 true
    else t.fireFull (p, k) none 0 0 true) s

/-! ## Injection (R100) -/

/-- Pages without checkers: INJ_CTRL reads zero and ignores writes (R258, R401–R403, R439). -/
def noChecker (p : Nat) : Bool := p == pTMP || p == pLCK || p == pSEG || p == pPWR || 0x40 ≤ p

/-- INJ_ARM. -/
def State.armInject (s : State) (p key : Nat) : State :=
  let t := s.touchPage p
  if key % 65536 = 0x5A1D then { t with injArmed := t.injArmed ++ [p] } else t

/-- INJ_CTRL, taken only when armed and the page is not locked. -/
def State.injWrite (s : State) (p w : Nat) : State :=
  let t := s.touchPage p
  if s.injArmed.contains p && !s.flag (PG_LOCK_LOCK p) && !noChecker p then
    t.setReg (rINJ_CTRL p).off (BitVec.ofNat 32 w &&& 0x00FF03FF#32)
  else t

/-! ## The rings (R105, R110, R258) -/

/-- Advance RING_TAIL; a write past the unread records stops at the head. In a full ring a write of the tail's own
index consumes nothing. Log 158 (DESIGN CHOICE). -/
def State.ringTailWrite (s : State) (index : Nat) : State :=
  let n := s.fld EVT_RING_STAT_COUNT
  let adv := (index % 64 + 64 - s.fld EVT_RING_TAIL_INDEX) % 64
  if adv ≤ n then (s.setFld EVT_RING_TAIL_INDEX index).setFld EVT_RING_STAT_COUNT (n - adv)
  else (s.setFld EVT_RING_TAIL_INDEX (s.fld EVT_RING_HEAD_INDEX)).setFld EVT_RING_STAT_COUNT 0

/-- RING_CLR. -/
def State.ringClear (s : State) (key : Nat) : State :=
  if key % 65536 = 0xC1EA then
    (s.setFld EVT_RING_TAIL_INDEX (s.fld EVT_RING_HEAD_INDEX)).setFld EVT_RING_STAT_COUNT 0
  else s

/-- The tail of an instance's own ring, on a dock. -/
def State.instTailWrite (s : State) (n index : Nat) : State :=
  let k := s.fld (INS_RING_STAT_COUNT n)
  let adv := (index % 16 + 16 - s.fld (INS_RING_TAIL_INDEX n)) % 16
  if adv ≤ k then (s.setFld (INS_RING_TAIL_INDEX n) index).setFld (INS_RING_STAT_COUNT n) (k - adv)
  else (s.setFld (INS_RING_TAIL_INDEX n) (s.fld (INS_RING_HEAD_INDEX n))).setFld (INS_RING_STAT_COUNT n) 0

/-! ## Quiescing an instance on the dock (R251, R252) -/

/-- QUIESCE: an instance in RUN stops fetching, and what has not started completes. Log 57 (DESIGN CHOICE). -/
def State.instQuiesce (s : State) (n : Nat) : State :=
  let t := s.setFlag (PG_CTRL_QUIESCE_REQ (pINS n)) true
  if s.fld (INS_STATE_STATE n) = 0 then ((t.setFld (INS_STATE_STATE n) 1).abortUnstarted n 0x31).pump else t

/-- RESUME, from QUIESCED; an instance whose page is out of service stays QUIESCED until ENABLE is 1 again (R96).
Log 57 (DESIGN CHOICE). -/
def State.instResume (s : State) (n : Nat) : State :=
  if s.fld (INS_STATE_STATE n) = 2 then
    let t := s.setFlag (PG_CTRL_QUIESCE_REQ (pINS n)) false
    if t.flag (PG_CTRL_ENABLE (pINS n)) then t.setFld (INS_STATE_STATE n) 0 else t
  else s

/-- ENABLE returns to 1: the instance leaves quiesce, finished or under way, unless QUIESCE_REQ asks for it (R96). -/
def State.instEnable (s : State) (n : Nat) : State :=
  if !s.flag (PG_CTRL_QUIESCE_REQ (pINS n)) && (s.fld (INS_STATE_STATE n) == 1 || s.fld (INS_STATE_STATE n) == 2) then
    s.setFld (INS_STATE_STATE n) 0
  else s

/-! ## PG_CTRL (R76, R96) -/

/-- The page of an instance on a dock. Log 57 (DESIGN CHOICE). -/
def State.dockInst (s : State) (p : Nat) : Bool := s.isDock && 0x40 ≤ p && p ≤ 0x4F

/-- QUIESCED falls unless quiesce is still asked for. Log 56 (DEDUCED). -/
def State.leaveQuiesce (s : State) (p : Nat) : State :=
  if s.quiesceAsked p then s
  else
    let t := s.setFlag (PG_STAT_QUIESCED p) false
    if p = pKEY then t.keyResume else t

/-- QUIESCE_REQ. Log 58 (DEDUCED). -/
def State.setQuiesce (s : State) (p : Nat) (on : Bool) : State :=
  if s.dockInst p then (if on then s.instQuiesce (p - 0x40) else s.instResume (p - 0x40))
  else (s.setFlag (PG_CTRL_QUIESCE_REQ p) on).leaveQuiesce p

/-- ENABLE; ignored on the fixed pages. -/
def State.setEnable (s : State) (p : Nat) (on : Bool) : State :=
  if pageFixed p || on == s.flag (PG_CTRL_ENABLE p) then s
  else
    let t := s.setFlag (PG_CTRL_ENABLE p) on
    if s.dockInst p then
      (if on then (t.instEnable (p - 0x40)).pump
       else if s.fld (INS_STATE_STATE (p - 0x40)) = 0 then
         ((t.setFld (INS_STATE_STATE (p - 0x40)) 1).abortUnstarted (p - 0x40) 0x31).pump
       else t)
    else t.leaveQuiesce p

/-- What a fence by software does. Log 55 (DEDUCED). -/
def State.softFence (s : State) (p : Nat) : State :=
  if 0x40 ≤ p ∧ p ≤ 0x4F then s.fenceInst (p - 0x40)
  else if p = pSP 0 ∨ p = pSP 1 then s.fencePort (p - pSP 0)
  else if p = pLSE 0 ∨ p = pLSE 1 then s.fencePort (p - pLSE 0)
  else if 0x18 ≤ p ∧ p ≤ 0x1F then s.lunsLost (fun l => l / 16 == p - 0x18)
  else s

/-- What its end does, once no fault holds the unit. Log 56 (DEDUCED). -/
def State.softRestore (s : State) (p : Nat) : State :=
  if s.pageFaultFenced p then s
  else if 0x40 ≤ p ∧ p ≤ 0x4F then s.restoreUnit 0 (.inst (p - 0x40))
  else if p = pSP 0 ∨ p = pSP 1 ∨ p = pLSE 0 ∨ p = pLSE 1 then
    let n := if p = pSP 1 ∨ p = pLSE 1 then 1 else 0
    if s.portFenced n || s.softHeld (.port n 0) then s else s.restoreUnit 0 (.port n 0)
  else if p = pCN 0 ∨ p = pCN 1 then s.clearCn (p - pCN 0)
  else if 0x18 ≤ p ∧ p ≤ 0x1F then s
  else s.resetBlock p

/-- FENCE_REQ; ignored on the fixed pages. Log 55 (DEDUCED). -/
def State.setFence (s : State) (p : Nat) (on : Bool) : State :=
  if pageFixed p || on == s.flag (PG_CTRL_FENCE_REQ p) then s
  else
    let t := s.setFlag (PG_CTRL_FENCE_REQ p) on
    if on then (if s.pageFaultFenced p then t else t.softFence p) else t.softRestore p

/-- BLK_RST_REQ (R74–R77): refused unless the page was quiesced at the write, before step 11, and in the safe state.
Log 50 (DEDUCED). -/
def State.askBlockReset (s : State) (p : Nat) (quiet : Bool) : State :=
  if !s.alive then s
  else
    let t := s.setFld RST_BLK_RST_LAST_PAGE p
    if !s.up || s.safe || pageNoBlockReset p || !quiet then
      ((t.setFlag (PG_STAT_RST_REFUSED p) true).setFlag RST_BLK_RST_LAST_REFUSED true).fire EV_RST_BLK_REFUSED
    else
      ((t.setFlag RST_BLK_RST_LAST_REFUSED false).setFlag (PG_STAT_RST_BUSY p) true).setFlag (PG_CTRL_BLK_RST_REQ p) true

/-- Any write to PG_CTRL clears RST_REFUSED. -/
def State.clearRefused (s : State) (p : Nat) : State := s.setFlag (PG_STAT_RST_REFUSED p) false

/-- A write of PG_CTRL. -/
def State.pgCtrlWrite (s : State) (p w : Nat) : State :=
  let quiet := s.quiescedNow p
  let t := ((((s.clearRefused p).setQuiesce p (bitAt w 1)).setEnable p (bitAt w 0)).setFence p (bitAt w 3))
  if bitAt w 2 then t.askBlockReset p quiet else t

/-- Work of a block that a quiesce waits for (R96, R254, R277). Log 40 (DEDUCED). -/
def State.inFlight (s : State) (p : Nat) : Bool :=
  if p = pSP 0 ∨ p = pLSE 0 then !s.spA.outst.isEmpty || !(s.dockSent 0).isEmpty
  else if p = pSP 1 ∨ p = pLSE 1 then !(s.dockSent 1).isEmpty
  else if p = pCN 0 then s.cnA.mbx.isSome
  else if p = pCN 1 then s.cnB.mbx.isSome
  else if p = pKEY then s.boot.fuse.isSome
  else if p = pCMD then !s.spA.outst.isEmpty
  else if p = pLND then !s.lnd.recs.isEmpty
  else if p = pMED then !s.media.moves.isEmpty
  else if 0x18 ≤ p ∧ p ≤ 0x1F then s.media.ops.any (fun o => o.issued && o.lun / 16 == p - 0x18)
  else if p = pPCE then !s.host.reads.isEmpty
  else if p = pITU then s.host.inval.isSome || s.host.reads.any (fun r => match r.use with
    | .walk _ _ _ => true
    | _ => false)
  else if p = pBRG then !s.brg.sent.isEmpty || s.brg.copying.isSome
  else if 0x40 ≤ p ∧ p ≤ 0x4F then s.spA.outst.any (fun o => o.inst == p - 0x40)
  else false

/-- Quiesce is honoured on a page: not on the pages that cannot be taken out of service but for KEY and LND.
Log 58 (DEDUCED). -/
def quiesceHonoured (p : Nat) : Bool := !pageFixed p || p == pKEY || p == pLND

/-- A block that was asked to quiesce has no work in flight (R96). -/
def State.blockQuiet (s : State) (p : Nat) : State :=
  if s.dockInst p || !pagePresent s.role p || !quiesceHonoured p || !s.quiesceAsked p || s.inFlight p ||
      s.flag (PG_STAT_QUIESCED p) then s
  else
    let t := s.setFlag (PG_STAT_QUIESCED p) true
    if 0x40 ≤ p then t.fireI EV_CMD_INST_QUIESCED (p - 0x40) 0 0 else t

/-- A block reset ends (R76): an engine fence of the block ends with it, and faults that arrived meanwhile fence
it again (R414). It waits for a burn, is absorbed by a reset of the chip, and has no effect in the safe state (R72, R73, R75). -/
def State.blockResetEnd (s : State) (p : Nat) : State :=
  if !s.flag (PG_STAT_RST_BUSY p) || s.pageSilent p || s.boot.fuse.isSome || !s.alive || s.safe then s
  else
    let t := s.resetBlock p
    let of := fun (u : FenceUnit) => match u with
      | .engine pg _ => pg == p
      | _ => false
    let late := t.flt.late.filter (fun e => of (srcUnit e.src e.x))
    let t : State := { t with flt := { t.flt with
      holds := t.flt.holds.filter (fun h => !of h.unit), late := t.flt.late.filter (fun e => !of (srcUnit e.src e.x)) } }
    let t := (t.bump RST_BLK_RST_LAST_COUNT).fire EV_RST_BLK_DONE
    (late.foldl (fun (t : State) e => t.faultFull e.src e.x e.syn e.injected) t).keyResume

/-- PG_LOCK: LOCK is set and stays. -/
def State.lockPage (s : State) (p w : Nat) : State := if bitAt w 0 then s.setFlag (PG_LOCK_LOCK p) true else s

/-! ## Waking (R432) -/

/-- The wake causes of a role (R432). Log 68 (DEDUCED). -/
def wakeOf (r : Role) (cause : Nat) : Bool :=
  match r with
  | .card => cause == 1 || cause == 2
  | .dock => cause == 3 || cause == 4

/-- A wake cause: an entry in progress is abandoned, and DOZE ends (R432, R434). Log 68 (DEDUCED). -/
def State.wake (s : State) (cause : Nat) : State :=
  if !wakeOf s.role cause then s
  else if s.powerState = 2 then s.setFld PWR_STAT_STATE 0
  else if s.powerState = 3 then (s.setFld PWR_STAT_STATE 4).setFld PWR_STAT_WAKE_CAUSE cause
  else s

/-! ## GPIO (R84) -/

/-- The levels of GPIO_0 to GPIO_3 change. -/
def State.gpioLevels (s : State) (levels : Nat) : State :=
  let old := s.pins.gpio
  let t : State := { s with pins := { s.pins with gpio := levels % 16 } }
  let hit := (List.range 4).any (fun n => bitAt old n != bitAt levels n && bitAt (s.fld SYS_GPIO_CTRL_EDGE_EN) n &&
    !bitAt (s.fld SYS_GPIO_CTRL_OE) n)
  if s.alive && hit then t.fire EV_SYS_GPIO_EDGE else t

end Sys2Proof.Machine
end

