-- ==== Sys2Proof/Machine/DockCn.lean ====
section
/-! DEFINITION. The Counlet engines of a dock: card insertion and removal, the link-up of R140, pairing and
enrolment as host end, and the mailbox (R140–R143, R170–R172). -/

namespace Sys2Proof.Machine

open Sys2Proof.Crypto

/-- The etu of a pair of R116; another pair keeps 372. Log 107 (DEDUCED). -/
def etuOf (fidi : Nat) : Nat :=
  if fidi = 0x94 then 64 else if fidi = 0x95 then 32 else if fidi = 0x96 then 16 else 372

/-- A pair of R116. Log 107 (DEDUCED). -/
def fidiKnown (fidi : Nat) : Bool := fidi == 0x11 || fidi == 0x94 || fidi == 0x95 || fidi == 0x96

/-- The payload in MBX_TX. -/
def State.mailboxTx (s : State) (p len : Nat) : List Byte :=
  ((List.range 64).flatMap (fun i => bytesBE 4 (s.reg (rCN_MBX_TX p i).off).toNat)).take len

/-- GO (R142): refused for pairing operations and without a link; while a request is in progress only OP and LEN take
the write. Log 111 (DEDUCED). -/
def State.mailboxGo (s : State) (p op len : Nat) : State :=
  let s := (s.setFld (CN_MBX_CTRL_OP p) op).setFld (CN_MBX_CTRL_LEN p) len
  if s.flag (CN_MBX_STAT_BUSY p) then s
  else
    let t := s.setFlag (CN_MBX_CTRL_GO p) true
    let t := (t.setFlag (CN_MBX_STAT_DONE p) false).setFlag (CN_MBX_STAT_BUSY p) true
    let t := t.setCn p { t.cn p with mbx := some (op % 256, 256, t.mailboxTx p (len % 256)), resends := 0 }
    if op % 256 = 0x20 ∨ op % 256 = 0x21 then t.endMailbox p 4
    else if !t.cnOpen p && !t.cnOwn p then t.endMailbox p 1
    else t.cnGo p

/-- The words of MBX_RX that a payload fills. Log 111 (DEDUCED). -/
def State.mailboxRx (s : State) (p : Nat) (payload : List Byte) : State :=
  (List.range 64).foldl (fun (t : State) i =>
    if 4 * i < payload.length then
      t.setReg (rCN_MBX_RX p i).off (BitVec.ofNat 32 (natBE (padTo 4 ((payload.drop (4 * i)).take 4))))
    else t) s

/-- The response to a mailbox request. -/
def State.mailboxAnswer (s : State) (p op seq : Nat) (payload : List Byte) : State :=
  match (s.cn p).mbx with
  | some (o, q, _) =>
    if respOp o = op % 256 ∧ q = seq then
      let t := ((s.cnRest p).mailboxRx p payload).setFld (CN_MBX_STAT_RESP_LEN p) payload.length
      ((t.setFld (CN_MBX_STAT_ST p) (payload.headD 0).toNat).endMailbox p 0).cnGo p
    else s
  | none => s

/-- No response within RESP_TIMEOUT: the request is resent, at most twice.  A request of the dock's own pairing is not
timed. Log 162 (DESIGN CHOICE). -/
def State.mailboxTimeout (s : State) (p : Nat) : State :=
  match (s.cn p).mbx with
  | some (op, seq, payload) =>
    if seq = 256 then s
    else if 2 ≤ (s.cn p).resends then (s.endMailbox p 2).cnGo p
    else (s.setCn p { s.cn p with resends := (s.cn p).resends + 1, rested := false }).emit
      (.counlet p (cnFrame op seq payload))
  | none => s

/-! ## Link-up (R140, R141) -/

/-- CCLK starts and CRST_N is released; the answer to reset is awaited. -/
def State.releaseCrst (s : State) (p : Nat) : State :=
  if s.flag (CN_DOCK_CTRL_HOLD_RESET p) then s
  else
    let t := (s.setCn p { s.cn p with phase := .atr, crstHigh := true }).emit (.crst p true)
    (t.setFld (CN_STAT_STATE p) 1).setFld (CN_CCLK_KHZ_KHZ p) 20000

/-- The answer to reset is missing or invalid: CRST_N is held low and the link-up goes on, and after the third time it
stops, and what was held for it ends. Log 111 (DEDUCED). -/
def State.atrFails (s : State) (p : Nat) : State :=
  let n := (s.cn p).tries + 1
  let t := ((s.frameError p 0xFF 0).cnLow p).setFld (CN_DOCK_STAT_ATR_TRIES p) n
  if 3 ≤ n then
    let t := (t.cnReset p 1).setCn p { t.cn p with phase := .idle, tries := n, enrol := none }
    ((t.setFld (CN_STAT_STATE p) 5).toLink p lnkDown).endWaiting p 0x50 0x05 (fun _ => true)
  else t.setCn p { t.cn p with phase := .retryHold, tries := n }

/-- An answer to reset in the layout of R119. -/
def atrGood (b : List Byte) : Bool :=
  b.length == 20 && b.take 2 == [0x3B, 0x9F] && b.getD 3 0 == 0x0E && (b.drop 1).foldl (· ^^^ ·) 0 == 0

/-- The pair of R116 to ask for: PPS_TARGET, unless TA1 is slower; a TA1 of no pair counts as 0x11.
Log 107 (DEDUCED). -/
def ppsWanted (target ta1 : Nat) : Nat :=
  let want := if fidiKnown target then target else 0x11
  let most := if fidiKnown ta1 then ta1 else 0x11
  if etuOf most ≤ etuOf want then want else most

/-- A valid answer to reset: the Card Parameter String is kept, and the PPS request goes out (R140).  The lines of the
port are driven from now on, with SCLK stopped (R171). -/
def State.atrTaken (s : State) (p : Nat) (b : List Byte) : State :=
  let h := (b.drop 4).take 15
  let t := (List.range 4).foldl (fun (t : State) k =>
    t.setReg (rCN_CPS p k).off (BitVec.ofNat 32 (natBE (padTo 4 ((h.drop (4 * k)).take 4))))) s
  let t := (t.setFlag (CN_DOCK_STAT_CPS_VALID p) true).fire (EV_CN_ATR_DONE p)
  let t := t.setCn p { t.cn p with peerSerial := natBE ((h.drop 2).take 8), atrDone := true }
  let fidi := ppsWanted (t.fld (CN_CFG_PPS_TARGET p)) (b.getD 2 0).toNat
  let t := t.setCn p { t.cn p with phase := .pps, last := some (0xFF, fidi, []) }
  let t := (t.setFld (CN_STAT_STATE p) 2).setFlag (SP_STAT_CLK_STOPPED p) (!(t.sp p).sclk)
  t.emit (.counlet p [0xFF, 0x1E, BitVec.ofNat 8 fidi, 0xE1 ^^^ BitVec.ofNat 8 fidi])

/-- Parameter selection is over: the channel is OPEN, and pairing begins, unless the peer is no B0 card (R4, R17,
R141). -/
def State.ppsOver (s : State) (p : Nat) : State :=
  let t := ((s.setCn p { s.cn p with phase := .done, last := none }).setFld (CN_STAT_STATE p) 3).cnRest p
  if t.peerCard p then t.askPair p else t.linkupFails p 0x21

/-- The card's answer to the PPS request: the echo, with which both ends take the new etu, or FF 0E F1, which keeps 372
(R117). -/
def State.ppsAnswer (s : State) (p pps0 : Nat) (rest : List Byte) : State :=
  match (s.cn p).last with
  | some (_, fidi, _) =>
    if pps0 = 0x1E ∧ rest = [BitVec.ofNat 8 fidi, 0xE1 ^^^ BitVec.ofNat 8 fidi] then
      let t := (s.setFld (CN_STAT_FIDI p) fidi).setFld (CN_ETU_ETU p) (etuOf fidi)
      (t.fire (EV_CN_PPS_DONE p)).ppsOver p
    else if pps0 = 0x0E ∧ rest = [0xF1] then s.ppsOver p
    else s.frameError p 0xFF 0
  | none => s

/-- The card has been paired: a new session, and the Spantoen link-up of R197. -/
def State.dockPaired (s : State) (p slot : Nat) : State :=
  let x := s.cn p
  let t := ((s.setFlag (CN_STAT_CRED p) true).setFld (CN_STAT_PAIR_SLOT p) slot).setFld (CN_STAT_STATE p) 4
  let t := (t.setFld (CN_DOCK_STAT_LINKUP_RESULT p) 0).setCn p { x with phase := .done }
  let t := if t.session p then t.dropPort p lnkLinkup else t
  let t := (t.openSession p (sessionSecret t.keys.p0 x.nonceH x.nonceC x.peerSerial)).setLink p lnkLinkup
  let t := t.setSp p { t.sp p with starting := 1 }
  (t.linkCmd p 0x00 1).cnGo p

/-- A response to a pairing request of the dock (R129, R132, R140). Log 109 (DEDUCED). -/
def State.pairAnswer (s : State) (p : Nat) (payload : List Byte) : State :=
  let x := s.cn p
  let st := (payload.headD 0).toNat
  let nC := (payload.drop 2).take 16
  let proof := (payload.drop 2).take 32
  let serial := bytesBE 8 x.peerSerial
  match x.phase with
  | .begin =>
    if st ≠ 0 then s.linkupFails p st
    else (s.setCn p { x with phase := .proof, nonceC := nC }).cnRequest p 0x21
      (hmac s.keys.p0 (0x44 :: (x.nonceH ++ nC ++ serial)))
  | .proof =>
    if st ≠ 0 then (s.fireD EV_KEY_PAIR_FAIL p 0).linkupFails p st
    else if proof = hmac s.keys.p0 (0x43 :: (x.nonceC ++ x.nonceH ++ serial)) then
      s.dockPaired p (payload.getD 1 0).toNat
    else (s.fireD EV_KEY_PAIR_FAIL p 0).linkupFails p 0x21
  | .enrolBegin =>
    if st ≠ 0 then s.enrolEnds p st
    else (s.setCn p { x with phase := .enrolProof, nonceC := nC }).cnRequest p 0x21 s.keys.p0
  | .enrolProof => s.enrolEnds p st
  | _ => s

/-- ENROL_REQ (R132): the enrolment runs once the channel is free for it; one asked for stands until it is done.
Log 108 (DEDUCED), 110 (DEDUCED). -/
def State.startEnrol (s : State) (p slot : Nat) : State :=
  let t := (s.setFlag (CN_DOCK_CTRL_ENROL_REQ p) true).setFld (CN_DOCK_CTRL_ENROL_SLOT p) slot
  if (t.cn p).enrol.isSome then t else (t.setCn p { t.cn p with enrol := some (slot % 2) }).cnGo p

/-- RESTART: the link-up of R140 runs again (R141, R143, R172). -/
def State.cnRestart (s : State) (p : Nat) : State :=
  if !s.cnRuns p then s
  else
    let t := s.cnReset p 6
    if t.flag (SP_STAT_CARD_PRESENT p) then t.startLinkup p else t

/-- HOLD_RESET: CRST_N is held low with CCLK stopped; released, the card is brought up as R140 states.
Log 51 (DEDUCED). -/
def State.holdReset (s : State) (p : Nat) (on : Bool) : State :=
  if on == s.flag (CN_DOCK_CTRL_HOLD_RESET p) then s
  else
    let t := s.setFlag (CN_DOCK_CTRL_HOLD_RESET p) on
    if on then t.cnReset p 6
    else if t.flag (SP_STAT_CARD_PRESENT p) && t.flag (CN_CFG_AUTO_LINKUP p) && t.cnRuns p then t.startLinkup p
    else t

/-- A write of DOCK_CTRL (R145). -/
def State.dockCtrlWrite (s : State) (p w : Nat) : State :=
  let t := (s.setFld (CN_DOCK_CTRL_ENROL_SLOT p) (bitsOf w 2 1)).holdReset p (bitAt w 3)
  let t := if bitAt w 0 then t.cnRestart p else t
  if bitAt w 1 then t.startEnrol p (bitsOf w 2 1) else t

/-! ## Commands -/

/-- CD_N changes: DOZE ends, and with the PCIe link in L2 WAKE_N goes low (R201, R432). Log 112 (DEDUCED). -/
def State.cdChange (s : State) : State :=
  let t := s.wake 4
  if s.fld PCE_LINK_STAT_LTSSM = 6 then { t with pins := { t.pins with wakeLow := true } } else t

/-- CARD_INSERTION (R170): CD_N has been low for 1 ms.  A drain of the port ends (R219). -/
def execCardInsertion (port : Nat) (s : State) : Result :=
  if !s.isDock || 2 ≤ port || (s.cn port).cdLow then .next s
  else
    let s := s.cdChange
    let t := s.setCn port { s.cn port with cdLow := true, removals := [] }
    let t := t.setSp port { t.sp port with drained := false }
    .next (if t.up && !t.safe then t.portInsert port else t)

/-- INS_DELAY_EXPIRY (R140). -/
def execInsDelayExpiry (port : Nat) (s : State) : Result :=
  .next (if s.cnRuns port && (s.cn port).phase == .insDelay then s.releaseCrst port else s)

/-- ATR_RECEIVED (R140, R141). -/
def execAtrReceived (port : Nat) (bytes : List Byte) (s : State) : Result :=
  .next (if s.cnRuns port && (s.cn port).phase == .atr then
    let r := s.cnChars port
    (if r.1 && atrGood bytes then r.2.atrTaken port bytes else r.2.atrFails port) else s)

/-- ATR_TIMEOUT (R140). -/
def execAtrTimeout (port : Nat) (s : State) : Result :=
  .next (if s.cnRuns port && (s.cn port).phase == .atr then s.atrFails port else s)

/-- LINKUP_RETRY_EXPIRY (R140): the 100 ms hold after a failed answer to reset ends. -/
def execLinkupRetryExpiry (port : Nat) (s : State) : Result :=
  .next (if s.cnRuns port && (s.cn port).phase == .retryHold && s.linkState port == lnkLinkup then
    s.releaseCrst port else s)

/-- RELINK_EXPIRY (R172): 100 ms after a removal with CD_N low. -/
def execRelinkExpiry (port : Nat) (s : State) : Result :=
  .next (if s.cnRuns port && (s.cn port).phase == .retryHold && s.linkState port == lnkRemoved && (s.cn port).cdLow &&
      s.flag (CN_CFG_AUTO_LINKUP port) then (s.startLinkup port).releaseCrst port else s)

/-- What the dock's own request gets as its response: to a PPS request the characters PPS0 and those after it stand in
the places of SEQ and payload. Log 107 (DEDUCED). -/
def State.ownAnswer (s : State) (p op seq : Nat) (payload : List Byte) : State :=
  if (s.cn p).phase == .pps then (if op % 256 = 0xFF then s.ppsAnswer p seq payload else s)
  else
    match (s.cn p).last with
    | some (o, q, _) => if respOp o = op % 256 ∧ q = seq then (s.cnRest p).pairAnswer p payload else s
    | none => s

/-- A frame of the card arrives whole on a dock's channel, or is discarded (R114, R124, R146). -/
def State.cnFrom (s : State) (p op : Nat) (f : State → State) : State :=
  if !s.cnRuns p then s
  else
    let r := s.cnReceive p op
    if r.1 then f r.2 else r.2

/-- DOCK_COUNLET_RESPONSE (R140): a response to the dock's own request. -/
def execDockCounletResponse (port op seq : Nat) (payload : List Byte) (s : State) : Result :=
  .next (if s.cnOwn port then s.cnFrom port op (fun t => t.ownAnswer port op seq payload) else s)

/-- MBX_GO (R142). -/
def execMbxGo (port op len : Nat) (s : State) : Result :=
  .next (if s.isDock && port < 2 && s.pageTakes (pCN port) then (s.touchPage (pCN port)).mailboxGo port op len else s)

/-- MBX_RESPONSE (R142). -/
def execMbxResponse (port op seq : Nat) (payload : List Byte) (s : State) : Result :=
  .next (s.cnFrom port op (fun t => t.mailboxAnswer port op seq payload))

/-- MBX_RESP_TIMEOUT (R142). -/
def execMbxRespTimeout (port : Nat) (s : State) : Result :=
  .next (if s.cnRuns port then s.mailboxTimeout port else s)

/-- RESTART (R141, R143). -/
def execCnRestart (port : Nat) (s : State) : Result :=
  .next (if s.isDock && port < 2 && s.pageTakes (pCN port) then (s.touchPage (pCN port)).cnRestart port else s)

/-- ENROL_REQ (R132). Log 110 (DEDUCED). -/
def execEnrolReq (port slot : Nat) (s : State) : Result :=
  .next (if s.isDock && port < 2 && s.pageTakes (pCN port) then (s.touchPage (pCN port)).startEnrol port slot else s)

/-- HOLD_RESET (R143). Log 51 (DEDUCED). -/
def execHoldReset (port : Nat) (on : Bool) (s : State) : Result :=
  .next (if s.isDock && port < 2 && s.pageTakes (pCN port) then (s.touchPage (pCN port)).holdReset port on else s)

/-- CARD_REMOVAL (R170): CD_N has been high for `highUs` µs. Log 16 (DESIGN CHOICE). -/
def execCardRemoval (port highUs : Nat) (s : State) : Result :=
  if !s.isDock || 2 ≤ port || !(s.cn port).cdLow then .next s
  else
    let between := 8 ≤ highUs && highUs < 10
    let gone := 10 ≤ highUs || (between && Config.cdPulseRemoves s.freeCtr)
    let t := if between then s.spend else s
    if !gone then .next t
    else
      let t := t.cdChange
      let t := t.setCn port { t.cn port with cdLow := false, removals := [] }
      .next (if t.up then ((t.setFlag (SP_STAT_CARD_PRESENT port) false).removePort port).pump else t)

end Sys2Proof.Machine
end

