-- ==== Sys2Proof/Machine/LinkCmds.lean ====
section
/-! DEFINITION. The commands of the dock's end of a Spantoen port (chapters 07 and 08): its answers and units, its
timers, tuning and retraining, rekeying, and the actions of SP.CTRL and LSE.CTRL. -/

namespace Sys2Proof.Machine

/-! ## Actions of SP.CTRL and LSE.CTRL (R199, R200) -/

/-- RETRAIN: the port retrains as R192 once nothing is outstanding. -/
def State.askRetrain (s : State) (p : Nat) : State :=
  if s.portRun p then s.setSp p { s.sp p with wantRetrain := true } else s

/-- LINK_RESET; during a fuse burn it waits (R72). -/
def State.askLinkReset (s : State) (p : Nat) : State :=
  if !(s.isDock && p < 2 && s.up && s.flag (SP_STAT_CARD_PRESENT p)) || s.absorbs (.link p) then s
  else if s.boot.fuse.isSome then s.await (.link p)
  else (s.resetLink p).pump

/-- RETUNE: at the next IDLE. -/
def State.askRetune (s : State) (p : Nat) : State :=
  if s.portRun p then s.setSp p { s.sp p with wantRetune := true } else s

/-- REKEY: LINK_KEY at the next IDLE. -/
def State.askRekey (s : State) (p : Nat) : State :=
  if s.isDock && s.session p then s.setSp p { s.sp p with wantRekey := true } else s

/-- END_SESSION. -/
def State.endSession (s : State) (p : Nat) : State :=
  if !s.session p then s else if s.isCard then s.closeSession p else (s.endDockSession p).pump

/-- A write of SP.CTRL, on a dock. -/
def State.spCtrl (s : State) (p w : Nat) : State :=
  let t := if bitAt w 0 then s.askRetrain p else s
  let t := if bitAt w 1 then t.askLinkReset p else t
  if bitAt w 2 then t.askRetune p else t

/-- A write of LSE.CTRL. -/
def State.lseCtrl (s : State) (p w : Nat) : State :=
  let t := if bitAt w 0 then s.askRekey p else s
  if bitAt w 1 then t.endSession p else t

/-- RETRAIN (R192, R199). -/
def execRetrain (port : Nat) (s : State) : Result :=
  .next (if s.isPort port && s.pageTakes (pSP port) then (s.touchPage (pSP port)).askRetrain port else s)

/-- LINK_RESET (R192, R199). -/
def execLinkReset (port : Nat) (s : State) : Result :=
  .next (if s.isPort port && s.pageTakes (pSP port) then (s.touchPage (pSP port)).askLinkReset port else s)

/-- RETUNE (R199). -/
def execRetune (port : Nat) (s : State) : Result :=
  .next (if s.isPort port && s.pageTakes (pSP port) then (s.touchPage (pSP port)).askRetune port else s)

/-- REKEY (R200). -/
def execRekey (port : Nat) (s : State) : Result :=
  .next (if s.isPort port && s.pageTakes (pLSE port) then (s.touchPage (pLSE port)).askRekey port else s)

/-- END_SESSION (R184, R200). -/
def execEndSession (port : Nat) (s : State) : Result :=
  .next (if s.isPort port && s.pageTakes (pLSE port) then (s.touchPage (pLSE port)).endSession port else s)

/-! ## Tuning (R161, R169, R192, R197) -/

/-- The port may tune: its link runs and nothing is outstanding. -/
def State.mayTune (s : State) (p : Nat) : Bool := s.dockLink p && s.portIdle p

/-- Go on with tune_port at the mode it has come to. -/
def State.tuneOn (s : State) (p : Nat) (sweep : Sweep) : State := ((s.runTune p (s.sp p).newMode sweep).drive p).pump

/-- The port's tune has come to a mode: in the link-up, or below the mode that failed. -/
def State.tuneDue (s : State) (p : Nat) : Bool :=
  (s.sp p).newMode != 0 && (s.linkState p == lnkTuning || s.linkState p == lnkRetrain)

/-- TUNE_PORT (R161) at a mode. Log 127 (DESIGN CHOICE). -/
def execTunePort (port mode : Nat) (sweep : Sweep) (s : State) : Result :=
  .next (if s.mayTune port && s.tuneDue port && mode == (s.sp port).newMode then s.tuneOn port sweep else s)

/-- DOCK_RETRAIN (R192): SPEED_SET to SPD_0, then tune_port from the last good mode. -/
def execDockRetrain (port : Nat) (sweep : Sweep) (s : State) : Result :=
  if !s.mayTune port then .next s
  else if s.linkState port = lnkRetrain ∧ (s.sp port).newMode ≠ 0 then .next (s.tuneOn port sweep)
  else if (s.sp port).wantRetrain && s.portRun port then
    let t := (s.toLink port lnkRetrain).setSpeed port 0
    .next (((t.runTune port (t.fld (SP_STAT_LAST_GOOD port)) sweep).drive port).pump)
  else .next s

/-- AUTO_RETUNE (R169): at the current mode, at the first IDLE. -/
def execAutoRetune (port : Nat) (sweep : Sweep) (s : State) : Result :=
  if s.mayTune port && (s.sp port).wantRetune && s.portRun port then
    let mode := s.fld (SP_STAT_MODE port)
    if mode = 0 then .next (s.setSp port { s.sp port with wantRetune := false })
    else .next (((s.runTune port mode sweep).drive port).pump)
  else .next s

/-! ## Rekeying (R195, R196) -/

/-- AUTO_REKEY: LINK_KEY for the next epoch with a fresh host nonce. -/
def execAutoRekey (port : Nat) (s : State) : Result :=
  if s.mayTune port && (s.sp port).wantRekey && !s.flag (LSE_STAT_NEXT_HELD port) && !s.keyHolds then
    let nonce := natBE (s.rand 4)
    let e := (s.fld (LSE_STAT_EPOCH port) + 1) % 4
    let t := s.spend.setSp port { s.sp port with wantRekey := false, rekeyNonce := nonce }
    .next (t.linkCmd port 0x13 (nonce * 65536 + e))
  else .next s

/-! ## Answers, units and timers -/

/-- A frame of the card arrives on SCMD and passes its check, or is discarded (R175). -/
def State.fromCard (s : State) (p : Nat) (f : State → State) : State :=
  if !s.dockLink p then s
  else
    let r := s.frameCheck p
    if r.1 then f r.2 else r.2

/-- RESPONSE_RECEIVED (R187). -/
def execResponseReceived (port : Nat) (r : RespIn) (s : State) : Result :=
  .next (s.fromCard port (fun t => t.dockResponse port r))

/-- CARD_UNIT_RECEIVED (R180, R190). -/
def execCardUnitReceived (port tag index : Nat) (u : UnitIn) (s : State) : Result :=
  .next (s.fromCard port (fun t => t.dockUnit port tag index u))

/-- PING_INTERVAL (R194): while any command is outstanding, with Q the lowest FC outstanding. -/
def execPingInterval (port : Nat) (s : State) : Result :=
  .next (if s.dockLink port && !s.portIdle port then s.linkCmd port 0x00 (s.lowFc port % 2 ^ 32) else s)

/-- RESPONSE_TIMEOUT (R170, R194): the card is declared REMOVED, even with CD_N low. -/
def execResponseTimeout (port : Nat) (s : State) : Result :=
  if s.dockLink port && !s.portIdle port then
    let t := s.fire (EV_SP_RESP_TIMEOUT port)
    .next ((if (s.cn port).cdLow then t.removeLow port else t.removePort port).pump)
  else .next s

/-- SCLK_STOP (R166): the port has been IDLE for STOP_DELAY. -/
def execSclkStop (port : Nat) (s : State) : Result :=
  .next (if s.dockEngine port && s.portIdle port && s.flag (SP_CLK_CFG_STOP_EN port) && (s.sp port).sclk then
    (s.stopClock port).fire (EV_SP_CLK_STOPPED port)
  else s)

end Sys2Proof.Machine
end

