-- ==== Sys2Proof/Machine/Power.lean ====
section
/-! DEFINITION. Clocks, power states and temperature (chapter 17): idle gating, the main PLL, the oscillators, DOZE, and
the thermal sensors. -/

namespace Sys2Proof.Machine

/-! ## Clocks (R424, R426, R427) -/

/-- The islands of the role that run on the PLL. -/
def pllIslands (r : Role) : List Nat :=
  (List.range 21).filter (fun i => islandRuns r i && i != islAON && i != islFLT && i != islPCIE)

/-- ISLAND_IDLE_GATE (R424): an island with idle gating gates its clock; any island ungates. -/
def execIslandIdleGate (i : Nat) (gate : Bool) (s : State) : Result :=
  .next (if s.alive && i < 21 && 2 ≤ i && islandRuns s.role i && (!gate || bitAt (s.reg rCLK_GATE_CFG.off).toNat i) then
    s.setFld ⟨(rCLK_ISL_STAT (i / 8)).off, 4 * (i % 8), 4⟩ (if gate then 2 else 0) else s)

/-- PLL_LOCK_LOSS (R427): the islands on the PLL are held. -/
def execPllLockLoss (s : State) : Result :=
  .next (if s.flag CLK_PLL_STAT_LOCKED then
    ((((s.setFlag CLK_PLL_STAT_LOCKED false).setFlag CLK_PLL_STAT_RELOCKING true).setFld CLK_PLL_STAT_ATTEMPT
      0).bump CLK_CNT_PLL_LOSSES).fire EV_CLK_PLL_LOST
  else s)

/-- PLL_RELOCK_RESULT (R427): the third failure releases the parks, and the FLT island's bridges time out.
Log 59 (DESIGN CHOICE). -/
def execPllRelockResult (locked : Bool) (s : State) : Result :=
  if !s.flag CLK_PLL_STAT_RELOCKING then .next s
  else
    let n := s.fld CLK_PLL_STAT_ATTEMPT + 1
    let t := s.setFld CLK_PLL_STAT_ATTEMPT n
    if locked then
      let t := ((t.setFlag CLK_PLL_STAT_RELOCKING false).setFlag CLK_PLL_STAT_LOCKED true).fire EV_CLK_PLL_LOCKED
      .next (((t.drive 0).drive 1).pump)
    else if n < 3 then .next t
    else .next ((t.setFlag CLK_PLL_STAT_RELOCKING false).faultFull 127 0 (islFLT + 256 * islMP) false)

/-- OSC_MEASURE (R426): the oscillators against the reference, in kHz and in units of 100 kHz; `xin` an edge of the
reference arrived within 1 µs. -/
def execOscMeasure (aonKhz flt100Khz : Nat) (xin : Bool) (s : State) : Result :=
  if !s.alive then .next s
  else
    let t := ((s.setFld CLK_OSC_AON_KHZ aonKhz).setFld CLK_OSC_FLT_100KHZ flt100Khz).setFlag CLK_PLL_STAT_REF_PRESENT xin
    let aonLow : Bool := aonKhz < 15200
    let aonHigh : Bool := 16800 < aonKhz
    let fltLow : Bool := flt100Khz < 900
    let fltHigh : Bool := 1100 < flt100Khz
    let t := if aonLow || aonHigh then t.fire EV_CLK_AON_OSC_DRIFT else t
    let t := if fltLow || fltHigh then t.fire EV_CLK_FLT_OSC_DRIFT else t
    .next (if (aonLow && fltLow) || (aonHigh && fltHigh) || !xin then t.fire EV_CLK_REF_DRIFT else t)

/-! ## DOZE (R428–R434) -/

/-- A request for DOZE is refused. Log 69 (DEDUCED). -/
def State.refuseDoze (s : State) : State := (s.bump PWR_DOZE_CNT_REFUSALS).fire EV_PWR_DOZE_REFUSED

/-- The part is entering DOZE. Log 69 (DEDUCED). -/
def State.startDoze (s : State) : State := s.setFld PWR_STAT_STATE 2

/-- What a dock needs to enter DOZE (R431). Log 67 (DEDUCED). -/
def State.dozeReady (s : State) : Bool :=
  s.host.cmds.isEmpty && s.lnd.recs.isEmpty &&
  [0, 1].all (fun p => !s.flag (SP_STAT_CARD_PRESENT p) || bitAt (s.fld PWR_STAT_PORT_DOZE) p)

/-- PWR.CTRL (R431, R440). -/
def State.pwrCtrl (s : State) (w : Nat) : State :=
  if s.isCard || bitsOf w 0 16 != 0xD02E || !bitAt w 16 || !s.up || 2 ≤ s.powerState then s
  else if s.dozeReady then s.startDoze else s.refuseDoze

/-- PWR_CTRL_DOZE. -/
def execPwrCtrlDoze (word : Nat) (s : State) : Result :=
  .next (if s.pageTakes pPWR then (s.touchPage pPWR).pwrCtrl word else s)

/-- DOZE_ENTRY_DONE (R430): the work in flight has ended; the islands gate and the PLL stops. Log 67 (DEDUCED). -/
def execDozeEntryDone (ms : Nat) (s : State) : Result :=
  if s.powerState ≠ 2 ∨ s.media.ops.any (·.issued) then .next s
  else
    let t := if s.isCard && s.up then s.writeLife else s
    let t := (((t.setFld PWR_STAT_STATE 3).setFlag CLK_PLL_STAT_LOCKED false).bump PWR_DOZE_CNT_ENTRIES).setFld
      PWR_WAKE_TIME_ENTRY_MS ms
    let t := (pllIslands t.role).foldl (fun (t : State) i => t.fireD EV_CLK_ISLAND_GATED i 0) t
    .next ((t.fire EV_CLK_ALL_STOPPED).fire EV_PWR_DOZE_ENTER)

/-- DOZE_WAKE. -/
def execDozeWake (cause : Nat) (s : State) : Result := .next (s.wake cause)

/-- DOZE_WAKE_DONE (R433). -/
def execDozeWakeDone (us : Nat) (s : State) : Result :=
  if s.powerState ≠ 4 then .next s
  else
    let t := ((s.setFld PWR_STAT_STATE 0).setFlag CLK_PLL_STAT_LOCKED true).setFld PWR_WAKE_TIME_WAKE_US us
    let t := (pllIslands t.role).foldl (fun (t : State) i => t.fireD EV_CLK_ISLAND_UNGATED i 0) t
    let t := t.fireD EV_PWR_DOZE_EXIT (s.fld PWR_STAT_WAKE_CAUSE) 0
    .next (((t.drive 0).drive 1).pump)

/-- CLKSTOP_ALL (R428): the part has been in STOPPED for 1 s without a break. Log 73 (DEDUCED). -/
def execClkstopAll (s : State) : Result :=
  .next (if s.up && s.powerState == 0 && s.allStopped then s.fire EV_PWR_CLKSTOP_ALL else s)

/-- CARD_CLK_STOP_DETECT (R166): no SCLK edge for 1 µs while the port is IDLE. Log 73 (DEDUCED). -/
def execCardClkStopDetect (s : State) : Result :=
  .next (if s.cardLink && s.spA.outst.isEmpty && !s.flag (SP_STAT_CLK_STOPPED 0) then
    (s.setFlag (SP_STAT_CLK_STOPPED 0) true).fire (EV_SP_CLK_STOPPED 0) else s)

/-! ## Temperature (R435–R437): in steps of 0.5 °C -/

/-- The median of three. -/
def median3 (a b c : Int) : Int := max (min a b) (min (max a b) c)

/-- Sensor `i` of four differs from the median of the other three by more than 10 °C. -/
def sensorOff (t : List Int) (i : Nat) : Bool :=
  let o := fun (k : Nat) => t.getD ((i + k) % 4) 0
  20 < (o 0 - median3 (o 1) (o 2) (o 3)).natAbs

/-- The level the throttle goes to from a level (R436). Log 70 (DEDUCED). -/
def levelNext (lv : Nat) (t on hyst : Int) : Nat :=
  if on + 10 ≤ t then 2
  else if lv = 2 ∧ on + 10 - hyst ≤ t then 2
  else if on ≤ t then 1
  else if 1 ≤ lv ∧ on - hyst ≤ t then 1
  else 0

/-- ON and HYST as they act. -/
def State.throttleOn (s : State) : Int := 2 * max 70 (min 105 (s.fld THS_THROTTLE_CFG_ON))
def State.throttleHyst (s : State) : Int := 2 * max 2 (s.fld THS_THROTTLE_CFG_HYST)

/-- The dividers of a level, on a card: STORE_HALF and FCH_HALF. -/
def levelDiv (r : Role) (lv : Nat) : Nat :=
  match r with
  | .card => if lv = 0 then 0 else if lv = 1 then 1 else 3
  | .dock => 0

/-- The throttle level follows the temperature; with the engine fenced it holds its last setting (R408, R436).
Log 70 (DEDUCED). -/
def State.throttle (s : State) (t : Int) : State :=
  let old := s.fld THS_STAT_LEVEL
  let new := if s.fenced (.engine pTHS 0) then old
    else if s.flag THS_THROTTLE_CFG_EN then levelNext old t s.throttleOn s.throttleHyst else 0
  if new = old then s
  else
    let u := s.setFld THS_STAT_LEVEL new
    let u := if levelDiv s.role new = levelDiv s.role old then u
      else (u.setReg rCLK_DIV.off (BitVec.ofNat 32 (levelDiv s.role new))).fire EV_CLK_DIV_CHANGE
    if old = 0 then (u.bump THS_CNT_THROTTLE).fire EV_THS_THROTTLE_ON
    else if new = 0 then u.fire EV_THS_THROTTLE_OFF else u

/-- PEAK: the highest and the lowest since the power-on clear. Log 70 (DEDUCED). -/
def State.peak (s : State) (w : Nat) : State :=
  let hi := if s.ths.seen then tempMax (s.fld THS_PEAK_HIGHEST) w else w
  let lo := if s.ths.seen then tempMin (s.fld THS_PEAK_LOWEST) w else w
  ({ s with ths := { s.ths with seen := true } }.setFld THS_PEAK_HIGHEST hi).setFld THS_PEAK_LOWEST lo

/-- OVER, and its event with re-arming below 105 °C (R437). -/
def State.overLimit (s : State) (t : Int) : State :=
  let u := s.setFlag THS_STAT_OVER (220 < t)
  if 220 < t ∧ !s.ths.hot then
    ({ u with ths := { u.ths with hot := true } }.bump THS_CNT_OVER_LIMIT).fire EV_THS_OVER_LIMIT
  else if t < 210 then { u with ths := { u.ths with hot := false } }
  else u

/-- The temperature against that of a port's last passing tune (R168, R437). Log 71 (DEDUCED). -/
def State.tuneDelta (s : State) (p : Nat) (t : Int) : State :=
  if !s.isPort p then s
  else
    let far := (s.sp p).tempSeen && 40 < (t - tempInt (s.fld (SP_TUNE_TEMP_TEMP p))).natAbs
    let x := s.sp p
    let s := if s.isCard then s.setSp p { x with retuneAdv := far } else s
    if far && !x.deltaSeen then
      let y := s.sp p
      let want := y.wantRetune || (s.isDock && s.flag (SP_TUNE_CFG_AUTO_RETUNE p))
      let u := s.setSp p { y with deltaSeen := true, wantRetune := want }
      (u.fireD EV_THS_RETUNE_DELTA p 0).fire (EV_SP_RETUNE_ADV p)
    else s

/-- The sensors are excluded, and THS_SENSOR is raised for those that newly disagree (R435). Log 70 (DEDUCED). -/
def State.sensorFaults (s : State) (off : Nat → Bool) : State :=
  let old := s.fld THS_STAT_EXCLUDED
  let t := s.setFld THS_STAT_EXCLUDED (bitsOfList 4 off)
  let t := (List.range 4).foldl (fun (t : State) i => if off i && !bitAt old i then t.faultFull 122 (1 + i) 0 false else t) t
  if (List.range 4).any off then t else t.setFlag (FLT_SRC_STAT_ASSERTED 122) false

/-- THS_SAMPLE (R435): the four readings. Log 21 (DESIGN CHOICE). -/
def execThsSample (t0 t1 t2 t3 : BitVec 16) (s : State) : Result :=
  if !s.alive then .next s
  else
    let ts := [t0, t1, t2, t3]
    let vs := ts.map (fun t => tempInt t.toNat)
    let off := sensorOff vs
    let good := ((List.range 4).filter (fun i => !off i)).map (fun i => (ts.getD i 0).toNat)
    let r := match good with
      | [] => ((Config.noSensorTemp s.freeCtr).toNat, s.spend)
      | a :: l => (l.foldl tempMax a, s)
    let w := r.1
    let t := (((r.2.setFld THS_SENSOR_01_LOW t0.toNat).setFld THS_SENSOR_01_HIGH t1.toNat).setFld THS_SENSOR_23_LOW
      t2.toNat).setFld THS_SENSOR_23_HIGH t3.toNat
    let t := (((t.setFld THS_TEMP_TEMP w).peak w).throttle (tempInt w)).overLimit (tempInt w)
    .next (((t.tuneDelta 0 (tempInt w)).tuneDelta 1 (tempInt w)).sensorFaults off)

end Sys2Proof.Machine
end

