-- ==== Sys2Proof/Machine/BridgeOps.lean ====
section
/-! DEFINITION. The keyed controls of BRG and KEY (chapters 14 and 18): switching, blocked records, tracks and their
copying, the dock's own firmware slots, and its pairing key. -/

namespace Sys2Proof.Machine

/-! ## BRG.CTRL (R451, R454, R461) -/

/-- SWITCH, in ROTATE. -/
def State.askSwitch (s : State) : State :=
  if s.brgMode = 2 then (((s.switchActive).drive 0).drive 1).pump else s

/-- RESUME_CARRY: delivery goes on with the blocked record. Log 130 (DESIGN CHOICE). -/
def State.resumeCarry (s : State) : State :=
  let t := s.brg.blocked.foldl (fun (t : State) e => (t.unblock e.1).deliverTo e.1) s
  ((t.drive 0).drive 1).pump

/-- STAT names the blocked port that is left. -/
def State.showBlocked (s : State) : State :=
  match s.brg.blocked with
  | (p, seq) :: _ =>
    let n := match s.findRec seq with
      | some r => r.inst
      | none => s.fld BRG_STAT_BLOCKED_INST
    (s.setFld BRG_STAT_BLOCKED_PORT p).setFld BRG_STAT_BLOCKED_INST n
  | [] => s

/-- DROP_BLOCKED: the blocked record of the port that STAT names is released without effect. -/
def State.dropBlocked (s : State) : State :=
  match s.brg.blocked.find? (fun e => e.1 == s.fld BRG_STAT_BLOCKED_PORT) with
  | none => s
  | some (p, seq) =>
    let t := match s.findRec seq with
      | some r => s.releaseRec r
      | none => s
    let t := { t with brg := { t.brg with refused := t.brg.refused.filter (fun e => e.2.1 != seq) } }
    (((((t.unblock p).showBlocked).deliverTo p).carryCheck p).drive p).pump

/-- DROP_TRACK: the bits and IN_USE of a track are cleared. Log 155 (DEDUCED). -/
def State.dropTrack (s : State) (t : Nat) : State :=
  let x := s.track t
  let gone := x.serial
  let here := [0, 1].any (fun p => s.serialAt p == gone)
  let stop := match s.brg.copying with
    | some (k, _, _) => k == t
    | none => false
  let s := s.fillRegions t 0 (2 ^ 23) false
  let s := (s.setTrack t { serial := x.serial }).trackHeader t
  let s : State := if stop then { s with brg := { s.brg with copying := none } } else s
  if here then s else s.forgetCard gone

/-- A write of BRG.CTRL. -/
def State.brgCtrl (s : State) (w : Nat) : State :=
  if bitsOf w 0 16 ≠ 0xB46E then s
  else
    let t := if bitAt w 16 then s.askSwitch else s
    let t := if bitAt w 17 then t.dropTrack 0 else t
    let t := if bitAt w 18 then t.dropTrack 1 else t
    let t := if bitAt w 19 then t.resumeCarry else t
    if bitAt w 20 then t.dropBlocked else t

/-- A page of a dock takes a write. -/
def State.dockPage (s : State) (p : Nat) : Bool := s.isDock && s.pageTakes p

/-- BRG_SWITCH (R451). -/
def execBrgSwitch (key : Nat) (s : State) : Result :=
  .next (if s.dockPage pBRG then (s.touchPage pBRG).brgCtrl (key % 65536 + 2 ^ 16) else s)

/-- RESUME_CARRY (R454). Log 130 (DESIGN CHOICE). -/
def execResumeCarry (key : Nat) (s : State) : Result :=
  .next (if s.dockPage pBRG then (s.touchPage pBRG).brgCtrl (key % 65536 + 2 ^ 19) else s)

/-- DROP_BLOCKED (R454). -/
def execDropBlocked (key : Nat) (s : State) : Result :=
  .next (if s.dockPage pBRG then (s.touchPage pBRG).brgCtrl (key % 65536 + 2 ^ 20) else s)

/-- DROP_TRACK (R461). -/
def execDropTrack (key t : Nat) (s : State) : Result :=
  .next (if s.dockPage pBRG && t < 2 then (s.touchPage pBRG).brgCtrl (key % 65536 + 2 ^ (17 + t)) else s)

/-! ## Copying and delivery (R223, R452, R459) -/

/-- The region of a track that is copied now: the one begun, else the first. -/
def State.copyRegion (s : State) (t : Nat) : Option Nat :=
  let x := s.track t
  match x.region with
  | some r => if inRuns x.bits r && !((s.track (1 - t)).inUse && inRuns (s.track (1 - t)).bits r) then some r
      else s.nextRegion t
  | none => s.nextRegion t

/-- The source of a copy is in RUN and has answered every earlier record that touches the chunk (R459). -/
def State.sourceReady (s : State) (p inst first : Nat) : Bool :=
  s.portRun p && !(s.sp p).drained &&
  !(s.awaits p).any (fun r => r.inst == inst && r.addr < first + 256 && first ≤ r.addr + r.cnt)

/-- BRIDGE_REPLAY_DELIVERY (R452): the records of step 7 go out once a card is in RUN; in ROTATE the first card
takes the part of an active port that has none. -/
def execBridgeReplayDelivery (port : Nat) (s : State) : Result :=
  if !s.portRun port || !s.brg.replayHold then .next s
  else
    let t : State := { s with brg := { s.brg with replayHold := false } }
    let t := if t.brgMode = 2 ∧ !t.flag BRG_STAT_NO_ACTIVE ∧ !t.flag (SP_STAT_CARD_PRESENT t.brgActive) then
        t.setActive port else t
    .next ((((t.retarget).carryStart port).deliverTo port).drive port).pump

/-- The record that was answered BUSY_RETRY, and no later one, goes to its card as a new command (R223). -/
def State.resendBusy (s : State) (p : Nat) : State :=
  match s.dueGroups p with
  | g :: _ =>
    let t := s.pushGroup p g
    { t with brg := { t.brg with again := t.brg.again ++ (g.getLast?.map (fun r => (p, r.seq))).toList } }
  | [] => s

/-- BRIDGE_BUSY_RESEND (R223): 1 ms after a BUSY_RETRY. -/
def execBridgeBusyResend (port : Nat) (s : State) : Result :=
  if s.isDock && s.brg.busy.any (fun e => e.1 == port) then
    let t : State := { s with brg := { s.brg with busy := s.brg.busy.filter (fun e => e.1 != port) } }
    .next (((t.resendBusy port).drive port).pump)
  else .next s

/-! ## The dock's firmware slots (R446, R447) -/

def State.dfwResult (s : State) (r : Nat) : State := s.setFld BRG_DFW_STAT_RESULT r

/-- BEGIN: staging of the inactive slot. -/
def State.dfwBegin (s : State) (slot : Nat) : State :=
  if slot ≠ s.otherSlot then s.dfwResult 2
  else
    let t := (s.invalidateSlot slot).dfwResult 0
    ({ t with firm := { t.firm with staging := some 0 } } : State).setFlag BRG_DFW_STAT_STAGING true

/-- DFW_ADDR. -/
def State.dfwAddr (s : State) (w : Nat) : State :=
  let t := s.setFld BRG_DFW_ADDR_WORD (bitsOf w 2 18)
  if t.firm.staging.isSome then { t with firm := { t.firm with staging := some 0 } } else t

/-- DFW_DATA: a word is stored at DFW_ADDR, which moves on; a write beyond 1 MiB is ignored. -/
def State.dfwData (s : State) (w : Nat) : State :=
  if s.firm.staging ≠ some 0 then s
  else
    let a := s.fld BRG_DFW_ADDR_WORD
    let t := (s.slotWrite s.otherSlot (4 * a) (bytesBE 4 w)).setFld BRG_DFW_ADDR_WORD (a + 1)
    if a + 1 < 2 ^ 18 then t else { t with firm := { t.firm with staging := some 1 } }

/-- END: the image is checked. Log 156 (DEDUCED). -/
def State.dfwEnd (s : State) : State :=
  if s.firm.staging.isNone then s
  else
    let r := s.checkStaged s.otherSlot
    (r.2.dfwResult (if r.1 = 0 then 0 else 1)).setFlag BRG_DFW_STAT_STAGING false

/-- ACTIVATE: the standby loads the slot. -/
def State.dfwActivate (s : State) (slot : Nat) : State :=
  if s.firm.activating.isSome then s
  else if s.activateBad slot then s.dfwResult 2
  else ({ s with firm := { s.firm with activating := some slot, activTag := none } } : State).setFlag BRG_DFW_STAT_BUSY true

/-- A write of DFW_CTRL. Log 156 (DEDUCED). -/
def State.dfwCtrl (s : State) (w : Nat) : State :=
  if bitsOf w 0 16 ≠ 0xF17A then s
  else
    let slot := bitsOf w 19 1
    let t := if bitAt w 16 then s.dfwBegin slot else s
    let t := if bitAt w 17 then t.dfwEnd else t
    if bitAt w 18 then t.dfwActivate slot else t

/-- DFW_BEGIN. -/
def execDfwBegin (key slot : Nat) (s : State) : Result :=
  .next (if s.dockPage pBRG then (s.touchPage pBRG).dfwCtrl (key % 65536 + 2 ^ 16 + 2 ^ 19 * (slot % 2)) else s)

/-- DFW_DATA. -/
def execDfwData (word : Nat) (s : State) : Result :=
  .next (if s.dockPage pBRG then (s.touchPage pBRG).dfwData word else s)

/-- DFW_END. -/
def execDfwEnd (key : Nat) (s : State) : Result :=
  .next (if s.dockPage pBRG then (s.touchPage pBRG).dfwCtrl (key % 65536 + 2 ^ 17) else s)

/-- DFW_ACTIVATE. -/
def execDfwActivate (key slot : Nat) (s : State) : Result :=
  .next (if s.dockPage pBRG then (s.touchPage pBRG).dfwCtrl (key % 65536 + 2 ^ 18 + 2 ^ 19 * (slot % 2)) else s)

/-! ## The dock's pairing key (R371, R372) -/

/-- Commit P_0 and hold it. -/
def State.putPairing (s : State) (secret : List Byte) : State :=
  (s.commitKey 0x13 5 (s.nextKgen 0x13) secret 0).setPairKey 0 secret

/-- A KEY operation asked for by register: refused while KEY is fenced or the part is zeroized, busy while KEY holds
operations back. Log 76 (DEDUCED). -/
def State.keyAsk (s : State) (random : Bool) : State :=
  if !s.ladderUp || (random && !s.rngUp) || s.flag TMP_STAT_LATCHED || s.safe then s.keyOp 3 4 0x13
  else if s.keyHolds then s.keyOp 3 1 0x13
  else if random then s.spend.putPairing (s.rand 32)
  else s.putPairing s.keys.imp

/-- KEY.CTRL. Log 76 (DEDUCED). -/
def State.keyCtrl (s : State) (w : Nat) : State :=
  if bitsOf w 0 16 ≠ 0x9A17 then s
  else
    let act := if s.isDock then bitsOf w 16 2 else 0
    let t := if act = 1 then s.keyAsk true else if act = 2 then s.keyAsk false else s
    { t with keys := { t.keys with imp := List.replicate 32 0 } }

/-- A write of IMPORT_k. -/
def State.importWrite (s : State) (k w : Nat) : State :=
  { s with keys := { s.keys with imp := putBytes s.keys.imp (4 * k) (bytesBE 4 w) } }

/-- PAIR_GEN. Log 87 (DEDUCED). -/
def execPairGen (key : Nat) (s : State) : Result :=
  .next (if s.pageTakes pKEY then (s.touchPage pKEY).keyCtrl (key % 65536 + 2 ^ 16) else s)

/-- PAIR_IMPORT. Log 87 (DEDUCED). -/
def execPairImport (key : Nat) (s : State) : Result :=
  .next (if s.pageTakes pKEY then (s.touchPage pKEY).keyCtrl (key % 65536 + 2 ^ 17) else s)

/-- IMPORT_TIMEOUT: 1 s after the last IMPORT write. Log 87 (DEDUCED). -/
def execImportTimeout (s : State) : Result :=
  .next { s with keys := { s.keys with imp := List.replicate 32 0 } }

/-- RELOCK (R391). -/
def execRelock (key scope : Nat) (s : State) : Result :=
  .next (if s.pageTakes pLCK then (s.touchPage pLCK).lckCtrl (key % 65536 + scope % 32 * 2 ^ 16 + 2 ^ 21) else s)

end Sys2Proof.Machine
end

