-- ==== Sys2Proof/Machine/HostRegs.lean ====
section
/-! DEFINITION. The registers of the host side of a dock that act when written (chapters 09 and 10): queue
configuration, invalidation, and the QOS. -/

namespace Sys2Proof.Machine

/-! ## Queue configuration (R209, R230) -/

/-- Function `n` may enable queues: the PF, or a VF that is enabled. -/
def State.fnEnabled (s : State) (n : Nat) : Bool := n == 0 || bitAt (s.fld PCE_FUNC_STAT_ENABLED) n

/-- The queue `k` of 0 to 5 is enabled: SQ_0 to SQ_3, then CQ_0 and CQ_1. -/
def State.queueOn (s : State) (n k : Nat) : Bool :=
  if k < 4 then s.flag (INS_SQ_CFG_ENABLE n k) else s.flag (INS_CQ_CFG_ENABLE n (k - 4))

/-- Give up what a queue made visible. -/
def State.clearSq (s : State) (n k : Nat) : State :=
  let t := s.dropReads (fun r => r.use == .sqe n k)
  { t with host := { t.host with
      bells := t.host.bells.filter (fun b => !(b.inst == n && b.sq == k)),
      fetching := t.host.fetching.filter (fun e => !(e.1 == n && e.2.1 == k)) } }

/-- SQ_k_CFG: enabling sets head, tail and ERR to 0; an SQ bound to a disabled CQ cannot be enabled, and a write that
enables a queue of a VF that is not enabled is ignored (R209, R230). -/
def State.sqCfgWrite (s : State) (n k w : Nat) : State :=
  let on := bitAt w 0
  if on && !s.fnEnabled n then s
  else if s.flag (INS_SQ_CFG_ENABLE n k) then
    if on then s
    else (s.setFlag (INS_SQ_CFG_ENABLE n k) false).clearSq n k
  else
    let t := (s.setFld (INS_SQ_CFG_SIZE n k) (bitsOf w 1 3)).setFld (INS_SQ_CFG_CQ n k) (bitsOf w 4 1)
    if on && s.flag (INS_CQ_CFG_ENABLE n (bitsOf w 4 1)) then
      (((t.clearSq n k).setReg (rINS_SQ_STAT n k).off 0)).setFlag (INS_SQ_CFG_ENABLE n k) true
    else t

/-- Some SQ bound to a CQ is enabled or has a command outstanding. -/
def State.cqBound (s : State) (n j : Nat) : Bool :=
  (List.range 4).any (fun k => s.sqCq n k == j && s.sqLive n k)

/-- CQ_j_CFG: enabling sets head, tail and ERR to 0 and the phase to 1; a write that disables a CQ is ignored while a
bound SQ is live (R209, R230). -/
def State.cqCfgWrite (s : State) (n j w : Nat) : State :=
  let on := bitAt w 0
  let coal := fun (t : State) => (t.setFld (INS_CQ_CFG_COAL_CNT n j) (bitsOf w 8 8)).setFld
    (INS_CQ_CFG_COAL_TIME n j) (bitsOf w 16 8)
  if on && !s.fnEnabled n then s
  else if s.flag (INS_CQ_CFG_ENABLE n j) then
    if on then coal s
    else if s.cqBound n j then s
    else
      let t := (coal s).setFlag (INS_CQ_CFG_ENABLE n j) false
      { t with host := { t.host with coal := t.host.coal.filter (fun e => e.1 != 2 * n + j) } }
  else
    let t := ((coal s).setFld (INS_CQ_CFG_SIZE n j) (bitsOf w 1 3)).setFld (INS_CQ_CFG_VECTOR n j) (bitsOf w 4 3)
    if on then
      let t : State := { t with host := { t.host with
        coal := t.host.coal.filter (fun e => e.1 != 2 * n + j) } }
      (t.setReg (rINS_CQ_STAT n j).off 0x1000).setFlag (INS_CQ_CFG_ENABLE n j) true
    else t

/-- BASE of a queue, ignored while it is enabled. -/
def State.baseWrite (s : State) (n k off : Nat) (mask w : Nat) : State :=
  if s.queueOn n k then s else s.setReg off (BitVec.ofNat 32 (w &&& mask))

/-- A write from 0x040 of an instance's page, on a dock. -/
def State.insWrite (s : State) (n o w : Nat) : State :=
  let off := 4096 * pINS n + o
  if o = 0x44 then s.setFld (INS_EVT_VEC_VEC n) w
  else if o = 0x4C then s.instTailWrite n (w % 16)
  else if 0x80 ≤ o ∧ o < 0xE0 then
    let k := (o - 0x80) / 16
    if o % 16 = 0 then s.baseWrite n k off 0xFFFFF000 w
    else if o % 16 = 4 then s.baseWrite n k off 0xFFFF w
    else if o % 16 = 8 then (if k < 4 then s.sqCfgWrite n k w else s.cqCfgWrite n (k - 4) w)
    else s
  else s

/-! ## Invalidation (R242) -/

/-- The scope of an invalidation takes in a page of an instance. -/
def invalHits (inst scope page i p : Nat) : Bool :=
  if scope = 0 then i == inst && p == page else if scope = 1 then i == inst else true

/-- INVAL_CTRL: GO removes the entries in the scope; walks in progress enter nothing. -/
def State.invalWrite (s : State) (w : Nat) : State :=
  if s.host.inval.isSome then s
  else
    let t := (s.setFld ITU_INVAL_CTRL_INST (bitsOf w 0 4)).setFld ITU_INVAL_CTRL_SCOPE (bitsOf w 4 2)
    if !bitAt w 8 then t
    else
      let inst := bitsOf w 0 4
      let scope := bitsOf w 4 2
      let page := t.fld ITU_INVAL_ADDR_LO_IOVA + 2 ^ 20 * t.fld ITU_INVAL_ADDR_HI_IOVA
      let walk := fun (r : HRead) => match r.use with
        | .walk _ _ _ => true
        | _ => false
      ({ t with host := { t.host with
          inval := some (inst, scope, page),
          tlb := t.host.tlb.filter (fun e => !invalHits inst scope page e.inst e.page) } } : State).dropReads walk |>.setFlag
        ITU_INVAL_CTRL_GO true

/-- INVAL_GO (R242). -/
def execInvalGo (word : Nat) (s : State) : Result :=
  .next (if s.dockPage pITU then (s.touchPage pITU).invalWrite (word % 256 + 256) else s)

/-- INVALIDATION_DONE (R242): no request that used an entry of the scope is under way. -/
def execInvalidationDone (s : State) : Result :=
  match s.host.inval with
  | none => .next s
  | some (inst, scope, page) =>
    if s.host.reads.any (fun r => r.got.isNone && invalHits inst scope page r.inst r.page) then .next s
    else
      let t : State := { s with host := { s.host with inval := none } }
      let t := t.setFlag ITU_INVAL_CTRL_GO false
      .next ((t.fireI EV_ITU_TLB_INVAL_DONE (if scope < 2 then inst else 0) 0 0).pump)

/-! ## QOS (R245, R249, R257) -/

/-- The weight of an instance as it acts. -/
def State.qosWeight (s : State) (n : Nat) : Nat := max 1 (s.fld (QOS_SCHED_WEIGHT n))

/-- The instance has a request that waits: a command with a quantum not yet granted. -/
def State.qosWaits (s : State) (n : Nat) : Bool :=
  s.host.cmds.any (fun c => c.inst == n && c.wantsGrant)

/-- SCHED_n (R249). -/
def State.schedWrite (s : State) (n w : Nat) : State :=
  let cls := bitsOf w 0 2
  let wt := max 1 (bitsOf w 8 8)
  let oldC := s.fld (QOS_SCHED_CLASS n)
  let oldW := s.qosWeight n
  let t := (s.setFld (QOS_SCHED_CLASS n) cls).setFld (QOS_SCHED_WEIGHT n) (bitsOf w 8 8)
  if cls = oldC ∧ wt = oldW then t
  else
    (t.rearrange n oldC cls oldW wt (s.qosWaits n)).fireI EV_QOS_WEIGHT_CHANGE n 0 0

/-- A bucket that is full arms its events again. -/
def State.rearm (s : State) (n : Nat) : State :=
  let q := s.qosOf n
  let b : Bool := s.gustBytes n ≤ q.bytes
  let o : Bool := s.gustOps n ≤ q.ops
  s.setQos n { q with
    bytes := min q.bytes (s.gustBytes n), ops := min q.ops (s.gustOps n),
    bytesSpent := q.bytesSpent && !b, bytesHeld := q.bytesHeld && !b,
    opsSpent := q.opsSpent && !o, opsHeld := q.opsHeld && !o }

/-- A write from 0x100 of the QOS page. -/
def State.qosWrite (s : State) (o w : Nat) : State :=
  let n := (o - 0x100) / 16
  if o % 16 = 0 then (s.setReg (4096 * pQOS + o) (BitVec.ofNat 32 w)).rearm n
  else if o % 16 = 4 then (s.setReg (4096 * pQOS + o) (BitVec.ofNat 32 (w &&& 0xFFFFF))).rearm n
  else if o % 16 = 8 then s.schedWrite n w
  else s

/-- QOS_SCHED_WRITE (R249); SCHED is an RWL register. -/
def execQosSchedWrite (inst word : Nat) (s : State) : Result :=
  .next (if s.dockPage pQOS && inst < 16 then
    (let t := s.touchPage pQOS
     if s.flag (PG_LOCK_LOCK pQOS) then t else t.schedWrite inst word) else s)

/-- The cap of the throttle level on a dock, in MB/s, which is bytes in a microsecond; 0 without one (R436). -/
def State.dockCap (s : State) : Nat :=
  match s.fld THS_STAT_LEVEL with
  | 0 => 0
  | 1 => max 1 (s.fld THS_DOCK_CAP_LEVEL1)
  | _ => max 1 (s.fld THS_DOCK_CAP_LEVEL2)

/-- 1 µs of the throttle's cap and of the rate of a resync copy (R436, R459). Log 181 (DESIGN CHOICE). -/
def State.refillCaps (s : State) : State :=
  { s with
    host := { s.host with capDebt := if s.dockCap = 0 then 0 else s.host.capDebt - s.dockCap },
    brg := { s.brg with copyDebt := s.brg.copyDebt - max 1 (s.fld BRG_RESYNC_CFG_RATE) } }

/-- QOS_BUCKET_REFILL (R245): 1 µs of every instance's rates. -/
def execQosBucketRefill (s : State) : Result :=
  if !s.isDock || !s.up then .next s
  else
    .next ((List.range 16).foldl (fun (t : State) n =>
      let q := t.qosOf n
      let b : Int := (t.fld (QOS_RATE_BYTE_RATE n) * 65536 : Nat)
      let o : Int := (t.fld (QOS_RATE_OPS_RATE n) * 10 : Nat)
      if b = 0 ∧ o = 0 then t
      else (t.setQos n { q with bytes := q.bytes + b, ops := q.ops + o }).rearm n) s.refillCaps)

end Sys2Proof.Machine
end

