-- ==== Sys2Proof/Machine/HostQueues.lean ====
section
/-! DEFINITION. The PCIe side of a dock and its queues (chapter 09), and the grants of the QOS (chapter 10): the
link and the functions, doorbells, the fetch of entries, what the host answers to a read, and quanta. -/

namespace Sys2Proof.Machine

/-! ## The link and the functions (R201–R203, R230) -/

/-- The dock answers configuration requests: step 10 has ended, PERST_N is high, and the link is up (R65, R202). -/
def State.configUp (s : State) : Bool :=
  s.isDock && s.up && s.pins.perstHigh && s.flag PCE_LINK_STAT_DL_ACTIVE && !s.islandDown islPCIE

/-- The functions `0 … 15` of a bit map. -/
def fnList (bits : Nat) : List Nat := (List.range 16).filter (bitAt bits)

/-- The reset by PERST_N takes effect: the PCIE island is cleared (R202). Log 139 (DEDUCED). -/
def State.perstReset (s : State) : State :=
  let t := (s.bump RST_COUNT1_PERST_CNT).clearPcie
  if s.flag PCE_LINK_STAT_DL_ACTIVE then t.fire EV_PCE_LINK_DOWN else t

/-- PERST_N_RISE (R202): link training starts, from bring-up step ROLE on; DOZE ends and WAKE_N is released.
Log 139 (DEDUCED). -/
def execPerstNRise (s : State) : Result :=
  if s.pins.perstHigh then .next s
  else
    let t : State := { s with pins := { s.pins with perstHigh := true, wakeLow := false } }
    if !s.isDock || !s.alive then .next t
    else
      let t := (t.wake 3).fire EV_RST_PERST
      .next (if 4 ≤ s.bootStep then t.setFld PCE_LINK_STAT_LTSSM 1 else t)

/-- What the link trains to: never above MAX_SPEED, where 0 acts as 3 (R229). -/
def State.speedCap (s : State) (speed : Nat) : Nat :=
  min speed (if s.fld PCE_LINK_CFG_MAX_SPEED = 0 then 3 else s.fld PCE_LINK_CFG_MAX_SPEED)

/-- The link is up at a speed and a width. Log 139 (DEDUCED). -/
def State.linkUpAs (s : State) (speed width ltssm : Nat) : State :=
  let l := if ltssm = 5 ∧ !s.flag PCE_LINK_CFG_L1_ALLOW then 3 else ltssm % 8
  let t := (((s.setFld PCE_LINK_STAT_SPEED speed).setFld PCE_LINK_STAT_WIDTH width).setFlag
    PCE_LINK_STAT_DL_ACTIVE true).setFld PCE_LINK_STAT_LTSSM l
  let t := if s.flag PCE_LINK_STAT_DL_ACTIVE then t else t.fire EV_PCE_LINK_UP
  let fresh := !s.flag PCE_LINK_STAT_DL_ACTIVE || s.fld PCE_LINK_STAT_SPEED != speed || s.fld PCE_LINK_STAT_WIDTH != width
  if fresh && (speed < 3 || width < 2) then t.fire EV_PCE_LINK_DEGRADED else t

/-- The link is down. -/
def State.linkDownAs (s : State) (ltssm : Nat) : State :=
  let t := (((s.setFld PCE_LINK_STAT_SPEED 0).setFld PCE_LINK_STAT_WIDTH 0).setFlag
    PCE_LINK_STAT_DL_ACTIVE false).setFld PCE_LINK_STAT_LTSSM ltssm
  if s.flag PCE_LINK_STAT_DL_ACTIVE then t.fire EV_PCE_LINK_DOWN else t

/-- PCIE_LINK_CHANGE (R201, R229); leaving L1 ends DOZE. -/
def execPcieLinkChange (speed width : Nat) (up : Bool) (ltssm : Nat) (s : State) : Result :=
  if !s.isDock || !s.pins.perstHigh || s.bootStep < 4 || s.islandDown islPCIE || s.fenced (.engine pPCE 1) then .next s
  else if up && (speed = 0 || 3 < speed || width = 0 || 2 < width) then .next s
  else
    let s := if s.fld PCE_LINK_STAT_LTSSM = 5 ∧ ltssm % 8 ≠ 5 then s.wake 3 else s
    .next (if up then (s.linkUpAs (s.speedCap speed) width ltssm).pump else s.linkDownAs ltssm)

/-- A function level reset of one function: its commands are forgotten, and queues, translation and scheduling take
their reset values. Log 140 (DEDUCED). -/
def State.resetFn (s : State) (n : Nat) : State :=
  let mine := fun (o : Nat) =>
    (o / 4096 == pITU || o / 4096 == pQOS) && 0x100 + 16 * n ≤ o % 4096 && o % 4096 < 0x110 + 16 * n
  let t := ((s.forgetCmds n).disableQueues n).dropTlb n
  let t : State := { t with fnRegs := t.fnRegs.filter (fun e => e.1 / 64 != n) }
  let t := if n = 0 then t.setReg rPCE_XFER_STAT.off 0 else t
  let cls := t.fld (QOS_SCHED_CLASS n)
  let wt := t.qosWeight n
  let t : State := { t with regs := Sparse.clear t.regs mine }
  ((t.rearrange n cls 2 wt 16 false).refillQos n).setFld PCE_FLR_STAT_BUSY (orBit (t.fld PCE_FLR_STAT_BUSY) n)

/-- FLR (R203). Log 140 (DEDUCED). -/
def execPceFlr (fn : Nat) (s : State) : Result :=
  if !s.configUp || !s.fnEnabled fn || 16 ≤ fn then .next s
  else if fn = 0 then
    .next ((((List.range 16).foldl (fun (t : State) n => t.resetFn n) s).setFld PCE_FUNC_STAT_ENABLED 1).setFlag
      PCE_FUNC_STAT_VF_ENABLE false)
  else .next (s.resetFn fn)

/-- FLR_DONE (R203, R229). -/
def execFlrDone (fn : Nat) (s : State) : Result :=
  let b := s.fld PCE_FLR_STAT_BUSY
  if !s.isDock || 16 ≤ fn || !bitAt b fn then .next s
  else .next ((s.setFld PCE_FLR_STAT_BUSY (b - 2 ^ fn)).fireI EV_PCE_FLR fn fn 0)

/-- VF_ENABLE (R201, R203, R230). Log 139 (DEDUCED). -/
def execVfEnable (on : Bool) (num : Nat) (ari : Bool) (s : State) : Result :=
  if !s.configUp then .next s
  else
    let t := s.setFlag PCE_FUNC_STAT_ARI ari
    let was := s.flag PCE_FUNC_STAT_VF_ENABLE
    if on && !was then
      .next (((t.setFld PCE_FUNC_STAT_ENABLED (2 ^ (min num 15 + 1) - 1)).setFlag PCE_FUNC_STAT_VF_ENABLE true).fire
        EV_PCE_VF_ENABLE)
    else if !on && was then
      let vfs := (fnList (s.fld PCE_FUNC_STAT_ENABLED)).filter (· != 0)
      .next (vfs.foldl (fun (t : State) n => t.resetFn n)
        ((t.setFld PCE_FUNC_STAT_ENABLED 1).setFlag PCE_FUNC_STAT_VF_ENABLE false))
    else .next t

/-! ## Doorbells (R206, R226) -/

/-- The host reaches function `n`, and its reset is not under way (R201, R203). -/
def State.fnTakes (s : State) (n : Nat) : Bool :=
  s.pciUp && s.up && n < 16 && s.fnEnabled n && s.fnAwake n && (n < 8 || s.flag PCE_FUNC_STAT_ARI) &&
  !bitAt (s.fld PCE_FLR_STAT_BUSY) n

/-- A doorbell write that is ignored is recorded in DB_ERR (R229); doorbells 4 and 5 are those of the CQs.
Log 131 (DEDUCED). -/
def State.bellError (s : State) (n k value cause : Nat) : State :=
  let t := ((s.setFld PCE_DB_ERR_INST n).setFld PCE_DB_ERR_DOORBELL k).setFld PCE_DB_ERR_CAUSE cause
  (t.bump PCE_DB_ERR_COUNT).fireI EV_PCE_DOORBELL_ERR n (4 * k) (value % 2 ^ 32)

/-- Why a doorbell write is ignored: 0 where it is not. Log 131 (DEDUCED). -/
def bellCause (value len : Nat) (on : Bool) : Nat :=
  if 4096 ≤ value then 2 else if !on then 3 else if len ≤ value then 1 else 0

/-- A new tail makes entries visible. -/
def State.ringSq (s : State) (n k value : Nat) : State :=
  let len := s.sqLen n k
  let cause := bellCause value len (s.flag (INS_SQ_CFG_ENABLE n k))
  if cause ≠ 0 then s.bellError n k value cause
  else
    let more := (value + len - s.fld (INS_SQ_STAT_TAIL n k)) % len
    let bell : Bell := { inst := n, sq := k, left := more, ord := s.host.nextOrd }
    let t := s.setFld (INS_SQ_STAT_TAIL n k) value
    if more = 0 then t
    else { t with host := { t.host with bells := t.host.bells ++ [bell], nextOrd := t.host.nextOrd + 1 } }

/-- A new head frees slots. -/
def State.ringCq (s : State) (n j value : Nat) : State :=
  let cause := bellCause value (s.cqLen n j) (s.flag (INS_CQ_CFG_ENABLE n j))
  if cause ≠ 0 then s.bellError n (4 + j) value cause else s.setFld (INS_CQ_STAT_HEAD n j) value

/-- SQ_DOORBELL (R206). -/
def execSqDoorbell (fn sq value : Nat) (s : State) : Result :=
  .next (if s.fnTakes fn && sq < 4 then (s.wake 3).ringSq fn sq value else s)

/-- CQ_DOORBELL (R206, R211). -/
def execCqDoorbell (fn cq value : Nat) (s : State) : Result :=
  .next (if s.fnTakes fn && cq < 2 then ((s.wake 3).ringCq fn cq value).pump else s)

/-! ## Fetching entries (R65, R210) -/

/-- Entries of an SQ on their way to the dock. -/
def State.sqAhead (s : State) (n k : Nat) : Nat :=
  (s.host.reads.filter (fun r => r.use == .sqe n k)).length +
  ((s.host.fetching.filter (fun e => e.1 == n && e.2.1 == k)).map (·.2.2)).sum

/-- Entries of an SQ made visible and not yet with the dock. -/
def State.sqVisible (s : State) (n k : Nat) : Nat :=
  ((s.host.bells.filter (fun b => b.inst == n && b.sq == k)).map (·.left)).sum

/-- Slots of a CQ that hold no entry and are reserved for none. Log 133 (DEDUCED). -/
def State.cqFree (s : State) (n j : Nat) : Nat :=
  let len := s.cqLen n j
  let used := (s.fld (INS_CQ_STAT_TAIL n j) + len - s.fld (INS_CQ_STAT_HEAD n j) % len) % len
  let owed := (s.host.cmds.filter (fun c => c.inst == n && s.sqCq n c.sq == j)).length
  let coming := ((List.range 4).map (fun k => if s.sqCq n k = j then s.sqAhead n k else 0)).sum
  len - 1 - (used + owed + coming)

/-- FETCH_CFG.BURST as it acts. -/
def State.burst (s : State) : Nat := max 1 (min 8 (s.fld PCE_FETCH_CFG_BURST))

/-- An SQ may be fetched from. -/
def State.sqServes (s : State) (n k : Nat) : Bool :=
  s.fnTakes n && k < 4 && s.powerState < 2 && s.pageServes pPCE && s.instFetches n &&
  s.flag (INS_SQ_CFG_ENABLE n k) && s.fld (INS_SQ_STAT_ERR n k) == 0 &&
  s.flag (INS_CQ_CFG_ENABLE n (s.sqCq n k)) && !s.flag (INS_CQ_STAT_ERR n (s.sqCq n k)) &&
  !s.host.fetching.any (fun e => e.1 == n && e.2.1 == k)

/-- SQ_FETCH (R210): a burst of entries, each with a slot of the CQ kept for it. Log 132 (DESIGN CHOICE). -/
def execSqFetch (inst sq : Nat) (s : State) : Result :=
  let m := min (min s.burst (s.sqVisible inst sq - s.sqAhead inst sq)) (s.cqFree inst (s.sqCq inst sq))
  if !s.sqServes inst sq || m = 0 then .next s
  else .next ({ s with host := { s.host with fetching := s.host.fetching ++ [(inst, sq, m)] } } : State).pump

/-! ## Entries (R213, R214, R217) -/

/-- Dword `i` of an entry. -/
def sqeDw (bs : List Byte) (i : Nat) : Nat := natLE ((bs.drop (4 * i)).take 4)

/-- A field that R213 reserves is set. Log 135 (DEDUCED). -/
def sqeReserved (bs : List Byte) : Bool :=
  let d := sqeDw bs
  bitsOf (d 0) 10 6 != 0 || d 1 != 0 || 65536 ≤ d 3 || 65536 ≤ d 5 || 65536 ≤ d 7 ||
  (List.range 8).any (fun i => d (8 + i) != 0)

/-- The command an entry spells. -/
def sqeCmd (n k ord : Nat) (bs : List Byte) : HCmd :=
  let d := sqeDw bs
  { inst := n, sq := k, cid := bitsOf (d 0) 16 16, op := bitsOf (d 0) 0 8, portSel := bitsOf (d 0) 8 2,
    arg := d 2 + d 3 % 65536 * 2 ^ 32, dptr0 := d 4 + d 5 % 65536 * 2 ^ 32, dptr1 := d 6 + d 7 % 65536 * 2 ^ 32,
    ord := ord }

/-- The buffer pointers break R214. Log 135 (DEDUCED). -/
def HCmd.badPtrs (c : HCmd) : Bool :=
  if c.units' = 0 then c.dptr0 != 0 || c.dptr1 != 0
  else if c.units' = 1 then c.dptr0 % 4096 != 0 || c.dptr1 != 0
  else c.dptr0 % 4096 != 0 || c.dptr1 % 8 != 0

/-- What an entry completes with at once, as status and REASON: by tamper, the safe state, its function's PORT_SEL, its
buffers, its CID, or the state of its instance (R214, R217, R251, R381, R415). -/
def State.sqeEnd (s : State) (c : HCmd) (reserved dup : Bool) : Option (Nat × Nat) :=
  if s.flag TMP_STAT_LATCHED then some (0x22, 0)
  else if s.safe then some (0x60, 0)
  else if reserved then some (0x32, 0x02)
  else if c.opRefused then none
  else if c.portSel = 3 ∨ (c.inst ≠ 0 ∧ c.portSel ≠ 0) then some (0x32, 0x08)
  else if c.badPtrs then some (0x32, 0x02)
  else if dup then some (0x32, 0x03)
  else match s.fld (INS_STATE_STATE c.inst) with
    | 0 => none
    | 1 | 2 => some (0x31, 0x0C)
    | _ => some (0x51, 0x0C)

/-- A number for a command whose CID another one of its queue holds: the CID is its low 16 bits. -/
def State.ownCid (s : State) (n k cid : Nat) : Nat :=
  let same := (s.sqCmds n k).filter (fun c => c.cid % 65536 == cid)
  cid + 65536 * (same.map (fun c => c.cid / 65536 + 1)).foldl max 0

/-- One entry is with the dock: its command is numbered by the doorbell that made it visible. Log 135 (DEDUCED). -/
def State.takeSqe (s : State) (n k : Nat) (bs : List Byte) : State :=
  let hit := fun (b : Bell) => b.inst == n && b.sq == k
  match s.host.bells.find? hit with
  | none => s
  | some b =>
    let bells := (s.host.bells.map (fun x => if x == b then { x with left := x.left - 1 } else x)).filter
      (fun x => x.left != 0)
    let c := sqeCmd n k b.ord bs
    let own := s.ownCid n k c.cid
    let ends := s.sqeEnd c (sqeReserved bs) (own != c.cid)
    let c := { c with cid := own, done := ends.map (fun e => (e.1, 0, e.2, false, false)) }
    { s with host := { s.host with bells := bells, cmds := s.host.cmds ++ [c] } }

/-- Take the entries of an SQ that have arrived, in slot order. -/
def State.drainSqes (s : State) (n k : Nat) : Nat → State
  | 0 => s
  | fuel + 1 =>
    match s.host.reads.find? (fun r => r.use == .sqe n k) with
    | none => s
    | some r =>
      match r.got with
      | none => s
      | some bs => (({ s with host := { s.host with reads := s.host.reads.erase r } } : State).takeSqe n k bs).drainSqes
          n k fuel

/-- The fetch of an entry fails: the SQ stops there (R212); what was read behind it is not taken.
Log 134 (DEDUCED). -/
def State.failSqe (s : State) (n k : Nat) (r : HRead) : State :=
  let l := s.host.reads.filter (fun x => x.use == .sqe n k)
  let gone := l.dropWhile (· != r)
  let len := s.sqLen n k
  let t := s.setFld (INS_SQ_STAT_HEAD n k) ((s.fld (INS_SQ_STAT_HEAD n k) + len - gone.length % len) % len)
  let t : State := { t with host := { t.host with
    reads := t.host.reads.filter (fun x => !gone.contains x),
    fetching := t.host.fetching.filter (fun e => !(e.1 == n && e.2.1 == k)) } }
  t.stopSq n k 1

/-! ## What the host answers (R211, R212, R239, R243) -/

/-- A piece of a unit list arrives; an entry that is not aligned breaks R214. Log 136 (DEDUCED). -/
def State.takeList (s : State) (c : HCmd) (bs : List Byte) : State :=
  let got := c.listGot ++ bs
  let l := listEntries got
  if l.any (fun e => e % 4096 != 0) then s.endCmd c 0x32 0 0x02
  else
    let whole : Bool := 8 * (c.units' - 1) ≤ got.length
    s.updCmd c.inst c.sq c.cid (fun x =>
      { x with listGot := got, reading := false, bufs := if whole then some l else x.bufs })

/-- A table entry arrives. Log 137 (DEDUCED). -/
def State.takeWalk (s : State) (n page level e : Nat) : State :=
  if e % 2 = 0 then s.failPage n page 0
  else if level = 1 then
    (if bitsOf e 1 11 ≠ 0 then s.failPage n page 2
     else s.memRead 0 (e / 4096 * 4096 + 8 * (page % 512)) 8 page (.walk n page 2))
  else if bitsOf e 3 9 ≠ 0 then s.failPage n page 2
  else s.fillTlb { inst := n, page := page, frame := e / 4096, rd := bitAt e 1, wr := bitAt e 2 }

/-- The bytes of a read have all arrived. -/
def State.takeRead (s : State) (r : HRead) (bs : List Byte) : State :=
  let t : State := { s with host := { s.host with reads := s.host.reads.erase r } }
  match r.use with
  | .sqe n k =>
    let u : State := { s with host := { s.host with
      reads := mapIf (fun x => x == r) (fun x => { x with got := some bs }) s.host.reads } }
    u.drainSqes n k u.host.reads.length
  | .list n k cid =>
    match t.findCmd n k cid with
    | some c => t.takeList c bs
    | none => t
  | .unit n k cid => t.updCmd n k cid (fun c => { c with units := c.units ++ [bs], reading := false })
  | .walk n page level => t.takeWalk n page level (natLE bs)

/-- A read fails: what else it has asked for is discarded as it arrives. -/
def State.failRead (s : State) (r : HRead) : State :=
  let t := s.dropReads (fun x => x == r)
  match r.use with
  | .sqe n k => s.failSqe n k r
  | .list n k cid =>
    match t.findCmd n k cid with
    | some c => t.failUnit c c.listUnit 0x51 0x0B
    | none => t
  | .unit n k cid =>
    match t.findCmd n k cid with
    | some c => t.failUnit c c.units.length 0x51 0x0B
    | none => t
  | .walk n page _ => t.failPage n page 2

/-- An uncorrectable error is reported by AER and counted. Log 138 (PRESUMED). -/
def State.noteAer (s : State) : State := (s.bump PCE_AER_CNT_UNCORR).fire EV_PCE_AER_UNCORR

/-- The header of a poisoned packet is logged for AER (R201): what the host sent is a free value. Log 138 (PRESUMED). -/
def State.logHeader (s : State) : State :=
  ((List.range 4).foldl (fun (t : State) i => t.setFnReg 0 (40 + i) (Config.tlpHeader s.freeCtr i).toNat) s).spend

/-- The dock waits for the completion of a request with this tag. -/
def State.tagOpen (s : State) (tag : Nat) : Bool := s.pciUp && s.readTags.contains tag

/-- The read that a request of this tag serves; none where nothing waits for its data. -/
def State.readOf (s : State) (tag : Nat) : Option HRead :=
  s.host.reads.find? (fun r => r.reqs.any (fun q => q.tag == tag))

/-- A tag of a read that has been given up is free again. -/
def State.freeTag (s : State) (tag : Nat) : State :=
  { s with host := { s.host with stale := s.host.stale.filter (· != tag) } }

/-- The bytes of one request arrive; with the last of them the read is whole. -/
def State.takePart (s : State) (r : HRead) (tag : Nat) (bytes : List Byte) : State :=
  match r.reqs.find? (fun q => q.tag == tag) with
  | none => s
  | some q =>
    let r' : HRead := { r with
      data := putBytes r.data q.off (padTo q.len bytes), reqs := r.reqs.filter (fun x => x.tag != tag) }
    let t : State := { s with host := { s.host with reads := mapIf (fun x => x == r) (fun _ => r') s.host.reads } }
    if r'.reqs.isEmpty && r'.asked == r'.len then t.takeRead r' r'.data else t

/-- A request fails, and with it the read it serves; the tag is free. -/
def State.failPart (s : State) (tag : Nat) : State :=
  (match s.readOf tag with
   | some r => s.failRead r
   | none => s).freeTag tag

/-- PCIE_READ_COMPLETION of the request with a tag (R211, R212, R243). -/
def execPcieReadCompletion (id : Nat) (r : HostData) (s : State) : Result :=
  if !s.tagOpen id then .next s
  else
    match r with
    | .data bytes =>
      match s.readOf id with
      | some q => .next (s.takePart q id bytes).pump
      | none => .next (s.freeTag id).pump
    | .unsuccessful => .next (s.failPart id).pump
    | .poisoned => .next ((((s.bump PCE_CPL_CNT_POISONED).logHeader).noteAer).failPart id).pump

/-- COMPLETION_TIMEOUT (R201, R212, R229), which the host can disable. -/
def execCompletionTimeout (id : Nat) (s : State) : Result :=
  .next (if !s.tagOpen id || bitAt (s.fnReg 0 36) 4 then s
    else (((s.bump PCE_CPL_CNT_TIMEOUT).noteAer).failPart id).pump)

/-- CQ_COALESCE_TIMER (R211): COAL_TIME after the first entry not signalled; 0 means no timer. -/
def execCqCoalesceTimer (inst cq : Nat) (s : State) : Result :=
  .next (if s.pciUp && cq < 2 && s.fld (INS_CQ_CFG_COAL_TIME inst cq) != 0 && assocGet s.host.coal (2 * inst + cq) != 0 then
    s.signalCq inst cq else s)

/-! ## Order among the commands of a dock (R218, R225, R226) -/

/-- The commands the dock accepted before a command: by doorbell, then by slot. Log 143 (DEDUCED). -/
def State.earlier (s : State) (c : HCmd) : List HCmd :=
  s.host.cmds.filter (fun x => x.ord < c.ord) ++
  (s.host.cmds.takeWhile (fun x => !State.isCmd c.inst c.sq c.cid x)).filter (fun x => x.ord == c.ord)

/-- A command that holds the later ones back until it completes: BARRIER in its instance, BRG_MODE in all.
Log 143 (DEDUCED). -/
def HCmd.holds (x : HCmd) (n : Nat) : Bool :=
  x.done.isNone && !x.opRefused && (x.op == 0x30 || (x.op == 0x06 && x.inst == n))

/-- An earlier BARRIER or BRG_MODE holds a command back. Log 141 (DEDUCED). -/
def State.gated (s : State) (c : HCmd) : Bool := (s.earlier c).any (fun x => x.holds c.inst)

/-- Every earlier command has completed, of one instance or of all, and none waits to be fetched. -/
def State.allEarlierDone (s : State) (c : HCmd) (all : Bool) : Bool :=
  (s.earlier c).all (fun x => x.done.isSome || !(all || x.inst == c.inst)) &&
  s.host.bells.all (fun b => c.ord ≤ b.ord || !(all || b.inst == c.inst) ||
    !s.flag (INS_SQ_CFG_ENABLE b.inst b.sq) || s.fld (INS_SQ_STAT_ERR b.inst b.sq) != 0)

/-! ## QOS (R245–R247, R257) -/

/-- The next command of an SQ with a quantum to be granted. Log 132 (DESIGN CHOICE). -/
def State.sqNext (s : State) (n k : Nat) : Option HCmd :=
  ((s.sqCmds n k).find? (·.wantsGrant)).filter (fun c =>
    !c.needsList && !s.gated c && (s.fld (INS_STATE_STATE n) == 0 || 0 < c.grants))

/-- The command of an instance that is granted next: its SQs take turns. Log 132 (DESIGN CHOICE). -/
def State.qosNext (s : State) (n : Nat) : Option HCmd :=
  (List.range 4).findSome? (fun i => s.sqNext n ((assocGet s.host.sqTurn n + i) % 4))

/-- Byte charge, operation charge and deficit cost of a command's next quantum (R246). -/
def HCmd.charge (c : HCmd) : Nat × Nat × Nat :=
  if h2cUnits c.op c.arg ≠ 0 then (4096, if c.grants = 0 then 1 else 0, 1)
  else (4096 * c2hUnits c.op c.arg, 1, if c.op = 0x02 then c2hUnits c.op c.arg else 1)

/-- A bucket of an instance that is checked stands at 0 or below. -/
def State.bytesOut (s : State) (n : Nat) : Bool := s.fld (QOS_RATE_BYTE_RATE n) != 0 && (s.qosOf n).bytes ≤ 0
def State.opsOut (s : State) (n : Nat) : Bool := s.fld (QOS_RATE_OPS_RATE n) != 0 && (s.qosOf n).ops ≤ 0

/-- The cap holds data back. Log 181 (DESIGN CHOICE). -/
def State.capOut (s : State) (n : Nat) : Bool :=
  s.dockCap != 0 && s.host.capDebt != 0 && (s.qosNext n).any (fun c => c.charge.1 != 0)

/-- An instance with a request is held by a bucket for the first time in the episode (R257). -/
def State.noteHeld (s : State) (n : Nat) : State :=
  if (s.qosNext n).isNone then s
  else
    let t := if s.bytesOut n && !(s.qosOf n).bytesHeld then
      (s.setQos n { s.qosOf n with bytesHeld := true }).fireI EV_QOS_BYTES_LIMITED n 0 0 else s
    if t.opsOut n && !(t.qosOf n).opsHeld then
      (t.setQos n { t.qosOf n with opsHeld := true }).fireI EV_QOS_OPS_LIMITED n 0 0 else t

/-- What the QOS knows of its instances (R246). Log 141 (DEDUCED). -/
def State.qosArbiter (s : State) : Arbiter where
  eligible n := (s.qosNext n).isSome && !s.bytesOut n && !s.opsOut n && !s.capOut n
  waits := s.qosWaits
  weight := s.qosWeight
  cost n := match s.qosNext n with
    | some c => c.charge.2.2
    | none => 1

/-- Charge a grant in full; a bucket that falls to 0 or below has spent its gust (R246, R257). -/
def State.chargeQos (s : State) (n bytes ops : Nat) : State :=
  let q := s.qosOf n
  let s := if s.fld (QOS_RATE_BYTE_RATE n) = 0 then s else s.setQos n { q with bytes := q.bytes - 1000000 * bytes }
  let s := if s.bytesOut n && !(s.qosOf n).bytesSpent then
    (s.setQos n { s.qosOf n with bytesSpent := true }).fireI EV_QOS_GUST_SPENT n 0 0 else s
  let q := s.qosOf n
  let s := if s.fld (QOS_RATE_OPS_RATE n) = 0 then s else s.setQos n { q with ops := q.ops - 1000000 * ops }
  if s.opsOut n && !(s.qosOf n).opsSpent then
    (s.setQos n { s.qosOf n with opsSpent := true }).fireI EV_QOS_GUST_SPENT n 0 0 else s

/-- The bridge journal takes no new record, or is fenced. Log 145 (DEDUCED). -/
def State.bridgeFenced (s : State) : Bool := s.journalFenced || s.fenced (.engine pLND 1)

/-- The bridge mode failed its parity, and the source has not been cleared (R408). -/
def State.modeParity (s : State) : Bool := s.flt.holds.any (fun h => h.src == 113)

/-- The target ports of a bridged write as bits (R221). Log 146 (DEDUCED). -/
def State.writeTargets (s : State) : Nat :=
  if s.brgMode = 1 then 3 else if s.flag BRG_STAT_NO_ACTIVE then 0 else 2 ^ s.brgActive

/-- At its first grant a WRITE or DISCARD of MIRROR or ROTATE reserves the records of all its units, or ends
(R223, R283). -/
def State.reserveBridge (s : State) (c : HCmd) : State :=
  let units := if c.op = 0x03 then c.arg % 4096 + 1 else 1
  let kind := if c.op = 0x03 then 4 else 5
  if c.portSel ≠ 0 then s.endCmd c 0x32 0 0x08
  else if s.modeParity then s.endCmd c 0x33 0 0x07
  else if s.bridgeFenced then s.endCmd c 0x42 0 0
  else if s.flag LND_JSTAT_FULL then (s.fire EV_BRG_JOURNAL_FULL).endCmd c 0x33 0 0x07
  else if s.quiesceAsked pLND then s.endCmd c 0x33 0 0x07
  else if !s.fits kind units then s.noteFull.endCmd c 0x33 0 0x07
  else
    let addr := c.arg / 4096
    let t := if kind = 4 then s.allocWrites 4 c.inst addr s.writeTargets 0 units
      else s.allocRecord 5 c.inst (c.arg % 4096) addr s.writeTargets 0
    let t := s.noteHigh t
    let seqs := (t.lnd.recs.drop (t.lnd.recs.length - units)).map (·.seq)
    t.updCmd c.inst c.sq c.cid (fun x => { x with recs := seqs, targets := s.writeTargets })

/-- The quantum of a command is granted. -/
def State.grantCmd (s : State) (c : HCmd) : State :=
  let cls := s.fld (QOS_SCHED_CLASS c.inst)
  let t := ((s.setFld QOS_STAT_INST c.inst).setFld QOS_STAT_CLASS cls).setFld QOS_STAT_GRANTS
    ((s.fld QOS_STAT_GRANTS + 1) % 65536)
  let t := t.chargeQos c.inst c.charge.1 c.charge.2.1
  let t : State := { t with host := { t.host with
    sqTurn := assocSet t.host.sqTurn c.inst ((c.sq + 1) % 4),
    capDebt := if s.dockCap = 0 then 0 else t.host.capDebt + c.charge.1 } }
  let t := t.updCmd c.inst c.sq c.cid (fun x => { x with grants := x.grants + 1 })
  if c.grants = 0 && isWriteOp c.op && t.bridged then t.reserveBridge c else t

/-- QOS_GRANT (R245–R247). -/
def execQosGrant (s : State) : Result :=
  if !s.pciUp || !s.up || 2 ≤ s.powerState || !s.pageServes pQOS then .next s
  else
    let t := (List.range 16).foldl (fun (t : State) n => t.noteHeld n) s
    match State.decideGrant t.qosArbiter t with
    | (some n, u) =>
      match t.qosNext n with
      | some c => .next (u.grantCmd c).pump
      | none => .next u
    | (none, u) => .next u

end Sys2Proof.Machine
end

