-- ==== Sys2Proof/Machine/PcieRegs.lean ====
section
/-! DEFINITION. What the host reaches in the BARs of the functions beside the register window, and in their
configuration space (R201, R204–R207): doorbells, MSI-X tables and Pending Bit Arrays, and the configuration registers
by name. -/

namespace Sys2Proof.Machine

/-! ## Paths (R88, R205) -/

/-- The offset in the register window that an access of a path names; none where it names none (R88, R205). -/
def windowOf (path : Path) (off : Nat) : Option Nat :=
  match path with
  | .pf => some (off % 2 ^ 20)
  | .vf n => if 0x1000 ≤ off % 0x4000 ∧ off % 0x4000 < 0x2000 then some (pageOff (pINS n) (off % 4096)) else none
  | .link => some (off % 2 ^ 20)
  | _ => none

/-- The function whose doorbells and MSI-X structures a path reaches (R205). -/
def barFn (path : Path) : Option Nat :=
  match path with
  | .pf2 => some 0
  | .vf n => some n
  | _ => none

/-- The host reaches function `n` (R201, R203): PERST_N is high, the function is there, its reset is not under way, and
ARI forwarding is on for numbers above 7. -/
def State.fnReached (s : State) (n : Nat) : Bool :=
  s.isDock && s.pins.perstHigh && n < 16 && s.fnEnabled n && (n < 8 || s.flag PCE_FUNC_STAT_ARI) &&
  !bitAt (s.fld PCE_FLR_STAT_BUSY) n

/-- A path through which the part can be reached (R88, R203, R205): a BAR of a function that takes requests, its
configuration space, or a card's link in a session. -/
def State.pathOpen (s : State) (path : Path) : Bool :=
  match path with
  | .pf | .pf2 => s.fnReached 0 && s.fnAwake 0
  | .vf n => 1 ≤ n && s.fnReached n && s.fnAwake n
  | .cfg fn _ => s.fnReached fn
  | .link => s.isCard && s.session 0
  | .counlet => false

/-- A path writes the register at an offset of the window: a VF writes of its page's header only EVT_PEND and EVT_MASK
(R108). -/
def pathMayWrite (path : Path) (off : Nat) : Bool :=
  match path with
  | .vf _ => 0x40 ≤ off % 4096 || off % 4096 / 4 * 4 == 0x14 || off % 4096 / 4 * 4 == 0x18
  | _ => true

/-! ## Doorbells, MSI-X table and Pending Bit Array (R205–R207) -/

/-- The word at offset `o` of the BAR that holds a function's doorbells and MSI-X structures; a doorbell reads the last
value the dock accepted, and what R205 does not list reads zero. Log 131 (DEDUCED). -/
def State.barWord (s : State) (fn o : Nat) : Nat :=
  if o < 0x10 then s.fld (INS_SQ_STAT_TAIL fn (o / 4))
  else if o < 0x18 then s.fld (INS_CQ_STAT_HEAD fn ((o - 0x10) / 4))
  else if 0x2000 ≤ o ∧ o < 0x2080 then s.fnReg fn ((o - 0x2000) / 4)
  else if o = 0x3000 then s.fnReg fn 32
  else 0

/-- Messages that waited for their vectors to be unmasked go out (R207). Log 142 (PRESUMED). -/
def State.msixFlush (s : State) (fn : Nat) : State :=
  if !s.msixOn fn then s
  else (List.range 8).foldl (fun (t : State) v =>
    if bitAt (t.fnReg fn 32) v && !t.msixMasked fn v then (t.setFnReg fn 32 (t.fnReg fn 32 - 2 ^ v)).emit (.msix fn v)
    else t) s

/-- A word of the MSI-X table: of Vector Control the mask bit alone is kept, and addresses are aligned.
Log 142 (PRESUMED). -/
def State.tableWrite (s : State) (fn i w : Nat) : State :=
  (s.setFnReg fn i (if i % 4 = 3 then w % 2 else if i % 4 = 0 then w / 4 * 4 else w)).msixFlush fn

/-- A write of a whole word at offset `o` of the BAR that holds a function's doorbells and MSI-X structures. -/
def State.barWrite (s : State) (fn o w : Nat) : State :=
  if o < 0x10 then (if s.fnTakes fn then (s.wake 3).ringSq fn (o / 4) w else s)
  else if o < 0x18 then (if s.fnTakes fn then ((s.wake 3).ringCq fn ((o - 0x10) / 4) w).pump else s)
  else if 0x2000 ≤ o ∧ o < 0x2080 then s.tableWrite fn ((o - 0x2000) / 4) w
  else s

/-! ## Configuration space (R201, R204) -/

/-- A configuration register of a function, as R201, R204 and R205 fix it or as it was written.
Log 160 (DESIGN CHOICE). -/
def State.cfgWord (s : State) (fn : Nat) (r : CfgReg) : Nat :=
  match r with
  | .ids => if fn = 0 then 0x16801F3B else 0x16811F3B
  | .revClass => 0x018000B0
  | .subsystem => s.shadowWord 5 % 2 ^ 32
  | .devCtl => s.fnReg fn 35
  | .devCtl2 => s.fnReg fn 36
  | .pmCsr => s.fnReg fn 37
  | .msixCtl => (s.fnReg fn 33 ||| 7) * 2 ^ 16
  | .msixTable => if fn = 0 then 0x2002 else 0x2000
  | .msixPba => if fn = 0 then 0x3002 else 0x3000
  | .vfTotals => if fn = 0 then 0x000F000F else 0
  | .vfStride => if fn = 0 then 0x00010001 else 0
  | .vfDevice => if fn = 0 then 0x16810000 else 0
  | .pageSizes => if fn = 0 then 1 else 0
  | .aerCtl => s.fnReg fn 38
  | .aerHeader i => s.fnReg fn (40 + i % 4)

/-- Put the bytes of `w` that `be` enables over those of `old`. -/
def mergeBytes (old w be : Nat) : Nat :=
  (List.range 4).foldl (fun a k => a + (bitsOf (if bitAt be k then w else old) (8 * k) 8) * 2 ^ (8 * k)) 0

/-- A write of a configuration register: the fields the dock supports are kept. Transfer sizes are those of the PF, and
PCE.XFER_STAT shows them (R229); Max Payload Size is 128 or 256 bytes (R201). Log 160 (DESIGN CHOICE). -/
def State.cfgWrite (s : State) (fn : Nat) (r : CfgReg) (w be : Nat) : State :=
  let v := mergeBytes (s.cfgWord fn r) w be
  match r with
  | .devCtl =>
    if fn ≠ 0 then s
    else
      let mps := min 1 (bitsOf v 5 3)
      let mrrs := min 5 (bitsOf v 12 3)
      ((s.setFnReg 0 35 (32 * mps + 4096 * mrrs)).setFld PCE_XFER_STAT_MPS mps).setFld PCE_XFER_STAT_MRRS mrrs
  | .devCtl2 => if fn ≠ 0 then s else s.setFnReg 0 36 (v &&& 0x1F)
  | .pmCsr => s.setFnReg fn 37 (if bitsOf v 0 2 = 3 then 3 else 0)
  | .msixCtl => (s.setFnReg fn 33 (v / 2 ^ 16 &&& 0xC000)).msixFlush fn
  | .aerCtl => s.setFnReg fn 38 (v &&& 0x140)
  | _ => s

end Sys2Proof.Machine
end

