-- ==== Sys2Proof/Machine/RegWrite.lean ====
section
/-! DEFINITION. Writing the register window (R87–R101): which path reaches which register, what a write of each
register does, and the plain registers by their access types. -/

namespace Sys2Proof.Machine

/-! ## Pages whose registers act -/

/-- A write below 0x040, the header of every page (R93). -/
def State.headerWrite (s : State) (p o w : Nat) : State :=
  if o = 0x24 then s.injWrite p w
  else if o = 0x28 then s.armInject p w
  else
    let t := s.touchPage p
    match o with
    | 0x08 => t.pgCtrlWrite p w
    | 0x14 => t.pendClear p w
    | 0x18 => t.maskWrite p w
    | 0x1C => t.evtTest p w
    | 0x2C => t.lockPage p w
    | _ => t

/-- A register of plain fields, by their access types (R91, R101). -/
def State.plainWrite (s : State) (p o w : Nat) : State :=
  let off := 4096 * p + o
  let m := regMasks s.role off
  let set := (if s.flag (PG_LOCK_LOCK p) then m.1 else m.1 ||| m.2.1) &&& roleBits s.role p o
  let old := s.reg off
  let sw := BitVec.ofNat 32 set
  let clr := BitVec.ofNat 32 (m.2.2 &&& w)
  if set = 0 ∧ m.2.2 = 0 then s
  else s.setReg off (((old &&& ~~~sw) ||| (BitVec.ofNat 32 w &&& sw)) &&& ~~~clr)

/-- MBX_CTRL: OP and LEN, and GO. -/
def State.mbxCtrlWrite (s : State) (p w : Nat) : State :=
  if bitAt w 16 then s.mailboxGo p (bitsOf w 0 8) (bitsOf w 8 8)
  else (s.setFld (CN_MBX_CTRL_OP p) (bitsOf w 0 8)).setFld (CN_MBX_CTRL_LEN p) (bitsOf w 8 8)

/-- A write from 0x040 of a page, with what it does. -/
def State.bodyWrite (s : State) (p o w : Nat) : State :=
  if roleBits s.role p o = 0 then s
  else match p, o with
  | 0x01, 0x44 => s.chipReset w false
  | 0x03, 0x48 => s.pwrCtrl w
  | 0x04, 0x4C => s.ringTailWrite w
  | 0x04, 0x5C => s.ringClear w
  | 0x05, 0x60 => if s.up then s.fltClear (bitsOf w 0 16) (bitsOf w 16 7) (bitAt w 23) else s
  | 0x06, 0x5C => s.tmpCtrl w (!s.tamper.switchHigh)
  | 0x07, 0x58 => s.keyCtrl w
  | 0x08, 0x54 => s.lckCtrl w
  | 0x09, 0x60 => s.lseCtrl 0 w
  | 0x0A, 0x60 => s.lseCtrl 1 w
  | 0x0B, 0x74 => s.spCtrl 0 w
  | 0x0C, 0x74 => s.spCtrl 1 w
  | 0x0D, 0x58 => s.dockCtrlWrite 0 w
  | 0x0E, 0x58 => s.dockCtrlWrite 1 w
  | 0x0D, 0x70 => s.mbxCtrlWrite 0 w
  | 0x0E, 0x70 => s.mbxCtrlWrite 1 w
  | 0x12, 0x68 => s.treCtrl w
  | 0x15, 0x60 => s.medCtrl w
  | 0x21, 0x48 => s.invalWrite w
  | 0x23, 0x74 => s.brgCtrl w
  | 0x23, 0x80 => s.dfwCtrl w
  | 0x23, 0x84 => s.dfwAddr w
  | 0x23, 0x88 => s.dfwData w
  | _, _ =>
    if p = pKEY ∧ 0x60 ≤ o ∧ o < 0x80 then s.importWrite ((o - 0x60) / 4) w
    else if p = pQOS ∧ 0x100 ≤ o ∧ o < 0x200 then (if s.flag (PG_LOCK_LOCK pQOS) then s else s.qosWrite o w)
    else if s.dockInst p then s.insWrite (p - 0x40) o w
    else s.plainWrite p o w

/-- A write of the window: only a write of all four bytes of a word of a page that answers takes effect
(R89, R95, R97). -/
def State.regWrite (s : State) (off v be : Nat) : State :=
  let p := off / 4096 % 256
  let o := off % 4096 / 4 * 4
  let w := v % 2 ^ 32
  if be % 16 ≠ 0xF ∨ !s.pageTakes p then s
  else if o < 0x40 then s.headerWrite p o w
  else (s.touchPage p).bodyWrite p o w

/-! ## Accesses by path (R88, R89) -/

/-- One 32-bit read of a path: the word, and the state with its high word latched (R90). Log 63 (DEDUCED). -/
def State.pathRead (s : State) (path : Path) (off : Nat) : Nat × State :=
  match windowOf path off, path, barFn path with
  | some o, _, _ => s.regRead o
  | none, .cfg fn r, _ => (s.cfgWord fn r, s)
  | none, _, some fn => (s.barWord fn (off % 0x4000 / 4 * 4), s)
  | none, _, none => (0, s)

/-- A read of 1, 2, 4 or 8 bytes: the part asked for of the containing word; eight bytes are two reads, the lower first
(R89). -/
def State.hostRead (s : State) (path : Path) (off bytes : Nat) : State :=
  let a := s.pathRead path off
  if bytes = 8 then
    let b := a.2.pathRead path (off + 4)
    b.2.emit (.readData path off bytes (a.1 + 2 ^ 32 * b.1))
  else a.2.emit (.readData path off bytes (a.1 / 2 ^ (8 * (off % 4)) % 2 ^ (8 * bytes)))

/-- One 32-bit write of a path, with its byte enables. -/
def State.pathWrite (s : State) (path : Path) (off w be : Nat) : State :=
  match windowOf path off, path, barFn path with
  | some o, p, _ => if pathMayWrite p o then s.regWrite o w be else s
  | none, .cfg fn r, _ => s.cfgWrite fn r w be
  | none, _, some fn => if be % 16 = 0xF then s.barWrite fn (off % 0x4000 / 4 * 4) w else s
  | none, _, none => s

/-- A write of up to eight bytes: beyond four it is two writes, the lower first (R89). -/
def State.hostWrite (s : State) (path : Path) (off v be : Nat) : State :=
  let t := s.pathWrite path off (v % 2 ^ 32) (be % 16)
  if be < 16 then t else t.pathWrite path (off + 4) (v / 2 ^ 32 % 2 ^ 32) (be / 16)

end Sys2Proof.Machine
end

