-- ==== Sys2Proof/Machine/CardLink.lean ====
section
/-! DEFINITION. The card's end of the Spantoen link (chapters 07 and 08): the opcodes and what each demands of its
frame (R19, R181, R182), the checks of R188 in their order, acceptance and deduplication (R189), PING, and the
units and status frames of both directions (R178–R191). -/

namespace Sys2Proof.Machine

open Sys2Proof.Crypto

/-! ## Opcodes (R19, R181, R182) -/

def knownOp (op : Nat) : Bool :=
  op < 4 || (5 ≤ op && op ≤ 0x0A) || op == 0x0C || op == 0x0D || (0x10 ≤ op && op ≤ 0x1B)

/-- Accepted from instance 0 only. Log 121 (DEDUCED). -/
def zeroOnly (op : Nat) : Bool := 0x0C ≤ op

/-- The data commands (R188). -/
def dataOp (op : Nat) : Bool := op == 0x02 || op == 0x03 || (5 ≤ op && op ≤ 0x0A)

/-- ADDR and CNT of a data command (R174). -/
def argAddr (arg : Nat) : Nat := arg / 4096
def argCnt (arg : Nat) : Nat := arg % 4096

/-- No reserved bit of ARG is set. -/
def argClean (op arg : Nat) : Bool :=
  if op = 0x00 then arg < 2 ^ 32
  else if op = 0x02 ∨ op = 0x03 ∨ op = 0x05 ∨ op = 0x11 then true
  else if op = 0x08 ∨ op = 0x09 then arg % 4096 == 0
  else if op = 0x0C ∨ op = 0x0D then arg < 2 ^ 30
  else if op = 0x12 then arg < 4
  else if op = 0x13 then bitsOf arg 2 14 == 0
  else if op = 0x16 then arg < 128
  else if op = 0x18 then arg < 2 ^ 26
  else if op = 0x19 ∨ op = 0x1A then arg < 2
  else if op = 0x1B then
    bitsOf arg 40 6 == 0 && ((arg / 2 ^ 46 == 1 && bitsOf arg 24 16 == 0) || arg / 2 ^ 46 == 2)
  else arg == 0

/-- The fields of a frame as wide as the frame has them. -/
def cutCmd (c : Cmd) : Cmd :=
  { inst := c.inst % 16, tag := c.tag % 256, arg := c.arg % 2 ^ 48, epoch := c.epoch % 4, mac := c.mac % 2 ^ 24 }

/-! ## The checks (R188) -/

/-- The commands of an instance complete with FENCED (R64, R254). Log 74 (DEDUCED). -/
def State.instFenced (s : State) (n : Nat) : Bool :=
  s.fenced (.inst n) || s.flag (PG_CTRL_FENCE_REQ (pINS n)) || s.imk n == []

/-- A lock in force refuses the command (R387). -/
def State.lockBars (s : State) (op inst arg : Nat) : Bool :=
  (dataOp op && (s.lockForce inst || s.lockForce 16)) ||
  (s.lockForce 16 && (op == 0x14 || op == 0x0D || op == 0x18 || op == 0x19 || (op == 0x1A && arg != 1)))

/-- Units of an instance. -/
def State.instUnits (s : State) (n : Nat) : Nat := 4096 * s.fld (INS_SIZE_EXTENTS n)

/-- The range a command names is invalid (R181, R233): END of a SEG_CLOSE may be the size, and a register offset that is
not word-aligned counts as out of range. Log 175 (DESIGN CHOICE), 176 (DESIGN CHOICE). -/
def State.rangeBad (s : State) (op inst arg : Nat) : Bool :=
  if op = 0x02 ∨ op = 0x03 ∨ op = 0x05 then s.instUnits inst < argAddr arg + argCnt arg + 1
  else if op = 0x08 then s.instUnits inst < argAddr arg + 1
  else if op = 0x09 then s.instUnits inst < argAddr arg
  else if op = 0x0C ∨ op = 0x0D then
    arg % 2 ^ 20 % 4 != 0 || 0x100000 < arg % 2 ^ 20 + 4 * (arg / 2 ^ 20 + 1)
  else false

/-- Steps 7 to 14: the status and INFO of the first check that refuses the command.
Log 77 (DEDUCED), 99 (DEDUCED), 121 (DEDUCED). -/
def State.refusal (s : State) (op : Nat) (c : Cmd) : Option (Nat × Nat) :=
  if op = 0 then none
  else if !knownOp op || (zeroOnly op && c.inst != 0) || !argClean op c.arg then some (0x32, 0)
  else if !s.configured c.inst then some (0x30, 0xFFFF)
  else if s.safe then some (0x60, 0)
  else if dataOp op && !s.up then some (0x33, 0)
  else if dataOp op && s.readyLocked then some (0x22, 0)
  else if s.quiesceAsked (pINS c.inst) then some (0x31, 0)
  else if s.instFenced c.inst then some (0x42, 0)
  else if s.lockBars op c.inst c.arg then some (0x20, 0)
  else if s.rangeBad op c.inst c.arg then some (0x30, 0)
  else if s.untuned 0 && h2cUnits op c.arg + c2hUnits op c.arg != 0 then some (0x32, 0)
  else none

/-- The CMD event of a refusing status. Log 122 (DEDUCED). -/
def State.noteStatus (s : State) (op inst st : Nat) : State :=
  if st = 0x30 then s.fireI EV_CMD_OUT_OF_RANGE inst 0 0
  else if st = 0x32 then s.fireI EV_CMD_NOT_PERMITTED inst 0 0
  else if st = 0x20 ∧ op ≠ 0x1A then s.fireI EV_CMD_LOCK_REJECT inst 0 0
  else s

/-! ## Completing (R180, R183) -/

/-- The command is accepted and not completed. -/
def State.hasOut (s : State) (fc : Nat) : Bool := s.spA.outst.any (fun o => o.fc == fc)

/-- The token that goes with the response: all-pass for the last unit from the host (R180). -/
def Outst.endToken (o : Outst) : Option Nat :=
  let n := h2cUnits o.op o.arg
  if n ≠ 0 ∧ o.next = n then some 0xFF else none

/-- The card ends a command with a status; what it reserved and did not commit goes. -/
def State.done (s : State) (o : Outst) (st info : Nat) : State :=
  if s.hasOut o.fc then
    ((s.dropReserved o.seqs).noteStatus o.op o.inst st).finish o st info o.endToken o.unit.toList
  else s

/-! ## PING (R194) -/

/-- The value ≡ q (mod 2^32) nearest H. -/
def nearest (h q : Nat) : Nat :=
  let b := h / 2 ^ 32 * 2 ^ 32 + q % 2 ^ 32
  if h + 2 ^ 31 < b ∧ 2 ^ 32 ≤ b then b - 2 ^ 32 else if b + 2 ^ 31 < h then b + 2 ^ 32 else b

/-- The state of one FC: 0 not accepted, 1 outstanding, 2 completed, 3 outside the window. -/
def State.fcState (s : State) (own fc : Nat) : Nat :=
  let h := s.spA.cmdFc
  if fc = own ∨ s.hasOut fc then 1
  else if h + 128 < fc ∨ fc + 127 < h then 3
  else if s.spA.accepted.contains fc then 2
  else 0

/-- INFO of a PING response. Log 121 (DEDUCED). -/
def State.pingInfo (s : State) (own arg : Nat) : Nat :=
  let q := nearest s.spA.cmdFc arg
  ((List.range 8).map (fun i => s.fcState own (q + i) * 4 ^ i)).foldl (· + ·) 0

/-! ## Frames (R188, R189) -/

/-- The command's record, once accepted. -/
def outOf (op : Nat) (c : Cmd) (fc : Nat) (env : List MediaRead) (bound : Nat) : Outst :=
  { op := op, inst := c.inst, tag := c.tag, fc := fc, arg := c.arg, epoch := c.epoch, held := true, env := env,
    bound := bound }

/-- What a command keeps from the moment it is accepted: a TUNE_WR the lines whose tuning frame passes, the confirm of a
forced erase whether it carries the token armed for it (R182), any other the last SEQ allocated (R277). -/
def State.boundOf (s : State) (op : Nat) (c : Cmd) (aux : Nat) (armed : Option Nat) : Nat :=
  if op = 0x11 then aux % 256
  else if op = 0x1B then (armed.any (· == bitsOf c.arg 24 16)).toNat
  else s.lnd.seq - 1

/-- A frame whose FC has been accepted before (R189). Log 101 (DEDUCED), 102 (DEDUCED). -/
def State.answerAgain (s : State) (op : Nat) (c : Cmd) (fc : Nat) : State :=
  if s.hasOut fc then s
  else
    let reject := ((s.bump (LSE_CNT_REPLAY 0)).fireI (EV_LSE_REPLAY_REJECTED 0) c.inst
      (c.tag % 256 + op % 64 * 256 + c.epoch % 4 * 2 ^ 14) (fc % 2 ^ 32)).respond c.epoch c.inst c.tag 0x12 0 none
    match s.spA.dedup.find? (fun d => d.fc == fc) with
    | none => reject
    | some d =>
      if classN d.op then reject
      else
        let t := (s.bump (INS_CMD_CNT_DEDUP c.inst)).fireI EV_CMD_DEDUP c.inst 0 0
        let st := if d.st = 0x00 ∨ d.st = 0x01 then 0x02 else d.st
        if d.units.isEmpty then t.respond c.epoch c.inst c.tag st d.info none
        else
          let o := { outOf op c fc [] 0 with held := false, units := d.units, unit := d.units.head?, endSt := st,
                                             endInfo := d.info }
          { t with spA := { t.spA with outst := t.spA.outst ++ [o] } }

/-- The command is accepted: its FC is marked, and the first command at a new epoch closes the rekey window
(R188, R195); `aux` is as in `cardFrame`, and `armed` the token of a forced erase for which this is the next command.
Log 120 (DEDUCED). -/
def State.accept (s : State) (op : Nat) (c : Cmd) (fc : Nat) (env : List MediaRead) (aux : Nat) (armed : Option Nat) :
    State :=
  let t := if s.nextEpoch 0 c.epoch then s.closeRekey 0 else s
  let t := { t with spA := { t.spA with accepted := t.spA.accepted ++ [fc], cmdFc := max t.spA.cmdFc fc } }
  let o := outOf op c fc env (t.boundOf op c aux armed)
  let o := if op = 0x05 ∧ aux ≠ 0 then { o with failAt := some 0 } else o
  let t := { t with spA := { t.spA with outst := t.spA.outst ++ [o] } }
  if op = 0 then t.finish o 0x00 (t.pingInfo fc c.arg) none [] else t

/-- The first command of a session whose MAC verifies (R197). -/
def State.noteFirst (s : State) : State :=
  if s.spA.sessionSeen then s
  else { s with spA := { s.spA with sessionSeen := true } }.fire (EV_LSE_SESSION_UP 0)

/-- A command not accepted before: from instance 0, and other than PING, it is the next one after an arm (R182). -/
def State.takesToken (s : State) (op : Nat) (c : Cmd) : State :=
  if c.inst = 0 ∧ op ≠ 0 then { s with spA := { s.spA with eraseToken := none } } else s

/-- The confirm of a forced erase. -/
def isConfirm (op : Nat) (c : Cmd) : Bool := op == 0x1B && c.arg / 2 ^ 46 == 2

/-- A check refuses a command; a confirm that is refused disarms the erase (R182, R188). -/
def State.refuseCmd (s : State) (op : Nat) (c : Cmd) (st info : Nat) : State :=
  let t := (s.noteStatus op c.inst st).respond c.epoch c.inst c.tag st info none
  if isConfirm op c then t.disarm else t

/-- A command frame that passes R175 (R188); `aux` gives the lines whose tuning frame passes, for a TUNE_WR, and is not 0
for a DISCARD whose commit line will fail its read-back. Log 68 (DEDUCED), 120 (DEDUCED). -/
def State.cardFrame (s : State) (op : Nat) (c : Cmd) (env : List MediaRead) (aux : Nat) : State :=
  if s.isCard && s.powerState == 3 then s.wake 1
  else if !s.cardLink then s
  else
    let s := (if s.powerState = 2 then s.wake 1 else s).setFlag (SP_STAT_CLK_STOPPED 0) false
    let r := s.frameCheck 0
    let s := r.2
    if !r.1 then s
    else if !s.session 0 then s.respondBare c.inst c.tag
    else
      match s.keyAt 0 c.epoch with
      | none => (s.fire (EV_LSE_EPOCH_UNHELD 0)).respond (s.fld (LSE_STAT_EPOCH 0)) c.inst c.tag 0x11 0xFFFF none
      | some key =>
        let mac := c.mac ^^^ s.injBits (pLSE 0) 0
        let s := s.injUsed (pLSE 0) 0
        match (fcNear s.spA.cmdFc c.tag).filter (fun fc => cmdMac key op c fc == mac) with
        | none =>
          let fc := (fcNear s.spA.cmdFc c.tag).getD 0
          let t := (s.noteAuth 0 op c.inst c.tag c.epoch fc).respond c.epoch c.inst c.tag 0x11 0xFFFF none
          if t.authSpent 0 then t.closeSession 0 else t
        | some fc =>
          let t := s.noteFirst
          if t.spA.accepted.contains fc then t.answerAgain op c fc
          else
            let u := t.takesToken op c
            match u.refusal op c with
            | some (st, info) => u.refuseCmd op c st info
            | none => u.accept op c fc env aux t.spA.eraseToken

/-! ## Units to the host (R180, R191) -/

/-- The instances stand in the rings of their classes (R248, R249). -/
def State.syncRings (s : State) : State :=
  (List.range 16).foldl (fun (t : State) n =>
    if (t.ringOf (t.fld (INS_SCHED_CLASS n))).contains n then t else t.toRing n (t.fld (INS_SCHED_CLASS n))) s

/-- The card's CMD arbiter over units to be read out to the port (R248). Log 123 (DEDUCED). -/
def State.cmdArbiter (s : State) : Arbiter :=
  { eligible := s.unitWaits, waits := s.unitWaits, weight := fun n => max 1 (s.fld (INS_SCHED_WEIGHT n)),
    cost := fun _ => 1 }

/-- The oldest command of an instance that has a unit to send. -/
def State.readerOf (s : State) (n : Nat) : Option Outst :=
  s.spA.outst.find? (fun o => o.inst == n && !o.held && c2hUnits o.op o.arg != 0 && !o.units.isEmpty && !o.sending)

/-- Send the unit in turn of a command. -/
def State.putUnit (s : State) (o : Outst) : State :=
  let t := if o.fails = 0 then s.countUnit 0 o.epoch else s
  (t.updOut o.fc (fun x => { x with sending := true, fails := x.fails + 1 })).sendUnit o o.next (o.units.headD [])

/-- Send the next unit, if none awaits its status frame. Log 123 (DEDUCED). -/
def State.sendNext (s : State) : State :=
  if s.spA.outst.any (·.sending) then s
  else
    let t := s.syncRings
    let r := t.decideGrant t.cmdArbiter
    match r.1 with
    | none => s
    | some n =>
      match r.2.readerOf n with
      | none => s
      | some o => if r.2.unitsSpent 0 o.epoch then r.2.done o 0x11 o.next else r.2.putUnit o

/-- LOG_READ consumes the records it returned (R110, R181). -/
def State.consume (s : State) (n : Nat) : State :=
  let k := min n (s.fld EVT_RING_STAT_COUNT)
  (s.setFld EVT_RING_TAIL_INDEX (s.fld EVT_RING_TAIL_INDEX + k)).setFld EVT_RING_STAT_COUNT
    (s.fld EVT_RING_STAT_COUNT - k)

/-- The host has taken the unit in turn: the command goes on, or ends. -/
def State.unitTaken (s : State) (o : Outst) : State :=
  let s := if o.op = 0x02 then { s with life := { s.life with read := s.life.read + 1 } }
    else if o.op = 0x16 then s.consume o.fin else s
  let o' := { o with next := o.next + 1, fails := 0, heard := false, sending := false, units := o.units.tail }
  let t := s.updOut o.fc (fun _ => o')
  if o'.units.isEmpty then t.done o' o.endSt o.endInfo else t

/-- A unit was not taken, or its status frame did not come: it is sent again, or the card gives up (R190,
R191). -/
def State.unitMissed (s : State) (o : Outst) (valid : Bool) : State :=
  let o' := { o with heard := o.heard || valid }
  let t := s.updOut o.fc (fun _ => o')
  if t.unitTries 0 ≤ o'.fails ∧ !o'.heard then (t.noteExhausted 0 o.tag o.next).done o' 0x10 o.next
  else (t.noteResent 0).putUnit o'

/-- A host status frame (R179). -/
def State.cardToken (s : State) (good : Bool) (token ntoken : Nat) : State :=
  match s.spA.outst.find? (·.sending) with
  | none => s
  | some o =>
    let valid := good && ntoken + token == 255
    if good && token == 0 && ntoken == 0 then s.done o 0x10 o.next
    else if valid && token == 0xFF then s.unitTaken o
    else s.unitMissed o valid

/-! ## Units from the host (R180, R190, R191) -/

/-- The command whose units the host sends: the oldest that still owes one and whose data phase has not ended. -/
def State.owing (s : State) : Option Outst :=
  s.spA.outst.find? (fun o => o.next < h2cUnits o.op o.arg && o.cut.isNone)

/-- A unit that the card has accepted before, of a command that is outstanding or completed. Log 123 (DEDUCED). -/
def State.unitKnown (s : State) (ct gt : List Byte) : Bool :=
  s.spA.outst.any (fun o => h2cUnits o.op o.arg != 0 &&
    (List.range o.next).any (fun k => (s.hostUnit o.epoch o.inst o.tag k o.fc ct gt).isSome)) ||
  s.spA.dedup.any (fun d =>
    (List.range (h2cUnits d.op d.arg)).any (fun k => (s.hostUnit d.epoch d.inst d.tag k d.fc ct gt).isSome))

/-- The data phase of a command ends early with a status and INFO k: at once, with units 0 to k − 1 executed, or, where
the command is held and they wait, when it starts (R191, R193). Log 97 (DESIGN CHOICE). -/
def State.endPhase (s : State) (o : Outst) (st : Nat) : State :=
  if o.held && (o.op == 0x03 || o.op == 0x18) && o.next != 0 then s.updOut o.fc (fun x => { x with cut := some st })
  else s.done o st o.next

/-- Lines of a unit failed: the token says which, or retries are exhausted. -/
def State.unitFailed (s : State) (o : Outst) (lines : Nat) : State :=
  let t := s.noteLines 0 lines o.tag
  let t := t.updOut o.fc (fun x => { x with fails := x.fails + 1 })
  if t.unitTries 0 ≤ o.fails + 1 then (t.noteExhausted 0 o.tag o.next).endPhase o 0x10
  else t.emit (.status 0 true lines)

/-- A unit's tag failed: the command ends, and at the limit the session with it (R186). -/
def State.unitForged (s : State) (o : Outst) : State :=
  let t := (s.noteAuth 0 o.op o.inst o.tag o.epoch o.fc).endPhase o 0x11
  if t.authSpent 0 then t.closeSession 0 else t

/-- The unit in turn is whole: it waits to be executed, and unless it is the last its token goes out. -/
def State.unitStored (s : State) (o : Outst) (plain : List Byte) (readback : Bool) (lat : Nat) (env : List MediaRead) :
    State :=
  let n := h2cUnits o.op o.arg
  let t := s.countUnit 0 o.epoch
  let t := t.updOut o.fc (fun x => { x with
    next := x.next + 1, fails := 0, units := x.units ++ [plain], lat := lat,
    failAt := if !readback ∧ x.failAt.isNone then some x.next else x.failAt,
    env := if env.isEmpty then x.env else env })
  if o.next + 1 < n then t.emit (.status 0 true 0xFF) else t

/-- A unit whose lines all pass arrives at the card. -/
def State.wholeUnit (s : State) (ct gt : List Byte) (readback : Bool) (lat : Nat) (env : List MediaRead) : State :=
  match s.owing with
  | none =>
    if s.unitKnown ct gt then s.emit (.status 0 true 0xFF)
    else if s.spA.outst.any (·.cut.isSome) then s.emit (.status 0 true 0)
    else s
  | some o =>
    match s.hostUnit o.epoch o.inst o.tag o.next o.fc ct gt with
    | some plain => if s.unitsSpent 0 o.epoch then s.done o 0x11 o.next else s.unitStored o plain readback lat env
    | none => if s.unitKnown ct gt then s.emit (.status 0 true 0xFF) else s.unitForged o

/-- A unit from the host arrives, up to its execution (R152, R186, R199, R200). -/
def State.cardUnit (s : State) (u : UnitIn) (readback : Bool) (lat : Nat) (env : List MediaRead) : State :=
  let lines := u.mask (s.injBits (pSP 0) 1)
  let t := s.injUsed (pSP 0) 1
  if lines = 0xFF then (t.injUsed (pLSE 0) 1).wholeUnit u.ct (t.tagOf 0 u) readback lat env
  else
    match t.owing with
    | some o => t.unitFailed o lines
    | none => if t.spA.outst.any (·.cut.isSome) then t.emit (.status 0 true lines) else t

end Sys2Proof.Machine
end

