-- ==== Sys2Proof/Machine/CardRun.lean ====
section
/-! DEFINITION. What a card does with each command it has accepted: when it may start (R226, R235, R393, R396, R370,
R80), its effect, and what is done as its units arrive. -/

namespace Sys2Proof.Machine

/-! ## When a command may start -/

/-- The plaintext of a one-unit command, once it has arrived. -/
def Outst.data (o : Outst) : List Byte := o.units.headD []

/-- ACTION and target of an INST_CFG (R232). -/
def Outst.action (o : Outst) : Nat := (o.data.getD 0 0).toNat
def Outst.target (o : Outst) : Nat := (o.data.getD 1 0).toNat

/-- Commands that wait for every earlier one of their instance and hold later ones. -/
def orderOp (op : Nat) : Bool := op == 0x06 || op == 0x08 || op == 0x09

/-- Two ranges of one instance with a common unit. -/
def Outst.overlaps (a b : Outst) : Bool :=
  isWriteOp a.op && isWriteOp b.op && a.inst == b.inst &&
  argAddr a.arg ≤ argAddr b.arg + argCnt b.arg && argAddr b.arg ≤ argAddr a.arg + argCnt a.arg

/-- An earlier command holds a later one. -/
def Outst.holds (b o : Outst) : Bool :=
  (b.inst == o.inst && (orderOp b.op || orderOp o.op)) || b.overlaps o ||
  (b.op == 0x14 && !b.units.isEmpty && b.target == o.inst) ||
  (o.op == 0x14 && (b.op == 0x14 || (o.action != 5 && b.inst == o.target)))

/-- The command needs a management processor (R80). -/
def needsMp (op : Nat) : Bool :=
  op == 0x14 || op == 0x15 || op == 0x16 || op == 0x18 || op == 0x19 || op == 0x1A

/-- The command needs a new KEY operation (R370). -/
def Outst.needsKey (o : Outst) : Bool :=
  o.op == 0x13 || o.op == 0x1A || o.op == 0x1B || (o.op == 0x14 && (o.action == 1 || o.action == 4))

/-- A SEG command works with the seal key. -/
def segOp (op : Nat) : Bool := op == 0x08 || op == 0x09 || op == 0x0A

/-- The one unit of a one-unit command is still to come. -/
def Outst.lacksUnit (o : Outst) : Bool :=
  h2cUnits o.op o.arg != 0 && o.op != 0x03 && o.op != 0x18 && o.next == 0

/-! ## Order between the two channels (R128) -/

/-- OP and SEQ of a Counlet request that may be held. -/
def heldOp : Instr → Nat × Nat
  | .counletHealth q => (0x03, q)
  | .counletLockSet q _ _ _ _ => (0x10, q)
  | .counletUnlock q _ _ => (0x11, q)
  | .forceEraseArm q _ => (0x12, q)
  | .forceEraseConfirm q _ _ => (0x13, q)
  | .pairBeginProve q _ _ => (0x20, q)
  | .pairBeginEnrol q _ _ _ => (0x20, q)
  | .pairProofProve q _ => (0x21, q)
  | .pairProofEnrol q _ => (0x21, q)
  | .pairDrop q _ => (0x22, q)
  | .tamperAck q _ _ => (0x28, q)
  | .counletRegRd q _ => (0x30, q)
  | .fwSlotWrite q _ _ _ => (0x38, q)
  | _ => (0, 0)

/-- Pairing operations. -/
def cnPairs (op : Nat) : Bool := op == 0x20 || op == 0x21

/-- The operation changes the locks, the pairing records, the firmware slots or the erase (R128). -/
def cnShared (op : Nat) : Bool :=
  cnPairs op || op == 0x10 || op == 0x11 || op == 0x12 || op == 0x13 || op == 0x22 || op == 0x28 || op == 0x38

/-- The Spantoen command changes the locks, the firmware slots or the erase. -/
def linkShared (op : Nat) : Bool := op == 0x18 || op == 0x19 || op == 0x1A || op == 0x1B

/-- A Counlet request that arrived before the command was complete, and changes the same state, still waits. -/
def State.behindCn (s : State) (o : Outst) : Bool :=
  linkShared o.op && s.keys.heldReq.any (fun h => cnShared (heldOp h.req).1 && !h.after.contains o.fc)

/-- A DELETE, or a RESIZE that makes the instance smaller: no RANGE delta is committed while only the reserve of the delta
ring is left (R297). -/
def State.wantsRoom (s : State) (o : Outst) : Bool :=
  o.op == 0x14 && !s.deltaRoom && natBE (((padTo 4096 o.data).drop 12).take 8) == s.serial && (o.action == 4 ||
    (o.action == 2 && natBE (((padTo 4096 o.data).drop 8).take 4) < s.fld (INS_SIZE_EXTENTS o.target)))

/-- A held command may start, given the commands accepted before it. -/
def State.mayStart (s : State) (o : Outst) (before : List Outst) : Bool :=
  o.held && !o.lacksUnit && !before.any (fun b => b.holds o) && (!needsMp o.op || s.mpServes) &&
  (!o.needsKey || !s.keyHolds) && (!segOp o.op || !s.keys.wiped) &&
  ((o.op != 0x18 && o.op != 0x19) || s.firm.activating.isNone) && !s.behindCn o && !s.wantsRoom o

/-! ## Beginnings shared by several commands -/

/-- A command that returns units begins to send them. -/
def State.sendAll (s : State) (o : Outst) (units : List (List Byte)) (st info : Nat) : State :=
  if units.isEmpty then s.done { o with endSt := st, endInfo := info } st info
  else s.updOut o.fc (fun x => { x with held := false, units := units, endSt := st, endInfo := info })

/-- Data commands complete with FENCED: the journal or its lane, or the command processor, is fenced, or the delta log is
lost (R64, R300, R371). Log 99 (DEDUCED). -/
def State.dataFenced (s : State) : Bool :=
  s.journalFenced || s.flt.holds.any (fun h => h.src == 48) || s.fenced (.engine pCRY 2) || s.fenced (.engine pCMD 0) ||
  s.fenced (.island islCMD) ||
  s.flag (PG_CTRL_FENCE_REQ pCMD)

/-- What stops a data command as it starts: the instance is gone or smaller, a fence, an erase, a quiesce.
Log 98 (DEDUCED). -/
def State.dataBars (s : State) (o : Outst) : Option (Nat × Nat) :=
  if !s.configured o.inst then some (0x30, 0xFFFF)
  else if s.instFenced o.inst then some (0x42, 0)
  else if s.rangeBad o.op o.inst o.arg then some (0x30, 0)
  else if s.dataFenced then some (0x42, 0)
  else if s.erasing || s.quiesceAsked pCMD then some (0x33, 0)
  else none

/-! ## Writes (R15, R26, R268, R271, R275, R276) -/

/-- A read-back fails, and the command ends (R271). -/
def State.readbackFails (s : State) (o : Outst) (r : JRec) (inj : Bool) : State := (s.readbackLost r inj).done o 0x7F 0

/-- The commit of a response took this long (R270). -/
def State.noteLat (s : State) (lat : Nat) : State :=
  (s.setFld LND_LAT_LAST (min 255 lat)).raiseTo LND_LAT_MAX (min 255 lat)

/-- A committed record joins the open segment of its instance. -/
def State.segJoin (s : State) (seq : Nat) : State :=
  match s.findRec seq with
  | some r => s.segTake r false
  | none => s

/-- One more unit written (R449). -/
def State.countWritten (s : State) : State := { s with life := { s.life with written := s.life.written + 1 } }

/-- Commit the units of a WRITE that have arrived, in order, and answer after the last. A read-back fails where the
operand or an injection says so (R50, R286). -/
def State.commitUnits (fc : Nat) : Nat → State → State
  | 0, s => s
  | fuel + 1, s =>
    match s.spA.outst.find? (fun o => o.fc == fc) with
    | none => s
    | some o =>
      match o.units, o.seqs[o.fin]?.bind s.findRec with
      | u :: rest, some r =>
        let t := (s.commitRec r u).injUsed pLND 1
        if o.failAt = some o.fin || s.injects pLND 1 then t.readbackFails o r (s.injects pLND 1)
        else
          let o' := { o with fin := o.fin + 1, units := rest }
          let t := ((t.segJoin r.seq).countWritten).updOut fc (fun _ => o')
          if o'.fin = h2cUnits o.op o.arg then (t.noteLat o.lat).done o' 0x00 0
          else if rest.isEmpty && o'.cut.isSome then t.done o' (o'.cut.getD 0) o'.fin
          else State.commitUnits fc fuel t
      | _, _ => s

/-- The journal can take no new record. -/
def State.noRoom (s : State) : Bool := s.flag LND_JSTAT_FULL || s.flag (PG_CTRL_QUIESCE_REQ pLND)

/-- Writes are fenced: the media is worn out, or the write engine is fenced (R336, R286). Log 99 (DEDUCED). -/
def State.writeFenced (s : State) : Bool := s.flag MED_STAT_WRITE_FENCED || s.fenced (.engine pLND 1)

/-- WRITE reserves its records. Log 97 (DESIGN CHOICE). -/
def State.startWrite (s : State) (o : Outst) : State :=
  let n := if o.cut.isSome then o.next else argCnt o.arg + 1
  if 1024 < argCnt o.arg + 1 then s.done o 0x32 0
  else if s.writeFenced then s.done o 0x42 0
  else if s.noRoom then s.done o 0x33 0
  else if !s.fits 1 n then s.noteFull.done o 0x33 0
  else
    let addr := argAddr o.arg
    let t := s.noteHigh (s.allocWrites 1 o.inst addr 0 (s.globalUnit o.inst addr) n)
    let seqs := (t.lnd.recs.drop (t.lnd.recs.length - n)).map (·.seq)
    (t.updOut o.fc (fun x => { x with held := false, seqs := seqs })).commitUnits o.fc n

/-- DISCARD: one range record, committed at once and, for OK, read back (R50, R271, R301). -/
def State.startDiscard (s : State) (o : Outst) : State :=
  if s.writeFenced then s.done o 0x42 0
  else if s.noRoom then s.done o 0x33 0
  else if !s.fits 2 1 then s.noteFull.done o 0x33 0
  else
    let addr := argAddr o.arg
    let t := s.noteHigh (s.allocRecord 2 o.inst (argCnt o.arg) addr 0 (s.globalUnit o.inst addr))
    match t.lnd.recs.getLast? with
    | none => t.done o 0x00 0
    | some r =>
      let u := (t.commitRec r []).injUsed pLND 1
      if o.failAt = some 0 || t.injects pLND 1 then u.readbackFails o r (t.injects pLND 1) else (u.segJoin r.seq).done o 0x00 0

/-! ## Reads, order and settling (R16, R226, R277) -/

/-- READ: every unit as it stands when the command starts. Log 96 (DEDUCED). -/
def State.startRead (s : State) (o : Outst) : State :=
  let r := s.readUnits o.inst (argAddr o.arg) (argCnt o.arg + 1) o.env
  match r.2.2.1 with
  | some st => r.2.2.2.sendAll o r.1 st (if st = 0x42 then 0 else r.1.length)
  | none => r.2.2.2.sendAll o r.1 (if r.2.1 = 0 then 0x00 else 0x01) r.2.1

def State.startBarrier (s : State) (o : Outst) : State := (s.done o 0x00 0).fireI EV_CMD_BARRIER_DONE o.inst 0 0

/-- SETTLE: waiting pages are padded, so that the records can be released (R305). -/
def State.startSettle (s : State) (o : Outst) : State :=
  let t := if s.placing then (s.padHalf 0).padHalf 1 else s
  t.updOut o.fc (fun x => { x with held := false })

/-! ## Segments (R393, R396, R399) -/

def State.startSegOpen (s : State) (o : Outst) : State :=
  if s.keys.slk = [] then s.done o 0x42 0
  else if (s.segOf o.inst).isSome then s.done o 0x32 0
  else (s.openSegment o.inst (argAddr o.arg)).done o 0x00 0

/-- Log 101 (DEDUCED). -/
def State.startSegClose (s : State) (o : Outst) : State :=
  if s.keys.slk = [] then s.done o 0x42 0
  else
    let r := s.closeSegment o.inst (argAddr o.arg)
    match r.2.1 with
    | some u => (r.2.2.sendAll o [u] r.1 0).updOut o.fc (fun x => { x with unit := some u })
    | none => r.2.2.done o r.1 0

/-- A verification fails. -/
def State.verifyFails (s : State) (o : Outst) (st info : Nat) : State :=
  ((s.bump SEG_CNT_VERIFY_FAILED).fireI EV_SEG_VERIFY_FAIL o.inst info 0).done o st info

def State.startSegVerify (s : State) (o : Outst) : State :=
  let bs := o.data.take 128
  let inst := (bs.getD 6 0).toNat
  let first := natBE ((bs.drop 16).take 8)
  let fin := natBE ((bs.drop 24).take 8)
  if o.inst ≠ 0 ∧ inst ≠ o.inst then s.done o 0x32 0
  else if s.keys.slk = [] then s.done o 0x42 0
  else if !s.sealChecks bs then s.verifyFails o 0x41 0xFFFF
  else if s.instUnits inst < fin then s.verifyFails o 0x30 0
  else
    let r := s.verifyRange inst first 0 Crypto.shaH0 (fin - first) o.env
    match r.1 with
    | some (st, k) => r.2.2.verifyFails o st k
    | none =>
      if segHash r.2.1 (fin - first) = (bs.drop 48).take 32 then r.2.2.done o 0x00 0
      else r.2.2.verifyFails o 0x41 0xFFFE

/-! ## Registers (R181) -/

/-- Read `n` registers from an offset. -/
def State.readRegs (s : State) (off : Nat) : Nat → List Byte × State
  | 0 => ([], s)
  | n + 1 =>
    let r := s.regRead off
    let rest := r.2.readRegs (off + 4) n
    (bytesBE 4 r.1 ++ rest.1, rest.2)

def State.startRegRd (s : State) (o : Outst) : State :=
  let r := s.readRegs (o.arg % 2 ^ 20) (o.arg / 2 ^ 20 + 1)
  r.2.sendAll o [padTo 4096 r.1] 0x00 0

/-- Write words to consecutive registers; a chip reset waits for the carrying write to complete (R69). -/
def State.writeRegs (s : State) (off : Nat) : List (List Byte) → State
  | [] => s
  | w :: ws => (if off = rRST_CHIP_RST.off then s else s.regWrite off (natBE w) 0xF).writeRegs (off + 4) ws

/-- Log 125 (DEDUCED). -/
def State.startRegWr (s : State) (o : Outst) : State :=
  let off := o.arg % 2 ^ 20
  let ws := Crypto.chunks 4 (o.arg / 2 ^ 20 + 1) (padTo 4096 o.data)
  let t := (s.writeRegs off ws).done o 0x00 0
  let k := (rRST_CHIP_RST.off - off) / 4
  if off ≤ rRST_CHIP_RST.off ∧ k < ws.length then t.regWrite rRST_CHIP_RST.off (natBE (ws.getD k [])) 0xF else t

/-! ## The link itself (R158, R160, R163, R195) -/

def State.startTuneRd (s : State) (o : Outst) : State :=
  if s.fld (SP_STAT_MODE 0) = 0 then s.done o 0x32 0
  else (({ s with spA := { s.spA with tuneWrs := 1 } }).done o 0x00 0).emit (.tuneFrame 0 tuneFrames)

/-- A tune ends at the card (R161). Log 127 (DESIGN CHOICE). -/
def State.tuneOver (s : State) : State := ({ s with spA := { s.spA with tuneWrs := 0 } }).fire (EV_SP_TUNE_DONE 0)

/-- A TUNE_WR of the tune under way: the one behind the sweep of 64 ends it where every line passes (R161). -/
def State.noteTuneWr (s : State) (lines : Nat) : State :=
  let n := s.spA.tuneWrs
  if n = 65 ∧ lines = 0xFF then s.tuneOver
  else if n = 0 then s
  else { s with spA := { s.spA with tuneWrs := n + 1 } }

/-- TUNE_WR: `lines` are those whose tuning frame passed under the taps of ARG. -/
def State.runTuneWr (s : State) (o : Outst) (lines : Nat) : State :=
  if s.fld (SP_STAT_MODE 0) = 0 then s.done o 0x32 0
  else
    let t := s.setTaps 0 ((List.range 8).map (fun n => bitsOf o.arg (6 * n) 6))
    let t := if lines = 0xFF then t.tunePassed 0 else t.setFlag (SP_STAT_TUNED 0) false
    (t.noteTuneWr lines).finish o 0x00 lines (some lines) []

/-- Log 125 (DEDUCED). -/
def State.startTuneWr (s : State) (o : Outst) : State := s.runTuneWr o o.bound

/-- SPEED_SET: the response goes at the old mode. Log 126 (DEDUCED). -/
def State.startSpeed (s : State) (o : Outst) : State :=
  if 1 < s.spA.outst.length then s.done o 0x32 0
  else
    let t := (s.done o 0x00 0).switchMode 0 (o.arg % 4)
    if o.arg % 4 = 0 then
      let t := if t.spA.tuneWrs = 0 then t else t.tuneOver
      { t.bump (SP_RETRAIN_CNT_RETRAINS 0) with life := { t.life with retrains := t.life.retrains + 1 } }
    else t

/-- LINK_KEY (R195): the card's nonce goes in INFO. -/
def State.startLinkKey (s : State) (o : Outst) : State :=
  let e := o.arg % 4
  if s.flag (LSE_STAT_NEXT_HELD 0) || e != (s.fld (LSE_STAT_EPOCH 0) + 1) % 4 then s.done o 0x32 0
  else if s.keyFenced then s.done o 0x42 0
  else if !s.rngUp then s.done o 0x33 0
  else
    let cn := natBE (s.rand 2)
    (s.spend.openRekey 0 e (o.arg / 2 ^ 16 % 2 ^ 32) cn).done o 0x00 cn

/-- DOZE (R430). Log 69 (DEDUCED). -/
def State.startDozeCmd (s : State) (o : Outst) : State :=
  if 1 < s.spA.outst.length then s.refuseDoze.done o 0x33 0
  else if !s.flag PWR_CFG_DOZE_EN then s.done o 0x32 0
  else (s.done o 0x00 0).startDoze

/-! ## Instances (R232–R236, R254) -/

/-- The record has a layout R232 allows. Log 100 (DEDUCED). -/
def recordClean (u : List Byte) : Bool :=
  let b := fun (i : Nat) => (u.getD i 0).toNat
  1 ≤ b 0 && b 0 ≤ 5 && b 1 < 16 && b 2 < 4 && b 3 != 0 && (u.drop 20).all (· == 0)

/-- RECLAIM (R254): the instance's commands that are not committed whole are ABORTED, and what they held goes.
Log 100 (DEDUCED). -/
def State.reclaimInst (s : State) (own n : Nat) : State :=
  let mine := s.spA.outst.filter (fun o => o.inst == n && o.fc != own)
  let t := mine.foldl (fun (t : State) o => t.done o 0x51 (if h2cUnits o.op o.arg = 0 then o.next else o.fin)) s
  ((t.emptyWindow n).fireI EV_CMD_INST_RECLAIMED n 0 0).fireI EV_MAP_RECLAIM_DONE n 0 0

/-- DELETE: the intent, the response, and the steps (R236). Log 100 (DEDUCED). -/
def State.startDelete (s : State) (o : Outst) (n : Nat) : State :=
  let t := (s.commitStep (0x20 + n) 1 s.lnd.seq).done o 0x00 0
  (t.deleteSteps n).fireI EV_CMD_INST_CFG_DONE n 0 0

/-- Log 100 (DEDUCED). -/
def State.startInstCfg (s : State) (o : Outst) : State :=
  let u := padTo 4096 o.data
  let n := o.target
  let base := natBE ((u.drop 4).take 4)
  let size := natBE ((u.drop 8).take 4)
  let serial := natBE ((u.drop 12).take 8)
  let cls := (u.getD 2 0).toNat
  let weight := (u.getD 3 0).toNat
  let shrink : Bool := size < s.fld (INS_SIZE_EXTENTS n)
  if !recordClean u then s.done o 0x32 0
  else if serial ≠ 0 ∧ !(o.action = 4 ∨ (o.action = 2 ∧ shrink)) then s.done o 0x32 0
  else if o.action = 1 then
    let r := s.createInst n base size cls weight
    r.2.done o r.1 0
  else if o.action = 2 then
    let r := s.resizeInst n base size serial
    r.2.done o r.1 0
  else if o.action = 3 then
    (if base ≠ 0 ∨ size ≠ 0 then s.done o 0x32 0
     else
      let r := s.schedInst n cls weight
      r.2.done o r.1 0)
  else if o.action = 4 then
    (if n = 0 ∨ !s.configured n ∨ serial ≠ s.serial then s.done o 0x32 0 else s.startDelete o n)
  else if s.configured n then (s.reclaimInst o.fc n).done o 0x00 0
  else s.done o 0x32 0

/-! ## Health, log, firmware (R181, R445, R447, R450) -/

def State.startHealth (s : State) (o : Outst) : State := s.sendAll o [padTo 4096 s.healthRecord] 0x00 0

/-- Record `i` after RING_TAIL, as its four words. -/
def State.ringRecord (s : State) (i : Nat) : List Byte :=
  let off := (rEVT_RING 0).off + 16 * ((s.fld EVT_RING_TAIL_INDEX + i) % 64)
  (List.range 4).flatMap (fun k => bytesBE 4 (s.reg (off + 4 * k)).toNat)

/-- LOG_READ: the records, consumed once the host has the unit. -/
def State.startLogRead (s : State) (o : Outst) : State :=
  let n := min (if o.arg = 0 then 64 else o.arg) (s.fld EVT_RING_STAT_COUNT)
  let u := bytesBE 1 n ++ bytesBE 1 (s.fld EVT_RING_STAT_COUNT - n) ++ bytesBE 2 (s.fld EVT_RING_STAT_DROPPED) ++
    List.replicate 12 0 ++ (List.range n).flatMap s.ringRecord
  (s.sendAll o [padTo 4096 u] 0x00 0).updOut o.fc (fun x => { x with fin := n })

/-- Write the units of an FW_STAGE that have arrived, in order, and answer after the last. -/
def State.stageUnits (fc : Nat) : Nat → State → State
  | 0, s => s
  | fuel + 1, s =>
    match s.spA.outst.find? (fun o => o.fc == fc) with
    | none => s
    | some o =>
      match o.units with
      | [] => s
      | u :: rest =>
        let o' := { o with fin := o.fin + 1, units := rest }
        let fin := o'.fin == h2cUnits o.op o.arg
        let r := s.stageBytes (bitsOf o.arg 24 1) (4096 * (bitsOf o.arg 12 12 + o.fin)) (padTo 4096 u)
          (fin && bitAt o.arg 25)
        let t := r.2.updOut fc (fun _ => o')
        if r.1 ≠ 0 ∨ fin then t.done o' r.1 0
        else if rest.isEmpty && o'.cut.isSome then t.done o' (o'.cut.getD 0) o'.fin
        else State.stageUnits fc fuel t

def State.startStage (s : State) (o : Outst) : State :=
  let n := argCnt o.arg + 1
  if bitsOf o.arg 24 1 = s.runSlot then s.done o 0x32 0
  else if 1048576 < 4096 * (bitsOf o.arg 12 12 + n) then s.done o 0x30 0
  else if !s.slotPlaceable (bitsOf o.arg 24 1) then s.done o 0x42 0
  else (s.updOut o.fc (fun x => { x with held := false })).stageUnits o.fc n

def State.startActivate (s : State) (o : Outst) : State :=
  if s.activateBad (o.arg % 2) then s.done o 0x32 0
  else
    { s with firm := { s.firm with activating := some (o.arg % 2), activTag := some o.fc } }.updOut o.fc
      (fun x => { x with held := false })

/-! ## Locks and the forced erase (R182, R388, R389, R392) -/

/-- LOCK_CTL: the payload of LOCK_SET or of UNLOCK from byte 0 (R125). Log 77 (DEDUCED). -/
def State.startLockCtl (s : State) (o : Outst) : State :=
  let u := padTo 4096 o.data
  let b := fun (i : Nat) => (u.getD i 0).toNat
  if o.arg = 0 then
    let r := s.runLockSet (b 0) (b 1) ((u.drop 3).take (b 2)) ((u.drop (4 + b 2)).take (b (3 + b 2)))
    r.2.2.done o r.1 r.2.1
  else if b 1 < 4 ∨ 32 < b 1 then s.done o 0x32 0
  else
    let r := s.runUnlock (b 0) ((u.drop 2).take (b 1))
    r.2.2.done o r.1 r.2.1

/-- The forced erase is armed (R135, R182). Log 79 (DEDUCED). -/
def State.armErase (s : State) (spantoen : Bool) : State :=
  ((s.setFld LCK_ERASE_STAT_STATE 1).setFlag LCK_ERASE_STAT_BY_SPANTOEN spantoen).fireErase EV_LCK_ERASE_ARMED

/-- A forced erase runs: its intent is committed, `answer` goes out, and the data commands accepted end with
BUSY_RETRY (R36). Log 80 (DEDUCED). -/
def State.runErase (s : State) (answer : State → State) : State :=
  let t := answer (s.disarm.eraseIntent)
  let ds := t.spA.outst.filter (fun o => dataOp o.op)
  (ds.foldl (fun (t : State) o => t.done o 0x33 0) t).eraseSteps

def State.startErase (s : State) (o : Outst) : State :=
  let same := o.arg % 2 ^ 24 == s.serial % 2 ^ 24
  if o.arg / 2 ^ 46 = 1 then
    if !same then s.done o 0x30 0
    else if !s.rngUp then s.done o 0x33 0
    else
      let token := natBE (s.rand 2)
      let t := { s.spend with spA := { s.spA with eraseToken := some token } }
      (t.armErase true).done o 0x00 token
  else if o.bound ≠ 1 ∨ !same then (s.disarm).done o 0x32 0
  else if !s.ladderUp then (s.disarm).done o 0x42 0
  else if !s.rngUp then (s.disarm).done o 0x33 0
  else s.runErase (fun t => t.done o 0x00 0)

/-! ## Starting -/

/-- The command starts (R181). Log 98 (DEDUCED). -/
def State.startOne (s : State) (o : Outst) : State :=
  match (if dataOp o.op then s.dataBars o else none) with
  | some (st, info) => s.done o st info
  | none =>
    match o.op with
    | 0x01 => s.sendAll o [padTo 4096 (padTo 32 s.identBytes ++ s.cps s.cpsBits s.summaryNow.2)] 0x00 0
    | 0x02 => s.startRead o
    | 0x03 => s.startWrite o
    | 0x05 => s.startDiscard o
    | 0x06 => s.startBarrier o
    | 0x07 => s.startSettle o
    | 0x08 => s.startSegOpen o
    | 0x09 => s.startSegClose o
    | 0x0A => s.startSegVerify o
    | 0x0C => s.startRegRd o
    | 0x0D => s.startRegWr o
    | 0x10 => s.startTuneRd o
    | 0x11 => s.startTuneWr o
    | 0x12 => s.startSpeed o
    | 0x13 => s.startLinkKey o
    | 0x14 => s.startInstCfg o
    | 0x15 => s.startHealth o
    | 0x16 => s.startLogRead o
    | 0x17 => s.startDozeCmd o
    | 0x18 => s.startStage o
    | 0x19 => s.startActivate o
    | 0x1A => s.startLockCtl o
    | 0x1B => s.startErase o
    | _ => s.done o 0x32 0

/-- The first command of a list that may start. -/
def State.nextStart (s : State) : List Outst → List Outst → Option Outst
  | _, [] => none
  | before, o :: rest => if s.mayStart o before then some o else s.nextStart (before ++ [o]) rest

/-- Start every command that may, oldest first. -/
def State.startAll : Nat → State → State
  | 0, s => s
  | fuel + 1, s =>
    match s.nextStart [] s.spA.outst with
    | some o => State.startAll fuel (s.startOne o)
    | none => s

/-- The commands of the instances that a table page has just fenced complete with FENCED (R313, R406). -/
def State.fenceHurt (s : State) : State :=
  s.mapS.hurt.foldl State.fenceInst { s with mapS := { s.mapS with hurt := [] } }

/-- The card goes on with the commands it has accepted. Log 5 (DESIGN CHOICE). -/
def State.cardPump (s : State) : State :=
  if s.isCard ∧ !s.spA.outst.isEmpty then (s.startAll s.spA.outst.length).sendNext.fenceHurt else s

/-- A unit has arrived: the command in progress goes on. -/
def State.unitsOn (s : State) : State :=
  (s.spA.outst.filter (fun o => !o.held)).foldl (fun (t : State) o =>
    if o.op = 0x03 then t.commitUnits o.fc o.units.length
    else if o.op = 0x18 then t.stageUnits o.fc o.units.length
    else t) s

/-- A unit from the host arrives. Log 97 (DESIGN CHOICE). -/
def State.unitArrives (s : State) (u : UnitIn) (readback : Bool) (lat : Nat) (env : List MediaRead) : State :=
  (s.cardUnit u readback lat env).unitsOn.cardPump

end Sys2Proof.Machine
end

