-- ==== Sys2Proof/Machine/CounletCard.lean ====
section
/-! DEFINITION. The Counlet engine of a card (chapter 06): reset, answer to reset and parameter selection, what each
request does in each state (R125, R126), pairing and enrolment as card end (R129–R133), and requests that are held. -/

namespace Sys2Proof.Machine

open Sys2Proof.Crypto

/-! ## When the engine answers (R112) -/

/-- The card's engine runs with CRST_N released. Log 113 (DESIGN CHOICE). -/
def State.cardCn (s : State) : Bool :=
  s.isCard && 2 ≤ s.bootStep && !s.boot.poc && !s.boot.rstLow && !s.chipWaits && s.pins.crstHigh &&
  !s.pageFenced (pCN 0) && s.flag (PG_CTRL_ENABLE (pCN 0)) && !s.flag (PG_STAT_RST_BUSY (pCN 0))

/-- It takes frames: the answer to reset has been sent. Log 114 (DEDUCED). -/
def State.cnListens (s : State) : Bool := s.cardCn && !s.cnA.atrDue

/-- IDENT, STATUS, HIST_READ and LINK_RESET are served in every state. Log 114 (DEDUCED). -/
def cnAlways (op : Nat) : Bool := op == 0x01 || op == 0x02 || op == 0x04 || op == 0x3F

/-- The management credential is needed (R126). -/
def cnCred (op : Nat) : Bool := op == 0x10 || op == 0x22 || op == 0x30 || op == 0x38

/-- READY_LOCKED answers TAMPER_LOCK (R126). Log 85 (DEDUCED). -/
def cnLocked (op : Nat) : Bool := cnCred op || cnPairs op || op == 0x11

/-- The operation needs a new operation of KEY (R370). -/
def cnNeedsKey (op : Nat) : Bool :=
  cnPairs op || op == 0x10 || op == 0x11 || op == 0x12 || op == 0x13 || op == 0x22 || op == 0x28

/-- The status with which the state refuses an operation (R126). -/
def State.cnBar (s : State) (op : Nat) : Option Nat :=
  if cnAlways op then none
  else if s.pairByte 0x16 0 = 1 then some 0x33
  else if s.safe then some 0x60
  else if !s.up then (if cnPairs op && 7 ≤ s.bootStep then none else some 0x33)
  else if s.readyLocked && cnLocked op then some 0x22
  else if cnCred op && !s.flag (CN_STAT_CRED 0) then some 0x32
  else none

/-- The Spantoen commands that have arrived whole, wait to start, and change the same state (R128). -/
def State.sharedWaits (s : State) : List Nat :=
  (s.spA.outst.filter (fun o => o.held && linkShared o.op && !o.lacksUnit)).map (·.fc)

/-- The operation is held: no processor is ACTIVE (R80), KEY starts no operation (R370), an activation is under way, or
one of the Spantoen commands `after`, which arrived earlier, still waits (R128). Log 83 (DEDUCED), 114 (DEDUCED). -/
def State.cnHolds (s : State) (op : Nat) (after : List Nat) : Bool :=
  !cnAlways op && (!s.mpServes || (cnNeedsKey op && s.keyHolds) || (op == 0x38 && s.firm.activating.isSome) ||
    (cnShared op && after.any s.sharedWaits.contains))

/-! ## Answers (R122, R123) -/

/-- Answer a request with a status and its payload, and remember it. -/
def State.cnAnswer (s : State) (op seq st : Nat) (payload : List Byte) : State :=
  let frame := cnFrame (respOp op) seq (BitVec.ofNat 8 st :: payload)
  ({ s with cnA := { s.cnA with last := some (op, seq, frame) } }.setFld (CN_STAT_LAST_SEQ 0) seq).emit
    (.counlet 0 frame)

/-- The host end transmits: parameter selection is over (R117). -/
def State.shutPps (s : State) : State := { s with cnA := { s.cnA with ppsOpen := false } }

/-- A new request arrives: an erase armed over Counlet stays armed only for STATUS and its confirm (R135). -/
def State.cnFirst (s : State) (op : Nat) : State :=
  if op ≠ 0x02 ∧ op ≠ 0x13 ∧ s.cnA.token.isSome then s.disarm else s

/-- A request is turned away with a status: a confirm so turned away has disarmed the erase (R135), and a PAIR_PROOF has
failed (R127). Log 79 (DEDUCED), 85 (DEDUCED). -/
def State.cnRefuse (s : State) (op seq st : Nat) : State :=
  let t := if op = 0x13 ∧ s.cnA.token.isSome then s.disarm else s
  let t : State := if op = 0x21 then { t.dropCred with cnA := { t.dropCred.cnA with pair := .none } } else t
  t.cnAnswer op seq st []

/-- A request waits, with what its session holds. -/
def State.cnHold (s : State) (i : Instr) : State :=
  let h : HeldCn := {
    req := i, cred := s.flag (CN_STAT_CRED 0), pair := s.cnA.pair, nonceH := s.cnA.nonceH, nonceC := s.cnA.nonceC,
    token := s.cnA.token, after := s.sharedWaits }
  { s with keys := { s.keys with heldReq := s.keys.heldReq ++ [h] } }

/-- The request of this OP and SEQ waits for its answer. -/
def State.cnWaits (s : State) (op seq : Nat) : Bool :=
  s.keys.heldReq.any (fun h => !h.lost && (heldOp h.req).1 == op && (heldOp h.req).2 % 256 == seq)

/-- A request that is not a repetition: it is refused, held or served. -/
def State.cnNew (s : State) (op seq : Nat) (lenOk : Bool) (i : Instr) (run : State → State) : State :=
  let t := s.cnFirst op
  if !lenOk then t.cnRefuse op seq 0x32
  else
    match t.cnBar op with
    | some st => t.cnRefuse op seq st
    | none => if t.cnHolds op t.sharedWaits then t.cnHold i else run t

/-- A request arrives: `i` the request itself, `run` what it does when it is served. Log 68 (DEDUCED). -/
def State.cnIn (s : State) (op seq : Nat) (lenOk : Bool) (i : Instr) (run : State → State) : State :=
  if !s.cnListens then s
  else
    let r := (s.wake 2).shutPps.cnReceive 0 op
    let s := r.2
    let seq := seq % 256
    if !r.1 then s
    else
      match s.cnA.last.filter (fun l => l.1 == op && l.2.1 == seq) with
      | some l => s.emit (.counlet 0 l.2.2)
      | none => if s.cnWaits op seq then s else s.cnNew op seq lenOk i run

/-! ## Identity, status and history (R125, R417, R450) -/

/-- Byte `i` of the I²C status block (R54). Log 13 (DESIGN CHOICE). -/
def State.statusByte (s : State) (i : Nat) : Nat :=
  match i with
  | 0 => 0xB0
  | 1 => (match s.role with | .card => 1 | .dock => 2)
  | 2 => s.bootStep
  | 3 => s.anyStatus.toNat + 2 * s.safe.toNat + 4 * (s.flag TMP_STAT_LATCHED).toNat + 8 * s.readyLocked.toNat +
      16 * (0 < s.fencesNow : Bool).toNat
  | 4 => s.fld THS_TEMP_TEMP / 256
  | 5 => s.fld THS_TEMP_TEMP % 256
  | 6 => min 255 ((List.range 128).filter (fun n => s.flag (FLT_SRC_STAT_STATUS n))).length
  | 7 => 0
  | _ => ((bytesBE 8 s.serial).getD (i - 8) 0).toNat

/-- What STATUS returns. -/
def State.cnStatus (s : State) : List Byte :=
  [2, 3, 4, 5, 6].map (fun i => BitVec.ofNat 8 (s.statusByte i)) ++ bytesBE 1 (s.fld EVT_RING_STAT_COUNT) ++
  bytesBE 1 (s.cpsState s.cpsBits) ++
  (if s.fld EVT_RING_STAT_COUNT = 0 then List.replicate 16 0 else s.ringRecord 0)

/-- History entry `i` of the ring. -/
def State.histBytes (s : State) (i : Nat) : List Byte :=
  (List.range 4).flatMap (fun k => bytesBE 4 (s.reg (histOff i + 4 * k)).toNat)

/-- What HIST_READ returns: entries from the oldest on. Log 77 (DEDUCED). -/
def State.cnHist (s : State) (start count : Nat) : List Byte :=
  let wrapped := s.flag FLT_HIST_HEAD_WRAPPED
  let total := if wrapped then 16 else min 16 (s.fld FLT_HIST_HEAD_NEXT_SEQ)
  let first := if wrapped then s.fld FLT_HIST_HEAD_INDEX else 0
  let n := min count (total - start)
  bytesBE 1 n ++ (List.range n).flatMap (fun k => s.histBytes ((first + start + k) % 16))

/-! ## Locks and the forced erase (R134, R135) -/

/-- LOCK_SET (R388); refused with LOCKED it answers no attempts left. Log 173 (DESIGN CHOICE). -/
def State.cnLockSet (s : State) (seq scope action : Nat) (old new : List Byte) : State :=
  let r := s.runLockSet scope action old new
  r.2.2.cnAnswer 0x10 seq r.1 []

def State.cnUnlock (s : State) (seq scope : Nat) (pw : List Byte) : State :=
  let r := s.runUnlock scope pw
  r.2.2.cnAnswer 0x11 seq r.1 (if r.1 = 0x00 ∨ r.1 = 0x20 then bytesBE 1 r.2.1 else [])

/-- Log 79 (DEDUCED). -/
def State.cnArm (s : State) (seq serial : Nat) : State :=
  if serial ≠ s.serial then s.cnAnswer 0x12 seq 0x30 []
  else if !s.rngUp then s.cnAnswer 0x12 seq 0x33 []
  else
    let token := natBE (s.rand 4)
    let t : State := { s.spend.disarm with cnA := { s.cnA with token := some token } }
    ((t.armErase false).setFlag (CN_STAT_ERASE_ARMED 0) true).cnAnswer 0x12 seq 0x00 (bytesBE 4 token)

/-- Log 79 (DEDUCED). -/
def State.cnConfirm (s : State) (seq token serial : Nat) : State :=
  if s.cnA.token ≠ some token ∨ serial ≠ s.serial then s.disarm.cnAnswer 0x13 seq 0x32 []
  else if !s.ladderUp then s.disarm.cnAnswer 0x13 seq 0x42 []
  else if !s.rngUp then s.disarm.cnAnswer 0x13 seq 0x33 []
  else s.runErase (fun t => t.cnAnswer 0x13 seq 0x00 [])

/-! ## Pairing (R129–R133) -/

/-- Slots in use, bit 0 P_0. -/
def State.slotsUsed (s : State) : Nat := (s.pairUsed 0).toNat + 2 * (s.pairUsed 1).toNat

/-- PAIR_BEGIN. Log 85 (DEDUCED). -/
def State.cnPairBegin (s : State) (seq stepping : Nat) (mode : PairMode) (nonce : List Byte) : State :=
  if stepping ≠ 0xB0 then s.cnAnswer 0x20 seq 0x21 []
  else if !s.rngUp then s.cnAnswer 0x20 seq 0x33 []
  else
    let nC := s.pairNonce
    let t := s.drawNonce
    let t : State := { t with cnA := { t.cnA with pair := mode, nonceH := nonce, nonceC := nC } }
    t.cnAnswer 0x20 seq 0x00 (bytesBE 1 s.slotsUsed ++ nC)

/-- The card's proof under a key. -/
def State.cardProof (s : State) (key : List Byte) : List Byte :=
  hmac key (0x43 :: (s.cnA.nonceC ++ s.cnA.nonceH ++ bytesBE 8 s.serial))

/-- The host's proof verifies under the key of slot `k`; an empty slot never does. -/
def State.proofValid (s : State) (k : Nat) (proof : List Byte) : Bool :=
  s.pairKey k != [] && proof == hmac (s.pairKey k) (0x44 :: (s.cnA.nonceH ++ s.cnA.nonceC ++ bytesBE 8 s.serial))

/-- A PAIR_PROOF fails with a status: the credential ends (R127). -/
def State.proofFails (s : State) (seq st : Nat) : State := s.dropCred.cnAnswer 0x21 seq st []

/-- A failed attempt is counted; after sixteen every PAIR_PROOF is refused (R130, R131). -/
def State.countFail (s : State) : State :=
  let t := (s.bump (CN_PAIR_STAT_FAILS 0)).fireD EV_KEY_PAIR_FAIL 0 0
  if 16 ≤ t.fld (CN_PAIR_STAT_FAILS 0) then t.setFlag (CN_PAIR_STAT_REFUSED 0) true else t

/-- The proof is valid under slot `k`: credential, session, and the card's proof. Log 113 (DESIGN CHOICE). -/
def State.proven (s : State) (seq k : Nat) : State :=
  let key := s.pairKey k
  let t := ((s.setFlag (CN_STAT_CRED 0) true).setFld (CN_STAT_PAIR_SLOT 0) k).setFld (CN_STAT_STATE 0) 4
  let t := t.openSession 0 (sessionSecret key s.cnA.nonceH s.cnA.nonceC s.serial)
  t.cnAnswer 0x21 seq 0x00 (bytesBE 1 k ++ s.cardProof key)

/-- PAIR_PROOF in prove mode (R130). -/
def State.cnProve (s : State) (seq : Nat) (proof : List Byte) : State :=
  let v0 := s.proofValid 0 proof
  let v1 := s.proofValid 1 proof
  if v0 then (if v1 then s.fire EV_KEY_PAIR_DUPLICATE else s).proven seq 0
  else if v1 then s.proven seq 1
  else s.countFail.proofFails seq 0x21

/-- PAIR_PROOF in enrol mode (R132). -/
def State.cnEnrol (s : State) (seq slot : Nat) (key : List Byte) : State :=
  if s.pairUsed slot || s.lockForce 16 || (s.pairUsed (1 - slot) && !s.flag (CN_STAT_CRED 0)) then s.proofFails seq 0x32
  else
    let t := (s.commitKey (0x13 + slot) 5 (s.nextKgen (0x13 + slot)) key 0).setPairKey slot key
    (t.fire EV_KEY_PAIR_ADDED).cnAnswer 0x21 seq 0x00 (bytesBE 1 slot ++ s.cardProof key)

/-- PAIR_PROOF: what the PAIR_BEGIN before it asked for. Log 85 (DEDUCED). -/
def State.cnPairProof (s : State) (seq : Nat) (data : List Byte) : State :=
  let t : State := { s with cnA := { s.cnA with pair := .none } }
  if s.flag (CN_PAIR_STAT_REFUSED 0) then t.proofFails seq 0x21
  else if !s.ladderUp then t.proofFails seq 0x42
  else
    match s.cnA.pair with
    | .none => t.proofFails seq 0x21
    | .prove => t.cnProve seq data
    | .enrol slot => t.cnEnrol seq slot data

/-- PAIR_DROP (R133). Log 84 (DEDUCED). -/
def State.cnPairDrop (s : State) (seq slot : Nat) : State :=
  if 1 < slot ∨ s.lockForce 16 then s.cnAnswer 0x22 seq 0x32 []
  else if !s.ladderUp then s.cnAnswer 0x22 seq 0x42 []
  else
    let t := (s.overwriteKey (0x13 + slot) 5).setPairKey slot []
    let t := (t.fire EV_KEY_PAIR_DROPPED).cnAnswer 0x22 seq 0x00 []
    if s.fld (CN_STAT_PAIR_SLOT 0) = slot then t.dropCred else t

/-! ## Tamper, registers, firmware, link (R136–R139) -/

/-- The tamper byte. -/
def State.tamperByte (s : State) : List Byte :=
  bytesBE 1 ((s.flag TMP_STAT_LATCHED).toNat + 2 * (s.flag TMP_STAT_LOOP_OPEN_NOW).toNat +
    4 * (s.flag TMP_STAT_SWITCH_OPEN_NOW).toNat)

/-- The password a clear asks for (R383): against the card-wide lock if it is set, else of length 0.
Log 82 (DEDUCED). -/
def State.tamperPw (s : State) (pw : List Byte) : Bool × State :=
  if s.lockSet 16 then s.checkPassword 16 pw else (pw == [], s)

/-- Log 82 (DEDUCED). -/
def State.cnTamperAck (s : State) (seq : Nat) (pw : List Byte) (switchLow : Bool) : State :=
  let s := if switchLow then s.setSwitch false else s
  if !s.tamperClearable switchLow then s.cnAnswer 0x28 seq 0x22 s.tamperByte
  else
    let r := s.tamperPw pw
    if !r.1 then r.2.cnAnswer 0x28 seq 0x22 r.2.tamperByte
    else (r.2.cnAnswer 0x28 seq 0x00 (r.2.setFlag TMP_STAT_LATCHED false).tamperByte).clearTamper

def State.cnRegRd (s : State) (seq off : Nat) : State :=
  if off % 4 ≠ 0 ∨ 0x100000 ≤ off then s.cnAnswer 0x30 seq 0x30 []
  else
    let r := s.regRead off
    r.2.cnAnswer 0x30 seq 0x00 (bytesBE 4 r.1)

/-- FW_SLOT_WRITE: reserved control bits or an offset that is no multiple of 4 answer NOT_PERMITTED.
Log 83 (DEDUCED), 174 (DESIGN CHOICE). -/
def State.cnSlotWrite (s : State) (seq control off : Nat) (data : List Byte) : State :=
  if off % 4 ≠ 0 ∨ bitsOf control 1 6 ≠ 0 then s.cnAnswer 0x38 seq 0x32 []
  else
    let r := s.stageBytes (bitsOf control 0 1) off data (bitAt control 7)
    r.2.cnAnswer 0x38 seq r.1 []

/-- LINK_RESET: after the answer the link layer is reset, and the request is forgotten. Log 118 (DEDUCED). -/
def State.cnLinkReset (s : State) (seq : Nat) : State :=
  let t := ((s.cnAnswer 0x3F seq 0x00 []).cardLinkReset.countLinkReset 0).dropCred
  { t with cnA := { t.cnA with last := none } }

/-! ## The requests -/

/-- IDENT (R125). -/
def execCounletIdent (seq : Nat) (s : State) : Result :=
  .next (s.cnIn 0x01 seq true (.counletIdent seq) (fun t => t.cnAnswer 0x01 (seq % 256) 0x00 t.identBytes))

/-- STATUS (R125). -/
def execCounletStatus (seq : Nat) (s : State) : Result :=
  .next (s.cnIn 0x02 seq true (.counletStatus seq) (fun t => t.cnAnswer 0x02 (seq % 256) 0x00 t.cnStatus))

/-- HEALTH (R450). -/
def State.cnHealth (s : State) (seq : Nat) : State := s.cnAnswer 0x03 seq 0x00 s.healthRecord

def execCounletHealth (seq : Nat) (s : State) : Result :=
  .next (s.cnIn 0x03 seq true (.counletHealth seq) (fun t => t.cnHealth (seq % 256)))

/-- HIST_READ (R417). -/
def execHistRead (seq start count : Nat) (s : State) : Result :=
  .next (s.cnIn 0x04 seq true (.histRead seq start count) (fun t =>
    if 1 ≤ count ∧ count ≤ 15 then t.cnAnswer 0x04 (seq % 256) 0x00 (t.cnHist (start % 256) count)
    else t.cnAnswer 0x04 (seq % 256) 0x32 []))

/-- LOCK_SET (R388). -/
def execCounletLockSet (seq scope action : Nat) (old new : List Byte) (s : State) : Result :=
  .next (s.cnIn 0x10 seq (old.length ≤ 32 && new.length ≤ 32) (.counletLockSet seq scope action old new)
    (fun t => t.cnLockSet (seq % 256) scope action old new))

/-- UNLOCK (R389). -/
def execCounletUnlock (seq scope : Nat) (pw : List Byte) (s : State) : Result :=
  .next (s.cnIn 0x11 seq (4 ≤ pw.length && pw.length ≤ 32) (.counletUnlock seq scope pw)
    (fun t => t.cnUnlock (seq % 256) scope pw))

/-- FORCE_ERASE_ARM (R135). -/
def execForceEraseArm (seq serial : Nat) (s : State) : Result :=
  .next (s.cnIn 0x12 seq true (.forceEraseArm seq serial) (fun t => t.cnArm (seq % 256) serial))

/-- FORCE_ERASE_CONFIRM (R135). -/
def execForceEraseConfirm (seq token serial : Nat) (s : State) : Result :=
  .next (s.cnIn 0x13 seq true (.forceEraseConfirm seq token serial) (fun t => t.cnConfirm (seq % 256) token serial))

/-- PAIR_BEGIN in prove mode (R129). -/
def execPairBeginProve (seq stepping : Nat) (nonce : List Byte) (s : State) : Result :=
  .next (s.cnIn 0x20 seq (nonce.length == 16) (.pairBeginProve seq stepping nonce)
    (fun t => t.cnPairBegin (seq % 256) stepping .prove nonce))

/-- PAIR_BEGIN in enrol mode (R132); a slot that the card does not have is refused. Log 84 (DEDUCED). -/
def State.cnEnrolBegin (s : State) (seq slot stepping : Nat) (nonce : List Byte) : State :=
  if 1 < slot then s.cnAnswer 0x20 seq 0x32 [] else s.cnPairBegin seq stepping (.enrol slot) nonce

def execPairBeginEnrol (seq slot stepping : Nat) (nonce : List Byte) (s : State) : Result :=
  .next (s.cnIn 0x20 seq (nonce.length == 16) (.pairBeginEnrol seq slot stepping nonce)
    (fun t => t.cnEnrolBegin (seq % 256) slot stepping nonce))

/-- PAIR_PROOF with a host proof (R130). -/
def execPairProofProve (seq : Nat) (proof : List Byte) (s : State) : Result :=
  .next (s.cnIn 0x21 seq (proof.length == 32) (.pairProofProve seq proof) (fun t => t.cnPairProof (seq % 256) proof))

/-- PAIR_PROOF with a pairing key (R132). -/
def execPairProofEnrol (seq : Nat) (key : List Byte) (s : State) : Result :=
  .next (s.cnIn 0x21 seq (key.length == 32) (.pairProofEnrol seq key) (fun t => t.cnPairProof (seq % 256) key))

/-- PAIR_DROP (R133). -/
def execPairDrop (seq slot : Nat) (s : State) : Result :=
  .next (s.cnIn 0x22 seq true (.pairDrop seq slot) (fun t => t.cnPairDrop (seq % 256) slot))

/-- TAMPER_ACK (R383). -/
def execTamperAck (seq : Nat) (pw : List Byte) (switchLow : Bool) (s : State) : Result :=
  .next (s.cnIn 0x28 seq (pw.length ≤ 32) (.tamperAck seq pw switchLow)
    (fun t => t.cnTamperAck (seq % 256) pw switchLow))

/-- Counlet REG_RD (R137). -/
def execCounletRegRd (seq off : Nat) (s : State) : Result :=
  .next (s.cnIn 0x30 seq true (.counletRegRd seq off) (fun t => t.cnRegRd (seq % 256) off))

/-- FW_SLOT_WRITE (R138). -/
def execFwSlotWrite (seq control off : Nat) (data : List Byte) (s : State) : Result :=
  .next (s.cnIn 0x38 seq (4 ≤ data.length && data.length ≤ 248 && data.length % 4 == 0)
    (.fwSlotWrite seq control off data) (fun t => t.cnSlotWrite (seq % 256) control off data))

/-- LINK_RESET (R139). -/
def execCounletLinkReset (seq : Nat) (s : State) : Result :=
  .next (s.cnIn 0x3F seq true (.counletLinkReset seq) (fun t => t.cnLinkReset (seq % 256)))

/-! ## Held requests (R80, R370) -/

/-- Serve a held request. -/
def State.serveHeld (s : State) : Instr → State
  | .counletHealth q => s.cnHealth (q % 256)
  | .counletLockSet q scope action old new => s.cnLockSet (q % 256) scope action old new
  | .counletUnlock q scope pw => s.cnUnlock (q % 256) scope pw
  | .forceEraseArm q serial => s.cnArm (q % 256) serial
  | .forceEraseConfirm q token serial => s.cnConfirm (q % 256) token serial
  | .pairBeginProve q stepping nonce => s.cnPairBegin (q % 256) stepping .prove nonce
  | .pairBeginEnrol q slot stepping nonce => s.cnEnrolBegin (q % 256) slot stepping nonce
  | .pairProofProve q proof => s.cnPairProof (q % 256) proof
  | .pairProofEnrol q key => s.cnPairProof (q % 256) key
  | .pairDrop q slot => s.cnPairDrop (q % 256) slot
  | .tamperAck q pw low => s.cnTamperAck (q % 256) pw low
  | .counletRegRd q off => s.cnRegRd (q % 256) off
  | .fwSlotWrite q control off data => s.cnSlotWrite (q % 256) control off data
  | _ => s

/-- Serve a held request in the state it is now in; a confirm meets the arm that stood as it arrived (R135). -/
def State.serveNow (s : State) (h : HeldCn) : State :=
  let op := (heldOp h.req).1
  match s.cnBar op with
  | some st => s.cnRefuse op ((heldOp h.req).2 % 256) st
  | none => ({ s with cnA := { s.cnA with token := if op = 0x13 then h.token else s.cnA.token } } : State).serveHeld h.req

/-- Its answer is lost: it runs with what its session held, and leaves the engine and the line as they are (R128).
Log 115 (DEDUCED). -/
def State.serveLost (s : State) (h : HeldCn) : State :=
  let a : State := { s with cnA := { s.cnA with pair := h.pair, nonceH := h.nonceH, nonceC := h.nonceC, token := h.token } }
  let t := (a.setFlag (CN_STAT_CRED 0) h.cred).serveNow h
  let quiet := fun (o : Out) => match o with
    | .counlet _ _ => false
    | _ => true
  ({ t with out := s.out ++ (t.out.drop s.out.length).filter quiet, cnA := s.cnA } : State).setReg (rCN_STAT 0).off
    (s.reg (rCN_STAT 0).off)

/-- Serve the held requests that may be served, oldest first. -/
def State.runHeld (s : State) : State :=
  s.keys.heldReq.foldl (fun (t : State) h =>
    if t.cnHolds (heldOp h.req).1 h.after then t
    else
      let u : State := { t with keys := { t.keys with heldReq := t.keys.heldReq.erase h } }
      if h.lost then u.serveLost h else u.serveNow h) s

/-- After what may end a wait: KEY serves again, held requests and commands are served in the order in which they
arrived, and every engine goes on. Log 5 (DESIGN CHOICE). -/
def State.settle (s : State) : State :=
  let t := s.keyResume
  if t.isCard then
    (List.range (t.keys.heldReq.length + 1)).foldl (fun (u : State) _ => u.runHeld.cardPump) t
  else ((((t.cnGo 0).cnGo 1).drive 0).drive 1).pump

/-- The request is one that waits for KEY. -/
def HeldCn.forKey (h : HeldCn) : Bool := cnNeedsKey (heldOp h.req).1

/-- The oldest request that has waited 10 ms for KEY ends. Log 86 (DESIGN CHOICE). -/
def State.expireHeld (s : State) : State :=
  match s.keys.heldReq.find? HeldCn.forKey with
  | some h =>
    let t : State := { s with keys := { s.keys with heldReq := s.keys.heldReq.erase h } }
    if h.lost then t else t.cnRefuse (heldOp h.req).1 ((heldOp h.req).2 % 256) 0x33
  | none =>
    match s.spA.outst.find? (fun o => o.held && o.needsKey) with
    | some o => (s.done o 0x33 0).cardPump
    | none => s

/-- KEY_QUIESCE_HOLD_EXPIRY (R370). Log 86 (DESIGN CHOICE). -/
def execKeyQuiesceHoldExpiry (s : State) : Result := .next (if s.isCard && s.keyHolds then s.expireHeld else s)

/-! ## Reset and parameter selection (R68, R116–R119) -/

/-- The reset by CRST_N takes effect: the engine is reset. Log 115 (DEDUCED). -/
def State.crstFall (s : State) : State := ((s.wake 2).cardCnReset).fire (EV_CN_CRST 0)

/-- CRST_N_RELEASE (R118): the etu is 372 again, and the answer to reset is due. -/
def execCrstNRelease (s : State) : Result :=
  if s.pins.crstHigh then .next s
  else
    let t : State := { s with pins := { s.pins with crstHigh := true } }
    .next (if t.boot.poc || !t.isCard then t
      else ((t.setFld (CN_ETU_ETU 0) 372).setFld (CN_STAT_FIDI 0) 0x11).askAtr)

/-- ANSWER_TO_RESET (R119): the string sent is kept in CNA.CPS_0 to CPS_3 (R121). Log 22 (DESIGN CHOICE). -/
def execAnswerToReset (s : State) : Result :=
  if !s.cardCn || !s.cnA.atrDue then .next s
  else
    let t := (List.range 4).foldl (fun (t : State) k =>
      t.setReg (rCN_CPS 0 k).off (BitVec.ofNat 32 (natBE (padTo 4 ((s.atrCps.drop (4 * k)).take 4))))) s
    let t := (t.setFld (CN_CCLK_KHZ_KHZ 0) (Config.cclkKhz s.freeCtr).toNat).spend
    let t : State := { t with cnA := { t.cnA with atrDue := false, ppsOpen := true } }
    .next (((t.setFld (CN_STAT_STATE 0) 3).emit (.atr s.atrBytes)).fire (EV_CN_ATR_DONE 0))

/-- A PPS request that asks for a pair of R116 is echoed; another keeps etu 372. Log 116 (DEDUCED). -/
def State.ppsTaken (s : State) (pps0 pps1 pck : Nat) : State :=
  if pps0 = 0x1E ∧ fidiKnown pps1 then
    let frame := [0xFF, BitVec.ofNat 8 pps0, BitVec.ofNat 8 pps1, BitVec.ofNat 8 pck]
    let t := ((s.emit (.counlet 0 frame)).setFld (CN_STAT_FIDI 0) pps1).setFld (CN_ETU_ETU 0) (etuOf pps1)
    t.fire (EV_CN_PPS_DONE 0)
  else s.emit (.counlet 0 [0xFF, 0x0E, 0xF1])

/-- PPS_REQUEST (R117). -/
def execPpsRequest (pps0 pps1 pck : Nat) (s : State) : Result :=
  if !s.cnListens then .next s
  else
    let r := (s.wake 2).cnChars 0
    let t := r.2.shutPps
    .next (if !r.1 then t
      else if !r.2.cnA.ppsOpen then t.frameError 0 0xFF 0
      else if pck % 256 ≠ 0xFF ^^^ (pps0 % 256) ^^^ (pps1 % 256) then t.frameError 0 0xFF 3
      else t.ppsTaken (pps0 % 256) (pps1 % 256) (pck % 256))

/-! ## Character and frame errors (R114, R115, R124) -/

/-- The engine of a port of the role runs. -/
def State.cnAlive (s : State) (p : Nat) : Bool := if s.isCard then p == 0 && s.cnListens else s.cnRuns p

/-- CHAR_WAIT_TIMEOUT (R115): the frame is discarded. -/
def execCharWaitTimeout (port op index : Nat) (s : State) : Result :=
  .next (if s.cnAlive port then (if s.isCard then (s.wake 2).shutPps else s).frameError port op index else s)

/-- The length each operation's payload has; a PAIR_BEGIN of a mode that does not exist counts as one of a wrong
length. Log 163 (DESIGN CHOICE). -/
def cnLenOk (op : Nat) (payload : List Byte) : Bool :=
  let n := payload.length
  let b := fun (i : Nat) => (payload.getD i 0).toNat
  match op with
  | 0x01 | 0x02 | 0x03 | 0x3F => n == 0
  | 0x04 => n == 2
  | 0x10 => 4 ≤ n && n == 4 + b 2 + b (3 + b 2)
  | 0x11 => 2 ≤ n && n == 2 + b 1
  | 0x12 => n == 8
  | 0x13 => n == 12
  | 0x20 => n == 19 && b 0 < 2
  | 0x21 => n == 32
  | 0x22 => n == 1
  | 0x28 => 1 ≤ n && n == 1 + b 0
  | 0x30 => n == 4
  | 0x38 => 8 ≤ n && n ≤ 252 && n % 4 == 0
  | _ => false

/-- A frame that is not a request of the table: bad CRC or length, or an OP or a payload length refused. -/
def State.cardBadFrame (s : State) (op index : Nat) (bytes : List Byte) : State :=
  let body := bytes.take (bytes.length - 2)
  let len := (bytes.getD 2 0).toNat
  let reqOp := (bytes.getD 0 0).toNat
  let seq := (bytes.getD 1 0).toNat
  if bytes.length ≠ len + 5 ∨ bytes.drop (bytes.length - 2) ≠ bytesBE 2 (crc16 body) then s.shutPps.frameError 0 op index
  else if cnLenOk reqOp (body.drop 3) then s
  else s.cnIn reqOp seq false (.counletBadFrame 0 0 0 op index bytes) (fun t => t)

/-- A character of this end was refused `refused` times: it is repeated, and past REPEAT_MAX the frame is
abandoned. Log 117 (DEDUCED). -/
def State.charRefused (s : State) (p refused op index : Nat) : State :=
  let max := s.fld (CN_CFG_REPEAT_MAX p)
  let t := (s.bumpBy (CN_ERR_CNT_REPEATS p) refused).fire (EV_CN_CHAR_REPEAT p)
  if max < refused then
    let t := (t.bump (CN_ERR_CNT_CHANNEL p)).fireD (EV_CN_CHANNEL_ERROR p) (op % 256 + 256 * (index % 256)) 0
    if t.isDock then t.endMailbox p 3 else t
  else t

/-- COUNLET_BAD_FRAME (R124, R114): of the characters this end sent some were refused, and of those it received it
signalled some. Log 117 (DEDUCED). -/
def execCounletBadFrame (port refused parity op index : Nat) (bytes : List Byte) (s : State) : Result :=
  if !s.cnAlive port then .next s
  else
    let t := (if s.isCard then s.wake 2 else s).charSignalled port parity
    let t := if refused = 0 then t else t.charRefused port refused op index
    .next (if s.fld (CN_CFG_REPEAT_MAX port) < refused ∨ bytes.isEmpty then t
      else if s.isCard then t.cardBadFrame op index bytes
      else t.frameError port op index)

/-- COUNLET_REPEATED_REQUEST (R123). -/
def execCounletRepeatedRequest (op seq : Nat) (s : State) : Result :=
  let r := (s.wake 2).shutPps.cnReceive 0 op
  .next (if !s.cnListens then s
    else if !r.1 then r.2
    else match s.cnA.last.filter (fun l => l.1 == op && l.2.1 == seq % 256) with
      | some l => r.2.emit (.counlet 0 l.2.2)
      | none => s)

/-! ## The erase timers (R36, R135, R182) -/

/-- ERASE_ARM_EXPIRY: 10 s after the arm, over either channel. -/
def execEraseArmExpiry (s : State) : Result := .next (if s.fld LCK_ERASE_STAT_STATE = 1 then s.disarm else s)

/-- FORCE_ERASE_BACKGROUND (R36): the erases of so many blocks more are started, and the progress is kept in metadata.
Log 81 (DEDUCED). -/
def execForceEraseBackground (blocks : Nat) (s : State) : Result :=
  .next (if s.isCard && s.ready && !s.safe && s.coreRuns && s.media.erasing then s.eraseMore blocks else s)

end Sys2Proof.Machine
end

