-- ==== Sys2Proof/Machine/PageCmds.lean ====
section
/-! DEFINITION. The commands of the register window (chapter 05) and of the balls (chapters 03 and 04): page headers,
event rings, register accesses, GPIO, I²C and JTAG. -/

namespace Sys2Proof.Machine

/-! ## Page headers (R76, R96, R98, R100, R101) -/

/-- Do something to a page that takes writes, and let every engine go on. -/
def State.onPage (s : State) (p : Nat) (f : State → State) : State :=
  if s.pageTakes p then (f (s.touchPage p)).settle else s

/-- BLK_RST_REQ (R76). -/
def execBlkRstReq (page : Nat) (s : State) : Result :=
  .next (s.onPage page (fun t => (t.clearRefused page).askBlockReset page (s.quiescedNow page)))

/-- BLOCK_RESET_DONE (R76). -/
def execBlockResetDone (page : Nat) (s : State) : Result := .next (s.blockResetEnd page).settle

/-- PG_CTRL.ENABLE (R96). -/
def execPgCtrlEnable (page : Nat) (on : Bool) (s : State) : Result :=
  .next (s.onPage page (fun t => (t.clearRefused page).setEnable page on))

/-- PG_CTRL.QUIESCE_REQ (R96). -/
def execQuiesceReq (page : Nat) (on : Bool) (s : State) : Result :=
  .next (s.onPage page (fun t => (t.clearRefused page).setQuiesce page on))

/-- BLOCK_QUIESCED (R96). -/
def execBlockQuiesced (page : Nat) (s : State) : Result := .next (s.blockQuiet page)

/-- PG_CTRL.FENCE_REQ (R96). -/
def execFenceReq (page : Nat) (on : Bool) (s : State) : Result :=
  .next (s.onPage page (fun t => (t.clearRefused page).setFence page on))

/-- PG_LOCK (R101). -/
def execPgLock (page : Nat) (s : State) : Result := .next (s.onPage page (fun t => t.lockPage page 1))

/-- EVT_PEND (R98). -/
def execEvtPendClear (page mask : Nat) (s : State) : Result := .next (s.onPage page (fun t => t.pendClear page mask))

/-- EVT_MASK (R98). -/
def execEvtMaskWrite (page mask : Nat) (s : State) : Result := .next (s.onPage page (fun t => t.maskWrite page mask))

/-- EVT_SET (R98). Log 9 (DESIGN CHOICE). -/
def execEvtSet (page mask : Nat) (s : State) : Result := .next (s.onPage page (fun t => t.evtTest page mask))

/-- INJ_ARM (R100). -/
def execInjArm (page key : Nat) (s : State) : Result := .next (s.onPage page (fun t => t.armInject page key))

/-- INJ_ARM_EXPIRY (R100). -/
def execInjArmExpiry (page : Nat) (s : State) : Result := .next (s.touchPage page)

/-- INJ_CTRL (R100); the write that is armed for is taken before the page is disarmed. -/
def execInjCtrl (page word : Nat) (s : State) : Result :=
  .next (if s.pageTakes page then s.injWrite page word else s)

/-! ## The event ring and registers (R90, R91, R110) -/

/-- RING_TAIL (R110). -/
def execRingTail (index : Nat) (s : State) : Result := .next (s.onPage pEVT (fun t => t.ringTailWrite index))

/-- RING_CLR (R110). -/
def execRingClr (key : Nat) (s : State) : Result := .next (s.onPage pEVT (fun t => t.ringClear key))

/-- The part answers an access of a path; a request of configuration space before step 10 has ended is answered with
Configuration Request Retry Status (R65, R202). -/
def State.pathAnswers (s : State) (path : Path) : Bool :=
  s.alive && s.pathOpen path && (match path with
    | .cfg _ _ => s.configUp
    | _ => true)

/-- A configuration request that is to be tried again (R65, R202). -/
def State.cfgRetry (s : State) (path : Path) : State :=
  match path with
  | .cfg fn _ => if s.alive && s.pathOpen path && !s.configUp then s.emit (.cfgRetry fn) else s
  | _ => s

/-- UPTIME_LO_READ (R90): a register is read over a path, and a low word latches its high word. -/
def execUptimeLoRead (path : Path) (off bytes : Nat) (s : State) : Result :=
  .next (if s.pathAnswers path then s.hostRead path off bytes else s.cfgRetry path)

/-- The uptime counter passes from all ones to zero (R84); the seconds it stood for stay counted (R449). -/
def State.wrapUptime (s : State) : State :=
  let b := s.life.base1
  ({ s with uptime := 0, life := { s.life with base1 := (b.getD 0 0 + 1099511) :: b.drop 1 } } : State).fire
    EV_SYS_UPTIME_WRAP

/-- UPTIME_WRAP. -/
def execUptimeWrap (s : State) : Result := .next (if s.uptime.toNat + 1 = 2 ^ 40 then s.wrapUptime else s)

/-- GPIO_EDGE (R84). -/
def execGpioEdge (levels : Nat) (s : State) : Result := .next (s.gpioLevels levels)

/-- REGISTER_WRITE (R91): a write over a path that reaches the register. -/
def execRegisterWrite (path : Path) (off value be : Nat) (s : State) : Result :=
  .next (if s.pathAnswers path then (s.hostWrite path off value be).settle else s.cfgRetry path)

end Sys2Proof.Machine
end

