-- ==== Sys2Proof/Machine/Balls.lean ====
section
/-! DEFINITION. What the balls do (chapter 03): their state in reset and in each role (R44, R149, R171), the JTAG port
(R53) and the I²C target (R54). -/

namespace Sys2Proof.Machine

/-! ## Ball groups and what they do (R44) -/

/-- A ball, or the balls of one row of R44; `ch` is a flash channel, `p` a port. -/
inductive Ball where
  /-- FCH_ch_DQ_0 to DQ_7, DQS_T, DQS_C -/
  | fchData (ch : Nat)
  /-- FCH_ch_RE_T, WE_N, CE_0_N, CE_1_N -/
  | fchHigh (ch : Nat)
  /-- FCH_ch_RE_C, ALE, CLE -/
  | fchLow (ch : Nat)
  | fchReady (ch : Nat)
  /-- SCLK_P and SCLK_N -/
  | sclk (p : Nat)
  /-- SCMD, SDAT_0 to SDAT_7, SDS -/
  | spLines (p : Nat)
  | cdN (p : Nat)
  | cio (p : Nat)
  | cclk (p : Nat)
  | crstN (p : Nat)
  | pcieLanes
  | refclk
  | perstN
  | clkreqN
  | wakeN
  /-- XIN, XOUT -/
  | xtal
  | rstN
  | roleSel
  | ftest
  | faultN
  | breeze
  | tmpExc
  | tamperA
  | tamperB
  /-- I2C_SCL, I2C_SDA -/
  | i2c
  /-- TCK, TRST_N -/
  | tck
  /-- TMS, TDI -/
  | tms
  | tdo
  | gpio (n : Nat)
  deriving DecidableEq, Repr

/-- What the part does at a ball. -/
inductive Drive where
  /-- high-Z with the receiver off -/
  | off
  | highZ
  | input
  | pullUp
  | pullDown
  /-- a pull-up of 20 kΩ or of 100 kΩ -/
  | pullUpOf (kohm : Nat)
  | low
  | high
  /-- a clock output that runs -/
  | clock
  /-- SCLK stopped: SCLK_P low, SCLK_N high -/
  | clockStopped
  /-- SCLK into the card, with its termination of 100 Ω or without -/
  | clockIn (terminated : Bool)
  /-- driven and released as the protocol of the ball asks -/
  | active
  /-- the reference oscillator runs -/
  | oscillator
  /-- driven as its cells of the boundary-scan register say -/
  | scan
  deriving DecidableEq, Repr

/-- The state of a ball in reset (R44). -/
def Ball.inReset : Ball → Drive
  | .fchData _ => .off
  | .fchHigh _ => .pullUp
  | .fchLow _ => .pullDown
  | .fchReady _ => .pullUpOf 20
  | .sclk _ => .highZ
  | .spLines _ => .highZ
  | .cdN _ => .off
  | .cio _ => .highZ
  | .cclk _ => .pullDown
  | .crstN _ => .pullDown
  | .pcieLanes => .highZ
  | .refclk => .off
  | .perstN => .off
  | .clkreqN => .highZ
  | .wakeN => .highZ
  | .xtal => .oscillator
  | .rstN => .input
  | .roleSel => .input
  | .ftest => .pullDown
  | .faultN => .low
  | .breeze => .low
  | .tmpExc => .low
  | .tamperA => .input
  | .tamperB => .pullUpOf 100
  | .i2c => .highZ
  | .tck => .pullDown
  | .tms => .pullUp
  | .tdo => .highZ
  | .gpio _ => .pullDown

/-- The dock drives the lines of a port: a card is present and its answer to reset is complete (R171). -/
def State.linesDriven (s : State) (p : Nat) : Bool :=
  s.isDock && p < 2 && (s.cn p).atrDone && s.linkState p != lnkRemoved

/-- The card terminates SCLK: from step ROLE on, and not in DOZE (R149). -/
def State.sclkTerminated (s : State) : Bool := s.isCard && 4 ≤ s.bootStep && s.powerState != 3

/-- GPIO_n: driven where OE says so, else an input with its pull-down where PD_EN says so (R84). -/
def State.gpioBall (s : State) (n : Nat) : Drive :=
  if bitAt (s.fld SYS_GPIO_CTRL_OE) n then (if bitAt (s.fld SYS_GPIO_CTRL_OUT) n then .high else .low)
  else if bitAt (s.fld SYS_GPIO_CTRL_PD_EN) n then .pullDown else .input

/-- A ball that is the same in both roles. -/
def State.sharedBall (s : State) (b : Ball) : Drive :=
  match b with
  | .faultN => if s.faultN then .low else .highZ
  | .breeze => if s.flt.breeze then .high else .low
  | .tmpExc => .active
  | .i2c => .active
  | .gpio n => s.gpioBall n
  | _ => b.inReset

/-- A ball on a card from step ROLE on; a function absent there keeps its reset state. -/
def State.cardBall (s : State) (b : Ball) : Drive :=
  match b with
  | .fchData _ => .active
  | .fchHigh _ => .active
  | .fchLow _ => .active
  | .sclk p => if p = 0 then .clockIn s.sclkTerminated else b.inReset
  | .spLines p => if p = 0 then .active else b.inReset
  | .cio p => if p = 0 then .active else b.inReset
  | _ => s.sharedBall b

/-- A ball on a dock from step ROLE on. -/
def State.dockBall (s : State) (b : Ball) : Drive :=
  match b with
  | .sclk p => if s.linesDriven p then (if (s.sp p).sclk then .clock else .clockStopped) else .highZ
  | .spLines p => if s.linesDriven p then .active else .highZ
  | .cdN _ => .input
  | .cio _ => .active
  | .cclk p => if s.fld (CN_CCLK_KHZ_KHZ p) = 0 then .low else .clock
  | .crstN p => if (s.cn p).crstHigh then .high else .low
  | .pcieLanes => .active
  | .refclk => .input
  | .perstN => .input
  | .clkreqN => .low
  | .wakeN => if s.pins.wakeLow then .low else .highZ
  | _ => s.sharedBall b

/-- The I²C target answers: from the end of the AON step, and in the safe state. -/
def State.i2cAnswers (s : State) : Bool := 2 ≤ s.bootStep && s.alive

/-- The time up to step ROLE, with the I²C target answering from the end of AON (R44, R54). -/
def State.earlyBall (s : State) (b : Ball) : Drive :=
  match b with
  | .i2c => if s.i2cAnswers then .active else .highZ
  | _ => b.inReset

/-! ## The JTAG port (R53) -/

/-- The identification register of B0. Log 13 (DESIGN CHOICE). -/
def idCode : Word := 0x1168074B#32

/-- The instruction a code stands for: BYPASS unless R53 lists it. -/
def jtagInst (code : Nat) : Nat := if [0, 1, 2, 4, 5].contains code then code else 15

/-- The instruction in effect: EXTEST, CLAMP and HIGHZ act only while RST_N is low. -/
def State.jtagActs (s : State) : Nat :=
  if (s.pins.jtag = 0 ∨ s.pins.jtag = 4 ∨ s.pins.jtag = 5) ∧ !s.boot.rstLow then 15 else s.pins.jtag

/-- The boundary-scan register covers every signal ball but these. -/
def Ball.scanned : Ball → Bool
  | .xtal => false
  | .pcieLanes => false
  | .refclk => false
  | .tck => false
  | .tms => false
  | .tdo => false
  | _ => true

/-- What a ball does: in reset, up to step ROLE, in its role, and under a JTAG instruction in effect.  When RST_N rises
EXTEST, CLAMP and HIGHZ end, and every ball is back in its reset state. Log 172 (DESIGN CHOICE). -/
def State.ball (s : State) (b : Ball) : Drive :=
  if b.scanned && s.jtagActs = 5 then .highZ
  else if b.scanned && (s.jtagActs = 0 || s.jtagActs = 4) then .scan
  else if s.boot.poc || s.boot.rstLow then b.inReset
  else if s.bootStep < 4 then s.earlyBall b
  else if s.isCard then s.cardBall b else s.dockBall b

/-- A number bit by bit, lowest first. -/
def bitsLow (n x : Nat) : List Bool := (List.range n).map (bitAt x)

/-- What comes out at TDO while `scan` goes in through the register that an instruction selects: the boundary-scan
register's capture, the identification register, or the bypass bit. Log 172 (DESIGN CHOICE). -/
def State.scanOut (s : State) (scan : List Bool) : List Bool :=
  if s.pins.jtag = 0 ∨ s.pins.jtag = 2 then (List.range scan.length).map (Config.sampledBit s.freeCtr)
  else if s.pins.jtag = 1 then (bitsLow 32 idCode.toNat ++ scan).take scan.length
  else (false :: scan).take scan.length

/-- JTAG_INSTRUCTION (R53), and the scan through the register it selects: EXTEST and SAMPLE/PRELOAD load the
boundary-scan register. -/
def execJtagInstruction (code : Nat) (scan : List Bool) (s : State) : Result :=
  let t : State := { s with pins := { s.pins with jtag := jtagInst (code % 16) } }
  let bsr := t.pins.jtag = 0 ∨ t.pins.jtag = 2
  let u := t.emit (.tdo (t.scanOut scan))
  .next (if bsr then { u.spend with pins := { u.pins with boundary := scan } } else u)

/-! ## The I²C target (R54) -/

/-- I2C_WRITE: the address, the pointer byte, and further bytes, which are not acknowledged. Log 117 (DEDUCED). -/
def execI2cWrite (bytes : List Nat) (s : State) : Result :=
  let one := s.i2cAnswers && bytes.head?.any (· < 16)
  let t : State := if one then { s with pins := { s.pins with i2cPtr := bytes.headD 0 } } else s
  .next (t.emit (.i2cAck (s.i2cAnswers :: (List.range bytes.length).map (fun k => one && k == 0))))

/-- I2C_READ: the address, and bytes from the pointer on, which wraps; the pointer goes on with them.
Log 177 (DESIGN CHOICE). -/
def execI2cRead (n : Nat) (s : State) : Result :=
  let t := s.emit (.i2cAck [s.i2cAnswers])
  .next (if s.i2cAnswers then
    { t with pins := { t.pins with i2cPtr := (s.pins.i2cPtr + n) % 16 } }.emit
      (.i2c ((List.range n).map (fun k => BitVec.ofNat 8 (s.statusByte ((s.pins.i2cPtr + k) % 16)))))
  else t)

end Sys2Proof.Machine
end

