-- ==== Sys2Proof/Machine/BridgeCmds.lean ====
section
/-! DEFINITION. What a dock does with a command that has its data (chapters 09, 10 and 18): it sends it to a card, to
both, or completes it itself; and the copying of a resync track. -/

namespace Sys2Proof.Machine

/-! ## The commands that may go on -/

/-- BRG serves a command; while only the parity of its mode fences it, it serves BRG_MODE, which sets the mode anew, and
ends bridged writes (R408). -/
def State.brgServes (s : State) (op : Nat) : Bool :=
  s.pageServes pBRG ||
  (s.modeParity && (op == 0x30 || isWriteOp op) && s.isDock && !s.flag (PG_CTRL_FENCE_REQ pBRG) && !s.quiesceAsked pBRG &&
    !s.islandDown (pageIsland s.role pBRG) && !s.flag (PG_STAT_RST_BUSY pBRG) &&
    !s.flt.holds.any (fun h => h.src == 112 || h.src == 115 || h.unit == .island (pageIsland s.role pBRG)))

/-- A command that has not begun to have its effect, and that nothing holds back. -/
def State.freshCmd (s : State) (n k cid : Nat) : Option HCmd :=
  (s.findCmd n k cid).filter (fun c => s.brgServes c.op && c.done.isNone && !c.routed && !c.opRefused && !s.gated c)

/-- A dock-only command that may go on: a management processor serves it (R80, R81). -/
def State.mpCmd (s : State) (n k cid : Nat) : Option HCmd := (s.freshCmd n k cid).filter (fun _ => s.mpServes)

/-- The units of a command that have a buffer and could be read: all of them, or those before the one that
failed. -/
def HCmd.good (c : HCmd) (n : Nat) : Nat :=
  match c.fail with
  | some (u, _, _) => min u n
  | none => n

/-- All its quanta are granted, and what it takes from host memory is with the dock. -/
def HCmd.loaded (c : HCmd) : Bool :=
  !c.wantsGrant && !c.needsList && !c.reading && c.good (h2cUnits c.op c.arg) ≤ c.units.length

/-- Its effect begins, in a number of parts. -/
def State.route (s : State) (c : HCmd) (parts : Nat) : State :=
  s.updCmd c.inst c.sq c.cid (fun x => { x with routed := true, parts := parts })

/-- The port has a card and counts as a target, whatever it is doing just now. -/
def State.member (s : State) (p : Nat) : Bool :=
  (s.linkState p == lnkRun || s.linkState p == lnkTuning || s.linkState p == lnkRetrain) &&
  !s.brg.noRoute.contains p

/-- Why no command may go to a port: status and REASON (R141, R219, R221). -/
def State.portBar (s : State) (p : Nat) : Option (Nat × Nat) :=
  if !s.flag (SP_STAT_CARD_PRESENT p) || s.linkState p == lnkRemoved || s.fld (CN_STAT_STATE p) == 5 then some (0x50, 0x05)
  else if (s.sp p).drained then some (0x50, 0x0A)
  else if s.linkState p == lnkDown then some (s.downSt p)
  else none

/-- Send everything that can go. Log 150 (DEDUCED). -/
def State.runDock (s : State) : State := ((s.drive 0).drive 1).pump

/-! ## WRITE and DISCARD (R221, R223, R283) -/

/-- The ports that a bridge record is committed for. -/
def State.commitPorts (s : State) : Nat :=
  if s.brgMode = 1 then
    (let m := (s.member 0).toNat + 2 * (s.member 1).toNat
     if m = 0 then 3 else m)
  else s.writeTargets

/-- Commit bridge records with the units they hold. Log 145 (DEDUCED). -/
def State.commitBridge (s : State) (ports : Nat) : List Nat → List (List Byte) → State
  | [], _ => s
  | q :: qs, us =>
    match s.findRec q with
    | none => s.commitBridge ports qs us.tail
    | some r =>
      let t := (s.commitRec r (us.headD [])).updRec q (fun x => { x with ports := ports })
      let t := if ports &&& t.runBits = 0 then t else t.markAbsent r
      t.commitBridge ports qs us.tail

/-- The read-back of the first record of a bridged write fails by an injection: the command ends (R50, R271, R283). -/
def State.bridgeLost (s : State) (c : HCmd) (r : JRec) : State :=
  ((((s.commitRec r (c.units.headD [])).injUsed pLND 1).readbackLost r true).complete c 0x7F 0 0).runDock

/-- A bridged write is committed and goes to its targets. -/
def State.bridgeCommit (s : State) (c : HCmd) : State :=
  let n := if c.op = 0x03 then c.good c.recs.length else c.recs.length
  let t := (s.dropReserved (c.recs.drop n)).commitBridge s.commitPorts (c.recs.take n) c.units
  let t := t.updCmd c.inst c.sq c.cid (fun x =>
    { x with routed := true, recs := x.recs.take n, targets := s.writeTargets })
  (((t.evalAll).deliverTo 0).deliverTo 1).runDock

/-- A bridged write: its records are committed, if the first read-back does not fail. -/
def State.bridgeWrite (s : State) (c : HCmd) : State :=
  match (c.recs.head?.bind s.findRec).filter (fun _ => s.injects pLND 1 && (c.op != 0x03 || 0 < c.good c.recs.length)) with
  | some r => s.bridgeLost c r
  | none => s.bridgeCommit c

/-- The parts of a write to one card: at most 1024 units each. -/
def State.writeParts (s : State) (p : Nat) (c : HCmd) (base : Nat) : Nat → List (List Byte) → State
  | 0, _ => s
  | fuel + 1, us =>
    match us with
    | [] => s
    | _ =>
      let part := us.take 1024
      (s.pushD p { op := 0x03, inst := c.inst, arg := (c.arg / 4096 + base) * 4096 + (part.length - 1),
                   origin := .host c.inst c.sq c.cid, base := base, units := part }).writeParts p c (base + 1024) fuel
        (us.drop 1024)

/-- In INDEPENDENT a write goes to the port of its instance. -/
def State.soloWrite (s : State) (c : HCmd) : State :=
  let p := s.portOf c.inst
  if c.portSel ≠ 0 ∧ c.portSel ≠ p + 1 then s.complete c 0x32 0 0x08
  else
    match s.portBar p with
    | some (st, reason) => s.complete c st 0 reason
    | none =>
      if c.op = 0x05 then
        ((s.route c 1).pushD p { op := 0x05, inst := c.inst, arg := c.arg, origin := .host c.inst c.sq c.cid }).runDock
      else
        let us := c.units.take (c.good c.units.length)
        ((s.route c ((us.length + 1023) / 1024)).writeParts p c 0 us.length us).runDock

/-- An earlier write of the same queue has not begun (R226, promise O1). -/
def State.writeAhead (s : State) (c : HCmd) : Bool :=
  (s.earlier c).any (fun x => x.inst == c.inst && x.sq == c.sq && isWriteOp x.op && !x.routed && x.done.isNone)

/-- DOCK_WRITE (R221, R223). -/
def execDockWrite (inst sq cid : Nat) (s : State) : Result :=
  match s.freshCmd inst sq cid with
  | none => .next s
  | some c =>
    if !isWriteOp c.op || !c.loaded || s.writeAhead c then .next s
    else if s.modeParity && s.bridged then .next (s.complete c 0x33 0 0x07)
    else if c.recs.isEmpty then .next (if s.bridged then s else s.soloWrite c)
    else .next (s.bridgeWrite c)

/-! ## READ (R221, R224) -/

/-- DOCK_READ: in INDEPENDENT it waits for a port that is being brought into RUN. -/
def execDockRead (inst sq cid : Nat) (s : State) : Result :=
  match s.freshCmd inst sq cid with
  | none => .next s
  | some c =>
    if c.op ≠ 0x02 ∨ !c.loaded then .next s
    else
      let go := fun (t : State) =>
        (((t.route c 0).serveRead c 0 (c.good (c.arg % 4096 + 1))).closeParts inst sq cid).runDock
      if s.bridged then .next (go s)
      else
        let p := s.portOf inst
        if c.portSel ≠ 0 ∧ c.portSel ≠ p + 1 then .next (s.complete c 0x32 0 0x08)
        else match s.portBar p with
          | some (st, reason) => .next (s.complete c st 0 reason)
          | none => .next (if s.portRun p then go s else s)

/-! ## Commands for one card (R217, R221, R222) -/

/-- Send a command as it is to some ports. Log 150 (DEDUCED). -/
def State.sendTo (s : State) (c : HCmd) (ports : List Nat) : State :=
  let d : DCmd := { op := c.op, inst := c.inst, arg := c.arg, origin := .host c.inst c.sq c.cid, units := c.units }
  (ports.foldl (fun (t : State) p => t.pushD p d) (s.route c ports.length)).runDock

/-- The one port a command goes to; none in ROTATE without an active card. Log 150 (DEDUCED). -/
def State.onePort (s : State) (c : HCmd) : Option Nat :=
  if c.portSel ≠ 0 then some (c.portSel - 1)
  else match s.brgMode with
    | 1 => some (if s.portRun 0 then 0 else 1)
    | 2 => if s.flag BRG_STAT_NO_ACTIVE then none else some s.brgActive
    | _ => some (s.portOf c.inst)

/-- DOCK_FORWARD_COMMAND. -/
def execDockForwardCommand (inst sq cid : Nat) (s : State) : Result :=
  match s.freshCmd inst sq cid with
  | none => .next s
  | some c =>
    if isWriteOp c.op || c.op = 0x02 || dockCompletes c.op || !c.loaded then .next s
    else
      match c.fail with
      | some (u, st, reason) => .next (s.complete c st u reason)
      | none =>
        let run := [0, 1].filter (fun p => s.portRun p && !(s.sp p).drained)
        if c.op = 0x07 ∧ s.brgMode = 1 ∧ c.portSel = 0 ∧ !run.isEmpty then .next (s.sendTo c run)
        else match s.onePort c with
          | none => .next (s.complete c 0x50 0 0x05)
          | some p => match s.portBar p with
            | some (st, reason) => .next (s.complete c st 0 reason)
            | none => .next (s.sendTo c [p])

/-! ## Commands the dock completes (R217–R220, R225) -/

/-- DOCK_PING (R217). -/
def execDockPing (inst sq cid : Nat) (s : State) : Result :=
  match s.freshCmd inst sq cid with
  | none => .next s
  | some c => .next (if c.op = 0x00 then s.complete c 0 0 0 else s)

/-- DOCK_BARRIER (R225). -/
def execDockBarrier (inst sq cid : Nat) (s : State) : Result :=
  match s.freshCmd inst sq cid with
  | none => .next s
  | some c => .next (if c.op = 0x06 && s.allEarlierDone c false then s.complete c 0 0 0 else s)

/-- DOCK_OPCODE_REFUSED (R217). Log 135 (DEDUCED). -/
def execDockOpcodeRefused (inst sq cid : Nat) (s : State) : Result :=
  match s.host.cmds.find? (fun c => c.inst == inst && c.sq == sq && c.cid % 65536 == cid % 65536 && c.opRefused &&
      c.done.isNone) with
  | none => .next s
  | some c => .next (s.complete c 0x32 0 0x01)

/-- BRG_MODE (R218, R455). Log 151 (DEDUCED). -/
def execBrgMode (sq cid : Nat) (s : State) : Result :=
  match s.mpCmd 0 sq cid with
  | none => .next s
  | some c =>
    if c.op ≠ 0x30 ∨ !s.allEarlierDone c true then .next s
    else if c.arg % 4 = 3 then .next (s.complete c 0x32 0 0x02)
    else
      let t := s.applyMode (c.arg % 4) (bitsOf c.arg 2 1) (bitsOf c.arg 16 16)
      .next ((t.complete c 0 0 0).evalAll).runDock

/-- SETTLE of every configured instance of a port's card. Log 151 (DEDUCED). -/
def State.settlePort (s : State) (p : Nat) : State :=
  if !s.portRun p then s
  else (fnList (s.sp p).insts).foldl (fun (t : State) n =>
    t.pushD p { op := 0x07, inst := n, arg := 0, origin := .link }) s

/-- A drain begins: nothing new goes to the port but bridge records, until it is complete. Log 151 (DEDUCED). -/
def State.startDrain (s : State) (p : Nat) (settle : Bool) (sq cid : Nat) : State :=
  let t := if settle then s.settlePort p else s
  let t := t.setSp p { t.sp p with drained := true, drainCmd := some (sq, cid) }
  (((t.endWaiting p 0x50 0x0A (fun d => !s.begun p d)).evalAll).drive p).drainCheck p

/-- PORT_DRAIN (R219). -/
def execPortDrain (sq cid : Nat) (s : State) : Result :=
  match s.mpCmd 0 sq cid with
  | none => .next s
  | some c =>
    let p := c.arg % 2
    if c.op ≠ 0x31 ∨ bitAt c.arg 2 ∨ (s.sp p).drainCmd.isSome then .next s
    else .next ((s.route c 0).startDrain p (bitAt c.arg 1) sq cid).runDock

/-- A drain ends; the command that waits for it completes. Log 151 (DEDUCED). -/
def State.endDrain (s : State) (p : Nat) : State :=
  (s.clearDrain p).deliverTo p

/-- PORT_DRAIN_RESUME (R219). -/
def execPortDrainResume (sq cid : Nat) (s : State) : Result :=
  match s.mpCmd 0 sq cid with
  | none => .next s
  | some c =>
    if c.op ≠ 0x31 ∨ !bitAt c.arg 2 then .next s
    else .next ((s.endDrain (c.arg % 2)).endCmd c 0 0 0).runDock

/-! ## INST_QUIESCE (R220, R251–R253) -/

/-- The INST_QUIESCE with an action, or one with the reserved action. -/
def State.quiesceCmd (s : State) (sq cid act : Nat) : Option HCmd :=
  (s.mpCmd 0 sq cid).filter (fun c => c.op == 0x32 && (bitsOf c.arg 4 2 == act || bitsOf c.arg 4 2 == 3))

/-- The entry is refused: instance 0, or the reserved action (R252). Log 151 (DEDUCED). -/
def HCmd.badQuiesce (c : HCmd) : Bool := c.arg % 16 == 0 || bitsOf c.arg 4 2 == 3

/-- INST_QUIESCE commands that wait for an instance complete with OK. -/
def State.endQuiesces (s : State) (n : Nat) : State :=
  let mine := s.host.quiescing.filter (fun q => q.1 == n)
  let t : State := { s with host := { s.host with quiescing := s.host.quiescing.filter (fun q => q.1 != n) } }
  mine.foldl (fun (t : State) q => match t.findCmd 0 q.2.1 q.2.2 with
    | some c => t.endCmd c 0 0 0
    | none => t) t

/-- No command of an instance is outstanding at the dock, and none is on its way. -/
def State.instIdle (s : State) (n : Nat) : Bool :=
  !s.host.cmds.any (fun c => c.inst == n) && !s.host.reads.any (fun r => r.inst == n)

/-- The end of a reclaim: queues, translations and buckets of the instance are as after reset (R253).
Log 152 (DEDUCED). -/
def State.endReclaim (s : State) (n : Nat) : State :=
  let t := ((s.haltQueues n).dropTlb n).refillQos n
  let t : State := { t with host := { t.host with reclaims := t.host.reclaims.filter (fun e => e.1 != n) } }
  t.setFld (INS_STATE_STATE n) (if s.fenced (.inst n) || s.flag (PG_CTRL_FENCE_REQ (pINS n)) then 4 else 2)

/-- An instance that quiesces or is reclaimed has nothing outstanding (R251, R253). -/
def State.quiesceStep (s : State) (n : Nat) : State :=
  let cards := s.host.reclaims.any (fun e => e.1 == n && e.2 != 0)
  match s.fld (INS_STATE_STATE n) with
  | 1 => if s.instIdle n then ((s.setFld (INS_STATE_STATE n) 2).endQuiesces n).pump else s
  | 2 => (s.endQuiesces n).pump
  | 3 => if s.instIdle n && !cards then ((s.endReclaim n).endQuiesces n).pump else s
  | _ => s

/-- INST_QUIESCE_QUIESCE (R252). -/
def execInstQuiesceQuiesce (sq cid : Nat) (s : State) : Result :=
  match s.quiesceCmd sq cid 0 with
  | none => .next s
  | some c =>
    if c.badQuiesce then .next (s.complete c 0x32 0 0x02)
    else
      let n := c.arg % 16
      let t := (s.route c 0).instQuiesce n
      .next (({ t with host := { t.host with quiescing := t.host.quiescing ++ [(n, sq, cid)] } } : State).quiesceStep n)

/-- INST_QUIESCE_RESUME (R252). -/
def execInstQuiesceResume (sq cid : Nat) (s : State) : Result :=
  match s.quiesceCmd sq cid 1 with
  | none => .next s
  | some c =>
    if c.badQuiesce then .next (s.complete c 0x32 0 0x02)
    else if s.fld (INS_STATE_STATE (c.arg % 16)) ≠ 2 then .next (s.complete c 0x32 0 0x0C)
    else .next ((s.instResume (c.arg % 16)).complete c 0 0 0)

/-- A record has been sent to a card. -/
def State.recSent (s : State) (seq : Nat) : Bool :=
  (s.findRec seq).any (fun r => r.donePorts != 0) ||
  [0, 1].any (fun p => (s.dockSent p).any (fun d => d.seqs.contains seq))

/-- A started command has not been sent to a card, as a whole or as a record. -/
def State.unsentCmd (s : State) (c : HCmd) : Bool :=
  !c.routed || (!c.recs.isEmpty && c.ends.isEmpty && !c.recs.any s.recSent)

/-- Started commands of an instance that no card has been sent end ABORTED; the bridge records committed for them stay
(R253 step 2). Log 152 (DEDUCED). -/
def State.abortStarted (s : State) (n : Nat) : State :=
  let mine := s.host.cmds.filter (fun c => c.inst == n && s.unsentCmd c && c.done.isNone)
  let t := mine.foldl (fun (t : State) c => t.endCmd c 0x51 0 0x0C) s
  let host := fun (p : Nat) (d : DCmd) => d.ofInst n && !t.begun p d
  (t.endWaiting 0 0x51 0x0C (host 0)).endWaiting 1 0x51 0x0C (host 1)

/-- INST_CFG RECLAIM goes to every card in RUN (R253 step 3). -/
def State.sendReclaim (s : State) (n : Nat) : State :=
  let ports := [0, 1].filter (fun p => s.portRun p)
  let unit := padTo 4096 [5, BitVec.ofNat 8 n, 0, 1]
  let t := ports.foldl (fun (t : State) p =>
    t.pushD p { op := 0x14, inst := 0, arg := 0, origin := .link, units := [unit] }) s
  { t with host := { t.host with reclaims := t.host.reclaims.filter (fun e => e.1 != n) ++ [(n, s.runBits)] } }

/-- INST_QUIESCE_RECLAIM (R253). -/
def execInstQuiesceReclaim (sq cid : Nat) (s : State) : Result :=
  match s.quiesceCmd sq cid 2 with
  | none => .next s
  | some c =>
    if c.badQuiesce then .next (s.complete c 0x32 0 0x02)
    else
      let n := c.arg % 16
      let t := ((s.route c 0).setFlag (PG_CTRL_QUIESCE_REQ (pINS n)) true).setFld (INS_STATE_STATE n) 3
      let t := ((t.abortUnstarted n 0x51).abortStarted n).sendReclaim n
      let t : State := { t with host := { t.host with quiescing := t.host.quiescing ++ [(n, sq, cid)] } }
      .next ((t.runDock).quiesceStep n)

/-- INSTANCE_QUIESCED (R251, R253). -/
def execInstanceQuiesced (inst : Nat) (s : State) : Result :=
  .next (if s.isDock && inst < 16 then s.quiesceStep inst else s)

/-! ## Copying between the cards of a mirror (R459) -/

/-- Copy traffic may go: it ranks below the requests of every instance, within RESYNC_CFG.RATE (R459).
Log 181 (DESIGN CHOICE). -/
def State.copyMay (s : State) : Bool :=
  s.brg.copyDebt == 0 && (List.range 16).all (fun n => !s.qosArbiter.eligible n)

/-- RESYNC_CHUNK: the next chunk of a track is read from the other card. Log 181 (DESIGN CHOICE). -/
def execResyncChunk (t : Nat) (s : State) : Result :=
  if !s.dockPage pBRG || 2 ≤ t || s.brgMode != 1 || !s.flag BRG_RESYNC_CFG_EN || s.brg.copying.isSome ||
      !(s.track t).inUse || s.safe then .next s
  else if s.trackBad t then .next ((s.noteTrack t).trackLost t)
  else if (s.track t).bits.isEmpty then .next (s.endTrack t)
  else
    match s.trackPort t, s.copyRegion t with
    | some q, some r =>
      let x := s.track t
      let chunk := if x.region = some r then x.chunk else 0
      let inst := r / 2 ^ 19
      let first := r % 2 ^ 19 * 2 ^ 17 + 256 * chunk
      let p := 1 - q
      if !s.sourceReady p inst first || !s.copyMay then .next s
      else
        let u := s.setTrack t { x with region := some r, chunk := chunk }
        let u : State := { u with brg := { u.brg with copying := some (t, inst, first), copyDebt := 256 * 4096 } }
        .next ((u.pushD p { op := 0x02, inst := inst, arg := first * 4096 + 255, origin := .resync t }).drive p)
    | _, _ => .next s

end Sys2Proof.Machine
end

