-- ==== Sys2Proof/Machine/CardCmds.lean ====
section
/-! DEFINITION. The Spantoen commands as a card receives them (chapters 07 and 08): one meaning for each opcode over the
shared frame and unit handling, the status frames and timers of both ends, and the end of a firmware activation
(R447). -/

namespace Sys2Proof.Machine

/-! ## Frames -/

/-- The card goes on, and Counlet requests that waited for a Spantoen command are served (R128). -/
def State.cardOn (s : State) : State := if s.keys.heldReq.isEmpty then s.cardPump else s.settle

/-- A command frame arrives, and the card goes on. -/
def State.frameIn (s : State) (op : Nat) (c : Cmd) (env : List MediaRead) (aux : Nat) : State :=
  (s.cardFrame (op % 64) (cutCmd c) env aux).cardOn

/-- The command is the one whose unit is due. Log 124 (DEDUCED). -/
def State.unitDue (s : State) (op : Nat) (c : Cmd) : Bool :=
  match s.owing with
  | some o => o.op == op && o.inst == c.inst % 16 && o.tag == c.tag % 256
  | none => false

/-- A command frame arrives with its one unit behind it. Log 124 (DEDUCED), 157 (DEDUCED). -/
def State.frameUnit (s : State) (op : Nat) (c : Cmd) (u : UnitIn) (env : List MediaRead) : State :=
  let t := s.frameIn op c env 0
  if t.unitDue op c then (t.unitArrives u true 0 env).cardOn else t

/-- SP_PING (R194). -/
def execSpPing (c : Cmd) (s : State) : Result := .next (s.frameIn 0x00 c [] 0)

/-- SP_IDENTIFY (R181). -/
def execSpIdentify (c : Cmd) (s : State) : Result := .next (s.frameIn 0x01 c [] 0)

/-- SP_READ (R16). -/
def execSpRead (c : Cmd) (env : List MediaRead) (s : State) : Result := .next (s.frameIn 0x02 c env 0)

/-- SP_WRITE (R15): its units follow. -/
def execSpWrite (c : Cmd) (s : State) : Result := .next (s.frameIn 0x03 c [] 0)

/-- SP_DISCARD (R301); `readback` is false where the read-back of its commit word will fail (R50). -/
def execSpDiscard (c : Cmd) (readback : Bool) (s : State) : Result := .next (s.frameIn 0x05 c [] (!readback).toNat)

/-- SP_BARRIER (R226). -/
def execSpBarrier (c : Cmd) (s : State) : Result := .next (s.frameIn 0x06 c [] 0)

/-- SP_SETTLE (R277). -/
def execSpSettle (c : Cmd) (s : State) : Result := .next (s.frameIn 0x07 c [] 0)

/-- SEG_OPEN (R393). -/
def execSegOpen (c : Cmd) (s : State) : Result := .next (s.frameIn 0x08 c [] 0)

/-- SEG_CLOSE (R396). -/
def execSegClose (c : Cmd) (s : State) : Result := .next (s.frameIn 0x09 c [] 0)

/-- SEG_VERIFY (R399). -/
def execSegVerify (c : Cmd) (u : UnitIn) (env : List MediaRead) (s : State) : Result :=
  .next (s.frameUnit 0x0A c u env)

/-- REG_RD (R181). -/
def execRegRd (c : Cmd) (s : State) : Result := .next (s.frameIn 0x0C c [] 0)

/-- REG_WR (R181). -/
def execRegWr (c : Cmd) (u : UnitIn) (s : State) : Result := .next (s.frameUnit 0x0D c u []).settle

/-- TUNE_RD (R158). -/
def execTuneRd (c : Cmd) (s : State) : Result := .next (s.frameIn 0x10 c [] 0)

/-- TUNE_WR (R158), with the tuning frames the card received under its taps. -/
def execTuneWr (c : Cmd) (frames : List Nat) (s : State) : Result := .next (s.frameIn 0x11 c [] (tuneMask frames))

/-- SPEED_SET (R163). -/
def execSpeedSet (c : Cmd) (s : State) : Result := .next (s.frameIn 0x12 c [] 0)

/-- LINK_KEY (R195). -/
def execLinkKey (c : Cmd) (s : State) : Result := .next (s.frameIn 0x13 c [] 0)

/-- INST_CFG CREATE (R234). -/
def execInstCfgCreate (c : Cmd) (u : UnitIn) (s : State) : Result := .next (s.frameUnit 0x14 c u [])

/-- INST_CFG RESIZE (R234). -/
def execInstCfgResize (c : Cmd) (u : UnitIn) (s : State) : Result := .next (s.frameUnit 0x14 c u [])

/-- INST_CFG SCHED (R249). -/
def execInstCfgSched (c : Cmd) (u : UnitIn) (s : State) : Result := .next (s.frameUnit 0x14 c u [])

/-- INST_CFG DELETE (R236). -/
def execInstCfgDelete (c : Cmd) (u : UnitIn) (s : State) : Result := .next (s.frameUnit 0x14 c u [])

/-- INST_CFG RECLAIM (R254). -/
def execInstCfgReclaim (c : Cmd) (u : UnitIn) (s : State) : Result := .next (s.frameUnit 0x14 c u [])

/-- SP_HEALTH (R450). -/
def execSpHealth (c : Cmd) (s : State) : Result := .next (s.frameIn 0x15 c [] 0)

/-- LOG_READ (R181). -/
def execLogRead (c : Cmd) (s : State) : Result := .next (s.frameIn 0x16 c [] 0)

/-- SP_DOZE (R430). -/
def execSpDoze (c : Cmd) (s : State) : Result := .next (s.frameIn 0x17 c [] 0)

/-- FW_STAGE (R445): its units follow. -/
def execFwStage (c : Cmd) (s : State) : Result := .next (s.frameIn 0x18 c [] 0)

/-- FW_ACTIVATE (R447). -/
def execFwActivate (c : Cmd) (s : State) : Result := .next (s.frameIn 0x19 c [] 0)

/-- LOCK_CTL with LOCK_SET (R388). -/
def execLockCtlLockSet (c : Cmd) (u : UnitIn) (s : State) : Result := .next (s.frameUnit 0x1A c u [])

/-- LOCK_CTL with UNLOCK (R389). -/
def execLockCtlUnlock (c : Cmd) (u : UnitIn) (s : State) : Result := .next (s.frameUnit 0x1A c u [])

/-- FORCE_ERASE, the arm (R182). -/
def execSpantoenForceEraseArm (c : Cmd) (s : State) : Result := .next (s.frameIn 0x1B c [] 0)

/-- FORCE_ERASE, the confirm (R182). -/
def execSpantoenForceEraseConfirm (c : Cmd) (s : State) : Result := .next (s.frameIn 0x1B c [] 0)

/-- SPANTOEN_UNKNOWN_OP (R188). -/
def execSpantoenUnknownOp (op : Nat) (c : Cmd) (s : State) : Result := .next (s.frameIn op c [] 0)

/-- DUPLICATE_FC (R189). -/
def execDuplicateFc (op : Nat) (c : Cmd) (s : State) : Result := .next (s.frameIn op c [] 0)

/-- HOST_UNIT_RECEIVED (R180, R190). Log 157 (DEDUCED). -/
def execHostUnitReceived (u : UnitIn) (readback : Bool) (lat : Nat) (env : List MediaRead) (s : State) : Result :=
  .next (if s.cardLink then (s.unitArrives u readback lat env).settle else s)

/-! ## The link below the frames -/

/-- The port's link layer runs, on either role. -/
def State.linkUp (s : State) (p : Nat) : Bool := if s.isCard then p == 0 && s.cardLink else s.dockLink p

/-- SPANTOEN_BAD_FRAME (R175). -/
def execSpantoenBadFrame (port : Nat) (s : State) : Result :=
  .next (if s.linkUp port then (s.injUsed (pSP port) 0).badFrame port else s)

/-- STATUS_FRAME_RECEIVED (R179): by the card after its unit, or by the dock after its own; an injection inverts bits of
the complement (R199). -/
def execStatusFrameReceived (port : Nat) (good : Bool) (token ntoken : Nat) (s : State) : Result :=
  if !s.linkUp port then .next s
  else
    let n := ntoken ^^^ s.injBits (pSP port) 2
    let t := s.injUsed (pSP port) 2
    if s.isCard then .next (t.cardToken good token n).cardOn
    else .next ((t.dockToken port (good && token + n == 255) token).drive port).pump

/-- TOKEN_WAIT_EXPIRY (R190): the token is taken as 0x00. -/
def execTokenWaitExpiry (port : Nat) (s : State) : Result :=
  if !s.linkUp port then .next s
  else if s.isCard then
    .next (match s.spA.outst.find? (·.sending) with
      | some o => (s.unitMissed o false).cardOn
      | none => s)
  else .next (s.unitAgain port false)

/-! ## The end of a SETTLE and of an activation (R277, R447) -/

/-- Every record a SETTLE waits for is released. -/
def State.settled (s : State) (o : Outst) : Bool := !s.lnd.recs.any (fun r => r.inst == o.inst && r.seq ≤ o.bound)

/-- SETTLE_COMPLETE (R277): the anchor record is rewritten, and the lifetime records (R449). -/
def execSettleComplete (tag : Nat) (s : State) : Result :=
  match s.spA.outst.find? (fun o => o.op == 7 && o.tag == tag && !o.held) with
  | none => .next s
  | some o =>
    if s.isCard && s.settled o then .next ((s.writeLife.writeAnchor.done o 0x00 0).cardOn) else .next s

/-- The command that asked for the activation under way ends, or the register reports it. -/
def State.activateEnds (s : State) (tag : Option Nat) (st result : Nat) : State :=
  if s.isCard then
    match tag.bind (fun fc => s.spA.outst.find? (fun o => o.fc == fc)) with
    | some o => s.done o st 0
    | none => s
  else (s.dfwResult result).setFlag BRG_DFW_STAT_BUSY false

/-- The new processor is ACTIVE with every lease, and the record naming its slot is committed; the former one
reloads (R447). Log 48 (DEDUCED). -/
def State.handOver (s : State) (slot : Nat) (mp : Bool) : State :=
  let t := ((s.mpTake mp).bump MPC_MP_STAT_TAKEOVERS).fire EV_MPC_TAKEOVER
  let t := t.commitPair fwPair (putBytes t.fwRecord 0 (bytesBE 1 slot))
  let t := t.setFld (mpState (!mp)) 1
  let t := (t.setFld MPC_FW_STAT_RUN_SLOT slot).setFld MPC_FW_STAT_RUN_VERSION (t.fwVersion slot)
  let t := t.setFlag MPC_FW_STAT_OTHER_VALID (t.fwValid t.otherSlot)
  { t with boot := { t.boot with floorTo := t.floorWanted } }

/-- ACTIVATION_SELF_CHECK_DONE (R447): `pass` the check of the new image, `leaseKept` that no lease was lost before
the record was committed. Log 48 (DEDUCED). -/
def execActivationSelfCheckDone (pass leaseKept : Bool) (s : State) : Result :=
  match s.firm.activating with
  | none => .next s
  | some slot =>
    let tag := s.firm.activTag
    let t : State := { s with firm := { s.firm with activating := none, activTag := none } }
    match [false, true].find? (fun mp => s.mpIs mp == 2) with
    | none => .next (t.activateEnds tag 0x41 1).settle
    | some mp =>
      if !pass then
        .next ((t.activateEnds tag 0x41 1).faultFull (96 + mp.toNat) 0 slot false).settle
      else if !leaseKept then .next ((t.setFld (mpState mp) 1).activateEnds tag 0x7F 3).settle
      else .next ((t.handOver slot mp).activateEnds tag 0x00 0).settle

end Sys2Proof.Machine
end

