-- ==== Sys2Proof/Machine/ChanArb.lean ====
section
/-! DEFINITION. The flash channel arbiters (R323, with R247 and R249), and the media commands of registers and timers:
retiring a die, starting a scan and a checkpoint, and the lifetime records. -/

namespace Sys2Proof.Machine

/-! ## The arbiter of a channel -/

/-- CLASS and WEIGHT of a source in MED.ARB_0 to ARB_2. -/
def State.arbField (s : State) (src lo w : Nat) : Nat :=
  let word := if src = 0 ∨ src = 2 then s.reg (4096 * pMED + 0x54) else if src = 4 then s.reg (4096 * pMED + 0x5C)
    else s.reg (4096 * pMED + 0x58)
  bitsOf word.toNat (lo + (if src = 2 ∨ src = 3 then 16 else 0)) w

/-- Some half's free superblocks are at or below the pressure mark. -/
def State.movePressed (s : State) : Bool :=
  s.freeCount 0 ≤ s.reclaimPressure || s.freeCount 1 ≤ s.reclaimPressure

/-- The class of a source at this decision: MOVE rises under pressure, and a request that has waited 100 ms takes its
grant as if in class 0. -/
def State.arbClass (s : State) (a : ChanArb) (src : Nat) : Nat :=
  let aged : Bool := match a.since.getD src none with
    | some t => 100000 ≤ s.since t
    | none => false
  if aged then 0
  else if src = 3 ∧ s.movePressed then min 1 (s.arbField src 0 2)
  else s.arbField src 0 2

def State.arbWeight (s : State) (src : Nat) : Nat := max 1 (s.arbField src 8 8)

/-- Move a source to the tail of the ring of a class. -/
def ChanArb.toRing (a : ChanArb) (src cls : Nat) : ChanArb :=
  { a with rings := a.rings.zipIdx.map (fun e =>
      if e.2 = cls then e.1.filter (· != src) ++ [src] else e.1.filter (· != src)) }

/-- A source's class and weight take effect (R249). -/
def ChanArb.adopt (a : ChanArb) (src cls wt : Nat) (waits : Bool) : ChanArb :=
  let oldC := a.cls.getD src 0
  let oldW := a.weight.getD src 1
  if oldC = cls ∧ oldW = wt then a
  else
    let d := min (a.deficit.getD src 0) (min oldW wt : Nat)
    let b := { a with cls := a.cls.set src cls, weight := a.weight.set src wt, deficit := a.deficit.set src d }
    if oldC ≠ cls ∨ waits then b.toRing src cls else b

/-- The procedure of R247 on one class; a quantum costs 1. -/
def ChanArb.grantIn (waits : Nat → Bool) (cls : Nat) : Nat → ChanArb → ChanArb
  | 0, a => { a with granted := none }
  | fuel + 1, a =>
    match a.rings.getD cls [] with
    | [] => { a with granted := none }
    | i :: _ =>
      let d := a.deficit.getD i 0
      if !waits i then ChanArb.grantIn waits cls fuel ({ a with deficit := a.deficit.set i 0 }.toRing i cls)
      else if d < 1 then
        let e := d + (a.weight.getD i 1 : Int)
        let b := { a with deficit := a.deficit.set i e }
        ChanArb.grantIn waits cls fuel (if e < 1 then b.toRing i cls else b)
      else
        let b := { a with deficit := a.deficit.set i (d - 1), granted := some i }
        if d - 1 < 1 then b.toRing i cls else b

/-- One decision over the sources with a request waiting. -/
def ChanArb.decide (a : ChanArb) (waits : Nat → Bool) : ChanArb :=
  match (List.range 4).find? (fun c => (a.rings.getD c []).any waits) with
  | some c => a.grantIn waits c 40
  | none => { a with granted := none }

/-- Note since when each source waits. -/
def ChanArb.noteWaits (a : ChanArb) (waits : Nat → Bool) (now : Time) : ChanArb :=
  { a with since := (List.range 5).map (fun i => if waits i then some ((a.since.getD i none).getD now) else none) }

/-- The arbiter of a channel decides: bit n of `waiting` is source n. Log 104 (DEDUCED). -/
def State.chanGrant (s : State) (ch waiting : Nat) : State :=
  let waits := fun (i : Nat) => i < 5 && bitAt waiting i
  let a := ((s.media.arb.find? (fun e => e.1 == ch)).map (·.2)).getD {}
  let a := a.noteWaits waits s.uptime
  let a := (List.range 5).foldl (fun (b : ChanArb) i => b.adopt i (s.arbClass b i) (s.arbWeight i) (waits i)) a
  let a := a.decide waits
  let a := match a.granted with
    | some i => { a with since := a.since.set i none }
    | none => a
  { s with media := { s.media with arb := s.media.arb.filter (fun e => e.1 != ch) ++ [(ch, a)] } }

/-- FLASH_CHANNEL_GRANT (R323). Log 104 (DEDUCED). -/
def execFlashChannelGrant (ch waiting : Nat) (s : State) : Result :=
  .next (if s.isCard && ch < 8 && s.alive && s.coreRuns && !s.safe && !s.fenced (.channel ch) && waiting % 32 != 0 then
    s.chanGrant ch waiting else s)

/-! ## Commands of registers and timers -/

/-- RETIRE_GO (R335). -/
def execRetireGo (lun : Nat) (s : State) : Result :=
  .next (if s.isCard && s.pageTakes pMED then (s.touchPage pMED).medCtrl (lun % 128 + 128) else s)

/-- SCAN_NOW (R334). -/
def execScanNow (s : State) : Result :=
  .next (if s.isCard && s.pageTakes pMED then (s.touchPage pMED).medCtrl 256 else s)

/-- CKPT_NOW (R364). -/
def execCkptNow (s : State) : Result :=
  .next (if s.isCard && s.pageTakes pTRE then (s.touchPage pTRE).treCtrl 1 else s)

/-- LIFE_RECORD_REWRITE (R449): at most every 10 s. -/
def execLifeRecordRewrite (s : State) : Result :=
  .next (if s.isCard && s.up && !s.safe && 10000000 ≤ s.since s.life.last then s.writeLife else s)

end Sys2Proof.Machine
end

