-- ==== Sys2Proof/Machine/Processors.lean ====
section
/-! DEFINITION. The management processors (R78–R81, R444): self-checks, leases, and the standby's heartbeat. -/

namespace Sys2Proof.Machine

/-- The slot a processor loads (R444): the one the record names, or the other valid one; `slotOk` has bit n set where
slot n matches its DIGEST. -/
def State.loadImage (s : State) (slotOk : Nat) : Option Nat :=
  let run := s.fwRun
  if bitAt slotOk run then some run
  else if s.fwValid (1 - run) && bitAt slotOk (1 - run) then some (1 - run)
  else none

/-- FW_STAT shows the slot that runs (R86, R444). -/
def State.showSlot (s : State) (slot : Nat) : State :=
  let t := (s.setFld MPC_FW_STAT_RUN_SLOT slot).setFld MPC_FW_STAT_RUN_VERSION (s.fwVersion slot)
  t.setFlag MPC_FW_STAT_OTHER_VALID (t.fwValid (1 - slot))

/-- A processor passes its self-check on a slot: the first becomes ACTIVE, the other STANDBY (R78). -/
def State.mpPasses (s : State) (mp : Bool) (slot : Nat) : State :=
  if s.mpActive then (s.setFld (mpState mp) 2).fire EV_MPC_STANDBY_READY
  else ((s.mpTake mp).showSlot slot).settle

/-- MP_SELF_CHECK_DONE (R78, R444): from bring-up step 6 on. -/
def execMpSelfCheckDone (mp pass : Bool) (slotOk : Nat) (s : State) : Result :=
  if s.bootStep < 6 || s.safe || !(s.mpIs mp == 1 || s.mpIs mp == 5) then .next s
  else
    .next (match s.loadImage slotOk with
      | some slot => if pass then s.mpPasses mp slot else s.faultFull (96 + mp.toNat) 0 0 false
      | none => s.faultFull (96 + mp.toNat) 0 0 false)

/-- A lease expires (R79): its processor is fenced, and a standby takes over (R80). -/
def State.expireLease (s : State) (n us : Nat) : State :=
  let holder := s.fld MPC_MP_STAT_ACTIVE
  let t := (s.setFlag (bitFld rMPC_LEASE_VALID.off n) false).setFlag (bitFld rMPC_LEASE_EXPIRED.off n) true
  let t := (t.fire EV_MPC_LEASE_EXPIRED).faultFull (98 + holder) 0 n false
  let t := if t.mpIs (holder == 1) = 3 then t.mpDown (holder == 1) else t
  (t.takeover us).settle

/-- LEASE_EXPIRY (R79, R80): `us` from the expiry to the new ACTIVE. Log 72 (DESIGN CHOICE). -/
def execLeaseExpiry (n us : Nat) (s : State) : Result :=
  .next (if n < 32 && s.alive && !s.safe && s.flag (bitFld rMPC_LEASE_VALID.off n) then s.expireLease n us else s)

/-- STANDBY_HEARTBEAT_MISS (R78). -/
def execStandbyHeartbeatMiss (s : State) : Result :=
  match [false, true].find? (fun mp => s.mpIs mp == 2) with
  | some mp => .next (if s.safe then s else (s.fire EV_MPC_STANDBY_LOST).faultFull (98 + mp.toNat) 0 0 false)
  | none => .next s

end Sys2Proof.Machine
end

