-- ==== Sys2Proof/Machine/ResetCmds.lean ====
section
/-! DEFINITION. Resets narrower than the chip, and the end of a deferral (R67–R73). -/

namespace Sys2Proof.Machine

/-- A narrow reset takes effect: of the card's Counlet engine, of a link layer, or of the PCIE island. -/
def State.narrowReset (s : State) (k : ResetKind) : State :=
  match k with
  | .crstN => s.crstFall
  | .perstN => s.perstReset
  | .link p => if s.isCard then (if s.cardLink then s.cardLinkReset.countLinkReset 0 else s) else (s.resetLink p).pump
  | _ => s

/-- Ask for a narrow reset: a reset of the chip that is in force or waits absorbs it, and it waits for the pulse or the
burn in progress (R72, R73). -/
def State.askNarrow (s : State) (k : ResetKind) (pulse : Bool) : State :=
  if s.boot.poc || s.boot.rstLow || s.absorbs k then s
  else if pulse || s.boot.fuse.isSome then s.await k
  else s.narrowReset k

/-- CRST_N_LOW (R68): `ns` the length of the low pulse; `pulse` an MRAM write pulse is in progress. -/
def execCrstNLow (ns : Nat) (pulse : Bool) (s : State) : Result :=
  let between := 200 ≤ ns && ns < 500
  let honoured := 500 ≤ ns || (between && Config.pulseHonoured s.freeCtr)
  let t := if between then s.spend else s
  .next (if honoured && s.isCard then
    ({ t with pins := { t.pins with crstHigh := false } } : State).askNarrow .crstN pulse else t)

/-- LINK_RESET_DETECT (R71): on the card SCMD was held low; what it committed stays. -/
def execLinkResetDetect (port : Nat) (pulse : Bool) (s : State) : Result :=
  .next (if port = 0 ∧ s.cardLink then s.askNarrow (.link 0) pulse else s)

/-- PERST_N_FALL (R202); `pulse` an MRAM write pulse is in progress. -/
def execPerstNFall (pulse : Bool) (s : State) : Result :=
  if !s.pins.perstHigh then .next s
  else
    let t : State := { s with pins := { s.pins with perstHigh := false } }
    .next (if s.isDock && 1 ≤ s.bootStep then t.askNarrow .perstN pulse else t)

/-- RESET_DEFER_END (R72): the pulse or the burn has ended `tenNs` × 10 ns after the reset arrived, and what waits takes
effect; in the safe state a reset of the chip by software or by the watchdog has none (R75). Log 36 (DEDUCED). -/
def execResetDeferEnd (tenNs : Nat) (s : State) : Result :=
  if s.boot.waiting.isEmpty then .next s
  else
    let byFuse := s.boot.fuse.isSome
    let d := min 1200 tenNs
    let t := s.endBurn
    let t := if t.fld RST_DEFER_MAX_LONGEST < d then
        (t.setFld RST_DEFER_MAX_LONGEST d).setFlag RST_DEFER_MAX_BY_FUSE byFuse else t
    let t : State := { t with boot := { t.boot with waiting := [] } }
    let may := s.boot.waiting.filter (fun k => !s.safe || k == .rstN || !k.chip)
    .next (match may.find? ResetKind.chip with
      | some k => t.takeReset k true
      | none => may.foldl State.narrowReset t)

end Sys2Proof.Machine
end

