-- ==== Sys2Proof/Machine/Dispatch.lean ====
section
/-! DEFINITION. The command dispatch: one arm per constructor of `Instr`. -/

namespace Sys2Proof.Machine

/-- Log 2 (DESIGN CHOICE). -/
def exec (i : Instr) (s : State) : Host.Outcome State Fault Refusal :=
  match i with
  | .supplyLoss served torn hurt => Sys2Proof.Machine.execSupplyLoss served torn hurt s
  | .powerOnClearRelease => Sys2Proof.Machine.execPowerOnClearRelease s
  | .rstNLow ns served pulse => Sys2Proof.Machine.execRstNLow ns served pulse s
  | .rstNRelease => Sys2Proof.Machine.execRstNRelease s
  | .resetDeferEnd tenNs => Sys2Proof.Machine.execResetDeferEnd tenNs s
  | .roleSelChange level => Sys2Proof.Machine.execRoleSelChange level s
  | .bringupStepDone e => Sys2Proof.Machine.execBringupStepDone e s
  | .chipRst key served pulse => Sys2Proof.Machine.execChipRst key served pulse s
  | .bridgeTimeout waiting far => Sys2Proof.Machine.execBridgeTimeout waiting far s
  | .islandResetDone isl => Sys2Proof.Machine.execIslandResetDone isl s
  | .islandIdleGate isl gate => Sys2Proof.Machine.execIslandIdleGate isl gate s
  | .pllLockLoss => Sys2Proof.Machine.execPllLockLoss s
  | .pllRelockResult locked => Sys2Proof.Machine.execPllRelockResult locked s
  | .oscMeasure aonKhz flt100Khz xin => Sys2Proof.Machine.execOscMeasure aonKhz flt100Khz xin s
  | .blkRstReq page => Sys2Proof.Machine.execBlkRstReq page s
  | .blockResetDone page => Sys2Proof.Machine.execBlockResetDone page s
  | .pgCtrlEnable page on => Sys2Proof.Machine.execPgCtrlEnable page on s
  | .quiesceReq page on => Sys2Proof.Machine.execQuiesceReq page on s
  | .blockQuiesced page => Sys2Proof.Machine.execBlockQuiesced page s
  | .fenceReq page on => Sys2Proof.Machine.execFenceReq page on s
  | .pgLock page => Sys2Proof.Machine.execPgLock page s
  | .evtPendClear page mask => Sys2Proof.Machine.execEvtPendClear page mask s
  | .evtMaskWrite page mask => Sys2Proof.Machine.execEvtMaskWrite page mask s
  | .evtSet page mask => Sys2Proof.Machine.execEvtSet page mask s
  | .injArm page key => Sys2Proof.Machine.execInjArm page key s
  | .injArmExpiry page => Sys2Proof.Machine.execInjArmExpiry page s
  | .injCtrl page word => Sys2Proof.Machine.execInjCtrl page word s
  | .ringTail index => Sys2Proof.Machine.execRingTail index s
  | .ringClr key => Sys2Proof.Machine.execRingClr key s
  | .uptimeLoRead path off bytes => Sys2Proof.Machine.execUptimeLoRead path off bytes s
  | .uptimeWrap => Sys2Proof.Machine.execUptimeWrap s
  | .gpioEdge levels => Sys2Proof.Machine.execGpioEdge levels s
  | .registerWrite path off value be => Sys2Proof.Machine.execRegisterWrite path off value be s
  | .i2cWrite bytes => Sys2Proof.Machine.execI2cWrite bytes s
  | .i2cRead n => Sys2Proof.Machine.execI2cRead n s
  | .jtagInstruction code scan => Sys2Proof.Machine.execJtagInstruction code scan s
  | .leaseExpiry n us => Sys2Proof.Machine.execLeaseExpiry n us s
  | .standbyHeartbeatMiss => Sys2Proof.Machine.execStandbyHeartbeatMiss s
  | .mpSelfCheckDone mp pass slotOk => Sys2Proof.Machine.execMpSelfCheckDone mp pass slotOk s
  | .mpWatchdogExpiry served pulse => Sys2Proof.Machine.execMpWatchdogExpiry served pulse s
  | .faultDetected src x syn injected => Sys2Proof.Machine.execFaultDetected src x syn injected s
  | .fenceActionDone src holds => Sys2Proof.Machine.execFenceActionDone src holds s
  | .lullExpiry src => Sys2Proof.Machine.execLullExpiry src s
  | .fltClearSource key src => Sys2Proof.Machine.execFltClearSource key src s
  | .fltClearAll key => Sys2Proof.Machine.execFltClearAll key s
  | .tamperLoopWord halves served => Sys2Proof.Machine.execTamperLoopWord halves served s
  | .tamperSwitchOpen served => Sys2Proof.Machine.execTamperSwitchOpen served s
  | .tamperAck seq pw switchLow => Sys2Proof.Machine.execTamperAck seq pw switchLow s
  | .tmpCtrlClear word switchLow => Sys2Proof.Machine.execTmpCtrlClear word switchLow s
  | .thsSample t0 t1 t2 t3 => Sys2Proof.Machine.execThsSample t0 t1 t2 t3 s
  | .spDoze c => Sys2Proof.Machine.execSpDoze c s
  | .pwrCtrlDoze word => Sys2Proof.Machine.execPwrCtrlDoze word s
  | .dozeEntryDone ms => Sys2Proof.Machine.execDozeEntryDone ms s
  | .dozeWake cause => Sys2Proof.Machine.execDozeWake cause s
  | .dozeWakeDone us => Sys2Proof.Machine.execDozeWakeDone us s
  | .crstNLow ns pulse => Sys2Proof.Machine.execCrstNLow ns pulse s
  | .crstNRelease => Sys2Proof.Machine.execCrstNRelease s
  | .answerToReset => Sys2Proof.Machine.execAnswerToReset s
  | .ppsRequest pps0 pps1 pck => Sys2Proof.Machine.execPpsRequest pps0 pps1 pck s
  | .charWaitTimeout port op index => Sys2Proof.Machine.execCharWaitTimeout port op index s
  | .counletBadFrame port refused parity op index bytes => Sys2Proof.Machine.execCounletBadFrame port refused parity op index bytes s
  | .counletRepeatedRequest op seq => Sys2Proof.Machine.execCounletRepeatedRequest op seq s
  | .counletIdent seq => Sys2Proof.Machine.execCounletIdent seq s
  | .counletStatus seq => Sys2Proof.Machine.execCounletStatus seq s
  | .counletHealth seq => Sys2Proof.Machine.execCounletHealth seq s
  | .histRead seq start count => Sys2Proof.Machine.execHistRead seq start count s
  | .counletLockSet seq scope action old new => Sys2Proof.Machine.execCounletLockSet seq scope action old new s
  | .counletUnlock seq scope pw => Sys2Proof.Machine.execCounletUnlock seq scope pw s
  | .forceEraseArm seq serial => Sys2Proof.Machine.execForceEraseArm seq serial s
  | .forceEraseConfirm seq token serial => Sys2Proof.Machine.execForceEraseConfirm seq token serial s
  | .eraseArmExpiry => Sys2Proof.Machine.execEraseArmExpiry s
  | .forceEraseBackground blocks => Sys2Proof.Machine.execForceEraseBackground blocks s
  | .pairBeginProve seq stepping nonce => Sys2Proof.Machine.execPairBeginProve seq stepping nonce s
  | .pairBeginEnrol seq slot stepping nonce => Sys2Proof.Machine.execPairBeginEnrol seq slot stepping nonce s
  | .pairProofProve seq proof => Sys2Proof.Machine.execPairProofProve seq proof s
  | .pairProofEnrol seq key => Sys2Proof.Machine.execPairProofEnrol seq key s
  | .pairDrop seq slot => Sys2Proof.Machine.execPairDrop seq slot s
  | .counletRegRd seq off => Sys2Proof.Machine.execCounletRegRd seq off s
  | .fwSlotWrite seq control off data => Sys2Proof.Machine.execFwSlotWrite seq control off data s
  | .counletLinkReset seq => Sys2Proof.Machine.execCounletLinkReset seq s
  | .cardInsertion port => Sys2Proof.Machine.execCardInsertion port s
  | .insDelayExpiry port => Sys2Proof.Machine.execInsDelayExpiry port s
  | .atrReceived port bytes => Sys2Proof.Machine.execAtrReceived port bytes s
  | .atrTimeout port => Sys2Proof.Machine.execAtrTimeout port s
  | .linkupRetryExpiry port => Sys2Proof.Machine.execLinkupRetryExpiry port s
  | .dockCounletResponse port op seq payload => Sys2Proof.Machine.execDockCounletResponse port op seq payload s
  | .mbxGo port op len => Sys2Proof.Machine.execMbxGo port op len s
  | .mbxResponse port op seq payload => Sys2Proof.Machine.execMbxResponse port op seq payload s
  | .mbxRespTimeout port => Sys2Proof.Machine.execMbxRespTimeout port s
  | .cnRestart port => Sys2Proof.Machine.execCnRestart port s
  | .enrolReq port slot => Sys2Proof.Machine.execEnrolReq port slot s
  | .holdReset port on => Sys2Proof.Machine.execHoldReset port on s
  | .cardRemoval port highUs => Sys2Proof.Machine.execCardRemoval port highUs s
  | .relinkExpiry port => Sys2Proof.Machine.execRelinkExpiry port s
  | .linkResetDetect port pulse => Sys2Proof.Machine.execLinkResetDetect port pulse s
  | .spantoenBadFrame port => Sys2Proof.Machine.execSpantoenBadFrame port s
  | .spantoenUnknownOp op c => Sys2Proof.Machine.execSpantoenUnknownOp op c s
  | .duplicateFc op c => Sys2Proof.Machine.execDuplicateFc op c s
  | .spPing c => Sys2Proof.Machine.execSpPing c s
  | .spIdentify c => Sys2Proof.Machine.execSpIdentify c s
  | .spRead c env => Sys2Proof.Machine.execSpRead c env s
  | .spWrite c => Sys2Proof.Machine.execSpWrite c s
  | .hostUnitReceived u readback lat env => Sys2Proof.Machine.execHostUnitReceived u readback lat env s
  | .spDiscard c readback => Sys2Proof.Machine.execSpDiscard c readback s
  | .spBarrier c => Sys2Proof.Machine.execSpBarrier c s
  | .spSettle c => Sys2Proof.Machine.execSpSettle c s
  | .settleComplete tag => Sys2Proof.Machine.execSettleComplete tag s
  | .segOpen c => Sys2Proof.Machine.execSegOpen c s
  | .segClose c => Sys2Proof.Machine.execSegClose c s
  | .segVerify c u env => Sys2Proof.Machine.execSegVerify c u env s
  | .regRd c => Sys2Proof.Machine.execRegRd c s
  | .regWr c u => Sys2Proof.Machine.execRegWr c u s
  | .tuneRd c => Sys2Proof.Machine.execTuneRd c s
  | .tuneWr c frames => Sys2Proof.Machine.execTuneWr c frames s
  | .speedSet c => Sys2Proof.Machine.execSpeedSet c s
  | .linkKey c => Sys2Proof.Machine.execLinkKey c s
  | .instCfgCreate c u => Sys2Proof.Machine.execInstCfgCreate c u s
  | .instCfgResize c u => Sys2Proof.Machine.execInstCfgResize c u s
  | .instCfgSched c u => Sys2Proof.Machine.execInstCfgSched c u s
  | .instCfgDelete c u => Sys2Proof.Machine.execInstCfgDelete c u s
  | .instCfgReclaim c u => Sys2Proof.Machine.execInstCfgReclaim c u s
  | .spHealth c => Sys2Proof.Machine.execSpHealth c s
  | .logRead c => Sys2Proof.Machine.execLogRead c s
  | .fwStage c => Sys2Proof.Machine.execFwStage c s
  | .fwActivate c => Sys2Proof.Machine.execFwActivate c s
  | .activationSelfCheckDone pass leaseKept => Sys2Proof.Machine.execActivationSelfCheckDone pass leaseKept s
  | .floorBurn => Sys2Proof.Machine.execFloorBurn s
  | .fuseBurnDone => Sys2Proof.Machine.execFuseBurnDone s
  | .lockCtlLockSet c u => Sys2Proof.Machine.execLockCtlLockSet c u s
  | .lockCtlUnlock c u => Sys2Proof.Machine.execLockCtlUnlock c u s
  | .spantoenForceEraseArm c => Sys2Proof.Machine.execSpantoenForceEraseArm c s
  | .spantoenForceEraseConfirm c => Sys2Proof.Machine.execSpantoenForceEraseConfirm c s
  | .statusFrameReceived port good token ntoken => Sys2Proof.Machine.execStatusFrameReceived port good token ntoken s
  | .tokenWaitExpiry port => Sys2Proof.Machine.execTokenWaitExpiry port s
  | .dockRetrain port sweep => Sys2Proof.Machine.execDockRetrain port sweep s
  | .responseReceived port r => Sys2Proof.Machine.execResponseReceived port r s
  | .cardUnitReceived port tag index u => Sys2Proof.Machine.execCardUnitReceived port tag index u s
  | .pingInterval port => Sys2Proof.Machine.execPingInterval port s
  | .responseTimeout port => Sys2Proof.Machine.execResponseTimeout port s
  | .sclkStop port => Sys2Proof.Machine.execSclkStop port s
  | .cardClkStopDetect => Sys2Proof.Machine.execCardClkStopDetect s
  | .autoRetune port sweep => Sys2Proof.Machine.execAutoRetune port sweep s
  | .tunePort port mode sweep => Sys2Proof.Machine.execTunePort port mode sweep s
  | .autoRekey port => Sys2Proof.Machine.execAutoRekey port s
  | .retrain port => Sys2Proof.Machine.execRetrain port s
  | .linkReset port => Sys2Proof.Machine.execLinkReset port s
  | .retune port => Sys2Proof.Machine.execRetune port s
  | .rekey port => Sys2Proof.Machine.execRekey port s
  | .endSession port => Sys2Proof.Machine.execEndSession port s
  | .perstNFall pulse => Sys2Proof.Machine.execPerstNFall pulse s
  | .perstNRise => Sys2Proof.Machine.execPerstNRise s
  | .pcieLinkChange speed width up ltssm => Sys2Proof.Machine.execPcieLinkChange speed width up ltssm s
  | .pceFlr fn => Sys2Proof.Machine.execPceFlr fn s
  | .vfEnable on num ari => Sys2Proof.Machine.execVfEnable on num ari s
  | .sqDoorbell fn sq value => Sys2Proof.Machine.execSqDoorbell fn sq value s
  | .cqDoorbell fn cq value => Sys2Proof.Machine.execCqDoorbell fn cq value s
  | .sqFetch inst sq => Sys2Proof.Machine.execSqFetch inst sq s
  | .qosGrant => Sys2Proof.Machine.execQosGrant s
  | .dockWrite inst sq cid => Sys2Proof.Machine.execDockWrite inst sq cid s
  | .dockRead inst sq cid => Sys2Proof.Machine.execDockRead inst sq cid s
  | .dockForwardCommand inst sq cid => Sys2Proof.Machine.execDockForwardCommand inst sq cid s
  | .dockPing inst sq cid => Sys2Proof.Machine.execDockPing inst sq cid s
  | .dockBarrier inst sq cid => Sys2Proof.Machine.execDockBarrier inst sq cid s
  | .dockOpcodeRefused inst sq cid => Sys2Proof.Machine.execDockOpcodeRefused inst sq cid s
  | .cqCoalesceTimer inst cq => Sys2Proof.Machine.execCqCoalesceTimer inst cq s
  | .bridgeBusyResend port => Sys2Proof.Machine.execBridgeBusyResend port s
  | .brgMode sq cid => Sys2Proof.Machine.execBrgMode sq cid s
  | .portDrain sq cid => Sys2Proof.Machine.execPortDrain sq cid s
  | .portDrainResume sq cid => Sys2Proof.Machine.execPortDrainResume sq cid s
  | .instQuiesceQuiesce sq cid => Sys2Proof.Machine.execInstQuiesceQuiesce sq cid s
  | .instQuiesceResume sq cid => Sys2Proof.Machine.execInstQuiesceResume sq cid s
  | .instQuiesceReclaim sq cid => Sys2Proof.Machine.execInstQuiesceReclaim sq cid s
  | .instanceQuiesced inst => Sys2Proof.Machine.execInstanceQuiesced inst s
  | .invalGo word => Sys2Proof.Machine.execInvalGo word s
  | .invalidationDone => Sys2Proof.Machine.execInvalidationDone s
  | .qosSchedWrite inst word => Sys2Proof.Machine.execQosSchedWrite inst word s
  | .brgSwitch key => Sys2Proof.Machine.execBrgSwitch key s
  | .resumeCarry key => Sys2Proof.Machine.execResumeCarry key s
  | .dropBlocked key => Sys2Proof.Machine.execDropBlocked key s
  | .dropTrack key t => Sys2Proof.Machine.execDropTrack key t s
  | .resyncChunk t => Sys2Proof.Machine.execResyncChunk t s
  | .bridgeReplayDelivery port => Sys2Proof.Machine.execBridgeReplayDelivery port s
  | .dfwBegin key slot => Sys2Proof.Machine.execDfwBegin key slot s
  | .dfwData word => Sys2Proof.Machine.execDfwData word s
  | .dfwEnd key => Sys2Proof.Machine.execDfwEnd key s
  | .dfwActivate key slot => Sys2Proof.Machine.execDfwActivate key slot s
  | .pairGen key => Sys2Proof.Machine.execPairGen key s
  | .pairImport key => Sys2Proof.Machine.execPairImport key s
  | .importTimeout => Sys2Proof.Machine.execImportTimeout s
  | .relock key scope => Sys2Proof.Machine.execRelock key scope s
  | .retireGo lun => Sys2Proof.Machine.execRetireGo lun s
  | .scanNow => Sys2Proof.Machine.execScanNow s
  | .ckptNow => Sys2Proof.Machine.execCkptNow s
  | .recordPlacement seq loc => Sys2Proof.Machine.execRecordPlacement seq loc s
  | .flashChannelGrant ch waiting => Sys2Proof.Machine.execFlashChannelGrant ch waiting s
  | .flashOpComplete lun ok => Sys2Proof.Machine.execFlashOpComplete lun ok s
  | .recordRelease seq => Sys2Proof.Machine.execRecordRelease seq s
  | .anchorRewrite => Sys2Proof.Machine.execAnchorRewrite s
  | .deltaLineWrite => Sys2Proof.Machine.execDeltaLineWrite s
  | .mapWriteback page => Sys2Proof.Machine.execMapWriteback page s
  | .checkpoint => Sys2Proof.Machine.execCheckpoint s
  | .pagePadTimer half => Sys2Proof.Machine.execPagePadTimer half s
  | .superblockVerify k => Sys2Proof.Machine.execSuperblockVerify k s
  | .wearMove => Sys2Proof.Machine.execWearMove s
  | .medReclaim half => Sys2Proof.Machine.execMedReclaim half s
  | .readRefresh k => Sys2Proof.Machine.execReadRefresh k s
  | .retentionScan reads => Sys2Proof.Machine.execRetentionScan reads s
  | .readCountFlush => Sys2Proof.Machine.execReadCountFlush s
  | .dieTimeout lun ready busHeld read => Sys2Proof.Machine.execDieTimeout lun ready busHeld read s
  | .lndScrub => Sys2Proof.Machine.execLndScrub s
  | .lifeRecordRewrite => Sys2Proof.Machine.execLifeRecordRewrite s
  | .lullWindowEnd src => Sys2Proof.Machine.execLullWindowEnd src s
  | .keyQuiesceHoldExpiry => Sys2Proof.Machine.execKeyQuiesceHoldExpiry s
  | .clkstopAll => Sys2Proof.Machine.execClkstopAll s
  | .pcieReadCompletion id r => Sys2Proof.Machine.execPcieReadCompletion id r s
  | .completionTimeout id => Sys2Proof.Machine.execCompletionTimeout id s
  | .flrDone fn => Sys2Proof.Machine.execFlrDone fn s
  | .qosBucketRefill => Sys2Proof.Machine.execQosBucketRefill s

end Sys2Proof.Machine
end

