-- ==== Sys2Proof/Machine/Tick.lean ====
section
/-! DEFINITION. What passes with time and no command brings: one microsecond of the uptime, the BREEZE square wave,
the watchdog's count, and the seconds counted in DOZE and in a retention scan (R82, R84, R334, R419, R440). -/

namespace Sys2Proof.Machine

/-- The BREEZE rate as it acts. -/
def State.breezeRate (s : State) : Nat := max 100 (min 10000 (s.fld FLT_BREEZE_CFG_RATE))

/-- The BREEZE toggles (R419): not in the safe state, no lease expired, and no STATUS set where that freezes it. -/
def State.breezeRuns (s : State) : Bool :=
  s.up && !s.safe && s.fld MPC_LEASE_VALID_VALID == 2 ^ 32 - 1 &&
  !(s.flag FLT_BREEZE_CFG_FREEZE_ON_FAULT && s.anyStatus)

/-- Half periods of the BREEZE in the first `us` microseconds. -/
def State.halfPeriods (s : State) (us : Nat) : Nat := 2 * s.breezeRate * us / 1000000

/-- The BREEZE over the microsecond that begins at `us`. -/
def State.breezeTick (s : State) (us : Nat) : State :=
  if s.breezeRuns && s.halfPeriods us != s.halfPeriods (us + 1) then { s with flt := { s.flt with breeze := !s.flt.breeze } }
  else s

/-- A millisecond of the MP watchdog, which resets the chip when its count reaches the period (R82).
Log 49 (DEDUCED). -/
def State.wdogTick (s : State) : State :=
  if !s.up || s.safe || 2 ≤ s.powerState then s
  else if s.mpServes then s.setFld MPC_WDOG_STAT_COUNT_MS 0
  else
    let t := s.bump MPC_WDOG_STAT_COUNT_MS
    if t.wdogDue then t.askReset .mpWdog false else t

/-- A second in DOZE, and of a retention scan. -/
def State.secondTick (s : State) : State :=
  let t := if s.powerState = 3 then s.bump PWR_DOZE_TIME_SECONDS else s
  if t.media.scanning && t.isCard && t.up then { t with media := { t.media with scanSecs := t.media.scanSecs + 1 } } else t

/-- One microsecond passes; none is counted while the power-on clear is in force.
Log 3 (DESIGN CHOICE), 8 (DESIGN CHOICE). -/
def State.tick (s : State) : State :=
  if s.boot.poc then s
  else
    let us := s.uptime.toNat
    let t : State := if us + 1 = 2 ^ 40 then s.wrapUptime else { s with uptime := s.uptime + 1 }
    let t := t.breezeTick us
    let t := if (us + 1) % 1000 = 0 then t.wdogTick else t
    if (us + 1) % 1000000 = 0 then t.secondTick else t

end Sys2Proof.Machine
end

