-- ==== Sys2Proof/WellFormed.lean ====
section
/-! DEFINITION. Well-formed commands: every operand lies in the range its field has in the spec (a port is A or B,
an instance 0 to 15, a frame field as wide as its frame gives it).  A meaning reduces an operand outside its range to
its field or does nothing; the check says which terms stand for something the outside world can send. -/

namespace Sys2Proof

/-- A word offset of the register window (R87, R89). -/
def offOk (off : Nat) : Bool := off < 2 ^ 20 && off % 4 == 0

/-- A command frame's fields (R174). -/
def Cmd.wf (c : Cmd) : Bool :=
  c.inst < 16 && c.tag < 256 && c.arg < 2 ^ 48 && c.epoch < 4 && c.mac < 2 ^ 24

/-- A unit: eight line frames of 514 bytes and a 16-bit check (R152). -/
def UnitIn.wf (u : UnitIn) : Bool := u.lines.length == 8 && u.lines.all (fun l => l.bytes.length == 514 && l.check < 65536)

/-- A response with its card status frame (R176, R178). -/
def RespIn.wf (r : RespIn) : Bool :=
  r.tag < 256 && r.st < 256 && r.info < 65536 && r.flags < 64 && r.kind < 4 && r.token < 256 && r.rseq < 256 &&
  r.rmac < 2 ^ 24

/-- The bits of at most eight words of 64 bits, and the words that do not read (R25). -/
def TornLine.wf (t : TornLine) : Bool := t.masks.length ≤ 8 && t.masks.all (· < 2 ^ 64) && t.bad < 256

/-- A LUN and pages of one of its blocks (R25, R317). -/
def CutBlock.wf (c : CutBlock) : Bool := c.lun < 128 && c.pages.all (· < 4096)

/-- What the flash path answers for one unit (R324, R355). -/
def MediaRead.wf (m : MediaRead) : Bool :=
  m.ladder < 4 && m.step < 16 && (match m.other with
    | some x => x.1.length == 4096 && x.2.length == 32
    | none => true)

/-- Tuning frames of eight lines, of 258 bits (R158). -/
def framesOk (f : List Nat) : Bool := f.length == 8 && f.all (· < 2 ^ 258)

/-- 64 taps (R158, R161). -/
def Sweep.wf (s : Sweep) : Bool :=
  s.rd.length == 64 && s.rd.all framesOk && s.wr.length == 64 && s.wr.all (· < 65536) && s.finalInfo < 65536

/-- A register of the configuration space (R201, R204). -/
def CfgReg.wf : CfgReg → Bool
  | .aerHeader i => i < 4
  | _ => true

/-- A VF path names one of the VFs 1 to 15, and a configuration register a function 0 to 15 (R88, R201). -/
def Path.wf : Path → Bool
  | .vf n => 1 ≤ n && n < 16
  | .cfg fn r => fn < 16 && r.wf
  | .pf => true
  | .pf2 => true
  | .link => true
  | .counlet => true

/-- A read takes one, two or four bytes, or a word pair (R89). -/
def accessOk (off bytes : Nat) : Bool :=
  off < 2 ^ 20 && [1, 2, 4, 8].contains bytes && off % bytes == 0

/-- A LUN's good system blocks are among blocks 0 to 3 of its LUN (R443). -/
def LunIn.wf (l : LunIn) : Bool := l.sys.all (· < 4)

/-- Every operand lies in its range. -/
def Instr.wf (c : Instr) : Bool :=
  match c with
  | .supplyLoss _ torn hurt => torn.all TornLine.wf && hurt.all CutBlock.wf
  | .powerOnClearRelease => true
  | .rstNLow _ _ _ => true
  | .rstNRelease => true
  | .resetDeferEnd _ => true
  | .roleSelChange _ => true
  | .bringupStepDone e => e.luns.all LunIn.wf
  | .chipRst key _ _ => key < 65536
  | .bridgeTimeout waiting far => waiting < 21 && far < 21
  | .islandResetDone isl => isl < 21
  | .islandIdleGate i _ => i < 21
  | .pllLockLoss => true
  | .pllRelockResult _ => true
  | .oscMeasure _ _ _ => true
  | .blkRstReq page => page < 256
  | .blockResetDone page => page < 256
  | .pgCtrlEnable page _ => page < 256
  | .quiesceReq page _ => page < 256
  | .blockQuiesced page => page < 256
  | .fenceReq page _ => page < 256
  | .pgLock page => page < 256
  | .evtPendClear page mask => page < 256 && mask < 2 ^ 32
  | .evtMaskWrite page mask => page < 256 && mask < 2 ^ 32
  | .evtSet page mask => page < 256 && mask < 2 ^ 32
  | .injArm page key => page < 256 && key < 65536
  | .injArmExpiry page => page < 256
  | .injCtrl page word => page < 256 && word < 2 ^ 32
  | .ringTail index => index < 2 ^ 16
  | .ringClr key => key < 65536
  | .uptimeLoRead path off bytes => path.wf && accessOk off bytes
  | .uptimeWrap => true
  | .gpioEdge levels => levels < 16
  | .registerWrite path off value be => path.wf && offOk off && value < 2 ^ 64 && be < 256
  | .i2cWrite bytes => bytes.all (· < 256)
  | .i2cRead _ => true
  | .jtagInstruction code _ => code < 16
  | .leaseExpiry n _ => n < 32
  | .standbyHeartbeatMiss => true
  | .mpSelfCheckDone _ _ slotOk => slotOk < 4
  | .mpWatchdogExpiry _ _ => true
  | .faultDetected src _ syn _ => src < 128 && syn < 2 ^ 32
  | .fenceActionDone src _ => src < 128
  | .lullExpiry src => src < 128
  | .fltClearSource key src => key < 65536 && src < 128
  | .fltClearAll key => key < 65536
  | .tamperLoopWord halves _ => halves < 2 ^ 32
  | .tamperSwitchOpen _ => true
  | .tamperAck seq pw _ => seq < 256 && pw.length < 255
  | .tmpCtrlClear word _ => word < 2 ^ 32
  | .thsSample _ _ _ _ => true
  | .spDoze c => c.wf
  | .pwrCtrlDoze word => word < 2 ^ 32
  | .dozeEntryDone _ => true
  | .dozeWake cause => 1 ≤ cause && cause < 5
  | .dozeWakeDone _ => true
  | .crstNLow _ _ => true
  | .crstNRelease => true
  | .answerToReset => true
  | .ppsRequest pps0 pps1 pck => pps0 < 256 && pps1 < 256 && pck < 256
  | .charWaitTimeout port op index => port < 2 && op < 256 && index < 256
  | .counletBadFrame port refused parity op index _ => port < 2 && refused < 16 && parity < 65536 && op < 256 && index < 256
  | .counletRepeatedRequest op seq => op < 256 && seq < 256
  | .counletIdent seq => seq < 256
  | .counletStatus seq => seq < 256
  | .counletHealth seq => seq < 256
  | .histRead seq start count => seq < 256 && start < 256 && count < 256
  | .counletLockSet seq scope action old new => seq < 256 && scope < 256 && action < 256 && old.length + new.length ≤ 251
  | .counletUnlock seq scope pw => seq < 256 && scope < 256 && pw.length ≤ 253
  | .forceEraseArm seq serial => seq < 256 && serial < 2 ^ 64
  | .forceEraseConfirm seq token serial => seq < 256 && token < 2 ^ 32 && serial < 2 ^ 64
  | .eraseArmExpiry => true
  | .forceEraseBackground _ => true
  | .pairBeginProve seq stepping nonce => seq < 256 && stepping < 256 && nonce.length == 16
  | .pairBeginEnrol seq slot stepping nonce => seq < 256 && slot < 256 && stepping < 256 && nonce.length == 16
  | .pairProofProve seq proof => seq < 256 && proof.length == 32
  | .pairProofEnrol seq key => seq < 256 && key.length == 32
  | .pairDrop seq slot => seq < 256 && slot < 256
  | .counletRegRd seq off => seq < 256 && off < 2 ^ 32
  | .fwSlotWrite seq control off data => seq < 256 && control < 256 && off < 2 ^ 24 && data.length ≤ 251
  | .counletLinkReset seq => seq < 256
  | .cardInsertion port => port < 2
  | .insDelayExpiry port => port < 2
  | .atrReceived port _ => port < 2
  | .atrTimeout port => port < 2
  | .linkupRetryExpiry port => port < 2
  | .dockCounletResponse port op seq payload => port < 2 && op < 256 && seq < 256 && payload.length < 256
  | .mbxGo port op len => port < 2 && op < 256 && len < 256
  | .mbxResponse port op seq payload => port < 2 && op < 256 && seq < 256 && payload.length < 256
  | .mbxRespTimeout port => port < 2
  | .cnRestart port => port < 2
  | .enrolReq port slot => port < 2 && slot < 2
  | .holdReset port _ => port < 2
  | .cardRemoval port _ => port < 2
  | .relinkExpiry port => port < 2
  | .linkResetDetect port _ => port < 2
  | .spantoenBadFrame port => port < 2
  | .spantoenUnknownOp op c => op < 256 && c.wf
  | .duplicateFc op c => op < 256 && c.wf
  | .spPing c => c.wf
  | .spIdentify c => c.wf
  | .spRead c env => c.wf && env.all MediaRead.wf
  | .spWrite c => c.wf
  | .hostUnitReceived u _ _ env => u.wf && env.all MediaRead.wf
  | .spDiscard c _ => c.wf
  | .spBarrier c => c.wf
  | .spSettle c => c.wf
  | .settleComplete tag => tag < 256
  | .segOpen c => c.wf
  | .segClose c => c.wf
  | .segVerify c u env => c.wf && u.wf && env.all MediaRead.wf
  | .regRd c => c.wf
  | .regWr c u => c.wf && u.wf
  | .tuneRd c => c.wf
  | .tuneWr c frames => c.wf && framesOk frames
  | .speedSet c => c.wf
  | .linkKey c => c.wf
  | .instCfgCreate c u => c.wf && u.wf
  | .instCfgResize c u => c.wf && u.wf
  | .instCfgSched c u => c.wf && u.wf
  | .instCfgDelete c u => c.wf && u.wf
  | .instCfgReclaim c u => c.wf && u.wf
  | .spHealth c => c.wf
  | .logRead c => c.wf
  | .fwStage c => c.wf
  | .fwActivate c => c.wf
  | .activationSelfCheckDone _ _ => true
  | .floorBurn => true
  | .fuseBurnDone => true
  | .lockCtlLockSet c u => c.wf && u.wf
  | .lockCtlUnlock c u => c.wf && u.wf
  | .spantoenForceEraseArm c => c.wf
  | .spantoenForceEraseConfirm c => c.wf
  | .statusFrameReceived port _ token ntoken => port < 2 && token < 256 && ntoken < 256
  | .tokenWaitExpiry port => port < 2
  | .dockRetrain port sweep => port < 2 && sweep.wf
  | .responseReceived port r => port < 2 && r.wf
  | .cardUnitReceived port tag index u => port < 2 && tag < 256 && index < 4096 && u.wf
  | .pingInterval port => port < 2
  | .responseTimeout port => port < 2
  | .sclkStop port => port < 2
  | .cardClkStopDetect => true
  | .autoRetune port sweep => port < 2 && sweep.wf
  | .tunePort port mode sweep => port < 2 && mode < 4 && sweep.wf
  | .autoRekey port => port < 2
  | .retrain port => port < 2
  | .linkReset port => port < 2
  | .retune port => port < 2
  | .rekey port => port < 2
  | .endSession port => port < 2
  | .perstNFall _ => true
  | .perstNRise => true
  | .pcieLinkChange speed width _ ltssm => speed < 4 && width < 4 && ltssm < 8
  | .pceFlr fn => fn < 16
  | .vfEnable _ num _ => num < 65536
  | .sqDoorbell fn sq value => fn < 16 && sq < 4 && value < 2 ^ 32
  | .cqDoorbell fn cq value => fn < 16 && cq < 2 && value < 2 ^ 32
  | .sqFetch inst sq => inst < 16 && sq < 4
  | .qosGrant => true
  | .dockWrite inst sq cid => inst < 16 && sq < 4 && cid < 65536
  | .dockRead inst sq cid => inst < 16 && sq < 4 && cid < 65536
  | .dockForwardCommand inst sq cid => inst < 16 && sq < 4 && cid < 65536
  | .dockPing inst sq cid => inst < 16 && sq < 4 && cid < 65536
  | .dockBarrier inst sq cid => inst < 16 && sq < 4 && cid < 65536
  | .dockOpcodeRefused inst sq cid => inst < 16 && sq < 4 && cid < 65536
  | .cqCoalesceTimer inst cq => inst < 16 && cq < 2
  | .bridgeBusyResend port => port < 2
  | .brgMode sq cid => sq < 4 && cid < 65536
  | .portDrain sq cid => sq < 4 && cid < 65536
  | .portDrainResume sq cid => sq < 4 && cid < 65536
  | .instQuiesceQuiesce sq cid => sq < 4 && cid < 65536
  | .instQuiesceResume sq cid => sq < 4 && cid < 65536
  | .instQuiesceReclaim sq cid => sq < 4 && cid < 65536
  | .instanceQuiesced inst => inst < 16
  | .invalGo word => word < 2 ^ 32
  | .invalidationDone => true
  | .qosSchedWrite inst word => inst < 16 && word < 2 ^ 32
  | .brgSwitch key => key < 65536
  | .resumeCarry key => key < 65536
  | .dropBlocked key => key < 65536
  | .dropTrack key t => key < 65536 && t < 2
  | .resyncChunk t => t < 2
  | .bridgeReplayDelivery port => port < 2
  | .dfwBegin key slot => key < 65536 && slot < 2
  | .dfwData word => word < 2 ^ 32
  | .dfwEnd key => key < 65536
  | .dfwActivate key slot => key < 65536 && slot < 2
  | .pairGen key => key < 65536
  | .pairImport key => key < 65536
  | .importTimeout => true
  | .relock key scope => key < 65536 && scope < 256
  | .retireGo lun => lun < 128
  | .scanNow => true
  | .ckptNow => true
  | .recordPlacement _ loc => loc < 2 ^ 32
  | .flashChannelGrant ch waiting => ch < 8 && waiting < 32
  | .flashOpComplete lun _ => lun < 128
  | .recordRelease _ => true
  | .anchorRewrite => true
  | .deltaLineWrite => true
  | .mapWriteback page => page < 2 ^ 32
  | .checkpoint => true
  | .pagePadTimer half => half < 2
  | .superblockVerify k => k < 2 ^ 29
  | .wearMove => true
  | .medReclaim half => half < 2
  | .readRefresh k => k < 2 ^ 29
  | .retentionScan reads => reads.all MediaRead.wf
  | .readCountFlush => true
  | .dieTimeout lun _ _ read => lun < 128 && read.1 < 24576 && read.2 < 508
  | .lndScrub => true
  | .lifeRecordRewrite => true
  | .lullWindowEnd src => src < 128
  | .keyQuiesceHoldExpiry => true
  | .clkstopAll => true
  | .pcieReadCompletion _ _ => true
  | .completionTimeout _ => true
  | .flrDone fn => fn < 16
  | .qosBucketRefill => true

end Sys2Proof
end

