-- ==== Sys2Proof/Safety.lean ====
section
/-! DEFINITION. What holds of a machine in order, in the terms the statements use. -/

namespace Sys2Proof

open Machine

/-- The stores stand in their canonical form: registers, MRAM, its ECC states and the fuse array each list rising
addresses, and none at the value an unlisted one reads as. -/
def Machine.State.Ok (s : State) : Prop :=
  Sparse.wf regReset s.regs = true ∧ Memory.wf s.mram = true ∧ Sparse.wf eccClean s.ecc = true ∧
  Sparse.wf otpBlank s.otp = true

/-- No fuse that `s` has burned is unburned in `t` (R342). -/
def Machine.State.KeepsFuses (s t : State) : Prop :=
  ∀ w i, (s.fuseWord w).testBit i = true → (t.fuseWord w).testBit i = true

/-- What `s` has sent stands, in its order, at the head of what `t` has sent. -/
def Machine.State.KeepsSent (s t : State) : Prop := ∃ more, t.out = s.out ++ more

/-- What every write to PG_CTRL of page `p` does first: it disarms the page's injection and takes the mark of a refused
block reset away (R76, R100). -/
def Machine.State.written (s : State) (p : Nat) : State := (s.touchPage p).clearRefused p

/-- The slot that the next record of the two-slot record at `a` and `b` goes into: the invalid or older one (R280). -/
def Machine.State.olderSlot (s : State) (a b : Nat) : Nat :=
  if (s.readTwo a b).map (·.1) = some false then b else a

/-- The generation it takes: one above that in force, 1 with none. -/
def Machine.State.newGen (s : State) (a b : Nat) : Nat := ((s.readTwo a b).map (·.2.1)).getD 0 + 1

/-- From `s` to `t` the two-slot record at `a` and `b` was rewritten: the words `ws` stand in force, in the slot that was
older and with the next generation, and every byte outside that slot is as before, as is the ECC state of every word. -/
def Machine.State.Rewrote (s t : State) (a b : Nat) (ws : List Nat) : Prop :=
  t.readTwo a b = some (s.olderSlot a b == b, s.newGen a b, (ws ++ List.replicate 6 0).take 6) ∧
  (∀ j, j < s.olderSlot a b ∨ s.olderSlot a b + 64 ≤ j → t.mramByte j = s.mramByte j) ∧
  (∀ w, w < s.olderSlot a b / 8 ∨ s.olderSlot a b / 8 + 8 ≤ w → t.eccOf w = s.eccOf w)

/-! ## A Counlet request that a card serves -/

/-- What arrives of a request of operation `op` at a card that is awake: whether the frame is whole, and the card, which
is past parameter selection (R117, R146, R433). -/
def Machine.State.cnArrived (s : State) (op : Nat) : Bool × State := (s.wake 2).shutPps.cnReceive 0 op

/-- The card as a request of operation `op` that is no repetition finds it. -/
def Machine.State.cnHeard (s : State) (op : Nat) : State := (s.cnArrived op).2.cnFirst op

/-- The card takes the request of operation `op` with this SEQ and serves it at once: it listens, the frame arrives
whole, the request is neither a repetition nor waiting already, the state bars it with no status, and nothing holds it
(R80, R117, R126, R128, R370). -/
def Machine.State.cnServes (s : State) (op seq : Nat) : Bool :=
  s.cnListens && (s.cnArrived op).1 &&
  ((s.cnArrived op).2.cnA.last.filter (fun l => l.1 == op && l.2.1 == seq % 256)).isNone &&
  !(s.cnArrived op).2.cnWaits op (seq % 256) && ((s.cnHeard op).cnBar op).isNone &&
  !(s.cnHeard op).cnHolds op (s.cnHeard op).sharedWaits

/-! ## A Spantoen command that a card takes -/

/-- What arrives of a command frame at a card: SCLK runs, a DOZE it was entering is abandoned (R434), and the frame's
CRC is checked; with whether it passes (R175, R199). -/
def Machine.State.linkArrived (s : State) : Bool × State :=
  ((if s.powerState = 2 then s.wake 1 else s).setFlag (SP_STAT_CLK_STOPPED 0) false).frameCheck 0

/-- The card as a frame that passes its CRC finds it. -/
def Machine.State.linkHeard (s : State) : State := s.linkArrived.2

/-- The card once the frame's MAC has verified (R197). -/
def Machine.State.frameHeard (s : State) : State := (s.linkHeard.injUsed (pLSE 0) 0).noteFirst

/-- The card's link runs with a session, it holds the key of the frame's epoch, and the frame's MAC, but for what an
injection inverts of it, verifies under it with the frame counter `fc` (R187, R188, R200). -/
def Machine.State.Verifies (s : State) (op : Nat) (c : Cmd) (fc : Nat) : Prop :=
  s.cardLink = true ∧ s.linkArrived.1 = true ∧ s.linkHeard.session 0 = true ∧
  ∃ key, s.linkHeard.keyAt 0 (cutCmd c).epoch = some key ∧
    fcNear (s.linkHeard.injUsed (pLSE 0) 0).spA.cmdFc (cutCmd c).tag = some fc ∧
    cmdMac key op (cutCmd c) fc = (cutCmd c).mac ^^^ s.linkHeard.injBits (pLSE 0) 0

/-- The frame is accepted: it verifies, its FC is new, and no check of R188 refuses it. -/
def Machine.State.Accepts (s : State) (op : Nat) (c : Cmd) (fc : Nat) : Prop :=
  s.Verifies op c fc ∧ s.frameHeard.spA.accepted.contains fc = false ∧
  (s.frameHeard.takesToken op (cutCmd c)).refusal op (cutCmd c) = none

/-- The card with the command accepted (R188); `aux` is as the frame's meaning gives it. -/
def Machine.State.taken (s : State) (op : Nat) (c : Cmd) (fc : Nat) (env : List MediaRead) (aux : Nat) : State :=
  (s.frameHeard.takesToken op (cutCmd c)).accept op (cutCmd c) fc env aux s.frameHeard.spA.eraseToken

/-- Nothing stops the command `o`, alone on the port, from starting at once (R80, R226, R235, R370), no Counlet request
waits (R128), and no table page has fenced an instance (R313). -/
def Machine.State.MayRun (s : State) (o : Outst) : Prop :=
  s.isCard = true ∧ s.spA.outst = [o] ∧ s.mayStart o [] = true ∧ (dataOp o.op = true → s.dataBars o = none) ∧
  s.keys.heldReq = [] ∧ s.mapS.hurt = []

/-- The frame is accepted, and its command `o` starts at once. -/
def Machine.State.Starts (s : State) (op : Nat) (c : Cmd) (fc : Nat) (env : List MediaRead) (aux : Nat)
    (o : Outst) : Prop :=
  s.Accepts op c fc ∧ (s.taken op c fc env aux).MayRun o

/-- What follows a command that has started: a unit that is ready is read out, and the commands of an instance that a
table page has just fenced end. -/
def Machine.State.goesOn (s : State) : State := s.sendNext.fenceHurt

/-- The checks of a unit's lines and of its tag have been computed (R199, R200). -/
def Machine.State.unitHeard (s : State) : State := (s.injUsed (pSP 0) 1).injUsed (pLSE 0) 1

/-- The plaintext of the unit in turn of the command `o`, where its lines pass and its tag is that of its ciphertext, both
but for what an injection inverts (R152, R186, R199, R200). -/
def Machine.State.unitPlain (s : State) (o : Outst) (u : UnitIn) : Option (List Byte) :=
  if u.mask (s.injBits (pSP 0) 1) = 0xFF then
    s.unitHeard.hostUnit o.epoch o.inst o.tag o.next o.fc u.ct ((s.injUsed (pSP 0) 1).tagOf 0 u)
  else none

/-- The card with the command accepted and its one unit taken (R180). -/
def Machine.State.withUnit (s : State) (op : Nat) (c : Cmd) (fc : Nat) (u : UnitIn) (env : List MediaRead)
    (o : Outst) : State :=
  (s.taken op c fc env 0).unitHeard.unitStored o (((s.taken op c fc env 0).unitPlain o u).getD []) true 0 env

/-- The frame is accepted as the command `o`, alone on the port; its one unit is whole and carries the tag of its
ciphertext; and the command with its unit, `q`, starts at once. -/
def Machine.State.StartsWithUnit (s : State) (op : Nat) (c : Cmd) (fc : Nat) (u : UnitIn) (env : List MediaRead)
    (o q : Outst) : Prop :=
  let t := s.taken op c fc env 0
  s.Accepts op c fc ∧ t.isCard = true ∧ t.spA.outst = [o] ∧ o.held = true ∧ t.keys.heldReq = [] ∧ t.mapS.hurt = [] ∧
  (t.unitPlain o u).isSome = true ∧ t.unitHeard.unitsSpent 0 o.epoch = false ∧ (s.withUnit op c fc u env o).MayRun q ∧
  q.held = true

end Sys2Proof
end

