-- ==== Sys2Proof/Certificates/Slice0/Obligations.lean ====
section
/-! DEFINITION. The statements for the provers. -/

open Sys2Proof Sys2Proof.Machine

/-! ## The step, reset, and what every step keeps -/

/-- After reset every register reads its reset value, the uptime is 0, the sequencer stands at step 0 under the
power-on clear, nothing waits in the queue and nothing has been sent, and the stores stand in their canonical form.
Where the spec gives no reset value the value is the model's (log 10, log 11, log 12). -/
def Obligations.ResetIsInOrder : Prop :=
  (∀ off, State.reset.reg off = regReset off) ∧ State.reset.uptime = 0 ∧ State.reset.fld SYS_BRINGUP_STEP = 0 ∧
  State.reset.boot.poc = true ∧ State.reset.pending = [] ∧ State.reset.out = [] ∧ State.reset.Ok

/-- With a command at the front of the queue, a step is that command's meaning on the state with the queue's rest,
whatever it answers. On an empty queue one microsecond passes, which is the model's choice (log 3). -/
def Obligations.StepRunsTheFrontCommand : Prop :=
  (∀ (c : Instr) (rest : List Instr) (s : State), step { s with pending := c :: rest } = exec c { s with pending := rest }) ∧
  (∀ s : State, s.pending = [] → step s = .next s.tick)

/-- Whatever step is taken, of any command or of time, the registers, the MRAM with the states of its words and the
fuse array keep their canonical form: rising addresses, and no entry that equals what an unlisted address reads as. -/
def Obligations.StepKeepsTheStoresInOrder : Prop :=
  ∀ s t : State, s.Ok → step s = .next t → t.Ok

/-- From any state, whatever commands wait, as many steps as there are commands empty the queue with no fault and no
refusal; what had been sent still stands at the head of what is sent; and from stores in order they end in order, with
every fuse that was burned still burned. -/
def Obligations.EveryQueueRunsToItsEnd : Prop :=
  ∀ s : State, ∃ t : State, Sys2Proof.core.run s.pending.length s = .next t ∧ t.pending = [] ∧ s.KeepsSent t ∧
    (s.Ok → t.Ok ∧ s.KeepsFuses t)

/-- Over every step, a fuse that is burned stays burned, and every word of the fuse array but 7 and 8, the rollback
floor, stays as it is. -/
def Obligations.FusesOnlyBurn : Prop :=
  ∀ s t : State, s.Ok → step s = .next t →
    s.KeepsFuses t ∧ ∀ w, w ≠ 7 → w ≠ 8 → t.fuseWord w = s.fuseWord w

/-! ## Registers and the Counlet that reads them -/

/-- In every state a read of PG_ID gives 5359_0001 on SYS, 5253_0001 on RST and 4D50_0001 on MPC, and a read of PG_VER
gives 0000_01B0 on each. -/
def Obligations.PageHeadersOfTheChapter : Prop :=
  ∀ s : State, (s.regRead 0x00000).1 = 0x53590001 ∧ (s.regRead 0x01000).1 = 0x52530001 ∧
    (s.regRead 0x24000).1 = 0x4D500001 ∧ (s.regRead 0x00004).1 = 0x1B0 ∧ (s.regRead 0x01004).1 = 0x1B0 ∧
    (s.regRead 0x24004).1 = 0x1B0

/-- Of a page of the map that is absent in the latched role: PG_ID reads its block code, replica and layout 01, PG_VER
reads 0000_01B0, PG_STAT reads 0000_0020, and every other word reads zero; a write of any word of it, with any value
and byte enables, changes nothing; and none of its events fires. -/
def Obligations.AbsentPagesReadAndIgnore : Prop :=
  ∀ (s : State) (p code replica : Nat), pageCode p = some (code, replica) → pagePresent s.role p = false →
    (s.regRead (4096 * p)).1 = code * 65536 + replica * 256 + 1 ∧
    (s.regRead (4096 * p + 0x004)).1 = 0x1B0 ∧
    (s.regRead (4096 * p + 0x00C)).1 = 0x20 ∧
    (∀ o, o < 4096 → o / 4 * 4 ≠ 0x000 → o / 4 * 4 ≠ 0x004 → o / 4 * 4 ≠ 0x00C → (s.regRead (4096 * p + o)).1 = 0) ∧
    (∀ o v be, o < 4096 → s.regWrite (4096 * p + o) v be = s) ∧
    (∀ k inst dA dB test, s.fireFull (p, k) inst dA dB test = s)

/-- A Counlet REG_RD that the card serves answers OK with the one word a register read gives, of which only the latch
of a wide register's high word is left behind; an offset that is not a multiple of 4, or at or above 10_0000, answers
OUT_OF_RANGE with no word. -/
def Obligations.CounletRegRdAnswers : Prop :=
  ∀ (seq off : Nat) (s : State), s.cnServes 0x30 seq = true →
    (off % 4 ≠ 0 ∨ 0x100000 ≤ off →
      exec (.counletRegRd seq off) s = .next ((s.cnHeard 0x30).cnAnswer 0x30 (seq % 256) 0x30 [])) ∧
    (off % 4 = 0 → off < 0x100000 →
      exec (.counletRegRd seq off) s = .next (((s.cnHeard 0x30).regRead off).2.cnAnswer 0x30 (seq % 256) 0x00
        (bytesBE 4 ((s.cnHeard 0x30).regRead off).1)))

/-- A register read gives the word that contains the offset, and leaves the state as it was but for the latch of the
high word of a wide register whose low word was read. Any word but that high word reads the same after it, and the
high word reads what it held when the low word was read. Which registers are wider than a word is a reading (log 63).
-/
def Obligations.ReadingChangesOnlyTheLatch : Prop :=
  ∀ (s : State) (off : Nat), off < 0x100000 →
    let lo := off / 4 * 4
    let t := (s.regRead off).2
    (s.regRead off).1 = s.regWord lo ∧ t = { s with hiLatch := t.hiLatch } ∧
    (lowWords.contains lo = false → t = s) ∧
    (∀ x, x < 0x100000 → x / 4 * 4 ≠ lo + 4 → (t.regRead x).1 = (s.regRead x).1) ∧
    (lowWords.contains lo = true → pagePresent s.role (lo / 4096) = true → s.pageSilent (lo / 4096) = false →
      regThere s.role (lo / 4096) (lo % 4096 + 4) = true →
      (t.regRead (lo + 4)).1 = s.wordAt (lo / 4096) (lo % 4096 + 4))

/-! ## Events and faults -/

/-- Firing an event, with whatever details, leaves alone everything but registers, the events held back, the mark of a
dropped record, and what is sent; and of the registers all but EVT_RAW and EVT_PEND of the event's page, the EVT page
with its ring, and the instance page of an instance event. An event that fires shows in EVT_RAW, where nothing it does
takes another event away; before READY it is held back as the last, and one of an absent page or the other role fires
not. -/
def Obligations.FiringTouchesOnlyEventState : Prop :=
  ∀ (s : State) (p k : Nat) (inst : Option Nat) (dA dB : Nat) (test : Bool), s.Ok → k < 32 →
    let t := s.fireFull (p, k) inst dA dB test
    t = { s with regs := t.regs, held := t.held, ringDrop := t.ringDrop, fnRegs := t.fnRegs, mq := t.mq, out := t.out } ∧ t.Ok ∧
    (∀ off, off ≠ 4096 * p + 0x10 → off ≠ 4096 * p + 0x14 → off / 4096 ≠ pEVT →
      (∀ n, inst = some n → off / 4096 ≠ pINS n) → t.reg off = s.reg off) ∧
    (∀ q i, i < 32 → s.flag (bitFld (rEVT_RAW q).off i) = true → t.flag (bitFld (rEVT_RAW q).off i) = true) ∧
    (evtInRole s.role p k = true → t.flag (bitFld (rEVT_RAW p).off k) = true) ∧
    (evtInRole s.role p k = true → s.up = false → t.out = s.out ∧ t.held = s.held ++ [⟨p, k, inst, dA, dB, test, s.uptime, evtBase p + k, false⟩]) ∧
    (evtInRole s.role p k = false → t = s)

/-- A fault of a source below 124 that is present, whose unit is in no software block reset and inside no unit being
fenced, is a new fault. Outside the safe state, where its source does not hold the unit yet: STATUS, ASSERTED and
FENCING of the source are set and no other source's SRC_STAT changes; the source holds its unit with the history entry
at INDEX, which takes the time, source, injected mark, unit code, syndrome, SEQ and EXIT 0; INDEX and NEXT_SEQ move
on; and FAULT_RAISED shows in EVT_RAW. The fields' places in the entry are those of R417. -/
def Obligations.NewFaultIsRecorded : Prop :=
  (∀ (src x syn : Nat) (inj : Bool) (s : State), src < 124 → srcPresent s.role src = true →
    s.inBlockReset (srcUnit src x) = false → s.mergeInto (srcUnit src x) = none →
    s.fault src x syn inj = s.newFault src (srcUnit src x) (faultSyndrome (srcUnit src x) syn) inj) ∧
  (∀ (src syn : Nat) (u : FenceUnit) (inj : Bool) (s : State), s.Ok → src < 124 → s.safe = false →
    evtInRole s.role pFLT EV_FLT_FAULT_RAISED.2 = true →
    s.flt.holds.any (fun h => h.src == src && h.unit == u) = false →
    let i := s.fld FLT_HIST_HEAD_INDEX
    let seq := s.fld FLT_HIST_HEAD_NEXT_SEQ
    let t := s.newFault src u syn inj
    t.flag (FLT_SRC_STAT_STATUS src) = true ∧ t.flag (FLT_SRC_STAT_ASSERTED src) = true ∧
    t.flag (FLT_SRC_STAT_FENCING src) = true ∧
    (∀ n, n < 128 → n ≠ src → t.reg (rFLT_SRC_STAT n).off = s.reg (rFLT_SRC_STAT n).off) ∧
    t.flt.holds = s.flt.holds ++ [⟨src, u, i⟩] ∧
    t.reg (histOff i) = BitVec.ofNat 32 s.uptime.toNat ∧
    t.reg (histOff i + 4) = BitVec.ofNat 32 (s.uptime.toNat / 2 ^ 32 + 256 * src + 32768 * inj.toNat + 65536 * u.code) ∧
    t.reg (histOff i + 8) = BitVec.ofNat 32 syn ∧ t.reg (histOff i + 12) = BitVec.ofNat 32 (65536 * seq) ∧
    t.fld FLT_HIST_HEAD_INDEX = (i + 1) % 16 ∧ t.fld FLT_HIST_HEAD_NEXT_SEQ = (seq + 1) % 65536 ∧
    t.flag (bitFld (rEVT_RAW pFLT).off EV_FLT_FAULT_RAISED.2) = true)

/-! ## Media, the landing store and the other layouts -/

/-- A map entry built from a LUN below 128, a block, a page below the pages per block P, and a codeword below 4, where
the blocks lie within 2^25 slots, is a word of 32 bits whose fields read back as those, with the places of R288; it is
not FFFF_FFFF when a slot stays above the last block. The other way, every word is the entry of the fields it spells.
-/
def Obligations.MapEntriesRoundTrip : Prop :=
  (∀ p lun b page cw : Nat, lun < 128 → page < p → cw < 4 → (b + 1) * (4 * p) ≤ 2 ^ 25 →
    let e := entryOf p lun b page cw
    e < 2 ^ 32 ∧ entryLun e = lun ∧ entryPair p e = b ∧ entryPage p e = page ∧ entryCw e = cw ∧
    ((b + 1) * (4 * p) < 2 ^ 25 → e ≠ 0xFFFFFFFF)) ∧
  (∀ p e : Nat, 0 < p → e < 2 ^ 32 → entryOf p (entryLun e) (entryPair p e) (entryPage p e) (entryCw e) = e)

/-- In a machine in order whose record generations stand below their 32 bits: a moved anchor whose last rewrite is 100 ms
old is rewritten with the line, SEQ and LAP of the oldest record that is not released, or where the ring ended, and
the DSN floor; a card's lifetime records older than 10 s are both rewritten; a scan that is due and has a DATA superblock
to read reads it and goes on to the next, and rewrites the scan record where its last rewrite is 100 ms old. No register
outside LND and EVT changes, and beside the store only what is named and what an event changes. Where no injection is
active on the store's check bits, each record goes into its older slot with the next generation and reads back as in
force, and no other byte changes. The words held are the model's reading where
R272 gives no layout (log 119). -/
def Obligations.StoreRecordsAreRewritten : Prop :=
  (∀ (s : State) (line seq lap : Nat), s.Ok → s.up = true → s.lnd.ancMoved = true →
    s.lnd.ancTime.toNat + 100000 ≤ s.uptime.toNat →
    (s.lnd.recs.head?.map (fun r => (r.line, r.seq, r.lap))).getD (s.lnd.lastLine, s.lnd.lastSeq, s.lnd.lastLap) =
      (line, seq, lap) →
    s.newGen anchorA anchorB < 2 ^ 32 → (∀ w ∈ [line, seq, lap, s.lnd.floor], w < 2 ^ 64) →
    ∃ t, exec .anchorRewrite s = .next t ∧
      (s.injects pLND 0 = false → s.Rewrote t anchorA anchorB [line, seq, lap, s.lnd.floor]) ∧
      (∀ j, j / 4096 ≠ pLND → j / 4096 ≠ pEVT → t.reg j = s.reg j) ∧
      t = { s with mram := t.mram, ecc := t.ecc, regs := t.regs, held := t.held, ringDrop := t.ringDrop, fnRegs := t.fnRegs, mq := t.mq, out := t.out,
                   lnd := { s.lnd with ancLine := line, ancSeq := seq, ancLap := lap, ancTime := s.uptime, ancMoved := false } }) ∧
  (∀ s : State, s.Ok → s.isCard = true → s.up = true → s.safe = false →
    s.life.last.toNat + 10000000 ≤ s.uptime.toNat →
    s.newGen 0x01C00100 0x01C00140 < 2 ^ 32 → (∀ w ∈ s.life1, w < 2 ^ 64) →
    (s.writeTwo 0x01C00100 0x01C00140 s.life1).newGen 0x01C00180 0x01C001C0 < 2 ^ 32 → (∀ w ∈ s.life2, w < 2 ^ 64) →
    ∃ t, exec .lifeRecordRewrite s = .next t ∧
      (s.injects pLND 0 = false →
        ∃ m, s.Rewrote m 0x01C00100 0x01C00140 s.life1 ∧ m.Rewrote t 0x01C00180 0x01C001C0 s.life2) ∧
      (∀ j, j / 4096 ≠ pLND → j / 4096 ≠ pEVT → t.reg j = s.reg j) ∧
      t = { s with mram := t.mram, ecc := t.ecc, regs := t.regs, held := t.held, ringDrop := t.ringDrop, fnRegs := t.fnRegs, mq := t.mq, out := t.out,
                   life := { s.life with last := s.uptime } }) ∧
  (∀ (s : State) (reads : List MediaRead) (k : Nat), s.Ok → s.moving = true → s.flag MED_SCAN_CFG_EN = true →
    s.media.scanning = true → s.scanDue = true → s.dataSbs.find? (fun k => s.media.scanNext ≤ k) = some k →
    let r := s.scanSb k reads
    let u : State := { r with media := { r.media with scanNext := k + 1 } }
    (u.since u.media.scanTime < 100000 → exec (.retentionScan reads) s = .next u) ∧
    (100000 ≤ u.since u.media.scanTime → u.newGen scanA scanB < 2 ^ 32 →
      (∀ w ∈ [u.media.pass, k + 1, u.media.scanSecs], w < 2 ^ 64) →
      ∃ t, exec (.retentionScan reads) s = .next t ∧
        (u.injects pLND 0 = false → u.Rewrote t scanA scanB [u.media.pass, k + 1, u.media.scanSecs]) ∧
        (∀ j, j / 4096 ≠ pLND → j / 4096 ≠ pEVT → t.reg j = u.reg j) ∧
        t = { u with mram := t.mram, ecc := t.ecc, regs := t.regs, held := t.held, ringDrop := t.ringDrop, fnRegs := t.fnRegs, mq := t.mq, out := t.out,
                     media := { u.media with scanTime := u.uptime } }))

/-- In every state the answer to reset is TS 3B, T0 9F, TA1 96, TD1 0E, the fifteen bytes of the Card Parameter
String as it stood when CRST_N was released, and TCK, the exclusive-OR of T0 to H15, so that T0 to TCK add up to zero bit
by bit. -/
def Obligations.AnswerToResetLayout : Prop :=
  ∀ s : State, s.atrCps.length = 15 ∧ ∃ tck : Byte, s.atrBytes = [0x3B, 0x9F, 0x96, 0x0E] ++ s.atrCps ++ [tck] ∧
    ([0x9F, 0x96, 0x0E] ++ s.atrCps).foldl (· ^^^ ·) 0 = tck ∧
    (s.atrBytes.drop 1).foldl (· ^^^ ·) 0 = 0 ∧ s.atrBytes.length = 20

/-- In every state and on every page of the map, present or not, PG_VER reads B0 in its low byte, and above it the
revision 01 that the chapters give their pages. -/
def Obligations.EveryPageSaysB0 : Prop :=
  ∀ (s : State) (p : Nat), (pageCode p).isSome = true →
    (s.regRead (4096 * p + 0x004)).1 % 256 = 0xB0 ∧ (s.regRead (4096 * p + 0x004)).1 / 256 = 0x01

/-- The card's reading of a TAG is the one value in [H − 127, H + 128] that agrees with it modulo 256, where that
value is not below zero; the dock's reading of an RSEQ is the one value in [HR + 1, HR + 256] that does. -/
def Obligations.FrameCountersAreTheNearest : Prop :=
  (∀ h tag fc : Nat, fcNear h tag = some fc ↔ fc % 256 = tag % 256 ∧ h ≤ fc + 127 ∧ fc ≤ h + 128) ∧
  (∀ h rseq fc : Nat, rspNear h rseq = fc ↔ fc % 256 = rseq % 256 ∧ h + 1 ≤ fc ∧ fc ≤ h + 256)

/-- A line's first counter block is 4A, the LAP, the line index and zeros in the places of the IV, then 00000001; two
lines of other LAPs or indices have other blocks. In every state, whatever the key, a line goes through the lane to as
many bytes, and through it again to itself. -/
def Obligations.JournalLaneUndoesItself : Prop :=
  (∀ lap line : Nat, lap < 2 ^ 32 → line < 2 ^ 32 →
    natBE (laneIv lap line) = (0x4A * 2 ^ 88 + lap * 2 ^ 56 + line * 2 ^ 24) * 2 ^ 32 + 1 ∧ (laneIv lap line).length = 16) ∧
  (∀ lap line lap' line' : Nat, lap < 2 ^ 32 → line < 2 ^ 32 → lap' < 2 ^ 32 → line' < 2 ^ 32 →
    laneIv lap line = laneIv lap' line' → lap = lap' ∧ line = line') ∧
  (∀ (s : State) (lap line : Nat) (bs : List Byte),
    (s.lane lap line bs).length = bs.length ∧ s.lane lap line (s.lane lap line bs) = bs)

/-- In a machine in order each of these answers a next state: an oscillator measured, the PLL's lock lost, and an
island gated change no register outside CLK and EVT; the stop of every port's clock none outside PWR and EVT; a
function reset that has ended none outside PCE, EVT and the page of its instance; the levels of the GPIO pins and of
ROLE_SEL none outside SYS and EVT, and the pin itself takes the level. Beside registers, only the events held back,
the mark of a dropped record and what is sent can change. -/
def Obligations.PinAndClockEventFrames : Prop :=
  (∀ (s : State) (i : Instr), s.Ok →
    (∃ a f x, i = .oscMeasure a f x) ∨ i = .pllLockLoss ∨ (∃ k g, i = .islandIdleGate k g) →
    ∃ t, exec i s = .next t ∧ (∀ j, j / 4096 ≠ pCLK → j / 4096 ≠ pEVT → t.reg j = s.reg j) ∧
      t = { s with regs := t.regs, held := t.held, ringDrop := t.ringDrop, fnRegs := t.fnRegs, mq := t.mq, out := t.out }) ∧
  (∀ s : State, s.Ok → ∃ t, exec .clkstopAll s = .next t ∧
    (∀ j, j / 4096 ≠ pPWR → j / 4096 ≠ pEVT → t.reg j = s.reg j) ∧
    t = { s with regs := t.regs, held := t.held, ringDrop := t.ringDrop, fnRegs := t.fnRegs, mq := t.mq, out := t.out }) ∧
  (∀ (s : State) (fn : Nat), s.Ok → ∃ t, exec (.flrDone fn) s = .next t ∧
    (∀ j, j / 4096 ≠ pPCE → j / 4096 ≠ pEVT → j / 4096 ≠ pINS fn → t.reg j = s.reg j) ∧
    t = { s with regs := t.regs, held := t.held, ringDrop := t.ringDrop, fnRegs := t.fnRegs, mq := t.mq, out := t.out }) ∧
  (∀ (s : State) (levels : Nat), s.Ok → ∃ t, exec (.gpioEdge levels) s = .next t ∧
    (∀ j, j / 4096 ≠ pSYS → j / 4096 ≠ pEVT → t.reg j = s.reg j) ∧
    t = { s with regs := t.regs, held := t.held, ringDrop := t.ringDrop, fnRegs := t.fnRegs, mq := t.mq, out := t.out,
                 pins := { s.pins with gpio := levels % 16 } }) ∧
  (∀ (s : State) (level : Bool), s.Ok → ∃ t, exec (.roleSelChange level) s = .next t ∧
    (∀ j, j / 4096 ≠ pSYS → j / 4096 ≠ pEVT → t.reg j = s.reg j) ∧
    t = { s with regs := t.regs, held := t.held, ringDrop := t.ringDrop, fnRegs := t.fnRegs, mq := t.mq, out := t.out,
                 pins := { s.pins with strap := level } })

/-! ## Resets, bring-up, clocks and islands -/

/-- SUPPLY_LOSS at any point: the machine goes on in a state with the power-on clear in force, registers, keys, queues
and link state gone and nothing sent; the role and the fuses are kept, and so is every byte of MRAM outside the
words whose write had not ended, all of it where no write waited. -/
def Obligations.SupplyLossKeepsWhatLasts : Prop :=
  ∀ (served : List Nat) (torn : Option TornLine) (hurt : List CutBlock) (s : State),
    ∃ t, exec (.supplyLoss served torn hurt) s = .next t ∧
      t.regs = [] ∧ t.boot = {} ∧ t.keys = {} ∧ t.spA = {} ∧ t.spB = {} ∧ t.cnA = {} ∧ t.cnB = {} ∧ t.host = {} ∧
      t.segs = [] ∧ t.shadow = [] ∧ t.mq = {} ∧ t.uptime = 0 ∧
      t.role = s.role ∧ t.otp = s.otp ∧ t.out = s.out ∧ t.firm.slot0 = s.firm.slot0 ∧
      t.firm.slot1 = s.firm.slot1 ∧
      (s.mq.reqs = [] → t.mram = s.mram ∧ t.ecc = s.ecc) ∧
      (Memory.wf s.mram = true → ∀ a, (∀ q ∈ s.mq.reqs, ∀ e ∈ q.old, e.1 ≠ a / 8) → t.mramByte a = s.mramByte a)

/-- POWER_ON_CLEAR_RELEASE latches the role that ROLE_SEL shows, with RST_N high, and starts bring-up at step 1, where a
card whose CRST_N is released owes its answer to reset; with RST_N low the chip stays in step 0. RST_N_LOW of 500 ns or
more with no write pulse or burn in progress resets the chip at once and holds it, shorter than 200 ns it changes
nothing, and with a pulse or a burn in progress it waits. RST_N_RELEASE latches the role and starts bring-up at step 1
once nothing is waiting. RESET_DEFER_END lets the resets that wait take effect, one of the chip alone where there is
one, with its burn ended and the longest deferral kept (at most 12 us). CHIP_RST with its key, and an expired watchdog,
reset the chip at once; CHIP_RST with any other key changes nothing. Which MRAM requests were pulsed before is said by
the command (log 106). -/
def Obligations.ResetsStartBringUp : Prop :=
  (∀ s : State, s.boot.poc = true →
    (s.boot.rstLow = false → exec .powerOnClearRelease s = .next (((({ s with
      role := if s.pins.strap then .dock else .card,
      boot := { poc := false, started := s.uptime, fromPoc := true, fromWdog := false } } : State).clearOutcome).setFld
        SYS_BRINGUP_STEP 1).askAtr)) ∧
    (s.boot.rstLow = true → exec .powerOnClearRelease s = .next
      (({ s with boot := { poc := false, rstLow := true, fromPoc := true } } : State).setFld SYS_BRINGUP_STEP 0))) ∧
  (∀ (ns : Nat) (served : List Nat) (s : State), 500 ≤ ns → s.boot.poc = false → s.boot.rstLow = false →
    s.boot.waiting = [] →
    let t := ({ s with boot := { s.boot with rstLow := true } } : State).mramStop served none
    (s.boot.fuse = none → exec (.rstNLow ns served false) s = .next (t.takeReset .rstN false)) ∧
    exec (.rstNLow ns served true) s = .next { t with boot := { t.boot with waiting := [.rstN] } } ∧
    (s.boot.fuse.isSome = true →
      exec (.rstNLow ns served false) s = .next { t with boot := { t.boot with waiting := [.rstN] } })) ∧
  (∀ (ns : Nat) (served : List Nat) (pulse : Bool) (s : State), ns < 200 → exec (.rstNLow ns served pulse) s = .next s) ∧
  (∀ s : State, s.boot.rstLow = true → s.boot.poc = false → s.boot.fromPoc = false → s.chipWaits = false →
    exec .rstNRelease s = .next (((({ s with
      role := if s.pins.strap then .dock else .card,
      boot := { poc := false, started := s.uptime, fromPoc := false, fromWdog := false } } : State).histReset).clearOutcome).setFld
        SYS_BRINGUP_STEP 1)) ∧
  (∀ (tenNs : Nat) (s : State), s.boot.waiting ≠ [] → s.safe = false → s.boot.fuse = none →
    s.fld RST_DEFER_MAX_LONGEST < min 1200 tenNs →
    let t : State := { (s.setFld RST_DEFER_MAX_LONGEST (min 1200 tenNs)).setFlag RST_DEFER_MAX_BY_FUSE false with
      boot := { s.boot with waiting := [] } }
    (∀ k, s.boot.waiting.find? ResetKind.chip = some k → exec (.resetDeferEnd tenNs) s = .next (t.takeReset k true)) ∧
    (s.boot.waiting.find? ResetKind.chip = none →
      exec (.resetDeferEnd tenNs) s = .next (s.boot.waiting.foldl State.narrowReset t))) ∧
  (∀ (key : Nat) (served : List Nat) (s : State), 1 ≤ s.bootStep → s.boot.poc = false → s.boot.rstLow = false →
    s.safe = false → s.boot.waiting = [] → s.boot.fuse = none → key % 65536 = 0xD1E5 →
    exec (.chipRst key served false) s = .next ((s.mramStop served none).takeReset .chipSw false)) ∧
  (∀ (key : Nat) (served : List Nat) (pulse : Bool) (s : State), key % 65536 ≠ 0xD1E5 →
    exec (.chipRst key served pulse) s = .next s) ∧
  (∀ (served : List Nat) (s : State), s.up = true → s.safe = false → s.flag MPC_WDOG_CFG_ENABLE = true →
    s.mpServes = false → max 4 (min 200 (s.fld MPC_WDOG_CFG_PERIOD)) ≤ s.fld MPC_WDOG_STAT_COUNT_MS →
    s.boot.waiting = [] → s.boot.fuse = none →
    exec (.mpWatchdogExpiry served false) s = .next ((s.mramStop served none).takeReset .mpWdog false))

/-- BRINGUP_STEP_DONE, while the part runs below step 11 and bring-up is not stuck: step 1 leads to 2, step 4 to 5; a
PLL that locks leads from 2 to 3 and one that does not stays, stuck after the fourth attempt (log 33); fuses that read
well fill the shadow and lead to 4; step 5 restarts the processors and leads to 6, step 6 to 7 or 10, step 7 replays
the journal, step 8 checks the tree's root and step 9 resumes the map and the segments of a card, and step 10 attaches
the media of a card or starts the ports of a dock and reaches READY or READY_LOCKED. A ROLE_SEL change while the part
runs keeps the role, and fires SYS_STRAP_MISMATCH when the level is not the latched one (R9, R84). -/
def Obligations.BringUpStepsInOrder : Prop :=
  (∀ (e : StepIn) (s : State), s.alive = true → s.boot.stuck = false → s.chipWaits = false → s.safe = false →
    (s.bootStep = 1 → exec (.bringupStepDone e) s = .next (s.setFld SYS_BRINGUP_STEP 2)) ∧
    (s.bootStep = 2 → e.pllLocked = true → exec (.bringupStepDone e) s = .next
      (((s.setFlag CLK_PLL_STAT_LOCKED true).setFlag CLK_PLL_STAT_REF_PRESENT true).setFld SYS_BRINGUP_STEP 3)) ∧
    (s.bootStep = 2 → e.pllLocked = false → exec (.bringupStepDone e) s = .next
      (({ s with boot := { s.boot with pllTries := s.boot.pllTries + 1, stuck := 4 ≤ s.boot.pllTries + 1 } } :
        State).setFld CLK_PLL_STAT_ATTEMPT (min 3 (s.boot.pllTries + 1)))) ∧
    (s.bootStep = 3 → e.fuseOk = true → exec (.bringupStepDone e) s = .next
      (({ s with shadow := s.otp.filter (fun w => 4 ≤ w.1) } : State).setFld SYS_BRINGUP_STEP 4)) ∧
    (s.bootStep = 3 → e.fuseOk = false → exec (.bringupStepDone e) s = .next
      { s with boot := { s.boot with stuck := true } }) ∧
    (s.bootStep = 4 → exec (.bringupStepDone e) s = .next (s.setFld SYS_BRINGUP_STEP 5)) ∧
    (s.bootStep = 5 → exec (.bringupStepDone e) s = .next
      ((s.tamperStep5 e.loop e.switchHigh).mpRestart.setFld SYS_BRINGUP_STEP 6)) ∧
    (s.bootStep = 6 → exec (.bringupStepDone e) s = .next (s.endStep6 e.katOk)) ∧
    (s.bootStep = 7 → exec (.bringupStepDone e) s = .next s.endStep7) ∧
    (s.bootStep = 7 → s.journalFenced = true → s.lnd.recs = [] → exec (.bringupStepDone e) s = .next
      (s.setFld SYS_BRINGUP_STEP 8)) ∧
    (s.bootStep = 8 → exec (.bringupStepDone e) s = .next
      ((if s.role = .card then s.treeRootCheck else s).setFld SYS_BRINGUP_STEP 9)) ∧
    (s.bootStep = 9 → exec (.bringupStepDone e) s = .next
      (let t := (if s.role = .card then s.mapResume.recoverSegs else s).setFld SYS_BRINGUP_STEP 10
       if t.isDock && t.boot.fromTamper then t.startPorts.reachReady else t)) ∧
    (s.bootStep = 10 → exec (.bringupStepDone e) s = .next
      (if s.role = .card then s.attachMedia e else s.startPorts).reachReady)) ∧
  (∀ (level : Bool) (s : State), exec (.roleSelChange level) s = .next
    (let t : State := { s with pins := { s.pins with strap := level } }
     if s.alive = true ∧ level ≠ s.isDock then t.fire EV_SYS_STRAP_MISMATCH else t))

/-- ISLAND_IDLE_GATE of an island whose gating is enabled shows it gated or running. PLL_LOCK_LOSS while locked counts
the loss, starts relocking at attempt 0 and fires CLK_PLL_LOST; a failed PLL_RELOCK_RESULT counts the attempt; the
third failure ends in FLT_127 and a lock in the islands going on (the order of its effects: log 59). OSC_MEASURE
inside both bands with the reference present stores the two readings and that it is present, and nothing else; outside
a band it fires that oscillator's drift, and with both outside in one sense, or no reference, CLK_REF_DRIFT. CLKSTOP_ALL with every port stopped fires PWR_CLKSTOP_ALL (log 73). -/
def Obligations.ClockCommands : Prop :=
  (∀ (i : Nat) (gate : Bool) (s : State), s.alive = true → 2 ≤ i → i < 21 → islandRuns s.role i = true →
    gate = false ∨ bitAt (s.reg rCLK_GATE_CFG.off).toNat i = true →
    exec (.islandIdleGate i gate) s = .next
      (s.setFld ⟨(rCLK_ISL_STAT (i / 8)).off, 4 * (i % 8), 4⟩ (if gate then 2 else 0))) ∧
  (∀ s : State, s.flag CLK_PLL_STAT_LOCKED = true → exec .pllLockLoss s = .next
    (((((s.setFlag CLK_PLL_STAT_LOCKED false).setFlag CLK_PLL_STAT_RELOCKING true).setFld CLK_PLL_STAT_ATTEMPT 0).bump
      CLK_CNT_PLL_LOSSES).fire EV_CLK_PLL_LOST)) ∧
  (∀ s : State, s.flag CLK_PLL_STAT_RELOCKING = true →
    exec (.pllRelockResult true) s = .next
      ((((((s.setFld CLK_PLL_STAT_ATTEMPT (s.fld CLK_PLL_STAT_ATTEMPT + 1)).setFlag CLK_PLL_STAT_RELOCKING false).setFlag
        CLK_PLL_STAT_LOCKED true).fire EV_CLK_PLL_LOCKED).drive 0).drive 1).pump ∧
    (s.fld CLK_PLL_STAT_ATTEMPT < 2 → exec (.pllRelockResult false) s = .next
      (s.setFld CLK_PLL_STAT_ATTEMPT (s.fld CLK_PLL_STAT_ATTEMPT + 1))) ∧
    (2 ≤ s.fld CLK_PLL_STAT_ATTEMPT → exec (.pllRelockResult false) s = .next
      (((s.setFld CLK_PLL_STAT_ATTEMPT (s.fld CLK_PLL_STAT_ATTEMPT + 1)).setFlag CLK_PLL_STAT_RELOCKING false).faultFull
        127 0 (islFLT + 256 * islMP) false))) ∧
  (∀ (aon flt : Nat) (s : State), s.alive = true →
    let t := fun x => ((s.setFld CLK_OSC_AON_KHZ aon).setFld CLK_OSC_FLT_100KHZ flt).setFlag CLK_PLL_STAT_REF_PRESENT x
    (15200 ≤ aon → aon ≤ 16800 → 900 ≤ flt → flt ≤ 1100 → exec (.oscMeasure aon flt true) s = .next (t true)) ∧
    (aon < 15200 ∨ 16800 < aon → 900 ≤ flt → flt ≤ 1100 → exec (.oscMeasure aon flt true) s = .next
      ((t true).fire EV_CLK_AON_OSC_DRIFT)) ∧
    (15200 ≤ aon → aon ≤ 16800 → flt < 900 ∨ 1100 < flt → exec (.oscMeasure aon flt true) s = .next
      ((t true).fire EV_CLK_FLT_OSC_DRIFT)) ∧
    ((aon < 15200 ∧ flt < 900) ∨ (16800 < aon ∧ 1100 < flt) → ∀ x, exec (.oscMeasure aon flt x) s = .next
      ((((t x).fire EV_CLK_AON_OSC_DRIFT).fire EV_CLK_FLT_OSC_DRIFT).fire EV_CLK_REF_DRIFT)) ∧
    (15200 ≤ aon → aon ≤ 16800 → 900 ≤ flt → flt ≤ 1100 → exec (.oscMeasure aon flt false) s = .next
      ((t false).fire EV_CLK_REF_DRIFT))) ∧
  (∀ s : State, s.up = true → s.powerState = 0 → s.allStopped = true →
    exec .clkstopAll s = .next (s.fire EV_PWR_CLKSTOP_ALL))

/-- BRIDGE_TIMEOUT between two running islands that no DOZE gates and no relock holds, neither of them FLT, and with no
injection armed on CLK, raises the fault of the far island's group
against that island, or of the waiting one's where the far island is AON, disconnected already or not; with FLT on
either side it is FLT_127; a PARKED bridge does not time out. ISLAND_RESET_DONE, with no fuse burning and no reset of the chip waiting, clears the island,
drops its DISCONNECTED bit and fires CLK_BRIDGE_RECONN and CLK_ISLAND_RST_DONE. -/
def Obligations.IslandFences : Prop :=
  (∀ (w f : Nat) (s : State), s.bootStep ≠ 0 → islandRuns s.role w = true → islandRuns s.role f = true → w ≠ f →
    s.parked w = false → s.parked f = false → s.injects pCLK f = false →
    (w = islFLT ∨ f = islFLT → exec (.bridgeTimeout w f) s = .next (s.faultFull 127 0 (w + 256 * f) false)) ∧
    (w ≠ islFLT → f ≠ islFLT → f ≠ islAON → exec (.bridgeTimeout w f) s = .next
      (s.faultFull (if f = islMP then 121 else if 17 ≤ f then 120 else if 13 ≤ f then 119 else if 9 ≤ f then 118
        else if 6 ≤ f then 117 else 116) f (w + 256 * f) false)) ∧
    (w ≠ islFLT → f = islAON → exec (.bridgeTimeout w f) s = .next
      (s.faultFull (if w = islMP then 121 else if 17 ≤ w then 120 else if 13 ≤ w then 119 else if 9 ≤ w then 118
        else if 6 ≤ w then 117 else 116) w (w + 256 * w) false))) ∧
  (∀ (w f : Nat) (s : State), s.parked w = true ∨ s.parked f = true → exec (.bridgeTimeout w f) s = .next s) ∧
  (∀ (i : Nat) (s : State), s.islandDown i = true → i < 21 → s.safe = false → s.boot.fuse = none →
    s.chipWaits = false →
    exec (.islandResetDone i) s = .next
      (((((s.resetIsland i).setFlag (bitFld rCLK_BRIDGE_DISC.off i) false).fireD EV_CLK_BRIDGE_RECONN
        (s.fld CLK_LAST_BRIDGE_WAITING + 256 * i) 0).fireD EV_CLK_ISLAND_RST_DONE i 0).keyResume))

/-! ## Pages, events and registers -/

/-- On a page that takes writes (present, its island answering, the part running), each header command disarms the
page's injection, does what it is for and lets the engines go on (State.settle): BLK_RST_REQ on a quiesced page that
has a block reset marks the reset as under way, and on any other, before step 11 or in the safe state records the refusal
and fires RST_BLK_REFUSED;
PG_CTRL_ENABLE and FENCE_REQ on a page that is not fixed set their bit, QUIESCE_REQ sets its own, and where nothing
asks for quiescence any more the page is no longer quiesced; PG_LOCK sets LOCK. BLOCK_QUIESCED sets QUIESCED once no
work is in flight; BLOCK_RESET_DONE ends a block reset. -/
def Obligations.PageHeaderCommands : Prop :=
  (∀ (p : Nat) (s : State), s.pageTakes p = true →
    ((s.written p).up = true → (s.written p).safe = false → pageNoBlockReset p = false → s.quiescedNow p = true →
      exec (.blkRstReq p) s = .next
      (((((s.written p).setFld RST_BLK_RST_LAST_PAGE p).setFlag RST_BLK_RST_LAST_REFUSED false).setFlag
        (PG_STAT_RST_BUSY p) true).setFlag (PG_CTRL_BLK_RST_REQ p) true).settle) ∧
    ((s.written p).up = false ∨ (s.written p).safe = true ∨ pageNoBlockReset p = true ∨ s.quiescedNow p = false →
      exec (.blkRstReq p) s = .next
      (((((s.written p).setFld RST_BLK_RST_LAST_PAGE p).setFlag (PG_STAT_RST_REFUSED p) true).setFlag
        RST_BLK_RST_LAST_REFUSED true).fire EV_RST_BLK_REFUSED).settle)) ∧
  (∀ (p : Nat) (s : State), s.flag (PG_STAT_RST_BUSY p) = true → s.pageSilent p = false →
    exec (.blockResetDone p) s = .next (s.blockResetEnd p).settle) ∧
  (∀ (p : Nat) (on : Bool) (s : State), s.pageTakes p = true → s.dockInst p = false →
    (pageFixed p = false → (s.written p).flag (PG_CTRL_ENABLE p) ≠ on → exec (.pgCtrlEnable p on) s = .next
      (((s.written p).setFlag (PG_CTRL_ENABLE p) on).leaveQuiesce p).settle) ∧
    exec (.quiesceReq p on) s = .next (((s.written p).setFlag (PG_CTRL_QUIESCE_REQ p) on).leaveQuiesce p).settle ∧
    (pageFixed p = false → (s.written p).flag (PG_CTRL_FENCE_REQ p) = false →
      (s.written p).pageFaultFenced p = false → exec (.fenceReq p true) s = .next
        (((s.written p).setFlag (PG_CTRL_FENCE_REQ p) true).softFence p).settle) ∧
    (pageFixed p = false → (s.written p).flag (PG_CTRL_FENCE_REQ p) = true → exec (.fenceReq p false) s = .next
        (((s.written p).setFlag (PG_CTRL_FENCE_REQ p) false).softRestore p).settle)) ∧
  (∀ (p : Nat) (s : State), s.dockInst p = false → pagePresent s.role p = true → quiesceHonoured p = true →
    s.quiesceAsked p = true → s.inFlight p = false → s.flag (PG_STAT_QUIESCED p) = false →
    exec (.blockQuiesced p) s = .next
      (if 0x40 ≤ p then (s.setFlag (PG_STAT_QUIESCED p) true).fireI EV_CMD_INST_QUIESCED (p - 0x40) 0 0
       else s.setFlag (PG_STAT_QUIESCED p) true)) ∧
  (∀ (p : Nat) (s : State), s.pageTakes p = true → exec (.pgLock p) s = .next
    ((s.touchPage p).setFlag (PG_LOCK_LOCK p) true).settle)

/-- On a page that takes writes: EVT_PEND_CLEAR clears the named bits of EVT_PEND and EVT_RAW, and what their mask hid;
EVT_MASK_WRITE stores the mask, cut to the page's events, and delivers what it newly lets through; EVT_SET fires the
named events of a page as a test, of an event marked I with an instance that is free (log 54); INJ_ARM with 0x5A1D arms
the page and with any other key disarms it; INJ_CTRL on an armed, unlocked page with a checker stores its defined bits,
and on a page that is not armed only disarms; INJ_ARM_EXPIRY disarms. RING_TAIL within the records held consumes up to
its index, past them all; RING_CLR with 0xC1EA empties the ring, and with another key does nothing. -/
def Obligations.EventAndInjectionCommands : Prop :=
  (∀ (p : Nat) (s : State), s.pageTakes p = true →
    (∀ mask : Nat,
      let t := (((s.touchPage p).setReg (rEVT_PEND p).off ((s.touchPage p).reg (rEVT_PEND p).off &&&
          ~~~(BitVec.ofNat 32 (mask % 2 ^ evtCount p)))).setReg (rEVT_RAW p).off
            ((s.touchPage p).reg (rEVT_RAW p).off &&& ~~~(BitVec.ofNat 32 (mask % 2 ^ evtCount p))))
      exec (.evtPendClear p mask) s = .next (({ t with held := t.held.filter (fun h =>
        !(h.hidden && h.page == p && bitAt (mask % 2 ^ evtCount p) h.bit)) } : State).settle)) ∧
    (∀ mask : Nat, exec (.evtMaskWrite p mask) s = .next
      (((List.range (evtCount p)).foldl (fun (t : State) k =>
        if bitAt (mask % 2 ^ evtCount p) k && !bitAt ((s.touchPage p).reg (rEVT_MASK p).off).toNat k then
          t.deliverRaw p k else t)
        ((s.touchPage p).setReg (rEVT_MASK p).off (BitVec.ofNat 32 (mask % 2 ^ evtCount p)))).settle)) ∧
    (∀ mask : Nat, p < 0x40 → exec (.evtSet p mask) s = .next
      (((List.range (evtCount p)).foldl (fun (t : State) k =>
        if bitAt mask k = true then
          (if evtOfInst p k then t.spend.fireFull (p, k) (some (Config.testInst t.freeCtr).toNat) 0 0 true
           else t.fireFull (p, k) none 0 0 true)
        else t) (s.touchPage p)).settle)) ∧
    (∀ key : Nat, key % 65536 = 0x5A1D → exec (.injArm p key) s = .next
      ({ s with injArmed := s.injArmed.filter (· != p) ++ [p] } : State).settle) ∧
    (∀ key : Nat, key % 65536 ≠ 0x5A1D → exec (.injArm p key) s = .next (s.touchPage p).settle) ∧
    (∀ word : Nat, s.injArmed.contains p = true → s.flag (PG_LOCK_LOCK p) = false → noChecker p = false →
      exec (.injCtrl p word) s = .next
        ((s.touchPage p).setReg (rINJ_CTRL p).off (BitVec.ofNat 32 word &&& 0x00FF03FF#32))) ∧
    (∀ word : Nat, s.injArmed.contains p = false → exec (.injCtrl p word) s = .next (s.touchPage p))) ∧
  (∀ (p : Nat) (s : State), exec (.injArmExpiry p) s = .next
    { s with injArmed := s.injArmed.filter (· != p) }) ∧
  (∀ (index : Nat) (s : State), s.pageTakes pEVT = true →
    let t := s.touchPage pEVT
    let adv := (index % 64 + 64 - t.fld EVT_RING_TAIL_INDEX) % 64
    (adv ≤ t.fld EVT_RING_STAT_COUNT → exec (.ringTail index) s = .next
      (((t.setFld EVT_RING_TAIL_INDEX index).setFld EVT_RING_STAT_COUNT (t.fld EVT_RING_STAT_COUNT - adv)).settle)) ∧
    (t.fld EVT_RING_STAT_COUNT < adv → exec (.ringTail index) s = .next
      (((t.setFld EVT_RING_TAIL_INDEX (t.fld EVT_RING_HEAD_INDEX)).setFld EVT_RING_STAT_COUNT 0).settle))) ∧
  (∀ (key : Nat) (s : State), s.pageTakes pEVT = true →
    (key % 65536 = 0xC1EA → exec (.ringClr key) s = .next
      ((((s.touchPage pEVT).setFld EVT_RING_TAIL_INDEX ((s.touchPage pEVT).fld EVT_RING_HEAD_INDEX)).setFld
        EVT_RING_STAT_COUNT 0).settle)) ∧
    (key % 65536 ≠ 0xC1EA → exec (.ringClr key) s = .next (s.touchPage pEVT).settle))

/-- UPTIME_LO_READ over a path that answers sends the part of the register read that was asked for, of eight bytes two
words, and changes nothing but the high words it latches; over the window of the PF the word is that of the register.
UPTIME_WRAP at the last count sets the counter to 0, keeps the seconds it stood for and fires SYS_UPTIME_WRAP.
GPIO_EDGE keeps the levels and fires SYS_GPIO_EDGE for an enabled input that changed. REGISTER_WRITE over a path that
answers writes, of eight bytes as two words, the lower first; a request of configuration space before bring-up step 10
has ended is to be tried again; any other access that no path answers changes nothing. I2C_WRITE of a pointer byte below
16 sets the pointer, and acknowledges the address and that byte alone; I2C_READ sends that many status bytes from the
pointer on and leaves it that much further, which is the model's choice (log 177). JTAG_INSTRUCTION takes the
instruction and shifts the register it selects: the identification register, one bypass bit, or what the boundary scan
captured, which is free (log 172). -/
def Obligations.RegisterAndPinCommands : Prop :=
  (∀ (path : Path) (off bytes : Nat) (s : State), s.pathAnswers path = true →
    let a := s.pathRead path off
    let b := a.2.pathRead path (off + 4)
    ∃ t, exec (.uptimeLoRead path off bytes) s = .next t ∧
      t.out = s.out ++ [.readData path off bytes (if bytes = 8 then a.1 + 2 ^ 32 * b.1
        else a.1 / 2 ^ (8 * (off % 4)) % 2 ^ (8 * bytes))] ∧
      { t with out := s.out, hiLatch := s.hiLatch, mq := s.mq } = s) ∧
  (∀ (off : Nat) (s : State), (s.pathRead .pf off).1 = s.regWord (off % 2 ^ 20 / 4 * 4)) ∧
  (∀ s : State, s.uptime.toNat + 1 = 2 ^ 40 → exec .uptimeWrap s = .next
    (({ s with uptime := 0, life := { s.life with
        base1 := (s.life.base1.getD 0 0 + 1099511) :: s.life.base1.drop 1 } } : State).fire EV_SYS_UPTIME_WRAP)) ∧
  (∀ (levels : Nat) (s : State), exec (.gpioEdge levels) s = .next
    (if s.alive && (List.range 4).any (fun n => bitAt s.pins.gpio n != bitAt levels n &&
        bitAt (s.fld SYS_GPIO_CTRL_EDGE_EN) n && !bitAt (s.fld SYS_GPIO_CTRL_OE) n) then
      ({ s with pins := { s.pins with gpio := levels % 16 } } : State).fire EV_SYS_GPIO_EDGE
     else { s with pins := { s.pins with gpio := levels % 16 } })) ∧
  (∀ (path : Path) (off v be : Nat) (s : State),
    (s.pathAnswers path = true →
      let t := s.pathWrite path off (v % 2 ^ 32) (be % 16)
      exec (.registerWrite path off v be) s = .next
        (if be < 16 then t else t.pathWrite path (off + 4) (v / 2 ^ 32 % 2 ^ 32) (be / 16)).settle) ∧
    (∀ fn r, path = .cfg fn r → s.alive = true → s.fnReached fn = true → s.configUp = false →
      exec (.registerWrite path off v be) s = .next { s with out := s.out ++ [.cfgRetry fn], mq := {} } ∧
      ∀ bytes, exec (.uptimeLoRead path off bytes) s = .next { s with out := s.out ++ [.cfgRetry fn], mq := {} }) ∧
    (s.pathAnswers path = false → (s.alive = false ∨ s.pathOpen path = false) →
      exec (.registerWrite path off v be) s = .next s ∧ ∀ bytes, exec (.uptimeLoRead path off bytes) s = .next s)) ∧
  (∀ (o v be : Nat) (s : State), s.pathWrite .pf o v be = s.regWrite (o % 2 ^ 20) v be) ∧
  (∀ (b : Nat) (more : List Nat) (s : State), s.i2cAnswers = true → b < 16 → exec (.i2cWrite (b :: more)) s = .next
    { s with
      pins := { s.pins with i2cPtr := b }, mq := {},
      out := s.out ++ [.i2cAck (true :: true :: List.replicate more.length false)] }) ∧
  (∀ (bytes : List Nat) (s : State), s.i2cAnswers = false → exec (.i2cWrite bytes) s = .next
    { s with mq := {}, out := s.out ++ [.i2cAck (List.replicate (bytes.length + 1) false)] }) ∧
  (∀ (n : Nat) (s : State), s.i2cAnswers = true → exec (.i2cRead n) s = .next
    { s with
      pins := { s.pins with i2cPtr := (s.pins.i2cPtr + n) % 16 }, mq := {},
      out := s.out ++ [.i2cAck [true],
        .i2c ((List.range n).map (fun k => BitVec.ofNat 8 (s.statusByte ((s.pins.i2cPtr + k) % 16))))] }) ∧
  (∀ (code : Nat) (scan : List Bool) (s : State),
    (code % 16 = 1 → exec (.jtagInstruction code scan) s = .next
      { s with
        pins := { s.pins with jtag := 1 }, mq := {},
        out := s.out ++ [.tdo (((List.range 32).map (bitAt 0x1168074B) ++ scan).take scan.length)] }) ∧
    (code % 16 = 0 ∨ code % 16 = 2 → exec (.jtagInstruction code scan) s = .next
      { s with
        pins := { s.pins with jtag := code % 16, boundary := scan }, mq := {}, freeCtr := s.freeCtr + 1,
        out := s.out ++ [.tdo ((List.range scan.length).map (Config.sampledBit s.freeCtr))] }) ∧
    (code % 16 = 3 ∨ 4 ≤ code % 16 → ∃ j, j = (if code % 16 = 4 ∨ code % 16 = 5 then code % 16 else 15) ∧
      exec (.jtagInstruction code scan) s = .next
        { s with
          pins := { s.pins with jtag := j }, mq := {},
          out := s.out ++ [.tdo ((false :: scan).take scan.length)] }))

/-- What a ball does (R44, R53, R149, R171): in reset, and up to step ROLE but for the I²C ball, as R44 lists it; FAULT_N
low while a source's STATUS is set or the safe state is in force; and, while RST_N is low, HIGHZ releases the balls the
boundary scan covers and EXTEST and CLAMP give them its bits, which nothing does once RST_N is high. -/
def Obligations.BallsFollowResetAndRole : Prop :=
  (∀ (s : State) (b : Ball), (s.boot.poc = true ∨ s.boot.rstLow = true) → s.jtagActs ≠ 0 → s.jtagActs ≠ 4 →
    s.jtagActs ≠ 5 → s.ball b = b.inReset) ∧
  (∀ (s : State) (b : Ball), s.boot.poc = false → s.boot.rstLow = false → s.bootStep < 4 → b ≠ .i2c →
    s.ball b = b.inReset) ∧
  (∀ s : State, s.boot.poc = false → s.boot.rstLow = false → 4 ≤ s.bootStep →
    s.ball .faultN = if s.anyStatus || s.safe then .low else .highZ) ∧
  (∀ (s : State) (b : Ball), s.boot.rstLow = true → b.scanned = true →
    (s.pins.jtag = 5 → s.ball b = .highZ) ∧ (s.pins.jtag = 0 ∨ s.pins.jtag = 4 → s.ball b = .scan)) ∧
  (∀ s : State, s.boot.rstLow = false → s.jtagActs ≠ 0 ∧ s.jtagActs ≠ 4 ∧ s.jtagActs ≠ 5)

/-! ## Processors, faults, tamper, temperature and power -/

/-- LEASE_EXPIRY of a valid lease outside the safe state clears VALID and sets EXPIRED, fires MPC_LEASE_EXPIRED,
fences the holder through MP_x_LEASE, which is ACTIVE no more, and lets the standby take over, then what was waiting
goes on.
STANDBY_HEARTBEAT_MISS with MP_x in STANDBY fires MPC_STANDBY_LOST and raises MP_x_LEASE. MP_SELF_CHECK_DONE with a
pass and a usable slot makes the first processor ACTIVE, with every lease and the slot shown, and the other STANDBY
with MPC_STANDBY_READY; a failure raises MP_x_CHECK. -/
def Obligations.ProcessorCommands : Prop :=
  (∀ (n us : Nat) (s : State), n < 32 → s.alive = true → s.safe = false →
    s.flag (bitFld rMPC_LEASE_VALID.off n) = true → exec (.leaseExpiry n us) s = .next
      (let h := s.fld MPC_MP_STAT_ACTIVE
       let t := (((s.setFlag (bitFld rMPC_LEASE_VALID.off n) false).setFlag (bitFld rMPC_LEASE_EXPIRED.off n) true).fire
         EV_MPC_LEASE_EXPIRED).faultFull (98 + h) 0 n false
       ((if t.mpIs (h == 1) = 3 then t.mpDown (h == 1) else t).takeover us).settle)) ∧
  (∀ s : State, s.safe = false → s.mpIs false = 2 → exec .standbyHeartbeatMiss s = .next
    ((s.fire EV_MPC_STANDBY_LOST).faultFull 98 0 0 false)) ∧
  (∀ s : State, s.safe = false → s.mpIs false ≠ 2 → s.mpIs true = 2 → exec .standbyHeartbeatMiss s = .next
    ((s.fire EV_MPC_STANDBY_LOST).faultFull 99 0 0 false)) ∧
  (∀ (mp : Bool) (slotOk : Nat) (s : State), 6 ≤ s.bootStep → s.safe = false → (s.mpIs mp = 1 ∨ s.mpIs mp = 5) →
    (∀ slot, s.loadImage slotOk = some slot →
      (s.mpActive = false → exec (.mpSelfCheckDone mp true slotOk) s = .next (((s.mpTake mp).showSlot slot).settle)) ∧
      (s.mpActive = true → exec (.mpSelfCheckDone mp true slotOk) s = .next
        ((s.setFld (mpState mp) 2).fire EV_MPC_STANDBY_READY))) ∧
    exec (.mpSelfCheckDone mp false slotOk) s = .next (s.faultFull (96 + mp.toNat) 0 0 false))

/-- FAULT_DETECTED from bring-up step 1 on raises the source, as a real cause, or as an injected one that uses up a
one-shot injection. FENCE_ACTION_DONE of a source outside the processors' ends FENCING and leaves ASSERTED only to a
level cause that holds. LULL_EXPIRY of a source that may recover, within LIMIT, exits it as RECOVERED, counts it in
RECOVERIES and WINDOW_CNT, opens its window, fires FLT_LULL_RECOVERED and restores what no source holds any more; past
LIMIT it latches it. FLT_CLEAR_SOURCE with KEY 0x4C7E of a source whose line is down exits it as cleared; of one whose
line is up it fires FLT_CLEAR_REFUSED alone. FLT_CLEAR_ALL tries every source in ascending number. LULL_WINDOW_END
ends the source's window and its count. -/
def Obligations.FaultCommands : Prop :=
  (∀ (src x syn : Nat) (s : State), s.bootStep ≠ 0 →
    exec (.faultDetected src x syn false) s = .next (s.faultFull src x syn false) ∧
    (s.flag (INJ_CTRL_ACTIVE (srcPage src)) = true →
      exec (.faultDetected src x syn true) s = .next ((s.faultFull src x syn true).injectDone (srcPage src)))) ∧
  (∀ (src : Nat) (holds : Bool) (s : State), s.flag (FLT_SRC_STAT_FENCING src) = true → (src < 96 ∨ 100 < src) →
    exec (.fenceActionDone src holds) s = .next ((s.setFlag (FLT_SRC_STAT_FENCING src) false).setFlag
      (FLT_SRC_STAT_ASSERTED src) (srcLevel src && holds))) ∧
  (∀ (src : Nat) (s : State), src < 124 → s.safe = false → s.flag (FLT_SRC_STAT_STATUS src) = true →
    s.flag (FLT_SRC_STAT_LATCHED src) = false → s.flag (FLT_SRC_STAT_FENCING src) = false →
    s.flag (FLT_SRC_CFG_EXIT src) = true → s.causeNow src = false →
    let d := fltDetail src (s.histOf src)
    let syn := (s.reg (histOff (s.histOf src) + 8)).toNat
    let cnt := if s.flt.windows.contains src then s.fld (FLT_SRC_STAT_WINDOW_CNT src) else 0
    (s.fld FLT_LULL_CFG_LIMIT ≤ cnt → exec (.lullExpiry src) s = .next
      ((((s.setFlag (FLT_SRC_STAT_LATCHED src) true).setFlag (FLT_SRC_STAT_ASSERTED src) false).histClose src 3).fireD
        EV_FLT_LULL_LATCHED d syn)) ∧
    (cnt < s.fld FLT_LULL_CFG_LIMIT →
      let t := ((s.exitSource src 2).bump (FLT_SRC_STAT_RECOVERIES src)).setFld (FLT_SRC_STAT_WINDOW_CNT src) (cnt + 1)
      let w : State := if s.flt.windows.contains src then t
        else { t with flt := { t.flt with windows := t.flt.windows ++ [src] } }
      exec (.lullExpiry src) s = .next (s.restoreFreed (w.fireD EV_FLT_LULL_RECOVERED d syn) src))) ∧
  (∀ (src : Nat) (r : State), r.up = true → src < 124 → r.flag (FLT_SRC_STAT_STATUS src) = true →
    let s := r.touchPage pFLT
    let d := fltDetail src (s.histOf src)
    let syn := (s.reg (histOff (s.histOf src) + 8)).toNat
    (s.safe = false → s.causeNow src = false → s.flag (FLT_SRC_STAT_FENCING src) = false →
      let t := ((s.exitSource src 1).setFlag (FLT_SRC_STAT_LATCHED src) false).setFld (FLT_SRC_STAT_WINDOW_CNT src) 0
      exec (.fltClearSource 0x4C7E src) r = .next (s.restoreFreed (({ t with flt := { t.flt with
        windows := t.flt.windows.filter (· != src) } } : State).fireD EV_FLT_FAULT_CLEARED d syn) src)) ∧
    (s.safe = true ∨ s.causeNow src = true ∨ s.flag (FLT_SRC_STAT_FENCING src) = true →
      exec (.fltClearSource 0x4C7E src) r = .next (s.fireD EV_FLT_CLEAR_REFUSED d syn))) ∧
  (∀ s : State, s.up = true → exec (.fltClearAll 0x4C7E) s = .next
    ((List.range 128).foldl State.tryClear (s.touchPage pFLT))) ∧
  (∀ (src : Nat) (s : State), s.flt.windows.contains src = true → exec (.lullWindowEnd src) s = .next
    (({ s with flt := { s.flt with windows := s.flt.windows.filter (· != src) } } : State).setFld
      (FLT_SRC_STAT_WINDOW_CNT src) 0))

/-- TAMPER_LOOP_WORD from the end of bring-up step 1 on, outside step 5, samples one word; it latches the tamper when
the word is bad and the run of bad words has reached MISS, and otherwise only counts it. TAMPER_SWITCH_OPEN shows the
switch open and latches with cause 3. TAMPER_ACK, served with the latch set, MISS good words and the switch low,
answers OK and clears the tamper for the right password, and answers TAMPER_LOCK for a wrong one; before those
conditions hold it answers TAMPER_LOCK. TMP_CTRL_CLEAR with its key and CLEAR on a dock under the same conditions
clears the tamper, and on a card changes nothing but the switch as it reads. The order of the loop's samples is the
model's (log 17, log 18), and so is what the password is compared with (log 82). -/
def Obligations.TamperCommands : Prop :=
  (∀ (halves : Nat) (served : List Nat) (s : State), 2 ≤ s.bootStep → s.bootStep ≠ 5 →
    let r := s.loopWord halves
    (r.1 ≠ 0 → s.tmpMiss ≤ r.2.tamper.missRun →
      exec (.tamperLoopWord halves served) s = .next (r.2.latchTamper r.1 served)) ∧
    (r.1 = 0 ∨ r.2.tamper.missRun < s.tmpMiss → exec (.tamperLoopWord halves served) s = .next r.2)) ∧
  (∀ (served : List Nat) (s : State), 2 ≤ s.bootStep → s.bootStep ≠ 5 → exec (.tamperSwitchOpen served) s = .next
    ((({ s with tamper := { s.tamper with switchHigh := true } } : State).setFlag TMP_STAT_SWITCH_OPEN_NOW
      true).latchTamper 3 served)) ∧
  (∀ (seq : Nat) (pw : List Byte) (s : State), pw.length ≤ 32 →
    s.cnServes 0x28 seq = true →
    let t := (s.cnHeard 0x28).setSwitch false
    (t.tamperClearable true = true →
      ((t.tamperPw pw).1 = true → exec (.tamperAck seq pw true) s = .next
        (((t.tamperPw pw).2.cnAnswer 0x28 (seq % 256) 0x00
          ((t.tamperPw pw).2.setFlag TMP_STAT_LATCHED false).tamperByte).clearTamper)) ∧
      ((t.tamperPw pw).1 = false → exec (.tamperAck seq pw true) s = .next
        ((t.tamperPw pw).2.cnAnswer 0x28 (seq % 256) 0x22 (t.tamperPw pw).2.tamperByte))) ∧
    (t.tamperClearable true = false → exec (.tamperAck seq pw true) s = .next
      (t.cnAnswer 0x28 (seq % 256) 0x22 t.tamperByte))) ∧
  (∀ s : State, s.isDock = true → (s.setSwitch false).up = true → (s.setSwitch false).tamperClearable true = true →
    exec (.tmpCtrlClear 0x17A3C true) s = .next (s.setSwitch false).clearTamper) ∧
  (∀ s : State, s.isCard = true → exec (.tmpCtrlClear 0x17A3C true) s = .next (s.setSwitch false))

/-- THS_SAMPLE while the part runs, with a sensor in use, keeps the four readings, takes the highest in use as the die
temperature, and from it sets the peak, the throttle level, the limit, the retune advice of both ports and the sensor
faults. PWR_CTRL_DOZE with its key on a running dock starts DOZE when nothing is outstanding and counts a refusal
otherwise. DOZE_ENTRY_DONE, with no flash operation issued, ends the entry of a dock: DOZE, PLL off, counted, timed,
and reported; a card rewrites its lifetime record first. DOZE_WAKE with a cause of the role ends an entry, and from
DOZE starts the wake. DOZE_WAKE_DONE ends in RUN with the PLL locked and the cause reported. What is rewritten at the
entry is a reading (log 67), and so is the temperature's path (log 70). -/
def Obligations.ThermalAndDozeCommands : Prop :=
  (∀ (t0 t1 t2 t3 : BitVec 16) (s : State) (a : Nat) (l : List Nat), s.alive = true →
    let off := sensorOff ([t0, t1, t2, t3].map (fun t => tempInt t.toNat))
    ((List.range 4).filter (fun i => !off i)).map (fun i => ([t0, t1, t2, t3].getD i 0).toNat) = a :: l →
    let w := l.foldl tempMax a
    let t := (((s.setFld THS_SENSOR_01_LOW t0.toNat).setFld THS_SENSOR_01_HIGH t1.toNat).setFld THS_SENSOR_23_LOW
      t2.toNat).setFld THS_SENSOR_23_HIGH t3.toNat
    exec (.thsSample t0 t1 t2 t3) s = .next ((((((((t.setFld THS_TEMP_TEMP w).peak w).throttle (tempInt w)).overLimit
      (tempInt w)).tuneDelta 0 (tempInt w)).tuneDelta 1 (tempInt w)).sensorFaults off))) ∧
  (∀ s : State, s.pageTakes pPWR = true →
    let t := s.touchPage pPWR
    t.isDock = true → t.up = true → t.powerState < 2 →
    (t.dozeReady = true → exec (.pwrCtrlDoze 0x1D02E) s = .next (t.setFld PWR_STAT_STATE 2)) ∧
    (t.dozeReady = false → exec (.pwrCtrlDoze 0x1D02E) s = .next
      ((t.bump PWR_DOZE_CNT_REFUSALS).fire EV_PWR_DOZE_REFUSED))) ∧
  (∀ (ms : Nat) (s : State), s.powerState = 2 → s.media.ops.any (·.issued) = false →
    let u := if s.isCard && s.up then s.writeLife else s
    let t := (((u.setFld PWR_STAT_STATE 3).setFlag CLK_PLL_STAT_LOCKED false).bump PWR_DOZE_CNT_ENTRIES).setFld
      PWR_WAKE_TIME_ENTRY_MS ms
    exec (.dozeEntryDone ms) s = .next ((((pllIslands t.role).foldl (fun (t : State) i =>
      t.fireD EV_CLK_ISLAND_GATED i 0) t).fire EV_CLK_ALL_STOPPED).fire EV_PWR_DOZE_ENTER)) ∧
  (∀ (cause : Nat) (s : State), (wakeOf s.role cause = true →
    (s.powerState = 2 → exec (.dozeWake cause) s = .next (s.setFld PWR_STAT_STATE 0)) ∧
    (s.powerState = 3 → exec (.dozeWake cause) s = .next
      ((s.setFld PWR_STAT_STATE 4).setFld PWR_STAT_WAKE_CAUSE cause))) ∧
    (wakeOf s.role cause = false → exec (.dozeWake cause) s = .next s)) ∧
  (∀ (us : Nat) (s : State), s.powerState = 4 →
    let t := ((s.setFld PWR_STAT_STATE 0).setFlag CLK_PLL_STAT_LOCKED true).setFld PWR_WAKE_TIME_WAKE_US us
    exec (.dozeWakeDone us) s = .next (((((((pllIslands t.role).foldl (fun (t : State) i =>
      t.fireD EV_CLK_ISLAND_UNGATED i 0) t).fireD EV_PWR_DOZE_EXIT (s.fld PWR_STAT_WAKE_CAUSE) 0).drive 0).drive
        1).pump)))

/-! ## The Counlet of a card -/

/-- CRST_N_LOW of 500 ns or more on a card, with no pulse or burn in progress and no reset of the chip in force or
waiting, resets the engine and fires CNA_CRST, with a pulse in progress it waits, and of less than 200 ns does nothing.
CRST_N_RELEASE brings etu 372 back and asks for an answer to reset. ANSWER_TO_RESET keeps the Card Parameter String in
CPS_0 to CPS_3, sends the answer and opens parameter selection; the clock it measures is free (log 22). PPS_REQUEST in
its place with a good check byte takes a pair of R116 and echoes it, and answers any other with FF 0E F1; with a bad
check byte it is a frame error. CHAR_WAIT_TIMEOUT and COUNLET_BAD_FRAME with a bad check end parameter selection, count a
frame error and report it; a character refused more than REPEAT_MAX times abandons the frame. COUNLET_REPEATED_REQUEST
sends the remembered answer again. Where no injection of the page is active: what one does to the frame is R146's. -/
def Obligations.CounletCharacterCommands : Prop :=
  (∀ (ns : Nat) (s : State), s.isCard = true → s.boot.poc = false → s.boot.rstLow = false → s.boot.waiting = [] →
    let t : State := { s with pins := { s.pins with crstHigh := false } }
    (500 ≤ ns → s.boot.fuse = none → exec (.crstNLow ns false) s = .next (((t.wake 2).cardCnReset).fire (EV_CN_CRST 0))) ∧
    (500 ≤ ns → exec (.crstNLow ns true) s = .next { t with boot := { t.boot with waiting := [.crstN] } }) ∧
    (ns < 200 → ∀ pulse, exec (.crstNLow ns pulse) s = .next s)) ∧
  (∀ s : State, s.isCard = true → s.boot.poc = false → s.pins.crstHigh = false → exec .crstNRelease s = .next
    (((({ s with pins := { s.pins with crstHigh := true } } : State).setFld (CN_ETU_ETU 0) 372).setFld
      (CN_STAT_FIDI 0) 0x11).askAtr)) ∧
  (∀ s : State, s.cardCn = true → s.cnA.atrDue = true →
    let t := ((List.range 4).foldl (fun (t : State) k =>
      t.setReg (rCN_CPS 0 k).off (BitVec.ofNat 32 (natBE (padTo 4 ((s.atrCps.drop (4 * k)).take 4))))) s).setFld
        (CN_CCLK_KHZ_KHZ 0) (Config.cclkKhz s.freeCtr).toNat
    exec .answerToReset s = .next (((({ t.spend with cnA := { t.cnA with atrDue := false, ppsOpen := true } } :
      State).setFld (CN_STAT_STATE 0) 3).emit (.atr s.atrBytes)).fire (EV_CN_ATR_DONE 0))) ∧
  (∀ (pps1 : Nat) (s : State), s.cnListens = true → (s.wake 2).cnA.ppsOpen = true →
    (s.wake 2).flag (INJ_CTRL_ACTIVE (pCN 0)) = false → pps1 < 256 →
    let t : State := { s.wake 2 with cnA := { (s.wake 2).cnA with ppsOpen := false } }
    let pck := fun (pps0 : Nat) => 0xFF ^^^ pps0 ^^^ pps1
    (fidiKnown pps1 = true → exec (.ppsRequest 0x1E pps1 (pck 0x1E)) s = .next
      ((((t.emit (.counlet 0 [0xFF, 0x1E, BitVec.ofNat 8 pps1, BitVec.ofNat 8 (pck 0x1E)])).setFld (CN_STAT_FIDI 0)
        pps1).setFld (CN_ETU_ETU 0) (etuOf pps1)).fire (EV_CN_PPS_DONE 0))) ∧
    (∀ pps0, pps0 < 256 → (pps0 ≠ 0x1E ∨ fidiKnown pps1 = false) → exec (.ppsRequest pps0 pps1 (pck pps0)) s = .next
      (t.emit (.counlet 0 [0xFF, 0x0E, 0xF1]))) ∧
    (∀ pps0 bad, pps0 < 256 → bad % 256 ≠ pck pps0 → exec (.ppsRequest pps0 pps1 bad) s = .next (t.frameError 0 0xFF 3))) ∧
  (∀ (port op index : Nat) (s : State), s.cnAlive port = true →
    let t : State := if s.isCard then { s.wake 2 with cnA := { (s.wake 2).cnA with ppsOpen := false } } else s
    exec (.charWaitTimeout port op index) s = .next
      ((t.bump (CN_ERR_CNT_FRAME port)).fireD (EV_CN_FRAME_ERROR port) (op % 256 + 256 * (index % 256)) 0)) ∧
  (∀ (port op index : Nat) (bytes : List Byte) (s : State), s.cnAlive port = true →
    (s.isCard = true → bytes ≠ [] →
      (bytes.length ≠ (bytes.getD 2 0).toNat + 5 ∨
        bytes.drop (bytes.length - 2) ≠ bytesBE 2 (Crypto.crc16 (bytes.take (bytes.length - 2)))) →
      exec (.counletBadFrame port 0 0 op index bytes) s = .next
        (({ s.wake 2 with cnA := { (s.wake 2).cnA with ppsOpen := false } } : State).frameError 0 op index)) ∧
    (∀ refused parity, s.isDock = true → s.fld (CN_CFG_REPEAT_MAX port) < refused → parity ≠ 0 →
      exec (.counletBadFrame port refused parity op index bytes) s = .next
        (((s.bumpBy (CN_ERR_CNT_REPEATS port) parity).fire (EV_CN_CHAR_REPEAT port)).charRefused port refused op index))) ∧
  (∀ (op seq : Nat) (frame : List Byte) (s : State), s.cnListens = true → (s.cnArrived op).1 = true →
    (s.cnArrived op).2.cnA.last = some (op, seq % 256, frame) →
    exec (.counletRepeatedRequest op seq) s = .next ((s.cnArrived op).2.emit (.counlet 0 frame)))

/-- Each of IDENT, STATUS, HEALTH, HIST_READ of 1 to 15 entries and REG_RD of an aligned offset in the window, where
the card serves it, is answered OK under its SEQ with what it reports, on the card as the request finds it. HIST_READ
of no entry or more than 15 answers NOT_PERMITTED, and REG_RD off alignment OUT_OF_RANGE. An answer is one frame of OP
with bit 7 set, the SEQ, the status and the payload, which is remembered, and CNA.STAT shows the SEQ. -/
def Obligations.CounletReportRequests : Prop :=
  (∀ (seq : Nat) (s : State), s.cnServes 0x01 seq = true →
    exec (.counletIdent seq) s = .next ((s.cnHeard 0x01).cnAnswer 0x01 (seq % 256) 0x00 (s.cnHeard 0x01).identBytes)) ∧
  (∀ (seq : Nat) (s : State), s.cnServes 0x02 seq = true →
    exec (.counletStatus seq) s = .next ((s.cnHeard 0x02).cnAnswer 0x02 (seq % 256) 0x00 (s.cnHeard 0x02).cnStatus)) ∧
  (∀ (seq : Nat) (s : State), s.cnServes 0x03 seq = true →
    exec (.counletHealth seq) s = .next
      ((s.cnHeard 0x03).cnAnswer 0x03 (seq % 256) 0x00 (s.cnHeard 0x03).healthRecord)) ∧
  (∀ (seq start count : Nat) (s : State), s.cnServes 0x04 seq = true →
    (1 ≤ count ∧ count ≤ 15 → exec (.histRead seq start count) s = .next
      ((s.cnHeard 0x04).cnAnswer 0x04 (seq % 256) 0x00 ((s.cnHeard 0x04).cnHist (start % 256) count))) ∧
    (count = 0 ∨ 15 < count → exec (.histRead seq start count) s = .next
      ((s.cnHeard 0x04).cnAnswer 0x04 (seq % 256) 0x32 []))) ∧
  (∀ (seq off : Nat) (s : State), s.cnServes 0x30 seq = true →
    (off % 4 = 0 ∧ off < 0x100000 → exec (.counletRegRd seq off) s = .next
      (((s.cnHeard 0x30).regRead off).2.cnAnswer 0x30 (seq % 256) 0x00 (bytesBE 4 ((s.cnHeard 0x30).regRead off).1))) ∧
    (off % 4 ≠ 0 ∨ 0x100000 ≤ off → exec (.counletRegRd seq off) s = .next
      ((s.cnHeard 0x30).cnAnswer 0x30 (seq % 256) 0x30 []))) ∧
  (∀ (op seq st : Nat) (payload : List Byte) (s : State),
    let frame := cnFrame (respOp op) seq (BitVec.ofNat 8 st :: payload)
    s.cnAnswer op seq st payload =
      { ({ s with cnA := { s.cnA with last := some (op, seq, frame) } } : State).setFld (CN_STAT_LAST_SEQ 0) seq with
        out := s.out ++ [.counlet 0 frame], mq := {} }) ∧
  (∀ op : Nat, op < 256 → respOp op = op % 128 + 128)

/-- LOCK_SET with passwords of at most 32 bytes and UNLOCK with 4 to 32, where the card serves them, run the lock
operation and answer its status, UNLOCK with the attempts left. FORCE_ERASE_ARM with the card's serial arms the erase
and answers OK with a fresh token, which is free; with another serial it answers OUT_OF_RANGE. FORCE_ERASE_CONFIRM
with the token, the serial, KEY and the random source in use answers OK and runs the erase; without them it disarms
and answers. ERASE_ARM_EXPIRY disarms an armed erase. FORCE_ERASE_BACKGROUND starts the erases that the next blocks of
the pass need, and keeps the progress in metadata. Which refusal comes first is a reading (log 79), and so is the
progress (log 81). -/
def Obligations.CounletLockRequests : Prop :=
  (∀ (seq scope action : Nat) (old new : List Byte) (s : State), old.length ≤ 32 → new.length ≤ 32 →
    s.cnServes 0x10 seq = true →
    let r := (s.cnHeard 0x10).runLockSet scope action old new
    exec (.counletLockSet seq scope action old new) s = .next (r.2.2.cnAnswer 0x10 (seq % 256) r.1 [])) ∧
  (∀ (seq scope : Nat) (pw : List Byte) (s : State), 4 ≤ pw.length → pw.length ≤ 32 →
    s.cnServes 0x11 seq = true →
    let r := (s.cnHeard 0x11).runUnlock scope pw
    exec (.counletUnlock seq scope pw) s = .next
      (r.2.2.cnAnswer 0x11 (seq % 256) r.1 (if r.1 = 0x00 ∨ r.1 = 0x20 then bytesBE 1 r.2.1 else []))) ∧
  (∀ (seq serial : Nat) (s : State), s.cnServes 0x12 seq = true →
    let t := s.cnHeard 0x12
    (serial = t.serial → t.rngUp = true →
      let u := t.spend.disarm
      exec (.forceEraseArm seq serial) s = .next
        (((({ u with cnA := { t.cnA with token := some (natBE (t.rand 4)) } } : State).armErase false).setFlag
          (CN_STAT_ERASE_ARMED 0) true).cnAnswer 0x12 (seq % 256) 0x00 (bytesBE 4 (natBE (t.rand 4))))) ∧
    (serial ≠ t.serial → exec (.forceEraseArm seq serial) s = .next (t.cnAnswer 0x12 (seq % 256) 0x30 []))) ∧
  (∀ (seq token serial : Nat) (s : State), s.cnServes 0x13 seq = true →
    let t := s.cnHeard 0x13
    (t.cnA.token = some token → serial = t.serial → t.ladderUp = true → t.rngUp = true →
      exec (.forceEraseConfirm seq token serial) s = .next
        (t.runErase (fun u => u.cnAnswer 0x13 (seq % 256) 0x00 []))) ∧
    (t.cnA.token ≠ some token ∨ serial ≠ t.serial →
      exec (.forceEraseConfirm seq token serial) s = .next (t.disarm.cnAnswer 0x13 (seq % 256) 0x32 []))) ∧
  (∀ s : State, s.fld LCK_ERASE_STAT_STATE = 1 → exec .eraseArmExpiry s = .next s.disarm) ∧
  (∀ (blocks : Nat) (s : State), s.isCard = true → s.ready = true → s.safe = false → s.coreRuns = true →
    s.media.erasing = true →
    let js := (List.range (min blocks (s.eraseTotal - s.media.eraseNext))).map (s.media.eraseNext + ·)
    let t := (js.filterMap s.eraseWanted).foldl State.pushOp s
    exec (.forceEraseBackground blocks) s = .next
      ((({ t with media := { t.media with eraseNext := s.media.eraseNext + js.length } } : State).issueAll).eraseProgress))

/-- PAIR_BEGIN with stepping 0xB0 draws a card nonce, which is free, keeps both nonces and the mode, prove or enrol of
a slot, and answers OK with the slots in use and the nonce; with another stepping it answers CRED_FAIL. PAIR_PROOF in
prove mode with a proof valid under P_0 sets the credential and opens a session at epoch 0; with one valid under no
slot it counts a failure, fires KEY_PAIR_FAIL, ends the credential and answers CRED_FAIL. PAIR_PROOF in enrol mode of
a free slot, with the credential and no card-wide lock, commits the key and answers OK. PAIR_DROP of a slot overwrites
its key and answers OK, and ends the credential that rests on it. The order of the refusals is a reading (log 84, log
85). -/
def Obligations.CounletPairingRequests : Prop :=
  (∀ (seq : Nat) (nonce : List Byte) (s : State), nonce.length = 16 →
    let t := s.cnHeard 0x20
    let u := t.drawNonce
    (∀ mode : PairMode, ∀ i : Instr, (i = .pairBeginProve seq 0xB0 nonce ∧ mode = .prove ∨
        ∃ slot, slot < 2 ∧ i = .pairBeginEnrol seq slot 0xB0 nonce ∧ mode = .enrol slot) →
      s.cnServes 0x20 seq = true → t.rngUp = true → exec i s = .next
        (({ u with cnA := { u.cnA with pair := mode, nonceH := nonce, nonceC := t.pairNonce } } : State).cnAnswer 0x20
          (seq % 256) 0x00 (bytesBE 1 t.slotsUsed ++ t.pairNonce))) ∧
    (∀ stepping : Nat, stepping ≠ 0xB0 → s.cnServes 0x20 seq = true →
      exec (.pairBeginProve seq stepping nonce) s = .next (t.cnAnswer 0x20 (seq % 256) 0x21 []))) ∧
  (∀ (seq : Nat) (proof : List Byte) (s : State), proof.length = 32 →
    s.cnServes 0x21 seq = true → (s.cnHeard 0x21).cnA.pair = .prove →
    (s.cnHeard 0x21).flag (CN_PAIR_STAT_REFUSED 0) = false → (s.cnHeard 0x21).ladderUp = true →
    let t : State := { s.cnHeard 0x21 with cnA := { (s.cnHeard 0x21).cnA with pair := .none } }
    (t.proofValid 0 proof = true → t.proofValid 1 proof = false →
      exec (.pairProofProve seq proof) s = .next
        ((((((t.setFlag (CN_STAT_CRED 0) true).setFld (CN_STAT_PAIR_SLOT 0) 0).setFld (CN_STAT_STATE 0) 4).openSession 0
          (sessionSecret (t.pairKey 0) t.cnA.nonceH t.cnA.nonceC t.serial)).cnAnswer 0x21 (seq % 256) 0x00
            (bytesBE 1 0 ++ t.cardProof (t.pairKey 0))))) ∧
    (t.proofValid 0 proof = false → t.proofValid 1 proof = false →
      exec (.pairProofProve seq proof) s = .next (t.countFail.dropCred.cnAnswer 0x21 (seq % 256) 0x21 []))) ∧
  (∀ (seq slot : Nat) (key : List Byte) (s : State), key.length = 32 →
    s.cnServes 0x21 seq = true → (s.cnHeard 0x21).cnA.pair = .enrol slot →
    (s.cnHeard 0x21).flag (CN_PAIR_STAT_REFUSED 0) = false → (s.cnHeard 0x21).ladderUp = true →
    let t : State := { s.cnHeard 0x21 with cnA := { (s.cnHeard 0x21).cnA with pair := .none } }
    t.pairUsed slot = false → t.lockForce 16 = false → t.flag (CN_STAT_CRED 0) = true →
    exec (.pairProofEnrol seq key) s = .next
      (((((t.commitKey (0x13 + slot) 5 (t.nextKgen (0x13 + slot)) key 0).setPairKey slot key).fire
        EV_KEY_PAIR_ADDED).cnAnswer 0x21 (seq % 256) 0x00 (bytesBE 1 slot ++ t.cardProof key)))) ∧
  (∀ (seq slot : Nat) (s : State), slot ≤ 1 → s.cnServes 0x22 seq = true →
    let t := s.cnHeard 0x22
    t.lockForce 16 = false → t.ladderUp = true →
    let u := ((((t.overwriteKey (0x13 + slot) 5).setPairKey slot []).fire EV_KEY_PAIR_DROPPED).cnAnswer 0x22 (seq % 256)
      0x00 [])
    exec (.pairDrop seq slot) s = .next (if t.fld (CN_STAT_PAIR_SLOT 0) = slot then u.dropCred else u))

/-- FW_SLOT_WRITE of 4 to 248 bytes in fours at an aligned offset with clean CONTROL, where the card serves it, stages
the bytes and answers the result. LINK_RESET answers OK, resets the link layer, counts it, ends the credential and
forgets the request. KEY_QUIESCE_HOLD_EXPIRY on a card whose KEY starts no operation answers the oldest Counlet request
held for KEY with BUSY_RETRY, or drops it without an answer where the engine was reset since (which waits end first is the
model's choice, log 86). -/
def Obligations.CounletServiceRequests : Prop :=
  (∀ (seq control off : Nat) (data : List Byte) (s : State), 4 ≤ data.length → data.length ≤ 248 →
    data.length % 4 = 0 → off % 4 = 0 → bitsOf control 1 6 = 0 →
    s.cnServes 0x38 seq = true →
    let r := (s.cnHeard 0x38).stageBytes (bitsOf control 0 1) off data (bitAt control 7)
    exec (.fwSlotWrite seq control off data) s = .next (r.2.cnAnswer 0x38 (seq % 256) r.1 [])) ∧
  (∀ (seq : Nat) (s : State), s.cnServes 0x3F seq = true →
    let t := ((((s.cnHeard 0x3F).cnAnswer 0x3F (seq % 256) 0x00 []).cardLinkReset.countLinkReset 0).dropCred)
    exec (.counletLinkReset seq) s = .next { t with cnA := { t.cnA with last := none } }) ∧
  (∀ (h : HeldCn) (s : State), s.isCard = true → s.keyHolds = true → s.keys.heldReq.find? HeldCn.forKey = some h →
    let t : State := { s with keys := { s.keys with heldReq := s.keys.heldReq.erase h } }
    (h.lost = false → exec .keyQuiesceHoldExpiry s = .next (t.cnRefuse (heldOp h.req).1 ((heldOp h.req).2 % 256) 0x33)) ∧
    (h.lost = true → exec .keyQuiesceHoldExpiry s = .next t))

/-! ## The Counlets of a dock -/

/-- On a dock in use: CARD_INSERTION with CD_N high until then marks the card present, fires SPx_CARD_IN and, with
AUTO_LINKUP, begins the link-up. INS_DELAY_EXPIRY, LINKUP_RETRY_EXPIRY and RELINK_EXPIRY release CRST_N and await the
answer to reset. ATR_RECEIVED whose characters arrive takes an answer in the layout of R119, and another one, like
ATR_TIMEOUT, counts a failed try. DOCK_COUNLET_RESPONSE whose frame arrives whole carries parameter selection or, as the
response to the dock's own request, the pairing on. CARD_REMOVAL after 10 µs or more of CD_N high ends what the port had,
after less than 8 µs nothing happens; what lies between is free (log 16). -/
def Obligations.DockCardCommands : Prop :=
  (∀ (p : Nat) (s : State), s.isDock = true → p < 2 →
    let t := s.cdChange
    let u := (t.setCn p { t.cn p with cdLow := true, removals := [] })
    let v := u.setSp p { u.sp p with drained := false }
    (s.cn p).cdLow = false → v.up = true → v.safe = false →
    let w := (v.setFlag (SP_STAT_CARD_PRESENT p) true).fire (EV_SP_CARD_IN p)
    (w.flag (CN_CFG_AUTO_LINKUP p) = true → exec (.cardInsertion p) s = .next (w.startLinkup p)) ∧
    (w.flag (CN_CFG_AUTO_LINKUP p) = false → exec (.cardInsertion p) s = .next w)) ∧
  (∀ (p : Nat) (s : State), s.cnRuns p = true →
    ((s.cn p).phase = .insDelay → exec (.insDelayExpiry p) s = .next (s.releaseCrst p)) ∧
    ((s.cn p).phase = .retryHold → s.linkState p = lnkLinkup →
      exec (.linkupRetryExpiry p) s = .next (s.releaseCrst p)) ∧
    ((s.cn p).phase = .retryHold → s.linkState p = lnkRemoved → (s.cn p).cdLow = true →
      s.flag (CN_CFG_AUTO_LINKUP p) = true → exec (.relinkExpiry p) s = .next ((s.startLinkup p).releaseCrst p)) ∧
    ((s.cn p).phase = .atr → exec (.atrTimeout p) s = .next (s.atrFails p) ∧
      ∀ bytes, let r := s.cnChars p
        (r.1 = true → atrGood bytes = true → exec (.atrReceived p bytes) s = .next (r.2.atrTaken p bytes)) ∧
        (r.1 = false ∨ atrGood bytes = false → exec (.atrReceived p bytes) s = .next (r.2.atrFails p)))) ∧
  (∀ (p op seq : Nat) (payload : List Byte) (s : State), s.cnRuns p = true → s.cnOwn p = true →
    let r := s.cnReceive p op
    (r.1 = true → (r.2.cn p).phase = .pps → op % 256 = 0xFF →
      exec (.dockCounletResponse p op seq payload) s = .next (r.2.ppsAnswer p seq payload)) ∧
    (∀ o sent, r.1 = true → (r.2.cn p).phase ≠ .pps → (r.2.cn p).last = some (o, seq, sent) → respOp o = op % 256 →
      exec (.dockCounletResponse p op seq payload) s = .next ((r.2.cnRest p).pairAnswer p payload)) ∧
    (r.1 = false → exec (.dockCounletResponse p op seq payload) s = .next r.2)) ∧
  (∀ (p highUs : Nat) (s : State), s.isDock = true → p < 2 → (s.cn p).cdLow = true →
    let u := s.cdChange.setCn p { s.cdChange.cn p with cdLow := false, removals := [] }
    (10 ≤ highUs → u.up = true → exec (.cardRemoval p highUs) s = .next
      (((u.setFlag (SP_STAT_CARD_PRESENT p) false).removePort p).pump)) ∧
    (highUs < 8 → exec (.cardRemoval p highUs) s = .next s))

/-- On a CN page of a dock that takes writes: MBX_GO of a free mailbox takes the payload from MBX_TX; a pairing
operation ends with RESULT 4, without an open channel or the dock's own request on it it ends with 1, and otherwise the
request is sent once the channel is free. While a request is in progress only OP and LEN take the write. RESTART,
ENROL_REQ and HOLD_RESET act on the port. MBX_RESPONSE whose frame arrives whole, to the request outstanding, fills
MBX_RX, shows the length and status and ends with RESULT 0, and the channel goes on. MBX_RESP_TIMEOUT sends a request
that was sent again, and after two resends ends it with 2. What stays in MBX_RX past the payload is a reading
(log 111). -/
def Obligations.DockMailboxCommands : Prop :=
  (∀ (p : Nat) (s : State), s.isDock = true → p < 2 → s.pageTakes (pCN p) = true →
    let t := s.touchPage (pCN p)
    exec (.cnRestart p) s = .next (t.cnRestart p) ∧
    (∀ slot, exec (.enrolReq p slot) s = .next (t.startEnrol p slot)) ∧
    (∀ on, exec (.holdReset p on) s = .next (t.holdReset p on)) ∧
    (∀ op len,
      let w := (t.setFld (CN_MBX_CTRL_OP p) op).setFld (CN_MBX_CTRL_LEN p) len
      let u := ((w.setFlag (CN_MBX_CTRL_GO p) true).setFlag (CN_MBX_STAT_DONE p) false).setFlag (CN_MBX_STAT_BUSY p) true
      let v := u.setCn p { u.cn p with mbx := some (op % 256, 256, u.mailboxTx p (len % 256)), resends := 0 }
      (w.flag (CN_MBX_STAT_BUSY p) = true → exec (.mbxGo p op len) s = .next w) ∧
      (w.flag (CN_MBX_STAT_BUSY p) = false →
        (op % 256 = 0x20 ∨ op % 256 = 0x21 → exec (.mbxGo p op len) s = .next (v.endMailbox p 4)) ∧
        (op % 256 ≠ 0x20 → op % 256 ≠ 0x21 → v.cnOpen p = false → v.cnOwn p = false →
          exec (.mbxGo p op len) s = .next (v.endMailbox p 1)) ∧
        (op % 256 ≠ 0x20 → op % 256 ≠ 0x21 → v.cnOpen p = true ∨ v.cnOwn p = true →
          (v.cnFree p = true → (v.cn p).wantPair = false → (v.cn p).enrol = none →
            exec (.mbxGo p op len) s = .next (v.sendMailbox p)) ∧
          (v.cnFree p = false → exec (.mbxGo p op len) s = .next v))))) ∧
  (∀ (p op seq o : Nat) (payload sent : List Byte) (s : State), s.cnRuns p = true →
    let r := s.cnReceive p op
    r.1 = true → (r.2.cn p).mbx = some (o, seq, sent) → respOp o = op % 256 →
    exec (.mbxResponse p op seq payload) s = .next
      ((((((r.2.cnRest p).mailboxRx p payload).setFld (CN_MBX_STAT_RESP_LEN p) payload.length).setFld (CN_MBX_STAT_ST p)
        (payload.headD 0).toNat).endMailbox p 0).cnGo p)) ∧
  (∀ (p op seq : Nat) (payload : List Byte) (s : State), s.cnRuns p = true → seq < 256 →
    (s.cn p).mbx = some (op, seq, payload) →
    ((s.cn p).resends < 2 → exec (.mbxRespTimeout p) s = .next
      ((s.setCn p { s.cn p with resends := (s.cn p).resends + 1, rested := false }).emit
        (.counlet p (cnFrame op seq payload)))) ∧
    (2 ≤ (s.cn p).resends → exec (.mbxRespTimeout p) s = .next ((s.endMailbox p 2).cnGo p)))

/-! ## Spantoen commands of a card -/

/-- On a card where the frame verifies under FC fc: SP_PING with a new FC answers OK at once with the state of the
eight FCs its argument asks for, and takes the FC into the window. SPANTOEN_UNKNOWN_OP with a new FC answers
NOT_PERMITTED and fires CMD_NOT_PERMITTED. DUPLICATE_FC of a command still outstanding is dropped; of a completed
command of class S without units it is answered again, with OK_REPLAYED for OK and OK_CORRECTED and with the first
status otherwise, and fires CMD_DEDUP; of one of class N, or one no longer remembered, it is counted and answered
REPLAY_REJECTED. What was waiting then goes on. -/
def Obligations.FrameAnswers : Prop :=
  (∀ (c : Cmd) (fc : Nat) (s : State), s.Accepts 0 c fc →
    exec (.spPing c) s = .next (s.taken 0 c fc [] 0).cardOn ∧
    ∃ (t : State) (o : Outst), o.op = 0 ∧ o.fc = fc ∧ t.spA.accepted.contains fc = true ∧
      s.taken 0 c fc [] 0 = t.finish o 0x00 (t.pingInfo fc (cutCmd c).arg) none []) ∧
  (∀ (op : Nat) (c : Cmd) (fc : Nat) (s : State), op < 64 → knownOp op = false → s.Verifies op c fc →
    s.frameHeard.spA.accepted.contains fc = false → exec (.spantoenUnknownOp op c) s = .next
      ((((s.frameHeard.takesToken op (cutCmd c)).fireI EV_CMD_NOT_PERMITTED (cutCmd c).inst 0 0).respond (cutCmd c).epoch
        (cutCmd c).inst (cutCmd c).tag 0x32 0 none).cardOn)) ∧
  (∀ (op : Nat) (c : Cmd) (fc : Nat) (s : State), op < 64 → s.Verifies op c fc →
    let t := s.frameHeard
    let d := cutCmd c
    t.spA.accepted.contains fc = true →
    (t.hasOut fc = true → exec (.duplicateFc op c) s = .next t.cardOn) ∧
    (t.hasOut fc = false →
      (∀ x, t.spA.dedup.find? (fun x => x.fc == fc) = some x → classN x.op = false → x.units = [] →
        exec (.duplicateFc op c) s = .next ((((t.bump (INS_CMD_CNT_DEDUP d.inst)).fireI EV_CMD_DEDUP d.inst 0 0).respond
          d.epoch d.inst d.tag (if x.st = 0x00 ∨ x.st = 0x01 then 0x02 else x.st) x.info none).cardOn)) ∧
      ((t.spA.dedup.find? (fun x => x.fc == fc)).all (fun x => classN x.op) = true →
        exec (.duplicateFc op c) s = .next ((((t.bump (LSE_CNT_REPLAY 0)).fireI (EV_LSE_REPLAY_REJECTED 0) d.inst
          (d.tag % 256 + op % 64 * 256 + d.epoch % 4 * 2 ^ 14) (fc % 2 ^ 32)).respond d.epoch d.inst d.tag 0x12 0
            none).cardOn))))

/-- Where the card accepts the frame and nothing holds its command, the command starts at once: READ reads its units
as they stand and sends them with OK, OK_CORRECTED or the status of the unit that failed; WRITE reserves its records;
DISCARD commits one range record and answers OK, or INTERNAL where its commit line fails the read-back; BARRIER answers
OK and fires CMD_BARRIER_DONE; SETTLE pads what waits for a page and waits; SEG_OPEN opens a segment and answers OK;
SEG_CLOSE closes it and sends the seal. A unit that is ready is then read out, and the commands of an instance that a
table page has fenced end. When the records of a WRITE are reserved is the model's choice (log 97), and what a READ sees
a reading (log 96). -/
def Obligations.DataCommandsStart : Prop :=
  (∀ (c : Cmd) (fc : Nat) (env : List MediaRead) (s : State) (o : Outst), s.Starts 0x02 c fc env 0 o →
    let r := (s.taken 0x02 c fc env 0).readUnits o.inst (argAddr o.arg) (argCnt o.arg + 1) o.env
    (r.2.2.1 = none → exec (.spRead c env) s = .next
      (r.2.2.2.sendAll o r.1 (if r.2.1 = 0 then 0x00 else 0x01) r.2.1).goesOn) ∧
    (∀ st, r.2.2.1 = some st → exec (.spRead c env) s = .next
      (r.2.2.2.sendAll o r.1 st (if st = 0x42 then 0 else r.1.length)).goesOn)) ∧
  (∀ (c : Cmd) (fc : Nat) (s : State) (o : Outst),
    (s.Starts 0x03 c fc [] 0 o → let t := s.taken 0x03 c fc [] 0
      let n := argCnt o.arg + 1
      n ≤ 1024 → t.writeFenced = false → t.noRoom = false → t.fits 1 n = true →
      let u := t.noteHigh (t.allocWrites 1 o.inst (argAddr o.arg) 0 (t.globalUnit o.inst (argAddr o.arg)) n)
      let seqs := (u.lnd.recs.drop (u.lnd.recs.length - n)).map (·.seq)
      exec (.spWrite c) s = .next
        ((u.updOut o.fc (fun x => { x with held := false, seqs := seqs })).commitUnits o.fc n).goesOn) ∧
    (∀ readback : Bool, s.Starts 0x05 c fc [] (!readback).toNat o → let t := s.taken 0x05 c fc [] (!readback).toNat
      t.writeFenced = false → t.noRoom = false → t.fits 2 1 = true →
      let u := t.noteHigh (t.allocRecord 2 o.inst (argCnt o.arg) (argAddr o.arg) 0
        (t.globalUnit o.inst (argAddr o.arg)))
      ∀ r, u.lnd.recs.getLast? = some r →
        let v := (u.commitRec r []).injUsed pLND 1
        exec (.spDiscard c readback) s = .next (if readback && !u.injects pLND 1 then (v.segJoin r.seq).done o 0x00 0
          else v.readbackFails o r (u.injects pLND 1)).goesOn) ∧
    (s.Starts 0x06 c fc [] 0 o → exec (.spBarrier c) s = .next
      ((((s.taken 0x06 c fc [] 0).done o 0x00 0).fireI EV_CMD_BARRIER_DONE o.inst 0 0).goesOn)) ∧
    (s.Starts 0x07 c fc [] 0 o → let t := s.taken 0x07 c fc [] 0
      exec (.spSettle c) s = .next (((if t.placing then (t.padHalf 0).padHalf 1 else t).updOut o.fc
        (fun x => { x with held := false })).goesOn)) ∧
    (s.Starts 0x08 c fc [] 0 o → let t := s.taken 0x08 c fc [] 0
      t.keys.slk ≠ [] → t.segOf o.inst = none → exec (.segOpen c) s = .next
        (((t.openSegment o.inst (argAddr o.arg)).done o 0x00 0).goesOn)) ∧
    (s.Starts 0x09 c fc [] 0 o → let t := s.taken 0x09 c fc [] 0
      t.keys.slk ≠ [] → let r := t.closeSegment o.inst (argAddr o.arg)
      (∀ u, r.2.1 = some u → exec (.segClose c) s = .next
        (((r.2.2.sendAll o [u] r.1 0).updOut o.fc (fun x => { x with unit := some u })).goesOn)) ∧
      (r.2.1 = none → exec (.segClose c) s = .next ((r.2.2.done o r.1 0).goesOn))))

/-- Where the card accepts the frame and nothing holds its command: IDENTIFY, HEALTH, REG_RD and LOG_READ send their
one unit, LOG_READ with the records it took. TUNE_RD above SPD_0 answers OK and sends a tuning frame. TUNE_WR above
SPD_0 puts the taps of ARG in force and answers OK with the lines that passed; all eight tune the port. SPEED_SET
answers OK at the old mode and switches; to SPD_0 it ends a tune under way and counts a retrain. LINK_KEY of the next
epoch holds its key and answers the card's nonce, which is free. DOZE with DOZE_EN answers OK and the part enters DOZE.
When the register words are read is a reading (log 125), and so is the end of a DOZE that is refused (log 69); when a
tune ends at the card is the model's choice (log 127). -/
def Obligations.LinkCommandsStart : Prop :=
  ∀ (c : Cmd) (fc : Nat) (frames : List Nat) (s : State) (o : Outst),
    (s.Starts 0x01 c fc [] 0 o → let t := s.taken 0x01 c fc [] 0
      exec (.spIdentify c) s = .next
        ((t.sendAll o [padTo 4096 (padTo 32 t.identBytes ++ t.cps t.cpsBits t.summaryNow.2)] 0x00 0).goesOn)) ∧
    (s.Starts 0x0C c fc [] 0 o →
      let r := (s.taken 0x0C c fc [] 0).readRegs (o.arg % 2 ^ 20) (o.arg / 2 ^ 20 + 1)
      exec (.regRd c) s = .next ((r.2.sendAll o [padTo 4096 r.1] 0x00 0).goesOn)) ∧
    (s.Starts 0x10 c fc [] 0 o → (s.taken 0x10 c fc [] 0).fld (SP_STAT_MODE 0) ≠ 0 → let t := s.taken 0x10 c fc [] 0
      exec (.tuneRd c) s = .next
        (((({ t with spA := { t.spA with tuneWrs := 1 } } : State).done o 0x00 0).emit (.tuneFrame 0 tuneFrames)).goesOn)) ∧
    (s.Starts 0x11 c fc [] (tuneMask frames) o → (s.taken 0x11 c fc [] (tuneMask frames)).fld (SP_STAT_MODE 0) ≠ 0 →
      let lines := tuneMask frames % 256
      let t := (s.taken 0x11 c fc [] (tuneMask frames)).setTaps 0 ((List.range 8).map (fun n => bitsOf o.arg (6 * n) 6))
      (lines = 0xFF → exec (.tuneWr c frames) s = .next
        ((((t.tunePassed 0).noteTuneWr 0xFF).finish o 0x00 0xFF (some 0xFF) []).goesOn)) ∧
      (lines ≠ 0xFF → exec (.tuneWr c frames) s = .next
        ((((t.setFlag (SP_STAT_TUNED 0) false).noteTuneWr lines).finish o 0x00 lines (some lines) []).goesOn))) ∧
    (s.Starts 0x12 c fc [] 0 o → let t := ((s.taken 0x12 c fc [] 0).done o 0x00 0).switchMode 0 (o.arg % 4)
      (o.arg % 4 ≠ 0 → exec (.speedSet c) s = .next t.goesOn) ∧
      (o.arg % 4 = 0 → let u := if t.spA.tuneWrs = 0 then t else t.tuneOver
        exec (.speedSet c) s = .next (({ u.bump (SP_RETRAIN_CNT_RETRAINS 0) with
          life := { u.life with retrains := u.life.retrains + 1 } } : State).goesOn))) ∧
    (s.Starts 0x13 c fc [] 0 o → let t := s.taken 0x13 c fc [] 0
      t.flag (LSE_STAT_NEXT_HELD 0) = false → o.arg % 4 = (t.fld (LSE_STAT_EPOCH 0) + 1) % 4 → t.keyFenced = false →
      t.rngUp = true → let nonce := natBE (t.rand 2)
      exec (.linkKey c) s = .next
        (((t.spend.openRekey 0 (o.arg % 4) (o.arg / 2 ^ 16 % 2 ^ 32) nonce).done o 0x00 nonce).goesOn)) ∧
    (s.Starts 0x15 c fc [] 0 o → let t := s.taken 0x15 c fc [] 0
      exec (.spHealth c) s = .next ((t.sendAll o [padTo 4096 t.healthRecord] 0x00 0).goesOn)) ∧
    (s.Starts 0x16 c fc [] 0 o → let t := s.taken 0x16 c fc [] 0
      let n := min (if o.arg = 0 then 64 else o.arg) (t.fld EVT_RING_STAT_COUNT)
      let u := bytesBE 1 n ++ bytesBE 1 (t.fld EVT_RING_STAT_COUNT - n) ++ bytesBE 2 (t.fld EVT_RING_STAT_DROPPED) ++
        List.replicate 12 0 ++ (List.range n).flatMap t.ringRecord
      exec (.logRead c) s = .next
        (((t.sendAll o [padTo 4096 u] 0x00 0).updOut o.fc (fun x => { x with fin := n })).goesOn)) ∧
    (s.Starts 0x17 c fc [] 0 o → (s.taken 0x17 c fc [] 0).flag PWR_CFG_DOZE_EN = true →
      exec (.spDoze c) s = .next ((((s.taken 0x17 c fc [] 0).done o 0x00 0).startDoze).goesOn))

/-- Where the card accepts the frame and nothing holds its command: FW_STAGE of the slot that does not run, within its
space, waits for its units; FW_ACTIVATE of a slot that may be activated begins; FORCE_ERASE arm with the serial's low
bits arms the erase and answers a fresh token, which is free; FORCE_ERASE confirm with the token armed for it and the
serial runs the erase and answers OK. ACTIVATION_SELF_CHECK_DONE with a standby: a pass with the lease kept hands over and
ends OK, a lost lease ends with INTERNAL, a failure ends with INTEGRITY and raises MP_x_CHECK. FLOOR_BURN picks the lowest
unburned floor fuse; FUSE_BURN_DONE burns it, and ends the floor once it is reached. The order of the handover is a
reading (log 48), and what refuses an erase first too (log 79). -/
def Obligations.FirmwareAndEraseCommands : Prop :=
  (∀ (c : Cmd) (fc : Nat) (s : State) (o : Outst),
    (s.Starts 0x18 c fc [] 0 o → let t := s.taken 0x18 c fc [] 0
      bitsOf o.arg 24 1 ≠ t.runSlot → 4096 * (bitsOf o.arg 12 12 + (argCnt o.arg + 1)) ≤ 1048576 →
      t.slotPlaceable (bitsOf o.arg 24 1) = true → exec (.fwStage c) s = .next
        (((t.updOut o.fc (fun x => { x with held := false })).stageUnits o.fc (argCnt o.arg + 1)).goesOn)) ∧
    (s.Starts 0x19 c fc [] 0 o → let t := s.taken 0x19 c fc [] 0
      (t.activateBad (o.arg % 2) = false → exec (.fwActivate c) s = .next
        ((({ t with firm := { t.firm with activating := some (o.arg % 2), activTag := some o.fc } } : State).updOut o.fc
          (fun x => { x with held := false })).goesOn)) ∧
      (t.activateBad (o.arg % 2) = true → exec (.fwActivate c) s = .next ((t.done o 0x32 0).goesOn))) ∧
    (s.Starts 0x1B c fc [] 0 o → let t := s.taken 0x1B c fc [] 0
      o.arg % 2 ^ 24 = t.serial % 2 ^ 24 →
      (o.arg / 2 ^ 46 = 1 → t.rngUp = true →
        let token := natBE (t.rand 2)
        let u := t.spend
        exec (.spantoenForceEraseArm c) s = .next
          (((({ u with spA := { u.spA with eraseToken := some token } } : State).armErase true).done o 0x00
            token).goesOn)) ∧
      (o.arg / 2 ^ 46 = 2 → s.frameHeard.spA.eraseToken = some (bitsOf o.arg 24 16) → t.ladderUp = true →
        t.rngUp = true →
        exec (.spantoenForceEraseConfirm c) s = .next ((t.runErase (fun u => u.done o 0x00 0)).goesOn)) ∧
      (o.arg / 2 ^ 46 = 2 → s.frameHeard.spA.eraseToken ≠ some (bitsOf o.arg 24 16) →
        exec (.spantoenForceEraseConfirm c) s = .next (((t.disarm).done o 0x32 0).goesOn)))) ∧
  (∀ (slot : Nat) (mp : Bool) (s : State), s.firm.activating = some slot →
    [false, true].find? (fun mp => s.mpIs mp == 2) = some mp →
    let t : State := { s with firm := { s.firm with activating := none, activTag := none } }
    exec (.activationSelfCheckDone true true) s = .next ((t.handOver slot mp).activateEnds s.firm.activTag 0x00 0).settle ∧
    exec (.activationSelfCheckDone true false) s = .next
      (((t.setFld (mpState mp) 1).activateEnds s.firm.activTag 0x7F 3).settle) ∧
    ∀ kept, exec (.activationSelfCheckDone false kept) s = .next
      (((t.activateEnds s.firm.activTag 0x41 1).faultFull (96 + mp.toNat) 0 slot false).settle)) ∧
  (∀ (v i : Nat) (s : State), s.boot.floorTo = some v → s.fwFloor < v → s.ready = true → s.boot.fuse = none →
    s.boot.waiting = [] → s.keyHolds = false → s.ladderUp = true →
    (List.range 128).find? (fun i => !s.floorBits.testBit i) = some i →
    exec .floorBurn s = .next { s with boot := { s.boot with fuse := some i } }) ∧
  (∀ (v : Nat) (s : State), s.endBurn.boot.floorTo = some v →
    (v ≤ s.endBurn.fwFloor → exec .fuseBurnDone s = .next
      { s.endBurn with boot := { s.endBurn.boot with floorTo := none } }) ∧
    (s.endBurn.fwFloor < v → exec .fuseBurnDone s = .next s.endBurn))

/-- Where the card accepts the frame, the unit is whole and authentic, and nothing holds the command, it starts with
its unit, and what was waiting then goes on. SEG_VERIFY with the seal key answers INTEGRITY, INFO 0xFFFF, for
a seal that does not check. REG_WR writes its words to consecutive registers and answers OK. INST_CFG with a clean record and no serial creates, resizes or schedules the instance and answers the result;
DELETE with the card's serial commits the intent and answers OK; RECLAIM of a configured instance aborts what it has
open and answers OK. LOCK_CTL runs LOCK_SET or UNLOCK and answers the result. What a record may hold is a reading (log
100), and where the payload of LOCK_CTL starts (log 77), and the order of REG_WR's words (log 125). -/
def Obligations.UnitCommandsStart : Prop :=
  ∀ (c : Cmd) (fc : Nat) (u : UnitIn) (s : State) (o q : Outst),
    (∀ env, s.StartsWithUnit 0x0A c fc u env o q → let t := s.withUnit 0x0A c fc u env o
      exec (.segVerify c u env) s = .next (t.startSegVerify q).goesOn.cardOn ∧
      ((q.inst = 0 ∨ (q.data.getD 6 0).toNat = q.inst) → t.keys.slk ≠ [] → t.sealChecks (q.data.take 128) = false →
        t.startSegVerify q =
          ((t.bump SEG_CNT_VERIFY_FAILED).fireI EV_SEG_VERIFY_FAIL q.inst 0xFFFF 0).done q 0x41 0xFFFF)) ∧
    (s.StartsWithUnit 0x0D c fc u [] o q → exec (.regWr c u) s = .next
      ((((s.withUnit 0x0D c fc u [] o).startRegWr q).goesOn.cardOn).settle)) ∧
    (s.StartsWithUnit 0x14 c fc u [] o q → let t := s.withUnit 0x14 c fc u [] o
      let d := padTo 4096 q.data
      let base := natBE ((d.drop 4).take 4)
      let size := natBE ((d.drop 8).take 4)
      recordClean d = true →
      (natBE ((d.drop 12).take 8) = 0 →
        (q.action = 1 → let r := t.createInst q.target base size (d.getD 2 0).toNat (d.getD 3 0).toNat
          exec (.instCfgCreate c u) s = .next (r.2.done q r.1 0).goesOn.cardOn) ∧
        (q.action = 2 → let r := t.resizeInst q.target base size 0
          exec (.instCfgResize c u) s = .next (r.2.done q r.1 0).goesOn.cardOn) ∧
        (q.action = 3 → base = 0 → size = 0 → let r := t.schedInst q.target (d.getD 2 0).toNat (d.getD 3 0).toNat
          exec (.instCfgSched c u) s = .next (r.2.done q r.1 0).goesOn.cardOn) ∧
        (q.action = 5 → t.configured q.target = true →
          exec (.instCfgReclaim c u) s = .next ((t.reclaimInst q.fc q.target).done q 0x00 0).goesOn.cardOn)) ∧
      (q.action = 4 → q.target ≠ 0 → t.configured q.target = true → natBE ((d.drop 12).take 8) = t.serial →
        exec (.instCfgDelete c u) s = .next (t.startDelete q q.target).goesOn.cardOn)) ∧
    (s.StartsWithUnit 0x1A c fc u [] o q → let t := s.withUnit 0x1A c fc u [] o
      let d := padTo 4096 q.data
      let b := fun (i : Nat) => (d.getD i 0).toNat
      (q.arg = 0 →
        let r := t.runLockSet (b 0) (b 1) ((d.drop 3).take (b 2)) ((d.drop (4 + b 2)).take (b (3 + b 2)))
        exec (.lockCtlLockSet c u) s = .next (r.2.2.done q r.1 r.2.1).goesOn.cardOn) ∧
      (q.arg ≠ 0 → 4 ≤ b 1 → b 1 ≤ 32 → let r := t.runUnlock (b 0) ((d.drop 2).take (b 1))
        exec (.lockCtlUnlock c u) s = .next (r.2.2.done q r.1 r.2.1).goesOn.cardOn))

/-! ## Links -/

/-- HOST_UNIT_RECEIVED on a card that waits for a unit: a whole unit with a good tag is stored and the command goes
on; one with failing lines answers which, until the tries are used up, and then the command's data phase ends with
LINK_FAILED; a forged one ends it with AUTH_FAIL, and one taken before gets its token again. STATUS_FRAME_RECEIVED while a
card sends a unit: all-pass takes it, the abort token ends the command, and another is a miss; a dock takes the token of
its own unit. TOKEN_WAIT_EXPIRY is a miss. SPANTOEN_BAD_FRAME is counted and reported. LINK_RESET_DETECT with no reset in
force or waiting, and no pulse or burn, resets the link layer and is counted. SCLK_STOP of an idle port with STOP_EN
stops the clock, and CARD_CLK_STOP_DETECT reports it on an idle card. SETTLE_COMPLETE once every record the SETTLE waits
for is released rewrites the lifetime records and the anchor and answers OK. Which lines end a command is as R191 counts
(log 123). -/
def Obligations.LinkEventCommands : Prop :=
  (∀ (u : UnitIn) (rb : Bool) (lat : Nat) (env : List MediaRead) (s : State) (o : Outst), s.cardLink = true →
    s.owing = some o →
    let w := s.unitHeard
    let lines := u.mask (s.injBits (pSP 0) 1)
    let tag := (s.injUsed (pSP 0) 1).tagOf 0 u
    (∀ plain, s.unitPlain o u = some plain → w.unitsSpent 0 o.epoch = false →
      exec (.hostUnitReceived u rb lat env) s = .next ((((w.unitStored o plain rb lat env).unitsOn).cardPump).settle)) ∧
    (lines ≠ 0xFF →
      let t := ((s.injUsed (pSP 0) 1).noteLines 0 lines o.tag).updOut o.fc (fun x => { x with fails := x.fails + 1 })
      (o.fails + 1 < t.unitTries 0 → exec (.hostUnitReceived u rb lat env) s = .next
        ((((t.emit (.status 0 true lines)).unitsOn).cardPump).settle)) ∧
      (t.unitTries 0 ≤ o.fails + 1 → exec (.hostUnitReceived u rb lat env) s = .next
        (((((t.noteExhausted 0 o.tag o.next).endPhase o 0x10).unitsOn).cardPump).settle))) ∧
    (lines = 0xFF → s.unitPlain o u = none →
      (w.unitKnown u.ct tag = false →
        exec (.hostUnitReceived u rb lat env) s = .next ((((w.unitForged o).unitsOn).cardPump).settle)) ∧
      (w.unitKnown u.ct tag = true →
        exec (.hostUnitReceived u rb lat env) s = .next ((((w.emit (.status 0 true 0xFF)).unitsOn).cardPump).settle)))) ∧
  (∀ (s : State) (o : Outst), s.linkUp 0 = true → s.isCard = true → s.spA.outst.find? (·.sending) = some o →
    let t := s.injUsed (pSP 0) 2
    (∀ token ntoken, let n := ntoken ^^^ s.injBits (pSP 0) 2
      (token = 0xFF → n = 0 → exec (.statusFrameReceived 0 true token ntoken) s = .next (t.unitTaken o).cardOn) ∧
      (token = 0 → n = 0 → exec (.statusFrameReceived 0 true token ntoken) s = .next (t.done o 0x10 o.next).cardOn) ∧
      (token < 255 → n + token = 255 →
        exec (.statusFrameReceived 0 true token ntoken) s = .next (t.unitMissed o true).cardOn) ∧
      exec (.statusFrameReceived 0 false token ntoken) s = .next (t.unitMissed o false).cardOn) ∧
    exec (.tokenWaitExpiry 0) s = .next (s.unitMissed o false).cardOn) ∧
  (∀ (p token ntoken : Nat) (s : State), s.linkUp p = true → s.isCard = false →
    ((ntoken ^^^ s.injBits (pSP p) 2) + token = 255 → exec (.statusFrameReceived p true token ntoken) s = .next
      ((((s.injUsed (pSP p) 2).dockToken p true token).drive p).pump)) ∧
    exec (.tokenWaitExpiry p) s = .next (s.unitAgain p false)) ∧
  (∀ (p : Nat) (s : State), s.linkUp p = true → exec (.spantoenBadFrame p) s = .next
    (((s.injUsed (pSP p) 0).bump (SP_RETRAIN_CNT_FRAME_CRC p)).fire (EV_SP_FRAME_CRC p))) ∧
  (∀ s : State, s.cardLink = true → s.boot.poc = false → s.boot.rstLow = false → s.boot.waiting = [] →
    s.boot.fuse = none → exec (.linkResetDetect 0 false) s = .next
      ((s.cardLinkReset.bump RST_LINK_RST_PORT_A).fire EV_RST_LINK_A)) ∧
  (∀ s : State, s.cardLink = true → s.spA.outst = [] → s.flag (SP_STAT_CLK_STOPPED 0) = false →
    exec .cardClkStopDetect s = .next ((s.setFlag (SP_STAT_CLK_STOPPED 0) true).fire (EV_SP_CLK_STOPPED 0))) ∧
  (∀ (p : Nat) (s : State), s.dockEngine p = true → s.portIdle p = true →
    s.flag (SP_CLK_CFG_STOP_EN p) = true → (s.sp p).sclk = true → exec (.sclkStop p) s = .next
      ((((s.setSp p { s.sp p with sclk := false }).setFlag (SP_STAT_CLK_STOPPED p) true).emit (.sclk p false)).fire
        (EV_SP_CLK_STOPPED p))) ∧
  (∀ (tag : Nat) (s : State) (o : Outst), s.isCard = true → s.settled o = true →
    s.spA.outst.find? (fun o => o.op == 7 && o.tag == tag && !o.held) = some o →
    exec (.settleComplete tag) s = .next ((s.writeLife.writeAnchor.done o 0x00 0).cardOn))

/-- On a dock port whose link runs, where the frame passes its check: RESPONSE_RECEIVED to a command sent, with an RMAC
that verifies, moves HR and ends the command with the answer, or reissues what LINK_RETRY_EXHAUSTED or a unit's AUTH_FAIL
leaves; one that does not verify is counted. CARD_UNIT_RECEIVED of the unit in turn, whole and authentic, goes where its
command wants it and is acknowledged; with failing lines below the tries the status frame says which, and a unit taken
before is acknowledged again. PING_INTERVAL asks for the lowest FC outstanding. RESPONSE_TIMEOUT reports, and removes the
card. AUTO_REKEY sends LINK_KEY for the next epoch under a fresh nonce, which is free. -/
def Obligations.DockLinkCommands : Prop :=
  (∀ (p : Nat) (r : RespIn) (s : State) (d : DCmd), s.dockLink p = true → (s.frameCheck p).1 = true →
    let s0 := (s.frameCheck p).2
    s0.findSent p r.tag = some d →
    let fc := rspNear (s0.sp p).rspFc r.rseq
    let good := r.rmac = respMac ((s0.keyAt p d.epoch).getD []) d.epoch d.inst d.tag fc r.kind r.st r.info r.flags
      (if r.kind = 3 then r.token else 0) ^^^ s0.injBits (pLSE p) 0
    let v := s0.injUsed (pLSE p) 0
    let t := ((v.setSp p { v.sp p with rspFc := fc }).noteEpoch p d).noteFlags p r.flags
    (v.session p = true → good → r.st ≠ 0x10 → (r.st ≠ 0x11 ∨ r.info = 0xFFFF) →
      exec (.responseReceived p r) s = .next (t.endD p d r.st r.info r.flags)) ∧
    (v.session p = true → good → r.st = 0x10 ∨ (r.st = 0x11 ∧ r.info ≠ 0xFFFF) →
      exec (.responseReceived p r) s = .next ((t.reissue p d r.st (min r.info (d.arg % 4096 + 1))).pump)) ∧
    (¬good → r.kind ≠ 2 → let u := v.noteAuth p d.op d.inst d.tag d.epoch fc
      exec (.responseReceived p r) s = .next (if u.authSpent p then (u.endDockSession p).pump else u))) ∧
  (∀ (p tag : Nat) (u : UnitIn) (s : State) (d : DCmd), s.dockLink p = true → (s.frameCheck p).1 = true →
    let s0 := (s.frameCheck p).2
    let mask := u.mask (s0.injBits (pSP p) 1)
    let v := s0.injUsed (pSP p) 1
    v.findSent p tag = some d → d.next < d.c2h →
    let key := (v.keyAt p d.epoch).getD []
    let iv := linkIv d.epoch 0 0 d.inst d.tag d.next d.fc
    (mask = 0xFF → v.tagOf p u = Crypto.gcmTag key iv [] u.ct →
      exec (.cardUnitReceived p tag d.next u) s = .next
        (((((v.injUsed (pLSE p) 1).takeUnit p d d.next (Crypto.gcmCrypt key iv u.ct)).countUnit p d.epoch).emit
          (.status p true 0xFF)).pump)) ∧
    (mask ≠ 0xFF →
      let t := (v.noteLines p mask d.tag).updD p d.id (fun x => { x with fails := x.fails + 1 })
      d.fails + 1 < t.unitTries p →
      exec (.cardUnitReceived p tag d.next u) s = .next (t.emit (.status p true mask))) ∧
    (∀ index, index < d.next → exec (.cardUnitReceived p tag index u) s = .next (v.emit (.status p true 0xFF)))) ∧
  (∀ (p : Nat) (s : State), s.dockLink p = true → s.portIdle p = false → exec (.pingInterval p) s = .next
    (s.linkCmd p 0x00 ((s.dockSent p).foldl (fun m c => min m c.fc) ((s.sp p).cmdFc + 1) % 2 ^ 32))) ∧
  (∀ (p : Nat) (s : State), s.dockLink p = true → s.portIdle p = false →
    let t := s.fire (EV_SP_RESP_TIMEOUT p)
    exec (.responseTimeout p) s = .next ((if (s.cn p).cdLow then t.removeLow p else t.removePort p).pump)) ∧
  (∀ (p : Nat) (s : State), s.mayTune p = true → (s.sp p).wantRekey = true →
    s.flag (LSE_STAT_NEXT_HELD p) = false → s.keyHolds = false →
    let nonce := natBE (s.rand 4)
    exec (.autoRekey p) s = .next ((s.spend.setSp p { s.sp p with wantRekey := false, rekeyNonce := nonce }).linkCmd p 0x13
      (nonce * 65536 + (s.fld (LSE_STAT_EPOCH p) + 1) % 4)))

/-- On a dock port with nothing outstanding: TUNE_PORT at the mode due, and DOCK_RETRAIN of a port that retrains
already, run tune_port there; DOCK_RETRAIN of a running port that wants one goes to SPD_0 and tunes from the last good
mode; AUTO_RETUNE above SPD_0 tunes at the mode in force. RETRAIN, RETUNE and REKEY note what is wanted; LINK_RESET of
a port with a card resets its link, or waits for the burn in progress; END_SESSION ends the session, and a dock then
pairs again. How a sweep is given is the model's choice (log 127), and what follows a session's end a reading (log
119). -/
def Obligations.DockTuningCommands : Prop :=
  (∀ (p : Nat) (sweep : Sweep) (s : State), s.mayTune p = true →
    (s.tuneDue p = true → exec (.tunePort p (s.sp p).newMode sweep) s = .next
      (((s.runTune p (s.sp p).newMode sweep).drive p).pump)) ∧
    (s.linkState p = lnkRetrain → (s.sp p).newMode ≠ 0 → exec (.dockRetrain p sweep) s = .next
      (((s.runTune p (s.sp p).newMode sweep).drive p).pump)) ∧
    (s.portRun p = true → (s.sp p).wantRetrain = true →
      let t := (s.toLink p lnkRetrain).setSpeed p 0
      exec (.dockRetrain p sweep) s = .next (((t.runTune p (t.fld (SP_STAT_LAST_GOOD p)) sweep).drive p).pump)) ∧
    (s.portRun p = true → (s.sp p).wantRetune = true → s.fld (SP_STAT_MODE p) ≠ 0 →
      exec (.autoRetune p sweep) s = .next (((s.runTune p (s.fld (SP_STAT_MODE p)) sweep).drive p).pump))) ∧
  (∀ (p : Nat) (s : State), s.isPort p = true → s.pageTakes (pSP p) = true → (s.touchPage (pSP p)).portRun p = true →
    let t := s.touchPage (pSP p)
    exec (.retrain p) s = .next (t.setSp p { t.sp p with wantRetrain := true }) ∧
    exec (.retune p) s = .next (t.setSp p { t.sp p with wantRetune := true }) ∧
    (p < 2 → t.isDock = true → t.up = true → t.flag (SP_STAT_CARD_PRESENT p) = true → t.absorbs (.link p) = false →
      (t.boot.fuse = none → exec (.linkReset p) s = .next ((t.resetLink p).pump)) ∧
      (t.boot.fuse ≠ none → exec (.linkReset p) s = .next (t.await (.link p))))) ∧
  (∀ (p : Nat) (s : State), s.isPort p = true → s.pageTakes (pLSE p) = true →
    (s.touchPage (pLSE p)).session p = true →
    let t := s.touchPage (pLSE p)
    (t.isDock = true → exec (.rekey p) s = .next (t.setSp p { t.sp p with wantRekey := true })) ∧
    (t.isCard = true → exec (.endSession p) s = .next (t.closeSession p)) ∧
    (t.isCard = false → exec (.endSession p) s = .next ((t.endDockSession p).pump)))

/-! ## PCIe, queues and instances of a dock -/

/-- On a dock from step 1 on that no reset of the chip holds, PERST_N falling counts, clears the PCIE island and, where
the link was up, fires LINK_DOWN; with an MRAM pulse or a burn in progress this waits for its end. Rising ends DOZE, fires
its event, and from bring-up step ROLE on starts training. With the link's parts
serving, a link that comes up shows the speed capped by MAX_SPEED and its width, and one that goes down shows neither.
FLR of a VF resets that function, and FLR of the PF resets all sixteen and disables the VFs; FLR_DONE clears its BUSY
bit and fires its event. VF_ENABLE enables the PF and up to fifteen VFs, and taking it back resets every VF that was
enabled. The details are the model's readings (log 139, log 140). -/
def Obligations.PcieLinkAndFunctions : Prop :=
  (∀ s : State, s.isDock = true → 1 ≤ s.bootStep → s.boot.poc = false → s.boot.rstLow = false →
    s.absorbs .perstN = false → s.pins.perstHigh = true →
    let t : State := { s with pins := { s.pins with perstHigh := false } }
    let u := (t.bump RST_COUNT1_PERST_CNT).clearPcie
    (s.boot.fuse = none → exec (.perstNFall false) s = .next
      (if s.flag PCE_LINK_STAT_DL_ACTIVE then u.fire EV_PCE_LINK_DOWN else u)) ∧
    exec (.perstNFall true) s = .next (t.await .perstN) ∧
    (s.boot.fuse ≠ none → exec (.perstNFall false) s = .next (t.await .perstN))) ∧
  (∀ s : State, s.isDock = true → s.alive = true → s.pins.perstHigh = false → 4 ≤ s.bootStep →
    let t := (({ s with pins := { s.pins with perstHigh := true, wakeLow := false } } : State).wake 3).fire EV_RST_PERST
    exec .perstNRise s = .next (t.setFld PCE_LINK_STAT_LTSSM 1)) ∧
  (∀ (speed width ltssm : Nat) (s : State), s.isDock = true → s.pins.perstHigh = true → 4 ≤ s.bootStep →
    s.islandDown islPCIE = false → s.fenced (.engine pPCE 1) = false → s.fld PCE_LINK_STAT_LTSSM ≠ 5 →
    (1 ≤ speed → speed ≤ 3 → 1 ≤ width → width ≤ 2 → exec (.pcieLinkChange speed width true ltssm) s = .next
      (s.linkUpAs (min speed (if s.fld PCE_LINK_CFG_MAX_SPEED = 0 then 3 else s.fld PCE_LINK_CFG_MAX_SPEED)) width
        ltssm).pump) ∧
    exec (.pcieLinkChange speed width false ltssm) s = .next (s.linkDownAs ltssm)) ∧
  (∀ (fn : Nat) (s : State), s.configUp = true → s.fnEnabled fn = true → fn < 16 →
    exec (.pceFlr fn) s = .next (if fn = 0 then
      (((List.range 16).foldl (fun (t : State) n => t.resetFn n) s).setFld PCE_FUNC_STAT_ENABLED 1).setFlag
        PCE_FUNC_STAT_VF_ENABLE false
      else s.resetFn fn)) ∧
  (∀ (fn : Nat) (s : State), s.isDock = true → fn < 16 → bitAt (s.fld PCE_FLR_STAT_BUSY) fn = true →
    exec (.flrDone fn) s = .next
      ((s.setFld PCE_FLR_STAT_BUSY (s.fld PCE_FLR_STAT_BUSY - 2 ^ fn)).fireI EV_PCE_FLR fn fn 0)) ∧
  (∀ (num : Nat) (ari : Bool) (s : State), s.configUp = true →
    (s.flag PCE_FUNC_STAT_VF_ENABLE = false → exec (.vfEnable true num ari) s = .next
      ((((s.setFlag PCE_FUNC_STAT_ARI ari).setFld PCE_FUNC_STAT_ENABLED (2 ^ (min num 15 + 1) - 1)).setFlag
        PCE_FUNC_STAT_VF_ENABLE true).fire EV_PCE_VF_ENABLE)) ∧
    (s.flag PCE_FUNC_STAT_VF_ENABLE = true → exec (.vfEnable false num ari) s = .next
      (((fnList (s.fld PCE_FUNC_STAT_ENABLED)).filter (· != 0)).foldl (fun (t : State) n => t.resetFn n)
        (((s.setFlag PCE_FUNC_STAT_ARI ari).setFld PCE_FUNC_STAT_ENABLED 1).setFlag PCE_FUNC_STAT_VF_ENABLE false))))

/-- Where the host reaches function fn: a doorbell of an SQ ends DOZE and takes the new tail, one of a CQ the new
head; a write that is out of range, or to a queue that is disabled, is recorded in DB_ERR with its cause. SQ_FETCH of
a queue that may be fetched from starts a burst of at most BURST entries, never more than were made visible nor than
its CQ has slots for. A read takes the bytes of each request of its own, and with the last of them is whole; an
unsuccessful, a poisoned and, where the host has not disabled it, a missing completion fail it, the last two counted,
the poisoned one with its header logged. The coalescing timer signals the entries not signalled. The order of
fetches is free (log 132), and so is a logged header (log 138). -/
def Obligations.QueueCommands : Prop :=
  (∀ (fn k value : Nat) (s : State), s.fnTakes fn = true →
    (k < 4 → exec (.sqDoorbell fn k value) s = .next ((s.wake 3).ringSq fn k value)) ∧
    (k < 2 → exec (.cqDoorbell fn k value) s = .next ((s.wake 3).ringCq fn k value).pump)) ∧
  (∀ (fn k value : Nat) (t : State), t.flag (INS_SQ_CFG_ENABLE fn k) = true →
    (value < t.sqLen fn k → value < 4096 → (t.ringSq fn k value).fld (INS_SQ_STAT_TAIL fn k) =
      (t.setFld (INS_SQ_STAT_TAIL fn k) value).fld (INS_SQ_STAT_TAIL fn k)) ∧
    (t.sqLen fn k ≤ value → value < 4096 → t.ringSq fn k value = t.bellError fn k value 1) ∧
    (4096 ≤ value → t.ringSq fn k value = t.bellError fn k value 2)) ∧
  (∀ (fn k value : Nat) (t : State), t.flag (INS_SQ_CFG_ENABLE fn k) = false → value < 4096 →
    t.ringSq fn k value = t.bellError fn k value 3) ∧
  (∀ (n k : Nat) (s : State), s.sqServes n k = true →
    let m := min (min s.burst (s.sqVisible n k - s.sqAhead n k)) (s.cqFree n (s.sqCq n k))
    m ≠ 0 → exec (.sqFetch n k) s = .next
      ({ s with host := { s.host with fetching := s.host.fetching ++ [(n, k, m)] } } : State).pump) ∧
  (∀ (tag : Nat) (s : State), s.pciUp = true → s.readTags.contains tag = true →
    let hit := fun (r : HRead) => r.reqs.any (fun q => q.tag == tag)
    let free := fun (t : State) => ({ t with host := { t.host with stale := t.host.stale.filter (· != tag) } } : State)
    let fail := fun (t : State) => (free (match t.host.reads.find? hit with
      | some r => t.failRead r
      | none => t)).pump
    (∀ bytes r q, s.host.reads.find? hit = some r → r.reqs.find? (fun q => q.tag == tag) = some q →
      let data := putBytes r.data q.off (padTo q.len bytes)
      let r' : HRead := { r with data := data, reqs := r.reqs.filter (fun x => x.tag != tag) }
      let t : State := { s with host := { s.host with reads := mapIf (fun x => x == r) (fun _ => r') s.host.reads } }
      (r'.reqs = [] → r'.asked = r'.len →
        exec (.pcieReadCompletion tag (.data bytes)) s = .next (t.takeRead r' data).pump) ∧
      (r'.reqs ≠ [] ∨ r'.asked ≠ r'.len → exec (.pcieReadCompletion tag (.data bytes)) s = .next t.pump)) ∧
    (∀ bytes, s.host.reads.find? hit = none → exec (.pcieReadCompletion tag (.data bytes)) s = .next (free s).pump) ∧
    exec (.pcieReadCompletion tag .unsuccessful) s = .next (fail s) ∧
    exec (.pcieReadCompletion tag .poisoned) s = .next (fail (((s.bump PCE_CPL_CNT_POISONED).logHeader).noteAer)) ∧
    (bitAt (s.fnReg 0 36) 4 = false →
      exec (.completionTimeout tag) s = .next (fail ((s.bump PCE_CPL_CNT_TIMEOUT).noteAer)))) ∧
  (∀ (n j : Nat) (s : State), s.pciUp = true → j < 2 → s.fld (INS_CQ_CFG_COAL_TIME n j) ≠ 0 →
    assocGet s.host.coal (2 * n + j) ≠ 0 → exec (.cqCoalesceTimer n j) s = .next (s.signalCq n j))

/-- With the QOS serving, QOS_GRANT notes which instances their buckets hold, chooses by class, deficit and turn, and
grants that instance's next command its quantum. QOS_SCHED_WRITE, unless locked, takes class and weight and fires its
event when either acts differently. QOS_BUCKET_REFILL adds one microsecond's rate to every instance that has one.
INVAL_GO removes the entries of its scope at once, gives up the walks under way, whose tags stay taken until they are
answered, and holds GO; INVALIDATION_DONE, with no read of the scope open,
clears it and fires its event. Which command of an instance goes next is the model's choice (log 132). -/
def Obligations.QosAndInvalidationCommands : Prop :=
  (∀ (n : Nat) (c : HCmd) (s u : State), s.pciUp = true → s.up = true → s.powerState < 2 → s.pageServes pQOS = true →
    let t := (List.range 16).foldl (fun (t : State) n => t.noteHeld n) s
    State.decideGrant t.qosArbiter t = (some n, u) → t.qosNext n = some c →
    exec .qosGrant s = .next (u.grantCmd c).pump) ∧
  (∀ s u : State, s.pciUp = true → s.up = true → s.powerState < 2 → s.pageServes pQOS = true →
    let t := (List.range 16).foldl (fun (t : State) n => t.noteHeld n) s
    State.decideGrant t.qosArbiter t = (none, u) → exec .qosGrant s = .next u) ∧
  (∀ (n word : Nat) (s : State), s.dockPage pQOS = true → n < 16 → s.flag (PG_LOCK_LOCK pQOS) = false →
    let t := s.touchPage pQOS
    let u := (t.setFld (QOS_SCHED_CLASS n) (bitsOf word 0 2)).setFld (QOS_SCHED_WEIGHT n) (bitsOf word 8 8)
    exec (.qosSchedWrite n word) s = .next
      (if bitsOf word 0 2 = t.fld (QOS_SCHED_CLASS n) ∧ max 1 (bitsOf word 8 8) = max 1 (t.fld (QOS_SCHED_WEIGHT n)) then u
      else (u.rearrange n (t.fld (QOS_SCHED_CLASS n)) (bitsOf word 0 2) (max 1 (t.fld (QOS_SCHED_WEIGHT n)))
        (max 1 (bitsOf word 8 8)) (t.qosWaits n)).fireI EV_QOS_WEIGHT_CHANGE n 0 0)) ∧
  (∀ s : State, s.isDock = true → s.up = true → exec .qosBucketRefill s = .next
    ((List.range 16).foldl (fun (t : State) n =>
      let b : Int := (t.fld (QOS_RATE_BYTE_RATE n) * 65536 : Nat)
      let o : Int := (t.fld (QOS_RATE_OPS_RATE n) * 10 : Nat)
      if b = 0 ∧ o = 0 then t
      else (t.setQos n { t.qosOf n with bytes := (t.qosOf n).bytes + b, ops := (t.qosOf n).ops + o }).rearm n) s.refillCaps)) ∧
  (∀ (word : Nat) (s : State), s.dockPage pITU = true → (s.touchPage pITU).host.inval = none →
    let t := ((s.touchPage pITU).setFld ITU_INVAL_CTRL_INST (bitsOf word 0 4)).setFld ITU_INVAL_CTRL_SCOPE (bitsOf word 4 2)
    let page := t.fld ITU_INVAL_ADDR_LO_IOVA + 2 ^ 20 * t.fld ITU_INVAL_ADDR_HI_IOVA
    exec (.invalGo word) s = .next (({ t with host := { t.host with
      inval := some (bitsOf word 0 4, bitsOf word 4 2, page),
      tlb := t.host.tlb.filter (fun e => !invalHits (bitsOf word 0 4) (bitsOf word 4 2) page e.inst e.page),
      reads := t.host.reads.filter (fun r => !(match r.use with
        | .walk _ _ _ => true
        | _ => false)),
      stale := t.host.stale ++ (t.host.reads.filter (fun r => match r.use with
        | .walk _ _ _ => true
        | _ => false)).flatMap (fun r => r.reqs.map (·.tag)) } } : State).setFlag ITU_INVAL_CTRL_GO true)) ∧
  (∀ (s : State) (inst scope page : Nat), s.host.inval = some (inst, scope, page) →
    s.host.reads.any (fun r => r.got.isNone && invalHits inst scope page r.inst r.page) = false →
    exec .invalidationDone s = .next ((((({ s with host := { s.host with inval := none } } : State).setFlag
      ITU_INVAL_CTRL_GO false).fireI EV_ITU_TLB_INVAL_DONE (if scope < 2 then inst else 0) 0 0).pump)))

/-! ## Commands of the host -/

/-- A command of the host that has begun nothing, that nothing holds back and whose data is with the dock: a WRITE or
DISCARD with bridge records is committed and goes to its targets, or ends with REASON 07 while the mode register has a
parity fault; in INDEPENDENT one that no earlier write of its
queue precedes goes to the port of its instance, and a READ is served there or by the bridge; a command for a card
goes to its port, and a SETTLE in MIRROR without PORT_SEL to every card that runs. A port that may not be sent to ends
the command with the status and reason that say why, and a PORT_SEL of the other port ends it with REASON 08. -/
def Obligations.HostDataCommands : Prop :=
  ∀ (inst sq cid : Nat) (s : State) (c : HCmd), s.freshCmd inst sq cid = some c → c.loaded = true →
  (isWriteOp c.op = true → s.writeAhead c = false →
    (s.modeParity = true → s.bridged = true → exec (.dockWrite inst sq cid) s = .next (s.complete c 0x33 0 0x07)) ∧
    (s.modeParity = false ∨ s.bridged = false → c.recs ≠ [] → exec (.dockWrite inst sq cid) s = .next (s.bridgeWrite c)) ∧
    (c.recs = [] → s.bridged = false → exec (.dockWrite inst sq cid) s = .next (s.soloWrite c) ∧
      (c.portSel ≠ 0 → c.portSel ≠ s.portOf c.inst + 1 → s.soloWrite c = s.complete c 0x32 0 0x08) ∧
      (c.portSel = 0 ∨ c.portSel = s.portOf c.inst + 1 → ∀ st reason, s.portBar (s.portOf c.inst) = some (st, reason) →
        s.soloWrite c = s.complete c st 0 reason) ∧
      (c.portSel = 0 ∨ c.portSel = s.portOf c.inst + 1 → s.portBar (s.portOf c.inst) = none → c.op = 0x05 →
        s.soloWrite c = ((s.route c 1).pushD (s.portOf c.inst)
          { op := 0x05, inst := c.inst, arg := c.arg, origin := .host c.inst c.sq c.cid }).runDock))) ∧
  (c.op = 0x02 →
    let t := (((s.route c 0).serveRead c 0 (c.good (c.arg % 4096 + 1))).closeParts inst sq cid).runDock
    let p := s.portOf inst
    (s.bridged = true → exec (.dockRead inst sq cid) s = .next t) ∧
    (s.bridged = false → c.portSel = 0 ∨ c.portSel = p + 1 →
      (s.portBar p = none → s.portRun p = true → exec (.dockRead inst sq cid) s = .next t) ∧
      (∀ st reason, s.portBar p = some (st, reason) →
        exec (.dockRead inst sq cid) s = .next (s.complete c st 0 reason)))) ∧
  (isWriteOp c.op = false → c.op ≠ 0x02 → dockCompletes c.op = false →
    (∀ u st reason, c.fail = some (u, st, reason) →
      exec (.dockForwardCommand inst sq cid) s = .next (s.complete c st u reason)) ∧
    (c.fail = none →
      let run := [0, 1].filter (fun p => s.portRun p && !(s.sp p).drained)
      (c.op = 0x07 → s.brgMode = 1 → c.portSel = 0 → run ≠ [] →
        exec (.dockForwardCommand inst sq cid) s = .next (s.sendTo c run)) ∧
      (c.op ≠ 0x07 ∨ s.brgMode ≠ 1 ∨ c.portSel ≠ 0 →
        (s.onePort c = none → exec (.dockForwardCommand inst sq cid) s = .next (s.complete c 0x50 0 0x05)) ∧
        (∀ p, s.onePort c = some p → s.portBar p = none →
          exec (.dockForwardCommand inst sq cid) s = .next (s.sendTo c [p])) ∧
        (∀ p st reason, s.onePort c = some p → s.portBar p = some (st, reason) →
          exec (.dockForwardCommand inst sq cid) s = .next (s.complete c st 0 reason)))))

/-- A command of the host that has begun nothing and that nothing holds back: PING completes with OK, and BARRIER once
every earlier command of its instance has; a refused opcode completes with BAD_PARAM and REASON 01. With a management
processor that serves: BRG_MODE, once every earlier command has completed, takes the mode, the home of instances and the
active port it names, and is BAD_PARAM for mode 3; PORT_DRAIN routes itself and drains its port, and with RESUME it ends
the drain, the command that waits for it, and itself (log 135, log 151). -/
def Obligations.HostDockCommands : Prop :=
  (∀ (inst sq cid : Nat) (s : State) (c : HCmd), s.freshCmd inst sq cid = some c →
    (c.op = 0x00 → exec (.dockPing inst sq cid) s = .next (s.complete c 0 0 0)) ∧
    (c.op = 0x06 → s.allEarlierDone c false = true → exec (.dockBarrier inst sq cid) s = .next (s.complete c 0 0 0))) ∧
  (∀ (inst sq cid : Nat) (s : State) (c : HCmd), s.host.cmds.find? (fun c => c.inst == inst && c.sq == sq &&
      c.cid % 65536 == cid % 65536 && c.opRefused && c.done.isNone) = some c →
    exec (.dockOpcodeRefused inst sq cid) s = .next (s.complete c 0x32 0 0x01)) ∧
  (∀ (sq cid : Nat) (s : State) (c : HCmd), s.freshCmd 0 sq cid = some c → s.mpServes = true →
    (c.op = 0x30 → s.allEarlierDone c true = true →
      (c.arg % 4 = 3 → exec (.brgMode sq cid) s = .next (s.complete c 0x32 0 0x02)) ∧
      (c.arg % 4 ≠ 3 → exec (.brgMode sq cid) s = .next
        ((((s.applyMode (c.arg % 4) (bitsOf c.arg 2 1) (bitsOf c.arg 16 16)).complete c 0 0 0).evalAll).runDock))) ∧
    (c.op = 0x31 → bitAt c.arg 2 = false → (s.sp (c.arg % 2)).drainCmd = none →
      exec (.portDrain sq cid) s = .next ((s.route c 0).startDrain (c.arg % 2) (bitAt c.arg 1) sq cid).runDock) ∧
    (c.op = 0x31 → bitAt c.arg 2 = true →
      exec (.portDrainResume sq cid) s = .next ((s.endDrain (c.arg % 2)).endCmd c 0 0 0).runDock))

/-- INST_QUIESCE of instance 0, or with the reserved action, is BAD_PARAM with REASON 02. Else QUIESCE stops the
instance and waits until it has nothing outstanding; RESUME of a quiesced instance lets it run and completes, and of
any other is BAD_PARAM with REASON 0C; RECLAIM aborts what no card has been sent, sends INST_CFG RECLAIM to the cards
in RUN and waits for them. INSTANCE_QUIESCED ends the wait when nothing of the instance is outstanding (log 151, log
152). -/
def Obligations.InstanceQuiesceCommands : Prop :=
  (∀ (sq cid act : Nat) (s : State) (c : HCmd), s.quiesceCmd sq cid act = some c → c.badQuiesce = true →
    (act = 0 → exec (.instQuiesceQuiesce sq cid) s = .next (s.complete c 0x32 0 0x02)) ∧
    (act = 1 → exec (.instQuiesceResume sq cid) s = .next (s.complete c 0x32 0 0x02)) ∧
    (act = 2 → exec (.instQuiesceReclaim sq cid) s = .next (s.complete c 0x32 0 0x02))) ∧
  (∀ (sq cid : Nat) (s : State) (c : HCmd), s.quiesceCmd sq cid 0 = some c → c.badQuiesce = false →
    let n := c.arg % 16
    let t := (s.route c 0).instQuiesce n
    exec (.instQuiesceQuiesce sq cid) s = .next
      (({ t with host := { t.host with quiescing := t.host.quiescing ++ [(n, sq, cid)] } } : State).quiesceStep n)) ∧
  (∀ (sq cid : Nat) (s : State) (c : HCmd), s.quiesceCmd sq cid 1 = some c → c.badQuiesce = false →
    (s.fld (INS_STATE_STATE (c.arg % 16)) ≠ 2 →
      exec (.instQuiesceResume sq cid) s = .next (s.complete c 0x32 0 0x0C)) ∧
    (s.fld (INS_STATE_STATE (c.arg % 16)) = 2 →
      exec (.instQuiesceResume sq cid) s = .next ((s.instResume (c.arg % 16)).complete c 0 0 0))) ∧
  (∀ (sq cid : Nat) (s : State) (c : HCmd), s.quiesceCmd sq cid 2 = some c → c.badQuiesce = false →
    let n := c.arg % 16
    let t := ((s.route c 0).setFlag (PG_CTRL_QUIESCE_REQ (pINS n)) true).setFld (INS_STATE_STATE n) 3
    let u := ((t.abortUnstarted n 0x51).abortStarted n).sendReclaim n
    exec (.instQuiesceReclaim sq cid) s = .next ((({ u with host := { u.host with
      quiescing := u.host.quiescing ++ [(n, sq, cid)] } } : State).runDock).quiesceStep n)) ∧
  (∀ (n : Nat) (s : State), s.isDock = true → n < 16 → s.instIdle n = true →
    (s.fld (INS_STATE_STATE n) = 1 → exec (.instanceQuiesced n) s = .next
      ((s.setFld (INS_STATE_STATE n) 2).endQuiesces n).pump) ∧
    (s.fld (INS_STATE_STATE n) = 3 → s.host.reclaims.any (fun e => e.1 == n && e.2 != 0) = false →
      exec (.instanceQuiesced n) s = .next ((s.endReclaim n).endQuiesces n).pump))

/-! ## The bridge, dock firmware, keys and locks -/

/-- On a dock whose BRG page takes writes, a BRG.CTRL write with key B46E switches the active card (in ROTATE),
resumes the carry, drops the blocked record that STAT names, or drops track t; with another key it changes nothing.
RESYNC_CHUNK in MIRROR, enabled and with no chunk on its way, reads the next 256 units of its region from the other
card when the rate and the instances let it, ends a track with no bits left, and raises the fault of a track with a line
that does not decode and sets all its bits. The first card in RUN takes the delivery of replayed records, and a port's
BUSY wait ends with the record that was turned away, and no later one, sent as a new command (log 130, log 155, log 181, log 182). -/
def Obligations.BridgeControlCommands : Prop :=
  (∀ s : State, s.dockPage pBRG = true →
    let t := s.touchPage pBRG
    exec (.brgSwitch 0xB46E) s = .next t.askSwitch ∧
    (t.brgMode = 2 → t.askSwitch = (((t.switchActive).drive 0).drive 1).pump) ∧
    exec (.resumeCarry 0xB46E) s = .next t.resumeCarry ∧
    exec (.dropBlocked 0xB46E) s = .next t.dropBlocked ∧
    (∀ k, k < 2 → exec (.dropTrack 0xB46E k) s = .next (t.dropTrack k)) ∧
    (∀ key, key % 65536 ≠ 0xB46E → exec (.brgSwitch key) s = .next t ∧ exec (.resumeCarry key) s = .next t ∧
      exec (.dropBlocked key) s = .next t ∧ (∀ k, k < 2 → exec (.dropTrack key k) s = .next t))) ∧
  (∀ (k : Nat) (s : State), s.dockPage pBRG = true → k < 2 → s.brgMode = 1 → s.flag BRG_RESYNC_CFG_EN = true →
    s.brg.copying = none → (s.track k).inUse = true → s.safe = false →
    (s.trackBad k = true → exec (.resyncChunk k) s = .next ((s.noteTrack k).trackLost k)) ∧
    (s.trackBad k = false → (s.track k).bits = [] → exec (.resyncChunk k) s = .next (s.endTrack k)) ∧
    (s.trackBad k = false → (s.track k).bits ≠ [] → ∀ q r, s.trackPort k = some q → s.copyRegion k = some r →
      let chunk := if (s.track k).region = some r then (s.track k).chunk else 0
      let first := r % 2 ^ 19 * 2 ^ 17 + 256 * chunk
      let t := s.setTrack k { s.track k with region := some r, chunk := chunk }
      s.sourceReady (1 - q) (r / 2 ^ 19) first = true → s.copyMay = true → exec (.resyncChunk k) s = .next
        ((({ t with brg := { t.brg with copying := some (k, r / 2 ^ 19, first), copyDebt := 256 * 4096 } } : State).pushD (1 - q)
          { op := 0x02, inst := r / 2 ^ 19, arg := first * 4096 + 255, origin := .resync k }).drive (1 - q)))) ∧
  (∀ (p : Nat) (s : State), s.portRun p = true → s.brg.replayHold = true →
    let t : State := { s with brg := { s.brg with replayHold := false } }
    let u := if t.brgMode = 2 ∧ !t.flag BRG_STAT_NO_ACTIVE ∧ !t.flag (SP_STAT_CARD_PRESENT t.brgActive) then
        t.setActive p else t
    exec (.bridgeReplayDelivery p) s = .next ((((u.retarget).carryStart p).deliverTo p).drive p).pump) ∧
  (∀ (p : Nat) (s : State), s.isDock = true → s.brg.busy.any (fun e => e.1 == p) = true →
    let t : State := { s with brg := { s.brg with busy := s.brg.busy.filter (fun e => e.1 != p) } }
    (∀ g l, t.dueGroups p = g :: l → let u := t.pushGroup p g
      exec (.bridgeBusyResend p) s = .next ((({ u with brg := { u.brg with
        again := u.brg.again ++ (g.getLast?.map (fun r => (p, r.seq))).toList } } : State).drive p).pump)) ∧
    (t.dueGroups p = [] → exec (.bridgeBusyResend p) s = .next ((t.drive p).pump)))

/-- With the BRG page taking writes and key F17A: DFW_BEGIN of the slot not running invalidates it, stages it and
shows STAGING, and of the running slot shows RESULT 2; DFW_DATA stores its word at DFW_ADDR and moves on; DFW_END
checks the image, shows RESULT 0 or 1 and ends STAGING; DFW_ACTIVATE of a slot that may be activated shows BUSY while
the standby loads it, and of another RESULT 2. With another key nothing happens (log 156). -/
def Obligations.DockFirmwareCommands : Prop :=
  ∀ (slot : Nat) (s : State), s.dockPage pBRG = true → slot < 2 →
  let t := s.touchPage pBRG
  (slot = t.otherSlot → exec (.dfwBegin 0xF17A slot) s = .next
    (({ (t.invalidateSlot slot).dfwResult 0 with
      firm := { ((t.invalidateSlot slot).dfwResult 0).firm with staging := some 0 } } : State).setFlag
        BRG_DFW_STAT_STAGING true)) ∧
  (slot ≠ t.otherSlot → exec (.dfwBegin 0xF17A slot) s = .next (t.dfwResult 2)) ∧
  (∀ word, t.firm.staging = some 0 → t.fld BRG_DFW_ADDR_WORD + 1 < 2 ^ 18 → exec (.dfwData word) s = .next
    ((t.slotWrite t.otherSlot (4 * t.fld BRG_DFW_ADDR_WORD) (bytesBE 4 word)).setFld BRG_DFW_ADDR_WORD
      (t.fld BRG_DFW_ADDR_WORD + 1))) ∧
  (t.firm.staging ≠ none → exec (.dfwEnd 0xF17A) s = .next
    (((t.checkStaged t.otherSlot).2.dfwResult (if (t.checkStaged t.otherSlot).1 = 0 then 0 else 1)).setFlag
      BRG_DFW_STAT_STAGING false)) ∧
  (t.firm.activating = none →
    (t.activateBad slot = false → exec (.dfwActivate 0xF17A slot) s = .next
      (({ t with firm := { t.firm with activating := some slot, activTag := none } } : State).setFlag
        BRG_DFW_STAT_BUSY true)) ∧
    (t.activateBad slot = true → exec (.dfwActivate 0xF17A slot) s = .next (t.dfwResult 2))) ∧
  (∀ key, key % 65536 ≠ 0xF17A → exec (.dfwBegin key slot) s = .next t ∧ exec (.dfwEnd key) s = .next t ∧
    exec (.dfwActivate key slot) s = .next t)

/-- On a dock whose KEY page takes writes, with key 9A17, the ladder up and no tamper or safe state: PAIR_GEN commits
a pairing key drawn from the generator, whose value is free, and PAIR_IMPORT the one written to IMPORT; either leaves
IMPORT zero, and another key does no more than that to nothing. IMPORT_TIMEOUT zeroes IMPORT. RELOCK with key 3E1C
puts the lock of a set scope in force again, and scope 31 every one's; with another key it changes nothing (log 76,
log 87). -/
def Obligations.KeyAndLockControls : Prop :=
  (∀ s : State, s.pageTakes pKEY = true → s.isDock = true →
    let t := s.touchPage pKEY
    t.ladderUp = true → t.flag TMP_STAT_LATCHED = false → t.safe = false → t.keyHolds = false →
    let zero := fun (u : State) => ({ u with keys := { u.keys with imp := List.replicate 32 0 } } : State)
    (t.rngUp = true → exec (.pairGen 0x9A17) s = .next (zero (t.spend.putPairing (t.rand 32)))) ∧
    exec (.pairImport 0x9A17) s = .next (zero (t.putPairing t.keys.imp))) ∧
  (∀ (key : Nat) (s : State), s.pageTakes pKEY = true → key % 65536 ≠ 0x9A17 →
    exec (.pairGen key) s = .next (s.touchPage pKEY) ∧ exec (.pairImport key) s = .next (s.touchPage pKEY)) ∧
  (∀ s : State, exec .importTimeout s = .next { s with keys := { s.keys with imp := List.replicate 32 0 } }) ∧
  (∀ (scope : Nat) (s : State), s.pageTakes pLCK = true →
    let t := s.touchPage pLCK
    (scope < 17 → t.lockSet scope = true → exec (.relock 0x3E1C scope) s = .next (t.setForce scope true)) ∧
    exec (.relock 0x3E1C 31) s = .next t.forceLocks ∧
    (∀ key, key % 65536 ≠ 0x3E1C → exec (.relock key scope) s = .next t))

/-! ## Records, media and stores in upkeep -/

/-- A committed record that is not placed, whose turn it is, on a card that places: RECORD_PLACEMENT writes or
discards its unit. RECORD_RELEASE of a record that may be released frees it. In a card that is ready, DELTA_LINE_WRITE
writes the delta line, MAP_WRITEBACK places the snapshot of the page with the oldest unretired delta, CHECKPOINT and
CKPT_NOW place the nodes that changed and show CKPT_BUSY, for their programs; and ANCHOR_REWRITE writes an anchor that
moved at least 100 ms ago. -/
def Obligations.RecordCommands : Prop :=
  (∀ (seq loc : Nat) (s : State) (r : JRec), s.findRec seq = some r → s.placing = true → s.enginesServe = true →
    s.inTurn r = true → r.committed = true → r.loc = none →
    exec (.recordPlacement seq loc) s = .next (if r.kind = 1 then s.placeWrite r loc else s.placeDiscard r)) ∧
  (∀ (seq : Nat) (s : State) (r : JRec), s.findRec seq = some r → s.ready = true →
    (s.role = .card → s.releasable r = true → exec (.recordRelease seq) s = .next (s.releaseRec r)) ∧
    (s.role = .dock → State.bridgeServed r = true → exec (.recordRelease seq) s = .next (s.releaseRec r))) ∧
  (∀ s : State, s.up = true → s.lnd.ancMoved = true → 100000 ≤ (s.uptime - s.lnd.ancTime).toNat →
    exec .anchorRewrite s = .next s.writeAnchor) ∧
  (∀ s : State, s.ready = true → s.isCard = true → s.safe = false → exec .deltaLineWrite s = .next s.writeDeltaLine) ∧
  (∀ (s : State) (x : MapSlot), s.ready = true → s.isCard = true → s.safe = false → s.coreRuns = true →
    s.pageServes pMAP = true → s.oldestDirty = some x →
    (min 90 (max 10 (s.fld MAP_CFG_WB_MARK)) * deltaLines ≤ 100 * s.deltaUsed ∨ 448 ≤ s.mapDirty ∨
      (s.fld MAP_CFG_WB_AGE ≠ 0 ∧ ∃ y ∈ s.mapS.cache, y.oldest.isSome = true ∧
        1000000 * s.fld MAP_CFG_WB_AGE ≤ (s.uptime - y.since).toNat)) →
    exec (.mapWriteback (pageName x.page x.isDir)) s = .next (s.startWriteback x.page x.isDir) ∧
    (let t := (s.touchMap x.page x.isDir).touchTree (snapCtr x.isDir (4 * x.page) / 512)
     let u := t.bumpSnap x.page x.isDir
     t.wbMay x.page x.isDir = true → ∀ loc v, u.placePage (x.page % 2) (u.snapUnits x.page x.isDir) = (some loc, v) →
     s.startWriteback x.page x.isDir = (({ v with mapS := { v.mapS with
       wbs := v.mapS.wbs ++ [{ page := x.page, isDir := x.isDir, loc := loc, top := t.topOf x.page x.isDir }] } } :
         State).issueAll))) ∧
  (∀ s : State, s.ckptMay = true → s.tree.dirty ≠ [] →
    ((s.fld TRE_CFG_CKPT_AGE ≠ 0 ∧ 1000000 * s.fld TRE_CFG_CKPT_AGE ≤ (s.uptime - s.tree.oldest).toNat) ∨
      384 * min 100 (s.fld TRE_CFG_DIRTY_MARK) ≤ 100 * s.tree.dirty.length ∨
      min 90 (max 10 (s.fld MAP_CFG_WB_MARK)) * deltaLines ≤ 100 * s.deltaUsed) →
    exec .checkpoint s = .next s.startCheckpoint) ∧
  (∀ s : State, s.isCard = true → s.pageTakes pTRE = true → (s.touchPage pTRE).ckptMay = true →
    exec .ckptNow s = .next (s.touchPage pTRE).startCheckpoint) ∧
  (∀ (s t : State) (ents : List (Nat × TreeEnt)), s.tree.ckpt = none → s.keys.trk ≠ [] →
    s.commitDeltas.ckptKeys.foldl State.placeTree (some s.commitDeltas.tree.ents, s.commitDeltas) = (some ents, t) →
    s.startCheckpoint = (({ t with tree := { t.tree with
      ckpt := some { d := t.tree.applied, ents := ents, keys := s.commitDeltas.ckptKeys } } } : State).setFlag
        TRE_STAT_CKPT_BUSY true).issueAll)

/-- In a card that places, PAGE_PAD_TIMER pads the waiting pages of its half. In one that is ready SUPERBLOCK_VERIFY
verifies its superblock. In one whose media manager runs: WEAR_MOVE, beyond the spread limit and with none under way,
moves the least worn DATA superblock; MED_RECLAIM at or below START moves that of the half with the fewest current
units, and fires PRESSURE at its mark; READ_REFRESH of a superblock whose reads reached the limit or that a rewrite is
due moves it, and closes it first where it is open. With the share of the period elapsed beyond the share done,
RETENTION_SCAN reads the last programmed wordline and one in every STRIDE of the next DATA superblock's members, counts
those reads and notes the corrected bits; once all are done and the period has elapsed it ends the pass. The scan record
is written at most ten times a second. SCAN_NOW starts a pass where none runs, and READ_COUNT_FLUSH writes the read
counts at most once per 100 ms (log 24, log 92). -/
def Obligations.MediaUpkeepCommands : Prop :=
  (∀ (half : Nat) (s : State), s.placing = true → exec (.pagePadTimer half) s = .next (s.padHalf half)) ∧
  (∀ (k : Nat) (s : State), s.ready = true → s.isCard = true → s.safe = false → s.pageServes pPAR = true →
    exec (.superblockVerify k) s = .next (s.verifySb k)) ∧
  (∀ s : State, s.moving = true →
    (∀ k, s.flag MED_WEAR_CFG_MOVE_EN = true →
      min 2000 (max 50 (s.fld MED_WEAR_CFG_SPREAD_LIMIT)) < s.eraseRange.2 - s.eraseRange.1 →
      s.media.moving.any (fun x => x.2 == 1) = false → lowestOf s.dataSbs (fun k => (s.entry k).erases) = some k →
      exec .wearMove s = .next ((s.fireD EV_MED_WEAR_MOVE_START 0 k).evacuate k 1)) ∧
    (∀ half k, half < 2 → s.freeCount half ≤ max 1 (s.fld MED_RECLAIM_CFG_START) →
      lowestOf (s.dataSbs.filter (fun k => sbHalf k == half && !s.media.moving.any (fun x => x.1 == k)))
        s.validOf = some k →
      exec (.medReclaim half) s = .next
        ((if s.freeCount half ≤ s.reclaimPressure then s.fire EV_MED_RECLAIM_PRESSURE else s).evacuate k 2)) ∧
    (∀ k, (s.entry k).state = 2 ∨ s.findSb k ≠ none → s.refreshLimit ≤ s.readsOf k ∨ s.media.refresh.contains k = true →
      let t := if s.refreshLimit ≤ s.readsOf k then s.fireD EV_MED_READ_REFRESH 0 k else s
      (s.findSb k = none → exec (.readRefresh k) s = .next
        ({ t with media := { t.media with refresh := t.media.refresh.erase k } }.evacuate k 3)) ∧
      (∀ x, s.findSb k = some x →
        let u := if x.state = 1 then
            ((t.updSb k (fun y => { y with state := 2 })).writeSbRecord k).mustOpen (sbHalf k) else t
        exec (.readRefresh k) s = .next { u with media := { u.media with
          refresh := if u.media.refresh.contains k then u.media.refresh else u.media.refresh ++ [k] } })) ∧
    (∀ reads : List MediaRead, s.flag MED_SCAN_CFG_EN = true → s.media.scanning = true →
      let n := s.dataSbs.length
      let done := (s.dataSbs.filter (fun k => k < s.media.scanNext)).length
      let period := 86400 * max 1 (s.fld MED_SCAN_CFG_PERIOD)
      (∀ k, s.dataSbs.find? (fun k => s.media.scanNext ≤ k) = some k → done < n →
        done * period < s.media.scanSecs * n →
        let ls := (s.sbMembers k).flatMap (fun l => (s.scanPages k l).map (fun p => (l, p)))
        let t := (ls.zip (reads ++ List.replicate ls.length ({} : MediaRead))).foldl (State.scanPage k)
          (s.setEntryK k { s.entry k with pass := s.media.pass, maxcb := 0 })
        exec (.retentionScan reads) s = .next ({ t with media := { t.media with scanNext := k + 1 } } : State).writeScan) ∧
      (s.dataSbs.find? (fun k => s.media.scanNext ≤ k) = none → n ≤ done → period ≤ s.media.scanSecs →
        exec (.retentionScan reads) s = .next
          (({ s with media := { s.media with scanning := false, scanNext := scanEnd } } : State).writeScan.fire
            EV_MED_SCAN_DONE)))) ∧
  (∀ s : State, 100000 ≤ (s.uptime - s.media.scanTime).toNat → s.writeScan =
    ({ s with media := { s.media with scanTime := s.uptime } } : State).writeTwo scanA scanB
      [s.media.pass, s.media.scanNext, s.media.scanSecs]) ∧
  (∀ s : State, s.isCard = true → s.pageTakes pMED = true →
    let t := s.touchPage pMED
    exec .scanNow s = .next (if t.media.scanning then t else { t with media := { t.media with
      scanning := true, pass := t.media.pass + 1, scanNext := 0, scanSecs := 0 } }.fire EV_MED_SCAN_START)) ∧
  (∀ s : State, s.up = true → s.isCard = true → 100000 ≤ (s.uptime - s.media.flushTime).toNat →
    exec .readCountFlush s = .next ({ s with media := { s.media with flushTime := s.uptime } } : State).flushReads)

/-- A channel whose arbiter runs and has a source waiting decides by class, deficit and ring. FLASH_OP_COMPLETE ends
the LUN's operation, issues its next, and follows a retirement on. DIE_TIMEOUT of a LUN with an operation issued, or
with none and so of a read of a LUN in use, records the fault of the die, that of its chip enable where the bus stays held, counts the seizure and fires both
events. RETIRE_GO of a LUN in use, with none retiring, starts its retirement. SCRUB reads the next line word by word
and moves on, and LIFE_RECORD_REWRITE writes the lifetime record at most every 10 s (log 104). -/
def Obligations.FlashAndStoreUpkeep : Prop :=
  (∀ (ch waiting : Nat) (s : State), s.isCard = true → ch < 8 → s.alive = true → s.coreRuns = true → s.safe = false →
    s.fenced (.channel ch) = false → waiting % 32 ≠ 0 →
    exec (.flashChannelGrant ch waiting) s = .next (s.chanGrant ch waiting)) ∧
  (∀ (lun : Nat) (ok : Bool) (s : State), exec (.flashOpComplete lun ok) s = .next
    ((((s.lunDone lun ok).lunReady lun).checkDieLimit lun).driveRetire)) ∧
  (∀ (lun : Nat) (ready : Bool) (read : Nat × Nat) (s : State) (o : LunOp),
    (s.media.ops.find? (fun o => o.lun == lun && o.issued) = some o ∨
      (s.media.ops.find? (fun o => o.lun == lun && o.issued) = none ∧ s.ready = true ∧ s.isCard = true ∧
        s.media.luns.contains lun = true ∧ s.lunFenced lun = false ∧
        o = { lun := lun, kind := 0, block := read.1, page := read.2, sb := sbIndex (s.setOf lun) (read.1 / 2) (read.1 % 2) })) →
    let ch := lun / 16
    let syn := o.block * 65536 + (if o.kind = 0 then 1 else if o.kind = 1 then 2 else 3) * 4096 + o.page
    let d := o.block * 65536 + o.page
    let t := s.fault (7 + 5 * ch) lun syn false
    let t := if ready then t else t.abortCe (lun / 8) lun
    let t := if o.kind = 1 then t.voidWordline o.sb o.lun (Config.wordlineOf o.page) else t
    let t := t.lunsLost (fun l => l == lun)
    let u := (t.fault (8 + 5 * ch) (lun / 8) syn false).lunsLost (fun l => l / 8 == lun / 8)
    let fin := fun (x : State) (held : Bool) => ((((((x.bump (FCH_SEIZE_STAT_COUNT ch)).setFld
      (FCH_SEIZE_STAT_LAST_LUN ch) lun).setFlag (FCH_SEIZE_STAT_CE_FENCED ch) held).fireD (EV_FCH_BUS_SEIZED ch) lun
        d).fireD (EV_FCH_DIE_FENCED ch) lun d).issueAll)
    exec (.dieTimeout lun ready false read) s = .next (fin t false) ∧
    exec (.dieTimeout lun ready true read) s = .next (fin u true)) ∧
  (∀ (lun : Nat) (s : State), s.isCard = true → s.pageTakes pMED = true → lun < 128 →
    (s.touchPage pMED).media.luns.contains lun = true → (s.touchPage pMED).media.retiring = none →
    exec (.retireGo lun) s = .next
      (({ s.touchPage pMED with media := { (s.touchPage pMED).media with retiring := some lun } }.setFlag
        MED_STAT_RETIRING true).driveRetire)) ∧
  (∀ s : State, s.up = true → s.flag LND_SCRUB_CFG_EN = true → s.safe = false → s.powerState < 3 →
    s.flag CLK_PLL_STAT_RELOCKING = false →
    let l := s.fld LND_SCRUB_STAT_NEXT
    exec .lndScrub s = .next (((List.range 8).foldl (fun t i => t.scrubOne (64 * l + 8 * i)) s).checkTracks.setFld
      LND_SCRUB_STAT_NEXT ((l + 1) % 524288))) ∧
  (∀ s : State, s.isCard = true → s.up = true → s.safe = false → 10000000 ≤ (s.uptime - s.life.last).toNat →
    exec .lifeRecordRewrite s = .next s.writeLife)
end

