-- ==== Sys2Proof/Laws/Sparse.lean ====
section
/-! SUPPORT. The laws of sparse stores: a read after a write, and the canonical form kept. -/

namespace Sys2Proof.Machine

variable {V : Type}

theorem Sparse.get_cons_lt (d : Nat → V) (m : List (Nat × V)) (k j : Nat)
    (h : Sparse.above (some k) m = true) (hj : j ≤ k) : Sparse.get d m j = d j := by
  cases m with
  | nil => rfl
  | cons p rest =>
    simp only [Sparse.above, decide_eq_true_eq] at h
    have h1 : ¬ p.1 = j := by omega
    have h2 : j < p.1 := by omega
    simp [Sparse.get, h1, h2]

theorem Sparse.wf_cons [DecidableEq V] (d : Nat → V) (p : Nat × V) (m : List (Nat × V)) :
    Sparse.wf d (p :: m) = true ↔
      p.2 ≠ d p.1 ∧ Sparse.above (some p.1) m = true ∧ Sparse.wf d m = true := by
  simp [Sparse.wf, and_assoc]

theorem Sparse.get_insert [DecidableEq V] (d : Nat → V) (m : List (Nat × V)) (k j : Nat) (v : V)
    (h : Sparse.wf d m = true) :
    Sparse.get d (Sparse.insert m k v) j = if k = j then v else Sparse.get d m j := by
  induction m with
  | nil =>
    by_cases hk : k = j
    · simp [Sparse.insert, Sparse.get, hk]
    · simp [Sparse.insert, Sparse.get, hk]
  | cons p rest ih =>
    obtain ⟨-, ha, hw⟩ := (Sparse.wf_cons d p rest).1 h
    simp only [Sparse.insert]
    by_cases h1 : p.1 = k
    · simp only [h1, if_true]
      by_cases h2 : k = j
      · simp [Sparse.get, h2]
      · simp only [Sparse.get, h2, if_false, h1]
    · simp only [h1, if_false]
      by_cases h2 : k < p.1
      · simp only [h2, if_true]
        by_cases h3 : k = j
        · simp [Sparse.get, h3]
        · by_cases h4 : j < k
          · have h5 : ¬ p.1 = j := by omega
            have h6 : j < p.1 := by omega
            simp [Sparse.get, h3, h4, h5, h6]
          · simp [Sparse.get, h3, h4]
      · simp only [h2, if_false]
        by_cases h3 : p.1 = j
        · have h4 : ¬ k = j := by omega
          simp [Sparse.get, h3, h4]
        · by_cases h4 : j < p.1
          · have h5 : ¬ k = j := by omega
            simp [Sparse.get, h3, h4, h5]
          · simp [Sparse.get, h3, h4, ih hw]

theorem Sparse.get_erase [DecidableEq V] (d : Nat → V) (m : List (Nat × V)) (k j : Nat)
    (h : Sparse.wf d m = true) :
    Sparse.get d (Sparse.erase m k) j = if k = j then d j else Sparse.get d m j := by
  induction m with
  | nil => simp [Sparse.erase, Sparse.get]
  | cons p rest ih =>
    obtain ⟨-, ha, hw⟩ := (Sparse.wf_cons d p rest).1 h
    simp only [Sparse.erase]
    by_cases h1 : p.1 = k
    · simp only [h1, if_true]
      by_cases h2 : k = j
      · subst h2
        simp [Sparse.get_cons_lt d rest p.1 k ha (by omega)]
      · simp only [h2, if_false, Sparse.get, h1]
        by_cases h3 : j < k
        · simp [h3, Sparse.get_cons_lt d rest p.1 j ha (by omega)]
        · simp [h3]
    · simp only [h1, if_false]
      by_cases h2 : k < p.1
      · simp only [h2, if_true]
        by_cases h3 : k = j
        · subst h3
          simp [Sparse.get, h1, h2]
        · simp [h3]
      · simp only [h2, if_false]
        by_cases h3 : p.1 = j
        · have h4 : ¬ k = j := by omega
          simp [Sparse.get, h3, h4]
        · by_cases h4 : j < p.1
          · have h5 : ¬ k = j := by omega
            simp [Sparse.get, h3, h4, h5]
          · simp [Sparse.get, h3, h4, ih hw]

/-- A read after a write: the key written reads the value, every other key as before. -/
theorem Sparse.get_set [DecidableEq V] (d : Nat → V) (m : List (Nat × V)) (k j : Nat) (v : V)
    (h : Sparse.wf d m = true) :
    Sparse.get d (Sparse.set d m k v) j = if k = j then v else Sparse.get d m j := by
  unfold Sparse.set
  split
  · rename_i hv
    rw [Sparse.get_erase d m k j h]
    by_cases hk : k = j
    · subst hk; simp [hv]
    · simp [hk]
  · exact Sparse.get_insert d m k j v h

theorem Sparse.above_insert (b : Nat) (m : List (Nat × V)) (k : Nat) (v : V)
    (h : Sparse.above (some b) m = true) (hk : b < k) :
    Sparse.above (some b) (Sparse.insert m k v) = true := by
  cases m with
  | nil => simpa [Sparse.insert, Sparse.above] using hk
  | cons p rest =>
    simp only [Sparse.above, decide_eq_true_eq] at h
    simp only [Sparse.insert]
    split
    · simpa [Sparse.above] using hk
    · split
      · simpa [Sparse.above] using hk
      · simpa [Sparse.above] using h

theorem Sparse.above_mono (b c : Nat) (m : List (Nat × V))
    (h : Sparse.above (some c) m = true) (hb : b ≤ c) : Sparse.above (some b) m = true := by
  cases m with
  | nil => rfl
  | cons p rest =>
    simp only [Sparse.above, decide_eq_true_eq] at h ⊢
    omega

theorem Sparse.above_tail [DecidableEq V] (d : Nat → V) (b : Nat) (p : Nat × V)
    (m : List (Nat × V)) (h : Sparse.above (some b) (p :: m) = true)
    (hw : Sparse.wf d (p :: m) = true) : Sparse.above (some b) m = true := by
  obtain ⟨-, ha, -⟩ := (Sparse.wf_cons d p m).1 hw
  simp only [Sparse.above, decide_eq_true_eq] at h
  exact Sparse.above_mono b p.1 m ha (by omega)

theorem Sparse.above_erase [DecidableEq V] (d : Nat → V) (b : Nat) (m : List (Nat × V)) (k : Nat)
    (h : Sparse.above (some b) m = true) (hw : Sparse.wf d m = true) :
    Sparse.above (some b) (Sparse.erase m k) = true := by
  cases m with
  | nil => rfl
  | cons p rest =>
    simp only [Sparse.erase]
    split
    · exact Sparse.above_tail d b p rest h hw
    · split
      · exact h
      · simpa [Sparse.above] using h

theorem Sparse.wf_insert [DecidableEq V] (d : Nat → V) (m : List (Nat × V)) (k : Nat) (v : V)
    (h : Sparse.wf d m = true) (hv : v ≠ d k) : Sparse.wf d (Sparse.insert m k v) = true := by
  induction m with
  | nil => simp [Sparse.insert, Sparse.wf, Sparse.above, hv]
  | cons p rest ih =>
    obtain ⟨hp, ha, hw⟩ := (Sparse.wf_cons d p rest).1 h
    simp only [Sparse.insert]
    split
    · rename_i h1
      exact (Sparse.wf_cons d _ _).2 ⟨hv, by simpa [h1] using ha, hw⟩
    · rename_i h1
      split
      · rename_i h2
        exact (Sparse.wf_cons d _ _).2 ⟨hv, by simpa [Sparse.above] using h2, h⟩
      · rename_i h2
        exact (Sparse.wf_cons d _ _).2
          ⟨hp, Sparse.above_insert p.1 rest k v ha (by omega), ih hw⟩

theorem Sparse.wf_erase [DecidableEq V] (d : Nat → V) (m : List (Nat × V)) (k : Nat)
    (h : Sparse.wf d m = true) : Sparse.wf d (Sparse.erase m k) = true := by
  induction m with
  | nil => rfl
  | cons p rest ih =>
    obtain ⟨hp, ha, hw⟩ := (Sparse.wf_cons d p rest).1 h
    simp only [Sparse.erase]
    split
    · exact hw
    · split
      · exact h
      · exact (Sparse.wf_cons d _ _).2 ⟨hp, Sparse.above_erase d p.1 rest k ha hw, ih hw⟩

/-- A write keeps the canonical form. -/
theorem Sparse.wf_set [DecidableEq V] (d : Nat → V) (m : List (Nat × V)) (k : Nat) (v : V)
    (h : Sparse.wf d m = true) : Sparse.wf d (Sparse.set d m k v) = true := by
  unfold Sparse.set
  split
  · exact Sparse.wf_erase d m k h
  · rename_i hv
    exact Sparse.wf_insert d m k v h hv

theorem Sparse.above_filter [DecidableEq V] (d : Nat → V) (b : Nat) (m : List (Nat × V))
    (p : Nat × V → Bool) (h : Sparse.above (some b) m = true) (hw : Sparse.wf d m = true) :
    Sparse.above (some b) (m.filter p) = true := by
  induction m with
  | nil => rfl
  | cons e rest ih =>
    obtain ⟨-, -, hr⟩ := (Sparse.wf_cons d e rest).1 hw
    simp only [List.filter]
    split
    · simpa [Sparse.above] using h
    · exact ih (Sparse.above_tail d b e rest h hw) hr

theorem Sparse.wf_clear [DecidableEq V] (d : Nat → V) (m : List (Nat × V)) (p : Nat → Bool)
    (h : Sparse.wf d m = true) : Sparse.wf d (Sparse.clear m p) = true := by
  unfold Sparse.clear
  induction m with
  | nil => rfl
  | cons e rest ih =>
    obtain ⟨he, ha, hw⟩ := (Sparse.wf_cons d e rest).1 h
    simp only [List.filter]
    split
    · exact (Sparse.wf_cons d _ _).2 ⟨he, Sparse.above_filter d e.1 rest _ ha hw, ih hw⟩
    · exact ih hw

/-- After a clear, a key picked reads its default and every other key as before. -/
theorem Sparse.get_clear [DecidableEq V] (d : Nat → V) (m : List (Nat × V)) (p : Nat → Bool)
    (j : Nat) (h : Sparse.wf d m = true) :
    Sparse.get d (Sparse.clear m p) j = if p j = true then d j else Sparse.get d m j := by
  unfold Sparse.clear
  induction m with
  | nil => simp [Sparse.get]
  | cons e rest ih =>
    obtain ⟨-, ha, hw⟩ := (Sparse.wf_cons d e rest).1 h
    have ih := ih hw
    by_cases hp : p e.1 = true
    · simp only [List.filter, hp, Bool.not_true, ih, Sparse.get]
      by_cases hj : p j = true
      · simp [hj]
      · have h1 : ¬ e.1 = j := by intro hh; rw [hh] at hp; exact hj hp
        by_cases h2 : j < e.1
        · simp [hj, h1, h2, Sparse.get_cons_lt d rest e.1 j ha (by omega)]
        · simp [hj, h1, h2]
    · have hp' : p e.1 = false := by simpa using hp
      simp only [List.filter, hp', Bool.not_false, Sparse.get, ih]
      by_cases h1 : e.1 = j
      · subst h1; simp [hp']
      · by_cases h2 : j < e.1 <;> simp [h1, h2]

theorem Sparse.wf_setRun [DecidableEq V] (d : Nat → V) (vs : List V) (m : List (Nat × V)) (k : Nat)
    (h : Sparse.wf d m = true) : Sparse.wf d (Sparse.setRun d m k vs) = true := by
  induction vs generalizing m k with
  | nil => exact h
  | cons v vs ih => exact ih _ _ (Sparse.wf_set d m k v h)

/-- After a run of writes, key `j` reads the run's value inside the run and as before outside it. -/
theorem Sparse.get_setRun [DecidableEq V] (d : Nat → V) (vs : List V) (m : List (Nat × V))
    (k j : Nat) (h : Sparse.wf d m = true) :
    Sparse.get d (Sparse.setRun d m k vs) j =
      if k ≤ j ∧ j < k + vs.length then vs.getD (j - k) (Sparse.get d m j)
      else Sparse.get d m j := by
  induction vs generalizing m k with
  | nil => simp [Sparse.setRun]
  | cons v vs ih =>
    rw [Sparse.setRun, ih _ _ (Sparse.wf_set d m k v h), Sparse.get_set d m k j v h]
    by_cases h1 : k = j
    · subst h1
      have h2 : ¬ (k + 1 ≤ k ∧ k < k + 1 + vs.length) := by omega
      have h3 : k ≤ k ∧ k < k + (v :: vs).length := by simp
      rw [if_neg h2, if_pos h3]; simp
    · by_cases h2 : k + 1 ≤ j ∧ j < k + 1 + vs.length
      · have h3 : k ≤ j ∧ j < k + (v :: vs).length := by simp; omega
        rw [if_pos h2, if_pos h3]
        have h4 : j - k = (j - (k + 1)) + 1 := by omega
        simp [h1, h4]
      · have h3 : ¬ (k ≤ j ∧ j < k + (v :: vs).length) := by simp; omega
        rw [if_neg h2, if_neg h3]; simp [h1]

end Sys2Proof.Machine
end

