-- ==== Sys2Proof/Laws/Later.lean ====
section
/-! SUPPORT. What no operation of the machine ever does, said once: `State.Later s t` holds of every state `t` an
operation makes of `s`.  The stores keep their canonical form, no fuse is unburned, the queue of commands stays as it
is, free values are only drawn forward, and what was sent stays sent.  It is a preorder; each operation has one lemma. -/

namespace Sys2Proof.Machine

/-- `t` comes after `s` in a run of the machine. -/
structure State.Later (s t : State) : Prop where
  regs : Sparse.wf regReset s.regs = true → Sparse.wf regReset t.regs = true
  mram : Sparse.wf mramBlank s.mram = true → Sparse.wf mramBlank t.mram = true
  ecc : Sparse.wf eccClean s.ecc = true → Sparse.wf eccClean t.ecc = true
  otp : Sparse.wf otpBlank s.otp = true → Sparse.wf otpBlank t.otp = true
  fuses : Sparse.wf otpBlank s.otp = true → ∀ w i, (s.fuseWord w).testBit i = true → (t.fuseWord w).testBit i = true
  low : Sparse.wf otpBlank s.otp = true → ∀ w, w < 7 ∨ 8 < w → t.fuseWord w = s.fuseWord w
  pending : t.pending = s.pending
  draws : s.freeCtr ≤ t.freeCtr
  sent : s.out <+: t.out

/-- The same of a value beside the state. -/
def LaterSnd {α : Type} (s : State) (r : α × State) : Prop := s.Later r.2
def LaterFst {α : Type} (s : State) (r : State × α) : Prop := s.Later r.1
def LaterThird {α β : Type} (s : State) (r : α × β × State) : Prop := s.Later r.2.2
def LaterFourth {α β γ : Type} (s : State) (r : α × β × γ × State) : Prop := s.Later r.2.2.2

/-- A meaning answers a next state, and one that comes after `s`. -/
def Goes (s : State) (r : Host.Outcome State Fault Refusal) : Prop := ∃ t, r = .next t ∧ s.Later t

theorem via {P Q : Prop} (h : P) (k : P → Q) : Q := k h

theorem State.Later.refl (s : State) : s.Later s :=
  ⟨id, id, id, id, fun _ _ _ h => h, fun _ _ _ => rfl, rfl, Nat.le_refl _, List.prefix_rfl⟩

theorem State.Later.trans {s t u : State} (h : s.Later t) (k : t.Later u) : s.Later u :=
  ⟨fun x => k.regs (h.regs x), fun x => k.mram (h.mram x), fun x => k.ecc (h.ecc x), fun x => k.otp (h.otp x),
   fun x w i y => k.fuses (h.otp x) w i (h.fuses x w i y),
   fun x w y => (k.low (h.otp x) w y).trans (h.low x w y), k.pending.trans h.pending, Nat.le_trans h.draws k.draws,
   h.sent.trans k.sent⟩

/-- A change of any other field. -/
theorem State.later_mk {s t : State} {role : Role} {pins : Pins} {uptime : Time} {hiLatch : List (Nat × Word)} {injArmed : List Nat} {boot :
    Boot} {held : List HeldEvent} {ringDrop : Bool} {fnRegs : List (Nat × Nat)} {flt : Flt} {tamper : Tamper} {ths : Ths} {cnA : Counlet}
    {cnB : Counlet} {spA : Port} {spB : Port} {keys : Keys} {shadow : List (Nat × Nat)} {lnd : Landing} {mapS :
    MapSt} {tree : TreeSt} {media : MediaSt} {segs : List Segment} {host : HostSt} {brg : Bridge} {firm : Firm}
    {life : Life} {summary : Nat × Nat} {mq : MramQueue} :
    s.Later (State.mk role pins uptime t.regs hiLatch injArmed boot held ringDrop fnRegs flt tamper ths cnA cnB spA spB keys t.otp
      shadow t.mram t.ecc mq lnd mapS tree media segs host brg firm life summary t.freeCtr t.out t.pending) ↔
    s.Later t :=
  ⟨fun h => ⟨h.regs, h.mram, h.ecc, h.otp, h.fuses, h.low, h.pending, h.draws, h.sent⟩,
   fun h => ⟨h.regs, h.mram, h.ecc, h.otp, h.fuses, h.low, h.pending, h.draws, h.sent⟩⟩

/-- A change of the registers, in canonical form, and of any other field. -/
theorem State.later_regs {s t : State} {regs : List (Nat × Word)} {role : Role} {pins : Pins} {uptime : Time} {hiLatch : List (Nat × Word)} {injArmed : List Nat} {boot :
    Boot} {held : List HeldEvent} {ringDrop : Bool} {fnRegs : List (Nat × Nat)} {flt : Flt} {tamper : Tamper} {ths : Ths} {cnA : Counlet}
    {cnB : Counlet} {spA : Port} {spB : Port} {keys : Keys} {shadow : List (Nat × Nat)} {lnd : Landing} {mapS :
    MapSt} {tree : TreeSt} {media : MediaSt} {segs : List Segment} {host : HostSt} {brg : Bridge} {firm : Firm}
    {life : Life} {summary : Nat × Nat} {mq : MramQueue}
    (h : s.Later t) (k : Sparse.wf regReset t.regs = true → Sparse.wf regReset regs = true) :
    s.Later (State.mk role pins uptime regs hiLatch injArmed boot held ringDrop fnRegs flt tamper ths cnA cnB spA spB keys t.otp
      shadow t.mram t.ecc mq lnd mapS tree media segs host brg firm life summary t.freeCtr t.out t.pending) :=
  ⟨fun x => k (h.regs x), h.mram, h.ecc, h.otp, h.fuses, h.low, h.pending, h.draws, h.sent⟩

theorem LaterSnd.here {α : Type} {s : State} {v : α × State} {a : α} {t : State} (h : LaterSnd s v)
    (e : v = (a, t)) : s.Later t := by subst e; exact h

theorem LaterFst.here {α : Type} {s : State} {v : State × α} {a : α} {t : State} (h : LaterFst s v)
    (e : v = (t, a)) : s.Later t := by subst e; exact h

theorem laterSnd_mk {α : Type} {s t : State} {a : α} (h : s.Later t) : LaterSnd s (a, t) := h
theorem laterFst_mk {α : Type} {s t : State} {a : α} (h : s.Later t) : LaterFst s (t, a) := h
theorem laterThird_mk {α β : Type} {s t : State} {a : α} {b : β} (h : s.Later t) : LaterThird s (a, b, t) := h
theorem laterFourth_mk {α β γ : Type} {s t : State} {a : α} {b : β} {c : γ} (h : s.Later t) :
    LaterFourth s (a, b, c, t) := h

theorem laterSnd_trans {α : Type} {s t : State} {r : α × State} (h : s.Later t) (k : LaterSnd t r) : LaterSnd s r :=
  h.trans k
theorem laterFst_trans {α : Type} {s t : State} {r : State × α} (h : s.Later t) (k : LaterFst t r) : LaterFst s r :=
  h.trans k

theorem laterThird_trans {α β : Type} {s t : State} {r : α × β × State} (h : s.Later t) (k : LaterThird t r) :
    LaterThird s r := h.trans k
theorem laterFourth_trans {α β γ : Type} {s t : State} {r : α × β × γ × State} (h : s.Later t) (k : LaterFourth t r) :
    LaterFourth s r := h.trans k

theorem State.later_of_snd {α : Type} {s : State} {r : α × State} (h : LaterSnd s r) : s.Later r.2 := h
theorem State.later_of_fst {α : Type} {s : State} {r : State × α} (h : LaterFst s r) : s.Later r.1 := h
theorem State.later_of_third {α β : Type} {s : State} {r : α × β × State} (h : LaterThird s r) : s.Later r.2.2 := h
theorem State.later_of_fourth {α β γ : Type} {s : State} {r : α × β × γ × State} (h : LaterFourth s r) : s.Later r.2.2.2 := h
theorem LaterThird.here {α β : Type} {s : State} {v : α × β × State} {a : α} {b : β} {t : State} (h : LaterThird s v)
    (e : v = (a, b, t)) : s.Later t := by subst e; exact h
theorem LaterFourth.here {α β γ : Type} {s : State} {v : α × β × γ × State} {a : α} {b : β} {c : γ} {t : State}
    (h : LaterFourth s v) (e : v = (a, b, c, t)) : s.Later t := by subst e; exact h

theorem goes_next {s t : State} (h : s.Later t) : Goes s (.next t) := ⟨t, rfl, h⟩

theorem State.later_ite {s a b : State} {c : Prop} [Decidable c] (h : c → s.Later a) (k : ¬c → s.Later b) :
    s.Later (if c then a else b) := by
  split
  · exact h ‹_›
  · exact k ‹_›

theorem goes_ite {s : State} {a b : Host.Outcome State Fault Refusal} {c : Prop} [Decidable c] (h : c → Goes s a)
    (k : ¬c → Goes s b) : Goes s (if c then a else b) := by
  split
  · exact h ‹_›
  · exact k ‹_›

theorem State.later_foldl {α : Type} {s : State} {f : State → α → State} (k : ∀ t x, s.Later t → s.Later (f t x))
    (l : List α) : ∀ {a : State}, s.Later a → s.Later (l.foldl f a) := by
  induction l with
  | nil => exact fun h => h
  | cons x xs ih => exact fun h => ih (k _ x h)

theorem laterSnd_foldl {α β : Type} {s : State} {f : β × State → α → β × State}
    (k : ∀ r x, LaterSnd s r → LaterSnd s (f r x)) (l : List α) :
    ∀ {a : β × State}, LaterSnd s a → LaterSnd s (l.foldl f a) := by
  induction l with
  | nil => exact fun h => h
  | cons x xs ih => exact fun h => ih (k _ x h)

theorem laterFst_foldl {α β : Type} {s : State} {f : State × β → α → State × β}
    (k : ∀ r x, LaterFst s r → LaterFst s (f r x)) (l : List α) :
    ∀ {a : State × β}, LaterFst s a → LaterFst s (l.foldl f a) := by
  induction l with
  | nil => exact fun h => h
  | cons x xs ih => exact fun h => ih (k _ x h)

end Sys2Proof.Machine
end

