-- ==== Sys2Proof/Laws/OpsLaws.lean ====
section
/-! SUPPORT. What the operations of Machine/Ops.lean never do: each gives a state after its own (State.Later). -/

namespace Sys2Proof.Machine

open Sys2Proof.Crypto

theorem State.setReg_later {r' : State} (s : State) (off : Nat) (v : Word) (h' : r'.Later s) : r'.Later (s.setReg off v) :=
  h'.trans ⟨fun h => Sparse.wf_set _ _ _ _ h, id, id, id, fun _ _ _ h => h, fun _ _ _ => rfl, rfl, Nat.le_refl _, List.prefix_rfl⟩

theorem State.setFld_later {r' : State} (s : State) (f : Fld) (v : Nat) (h' : r'.Later s) :
    r'.Later (State.setFld s f v) := by
  delta State.setFld
  repeat' first
    | with_reducible assumption
    | (extract_lets +onlyGivenNames t; refine via (?_ : State.Later r' t) (fun ht => ?_); subst t; rotate_left; clear_value t)
    | (extract_lets +onlyGivenNames t; clear_value t)
    | with_reducible apply State.setReg_later
    | simp -zeta only [State.later_mk]
    | with_reducible refine State.later_ite (fun _ => ?_) (fun _ => ?_)
    | split

theorem State.setFlag_later {r' : State} (s : State) (f : Fld) (b : Bool) (h' : r'.Later s) :
    r'.Later (State.setFlag s f b) := by
  delta State.setFlag
  repeat' first
    | with_reducible assumption
    | (extract_lets +onlyGivenNames t; refine via (?_ : State.Later r' t) (fun ht => ?_); subst t; rotate_left; clear_value t)
    | (extract_lets +onlyGivenNames t; clear_value t)
    | with_reducible apply State.setFld_later
    | simp -zeta only [State.later_mk]
    | with_reducible refine State.later_ite (fun _ => ?_) (fun _ => ?_)
    | split

theorem State.bump_later {r' : State} (s : State) (f : Fld) (h' : r'.Later s) :
    r'.Later (State.bump s f) := by
  delta State.bump
  repeat' first
    | with_reducible assumption
    | (extract_lets +onlyGivenNames t; refine via (?_ : State.Later r' t) (fun ht => ?_); subst t; rotate_left; clear_value t)
    | (extract_lets +onlyGivenNames t; clear_value t)
    | with_reducible apply State.setFld_later
    | simp -zeta only [State.later_mk]
    | with_reducible refine State.later_ite (fun _ => ?_) (fun _ => ?_)
    | split

theorem State.bumpBy_later {r' : State} (s : State) (f : Fld) (k : Nat) (h' : r'.Later s) :
    r'.Later (State.bumpBy s f k) := by
  delta State.bumpBy
  repeat' first
    | with_reducible assumption
    | (extract_lets +onlyGivenNames t; refine via (?_ : State.Later r' t) (fun ht => ?_); subst t; rotate_left; clear_value t)
    | (extract_lets +onlyGivenNames t; clear_value t)
    | with_reducible apply State.setFld_later
    | simp -zeta only [State.later_mk]
    | with_reducible refine State.later_ite (fun _ => ?_) (fun _ => ?_)
    | split

theorem State.raiseTo_later {r' : State} (s : State) (f : Fld) (v : Nat) (h' : r'.Later s) :
    r'.Later (State.raiseTo s f v) := by
  delta State.raiseTo
  repeat' first
    | with_reducible assumption
    | (extract_lets +onlyGivenNames t; refine via (?_ : State.Later r' t) (fun ht => ?_); subst t; rotate_left; clear_value t)
    | (extract_lets +onlyGivenNames t; clear_value t)
    | with_reducible apply State.setFld_later
    | simp -zeta only [State.later_mk]
    | with_reducible refine State.later_ite (fun _ => ?_) (fun _ => ?_)
    | split

theorem State.setSp_later {r' : State} (s : State) (p : Nat) (x : Port) (h' : r'.Later s) :
    r'.Later (State.setSp s p x) := by
  delta State.setSp
  repeat' first
    | with_reducible assumption
    | (extract_lets +onlyGivenNames t; refine via (?_ : State.Later r' t) (fun ht => ?_); subst t; rotate_left; clear_value t)
    | (extract_lets +onlyGivenNames t; clear_value t)
    | simp -zeta only [State.later_mk]
    | with_reducible refine State.later_ite (fun _ => ?_) (fun _ => ?_)
    | split

theorem State.setCn_later {r' : State} (s : State) (p : Nat) (x : Counlet) (h' : r'.Later s) :
    r'.Later (State.setCn s p x) := by
  delta State.setCn
  repeat' first
    | with_reducible assumption
    | (extract_lets +onlyGivenNames t; refine via (?_ : State.Later r' t) (fun ht => ?_); subst t; rotate_left; clear_value t)
    | (extract_lets +onlyGivenNames t; clear_value t)
    | simp -zeta only [State.later_mk]
    | with_reducible refine State.later_ite (fun _ => ?_) (fun _ => ?_)
    | split

theorem State.touchPage_later {r' : State} (s : State) (p : Nat) (h' : r'.Later s) :
    r'.Later (State.touchPage s p) := by
  delta State.touchPage
  repeat' first
    | with_reducible assumption
    | (extract_lets +onlyGivenNames t; refine via (?_ : State.Later r' t) (fun ht => ?_); subst t; rotate_left; clear_value t)
    | (extract_lets +onlyGivenNames t; clear_value t)
    | simp -zeta only [State.later_mk]
    | with_reducible refine State.later_ite (fun _ => ?_) (fun _ => ?_)
    | split

theorem State.emit_later {r' : State} (s : State) (o : Out) (h' : r'.Later s) : r'.Later (s.emit o) :=
  h'.trans ⟨id, id, id, id, fun _ _ _ h => h, fun _ _ _ => rfl, rfl, Nat.le_refl _, List.prefix_append _ _⟩

theorem State.mramSync_later {r' : State} (s : State) (h' : r'.Later s) :
    r'.Later (State.mramSync s) := by
  delta State.mramSync
  repeat' first
    | with_reducible assumption
    | (extract_lets +onlyGivenNames t; refine via (?_ : State.Later r' t) (fun ht => ?_); subst t; rotate_left; clear_value t)
    | (extract_lets +onlyGivenNames t; clear_value t)
    | simp -zeta only [State.later_mk]
    | with_reducible refine State.later_ite (fun _ => ?_) (fun _ => ?_)
    | split

theorem State.mramFence_later {r' : State} (s : State) (h' : r'.Later s) :
    r'.Later (State.mramFence s) := by
  delta State.mramFence
  repeat' first
    | with_reducible assumption
    | (extract_lets +onlyGivenNames t; refine via (?_ : State.Later r' t) (fun ht => ?_); subst t; rotate_left; clear_value t)
    | (extract_lets +onlyGivenNames t; clear_value t)
    | simp -zeta only [State.later_mk]
    | with_reducible refine State.later_ite (fun _ => ?_) (fun _ => ?_)
    | split

theorem State.spend_later {r' : State} (s : State) (h' : r'.Later s) : r'.Later s.spend :=
  h'.trans ⟨id, id, id, id, fun _ _ _ h => h, fun _ _ _ => rfl, rfl, Nat.le_succ _, List.prefix_rfl⟩

end Sys2Proof.Machine
end

