-- ==== Sys2Proof/Laws/EventsLaws.lean ====
section
/-! SUPPORT. What the operations of Machine/Events.lean never do: each gives a state after its own (State.Later). -/

namespace Sys2Proof.Machine

open Sys2Proof.Crypto

theorem State.setFnReg_later {r' : State} (s : State) (fn i v : Nat) (h' : r'.Later s) :
    r'.Later (State.setFnReg s fn i v) := by
  delta State.setFnReg
  repeat' first
    | with_reducible assumption
    | (extract_lets +onlyGivenNames t; refine via (?_ : State.Later r' t) (fun ht => ?_); subst t; rotate_left; clear_value t)
    | (extract_lets +onlyGivenNames t; clear_value t)
    | simp -zeta only [State.later_mk]
    | with_reducible refine State.later_ite (fun _ => ?_) (fun _ => ?_)
    | split

theorem State.signal_later {r' : State} (s : State) (fn v : Nat) (h' : r'.Later s) :
    r'.Later (State.signal s fn v) := by
  delta State.signal
  repeat' first
    | with_reducible assumption
    | (extract_lets +onlyGivenNames t; refine via (?_ : State.Later r' t) (fun ht => ?_); subst t; rotate_left; clear_value t)
    | (extract_lets +onlyGivenNames t; clear_value t)
    | with_reducible (first | apply State.emit_later | apply State.setFnReg_later)
    | simp -zeta only [State.later_mk]
    | with_reducible refine State.later_ite (fun _ => ?_) (fun _ => ?_)
    | split

theorem State.raisePend_later {r' : State} (s : State) (e : Ev) (h' : r'.Later s) :
    r'.Later (State.raisePend s e) := by
  delta State.raisePend
  repeat' first
    | with_reducible assumption
    | (extract_lets +onlyGivenNames t; refine via (?_ : State.Later r' t) (fun ht => ?_); subst t; rotate_left; clear_value t)
    | (extract_lets +onlyGivenNames t; clear_value t)
    | with_reducible (first | apply State.setFlag_later | apply State.signal_later)
    | simp -zeta only [State.later_mk]
    | with_reducible refine State.later_ite (fun _ => ?_) (fun _ => ?_)
    | split

theorem State.putRecord_later {r' : State} (s : State) (off w0 dA dB : Nat) (ts : Time) (h' : r'.Later s) :
    r'.Later (State.putRecord s off w0 dA dB ts) := by
  delta State.putRecord
  repeat' first
    | with_reducible assumption
    | (extract_lets +onlyGivenNames t; refine via (?_ : State.Later r' t) (fun ht => ?_); subst t; rotate_left; clear_value t)
    | (extract_lets +onlyGivenNames t; clear_value t)
    | with_reducible apply State.setReg_later
    | simp -zeta only [State.later_mk]
    | with_reducible refine State.later_ite (fun _ => ?_) (fun _ => ?_)
    | split

theorem State.ringWrite_later {r' : State} (s : State) (e : Ev) (inst : Option Nat) (dA dB : Nat) (test : Bool) (ts : Time) (h' : r'.Later s) :
    r'.Later (State.ringWrite s e inst dA dB test ts) := by
  delta State.ringWrite
  repeat' first
    | with_reducible assumption
    | (extract_lets +onlyGivenNames t; refine via (?_ : State.Later r' t) (fun ht => ?_); subst t; rotate_left; clear_value t)
    | (extract_lets +onlyGivenNames t; clear_value t)
    | with_reducible (first | apply State.bump_later | apply State.putRecord_later | apply State.setFld_later)
    | simp -zeta only [State.later_mk]
    | with_reducible refine State.later_ite (fun _ => ?_) (fun _ => ?_)
    | split

theorem State.fireOverflow_later {r' : State} (s : State) (h' : r'.Later s) :
    r'.Later (State.fireOverflow s) := by
  delta State.fireOverflow
  repeat' first
    | with_reducible assumption
    | (extract_lets +onlyGivenNames t; refine via (?_ : State.Later r' t) (fun ht => ?_); subst t; rotate_left; clear_value t)
    | (extract_lets +onlyGivenNames t; clear_value t)
    | with_reducible (first | apply State.raisePend_later | apply State.ringWrite_later | apply State.setFlag_later)
    | simp -zeta only [State.later_mk]
    | with_reducible refine State.later_ite (fun _ => ?_) (fun _ => ?_)
    | split

theorem State.ringWriteOv_later {r' : State} (s : State) (e : Ev) (inst : Option Nat) (dA dB : Nat) (test : Bool) (ts : Time) (h' : r'.Later s) :
    r'.Later (State.ringWriteOv s e inst dA dB test ts) := by
  delta State.ringWriteOv
  repeat' first
    | with_reducible assumption
    | (extract_lets +onlyGivenNames t; refine via (?_ : State.Later r' t) (fun ht => ?_); subst t; rotate_left; clear_value t)
    | (extract_lets +onlyGivenNames t; clear_value t)
    | with_reducible (first | apply State.fireOverflow_later | apply State.ringWrite_later)
    | simp -zeta only [State.later_mk]
    | with_reducible refine State.later_ite (fun _ => ?_) (fun _ => ?_)
    | split

theorem State.fireHigh_later {r' : State} (s : State) (h' : r'.Later s) :
    r'.Later (State.fireHigh s) := by
  delta State.fireHigh
  repeat' first
    | with_reducible assumption
    | (extract_lets +onlyGivenNames t; refine via (?_ : State.Later r' t) (fun ht => ?_); subst t; rotate_left; clear_value t)
    | (extract_lets +onlyGivenNames t; clear_value t)
    | with_reducible (first | apply State.raisePend_later | apply State.ringWriteOv_later | apply State.setFlag_later)
    | simp -zeta only [State.later_mk]
    | with_reducible refine State.later_ite (fun _ => ?_) (fun _ => ?_)
    | split

theorem State.record_later {r' : State} (s : State) (e : Ev) (inst : Option Nat) (dA dB : Nat) (test : Bool) (ts : Time) (h' : r'.Later s) :
    r'.Later (State.record s e inst dA dB test ts) := by
  delta State.record
  repeat' first
    | with_reducible assumption
    | (extract_lets +onlyGivenNames t; refine via (?_ : State.Later r' t) (fun ht => ?_); subst t; rotate_left; clear_value t)
    | (extract_lets +onlyGivenNames t; clear_value t)
    | with_reducible (first | apply State.fireHigh_later | apply State.ringWriteOv_later)
    | simp -zeta only [State.later_mk]
    | with_reducible refine State.later_ite (fun _ => ?_) (fun _ => ?_)
    | split

theorem State.hide_later {r' : State} (s : State) (e : Ev) (inst : Option Nat) (dA dB : Nat) (test : Bool) (ts : Time) (id : Nat) (h' : r'.Later s) :
    r'.Later (State.hide s e inst dA dB test ts id) := by
  delta State.hide
  repeat' first
    | with_reducible assumption
    | (extract_lets +onlyGivenNames t; refine via (?_ : State.Later r' t) (fun ht => ?_); subst t; rotate_left; clear_value t)
    | (extract_lets +onlyGivenNames t; clear_value t)
    | simp -zeta only [State.later_mk]
    | with_reducible refine State.later_ite (fun _ => ?_) (fun _ => ?_)
    | split
    | (intro _ _; try dsimp -zeta only)

theorem State.instDeliver_later {r' : State} (s : State) (n id dA dB : Nat) (test : Bool) (ts : Time) (h' : r'.Later s) :
    r'.Later (State.instDeliver s n id dA dB test ts) := by
  delta State.instDeliver
  repeat' first
    | with_reducible assumption
    | (extract_lets +onlyGivenNames t; refine via (?_ : State.Later r' t) (fun ht => ?_); subst t; rotate_left; clear_value t)
    | (extract_lets +onlyGivenNames t; clear_value t)
    | with_reducible (first | apply State.bump_later | apply State.putRecord_later | apply State.setFlag_later | apply State.setFld_later | apply State.signal_later)
    | simp -zeta only [State.later_mk]
    | with_reducible refine State.later_ite (fun _ => ?_) (fun _ => ?_)
    | split

theorem State.instFire_later {r' : State} (s : State) (n id dA dB : Nat) (test : Bool) (ts : Time) (h' : r'.Later s) :
    r'.Later (State.instFire s n id dA dB test ts) := by
  delta State.instFire
  repeat' first
    | with_reducible assumption
    | (extract_lets +onlyGivenNames t; refine via (?_ : State.Later r' t) (fun ht => ?_); subst t; rotate_left; clear_value t)
    | (extract_lets +onlyGivenNames t; clear_value t)
    | with_reducible (first | apply State.hide_later | apply State.instDeliver_later | apply State.setFlag_later)
    | simp -zeta only [State.later_mk]
    | with_reducible refine State.later_ite (fun _ => ?_) (fun _ => ?_)
    | split

theorem State.instCopy_later {r' : State} (s : State) (n : Nat) (e : Ev) (dA dB : Nat) (test : Bool) (ts : Time) (h' : r'.Later s) :
    r'.Later (State.instCopy s n e dA dB test ts) := by
  delta State.instCopy
  repeat' first
    | with_reducible assumption
    | (extract_lets +onlyGivenNames t; refine via (?_ : State.Later r' t) (fun ht => ?_); subst t; rotate_left; clear_value t)
    | (extract_lets +onlyGivenNames t; clear_value t)
    | with_reducible apply State.instFire_later
    | simp -zeta only [State.later_mk]
    | with_reducible refine State.later_ite (fun _ => ?_) (fun _ => ?_)
    | split

theorem State.deliver_later {r' : State} (s : State) (e : Ev) (inst : Option Nat) (dA dB : Nat) (test : Bool) (ts : Time) (h' : r'.Later s) :
    r'.Later (State.deliver s e inst dA dB test ts) := by
  delta State.deliver
  repeat' first
    | with_reducible assumption
    | (extract_lets +onlyGivenNames t; refine via (?_ : State.Later r' t) (fun ht => ?_); subst t; rotate_left; clear_value t)
    | (extract_lets +onlyGivenNames t; clear_value t)
    | with_reducible (first | apply State.hide_later | apply State.instCopy_later | apply State.raisePend_later | apply State.record_later)
    | simp -zeta only [State.later_mk]
    | with_reducible refine State.later_ite (fun _ => ?_) (fun _ => ?_)
    | split

theorem State.fireFull_later {r' : State} (s : State) (e : Ev) (inst : Option Nat) (dA dB : Nat) (test : Bool) (h' : r'.Later s) :
    r'.Later (State.fireFull s e inst dA dB test) := by
  delta State.fireFull
  repeat' first
    | with_reducible assumption
    | (extract_lets +onlyGivenNames t; refine via (?_ : State.Later r' t) (fun ht => ?_); subst t; rotate_left; clear_value t)
    | (extract_lets +onlyGivenNames t; clear_value t)
    | with_reducible (first | apply State.deliver_later | apply State.setFlag_later)
    | simp -zeta only [State.later_mk]
    | with_reducible refine State.later_ite (fun _ => ?_) (fun _ => ?_)
    | split

theorem State.fireD_later {r' : State} (s : State) (e : Ev) (dA dB : Nat) (h' : r'.Later s) :
    r'.Later (State.fireD s e dA dB) := by
  delta State.fireD
  repeat' first
    | with_reducible assumption
    | (extract_lets +onlyGivenNames t; refine via (?_ : State.Later r' t) (fun ht => ?_); subst t; rotate_left; clear_value t)
    | (extract_lets +onlyGivenNames t; clear_value t)
    | with_reducible apply State.fireFull_later
    | simp -zeta only [State.later_mk]
    | with_reducible refine State.later_ite (fun _ => ?_) (fun _ => ?_)
    | split

theorem State.fire_later {r' : State} (s : State) (e : Ev) (h' : r'.Later s) :
    r'.Later (State.fire s e) := by
  delta State.fire
  repeat' first
    | with_reducible assumption
    | (extract_lets +onlyGivenNames t; refine via (?_ : State.Later r' t) (fun ht => ?_); subst t; rotate_left; clear_value t)
    | (extract_lets +onlyGivenNames t; clear_value t)
    | with_reducible apply State.fireD_later
    | simp -zeta only [State.later_mk]
    | with_reducible refine State.later_ite (fun _ => ?_) (fun _ => ?_)
    | split

theorem State.fireI_later {r' : State} (s : State) (e : Ev) (inst dA dB : Nat) (h' : r'.Later s) :
    r'.Later (State.fireI s e inst dA dB) := by
  delta State.fireI
  repeat' first
    | with_reducible assumption
    | (extract_lets +onlyGivenNames t; refine via (?_ : State.Later r' t) (fun ht => ?_); subst t; rotate_left; clear_value t)
    | (extract_lets +onlyGivenNames t; clear_value t)
    | with_reducible apply State.fireFull_later
    | simp -zeta only [State.later_mk]
    | with_reducible refine State.later_ite (fun _ => ?_) (fun _ => ?_)
    | split

theorem State.injUsed_later {r' : State} (s : State) (p k : Nat) (h' : r'.Later s) :
    r'.Later (State.injUsed s p k) := by
  delta State.injUsed
  repeat' first
    | with_reducible assumption
    | (extract_lets +onlyGivenNames t; refine via (?_ : State.Later r' t) (fun ht => ?_); subst t; rotate_left; clear_value t)
    | (extract_lets +onlyGivenNames t; clear_value t)
    | with_reducible (first | apply State.fire_later | apply State.setFlag_later)
    | simp -zeta only [State.later_mk]
    | with_reducible refine State.later_ite (fun _ => ?_) (fun _ => ?_)
    | split

theorem State.releaseHeld_later {r' : State} (s : State) (h' : r'.Later s) :
    r'.Later (State.releaseHeld s) := by
  delta State.releaseHeld
  repeat' first
    | with_reducible assumption
    | (extract_lets +onlyGivenNames t; refine via (?_ : State.Later r' t) (fun ht => ?_); subst t; rotate_left; clear_value t)
    | (extract_lets +onlyGivenNames t; refine via (?_ : LaterSnd r' t) (fun ht => ?_); subst t; rotate_left; clear_value t)
    | (extract_lets +onlyGivenNames t; refine via (?_ : LaterFst r' t) (fun ht => ?_); subst t; rotate_left; clear_value t)
    | (extract_lets +onlyGivenNames t; clear_value t)
    | with_reducible apply State.deliver_later
    | with_reducible refine State.later_foldl (fun _ _ _ => ?_) _ ?_
    | with_reducible refine laterSnd_foldl (fun _ _ _ => ?_) _ ?_
    | with_reducible refine laterFst_foldl (fun _ _ _ => ?_) _ ?_
    | simp -zeta only [State.later_mk]
    | with_reducible refine State.later_ite (fun _ => ?_) (fun _ => ?_)
    | split
    | with_reducible apply laterSnd_mk
    | with_reducible apply laterFst_mk
    | with_reducible refine State.later_of_snd ?_
    | with_reducible refine LaterSnd.here ?_ (by assumption)
    | with_reducible refine State.later_of_fst ?_
    | with_reducible refine LaterFst.here ?_ (by assumption)
    | (intro _ _; try dsimp -zeta only)

end Sys2Proof.Machine
end

