-- ==== Sys2Proof/Laws/FaultsLaws.lean ====
section
/-! SUPPORT. What the operations of Machine/Faults.lean never do: each gives a state after its own (State.Later). -/

namespace Sys2Proof.Machine

open Sys2Proof.Crypto

theorem State.histWrite_later {r' : State} (s : State) (src : Nat) (u : FenceUnit) (syn : Nat) (injected : Bool) (exit : Nat) (h' : r'.Later s) :
    r'.Later (State.histWrite s src u syn injected exit) := by
  delta State.histWrite
  repeat' first
    | with_reducible assumption
    | (extract_lets +onlyGivenNames t; refine via (?_ : State.Later r' t) (fun ht => ?_); subst t; rotate_left; clear_value t)
    | (extract_lets +onlyGivenNames t; clear_value t)
    | with_reducible (first | apply State.fire_later | apply State.setFlag_later | apply State.setFld_later | apply State.setReg_later)
    | simp -zeta only [State.later_mk]
    | with_reducible refine State.later_ite (fun _ => ?_) (fun _ => ?_)
    | split

theorem State.zeroizeAll_later {r' : State} (s : State) (h' : r'.Later s) :
    r'.Later (State.zeroizeAll s) := by
  delta State.zeroizeAll
  repeat' first
    | with_reducible assumption
    | (extract_lets +onlyGivenNames t; refine via (?_ : State.Later r' t) (fun ht => ?_); subst t; rotate_left; clear_value t)
    | (extract_lets +onlyGivenNames t; have hf : State → State := t; clear hf; subst t; dsimp -zeta only)
    | (extract_lets +onlyGivenNames t; clear_value t)
    | with_reducible (first | apply State.fire_later | apply State.setFlag_later)
    | simp -zeta only [State.later_mk]
    | with_reducible refine State.later_ite (fun _ => ?_) (fun _ => ?_)
    | split
    | (intro _ _; try dsimp -zeta only)

theorem State.enterSafe_later {r' : State} (s : State) (src syn : Nat) (injected : Bool) (h' : r'.Later s) :
    r'.Later (State.enterSafe s src syn injected) := by
  delta State.enterSafe
  repeat' first
    | with_reducible assumption
    | (extract_lets +onlyGivenNames t; refine via (?_ : State.Later r' t) (fun ht => ?_); subst t; rotate_left; clear_value t)
    | (extract_lets +onlyGivenNames t; clear_value t)
    | with_reducible (first | apply State.bump_later | apply State.fireD_later | apply State.histWrite_later | apply State.setFlag_later | apply State.setFld_later | apply State.zeroizeAll_later)
    | simp -zeta only [State.later_mk]
    | with_reducible refine State.later_ite (fun _ => ?_) (fun _ => ?_)
    | split

theorem State.mergeFault_later {r' : State} (s : State) (src : Nat) (u : FenceUnit) (syn : Nat) (h : Hold) (h' : r'.Later s) :
    r'.Later (State.mergeFault s src u syn h) := by
  delta State.mergeFault
  repeat' first
    | with_reducible assumption
    | (extract_lets +onlyGivenNames t; refine via (?_ : State.Later r' t) (fun ht => ?_); subst t; rotate_left; clear_value t)
    | (extract_lets +onlyGivenNames t; clear_value t)
    | with_reducible (first | apply State.bump_later | apply State.fireD_later | apply State.setFlag_later)
    | simp -zeta only [State.later_mk]
    | with_reducible refine State.later_ite (fun _ => ?_) (fun _ => ?_)
    | split

theorem State.supersede_later {r' : State} (s : State) (u : FenceUnit) (h' : r'.Later s) :
    r'.Later (State.supersede s u) := by
  delta State.supersede
  repeat' first
    | with_reducible assumption
    | (extract_lets +onlyGivenNames t; refine via (?_ : State.Later r' t) (fun ht => ?_); subst t; rotate_left; clear_value t)
    | (extract_lets +onlyGivenNames t; refine via (?_ : LaterSnd r' t) (fun ht => ?_); subst t; rotate_left; clear_value t)
    | (extract_lets +onlyGivenNames t; refine via (?_ : LaterFst r' t) (fun ht => ?_); subst t; rotate_left; clear_value t)
    | (extract_lets +onlyGivenNames t; clear_value t)
    | with_reducible apply State.setFlag_later
    | with_reducible refine State.later_foldl (fun _ _ _ => ?_) _ ?_
    | with_reducible refine laterSnd_foldl (fun _ _ _ => ?_) _ ?_
    | with_reducible refine laterFst_foldl (fun _ _ _ => ?_) _ ?_
    | simp -zeta only [State.later_mk]
    | with_reducible refine State.later_ite (fun _ => ?_) (fun _ => ?_)
    | split
    | with_reducible apply laterSnd_mk
    | with_reducible apply laterFst_mk
    | with_reducible refine State.later_of_snd ?_
    | with_reducible refine LaterSnd.here ?_ (by assumption)
    | with_reducible refine State.later_of_fst ?_
    | with_reducible refine LaterFst.here ?_ (by assumption)
    | (intro _ _; try dsimp -zeta only)

theorem State.newFault_later {r' : State} (s : State) (src : Nat) (u : FenceUnit) (syn : Nat) (injected : Bool) (h' : r'.Later s) :
    r'.Later (State.newFault s src u syn injected) := by
  delta State.newFault
  repeat' first
    | with_reducible assumption
    | (extract_lets +onlyGivenNames t; refine via (?_ : State.Later r' t) (fun ht => ?_); subst t; rotate_left; clear_value t)
    | (extract_lets +onlyGivenNames t; have hf : State → State := t; clear hf; subst t; dsimp -zeta only)
    | (extract_lets +onlyGivenNames t; clear_value t)
    | with_reducible (first | apply State.bump_later | apply State.fireD_later | apply State.histWrite_later | apply State.setFlag_later | apply State.supersede_later)
    | simp -zeta only [State.later_mk]
    | with_reducible refine State.later_ite (fun _ => ?_) (fun _ => ?_)
    | split
    | (intro _ _; try dsimp -zeta only)

theorem State.fault_later {r' : State} (s : State) (src x syn : Nat) (injected : Bool) (h' : r'.Later s) :
    r'.Later (State.fault s src x syn injected) := by
  delta State.fault
  repeat' first
    | with_reducible assumption
    | (extract_lets +onlyGivenNames t; refine via (?_ : State.Later r' t) (fun ht => ?_); subst t; rotate_left; clear_value t)
    | (extract_lets +onlyGivenNames t; clear_value t)
    | with_reducible (first | apply State.enterSafe_later | apply State.mergeFault_later | apply State.newFault_later)
    | simp -zeta only [State.later_mk]
    | with_reducible refine State.later_ite (fun _ => ?_) (fun _ => ?_)
    | split

theorem State.histClose_later {r' : State} (s : State) (src code : Nat) (h' : r'.Later s) :
    r'.Later (State.histClose s src code) := by
  delta State.histClose
  repeat' first
    | with_reducible assumption
    | (extract_lets +onlyGivenNames t; refine via (?_ : State.Later r' t) (fun ht => ?_); subst t; rotate_left; clear_value t)
    | (extract_lets +onlyGivenNames t; refine via (?_ : LaterSnd r' t) (fun ht => ?_); subst t; rotate_left; clear_value t)
    | (extract_lets +onlyGivenNames t; refine via (?_ : LaterFst r' t) (fun ht => ?_); subst t; rotate_left; clear_value t)
    | (extract_lets +onlyGivenNames t; clear_value t)
    | with_reducible apply State.setFld_later
    | with_reducible refine State.later_foldl (fun _ _ _ => ?_) _ ?_
    | with_reducible refine laterSnd_foldl (fun _ _ _ => ?_) _ ?_
    | with_reducible refine laterFst_foldl (fun _ _ _ => ?_) _ ?_
    | simp -zeta only [State.later_mk]
    | with_reducible refine State.later_ite (fun _ => ?_) (fun _ => ?_)
    | split
    | with_reducible apply laterSnd_mk
    | with_reducible apply laterFst_mk
    | with_reducible refine State.later_of_snd ?_
    | with_reducible refine LaterSnd.here ?_ (by assumption)
    | with_reducible refine State.later_of_fst ?_
    | with_reducible refine LaterFst.here ?_ (by assumption)
    | (intro _ _; try dsimp -zeta only)

theorem State.exitSource_later {r' : State} (s : State) (src code : Nat) (h' : r'.Later s) :
    r'.Later (State.exitSource s src code) := by
  delta State.exitSource
  repeat' first
    | with_reducible assumption
    | (extract_lets +onlyGivenNames t; refine via (?_ : State.Later r' t) (fun ht => ?_); subst t; rotate_left; clear_value t)
    | (extract_lets +onlyGivenNames t; have hf : State → State := t; clear hf; subst t; dsimp -zeta only)
    | (extract_lets +onlyGivenNames t; clear_value t)
    | with_reducible (first | apply State.histClose_later | apply State.setFlag_later)
    | simp -zeta only [State.later_mk]
    | with_reducible refine State.later_ite (fun _ => ?_) (fun _ => ?_)
    | split
    | (intro _ _; try dsimp -zeta only)

end Sys2Proof.Machine
end

