-- ==== Sys2Proof/Laws/QueuesLaws.lean ====
section
/-! SUPPORT. What the operations of Machine/Queues.lean never do: each gives a state after its own (State.Later). -/

namespace Sys2Proof.Machine

open Sys2Proof.Crypto

theorem State.updCmd_later {r' : State} (s : State) (n k cid : Nat) (f : HCmd → HCmd) (h' : r'.Later s) :
    r'.Later (State.updCmd s n k cid f) := by
  delta State.updCmd
  repeat' first
    | with_reducible assumption
    | (extract_lets +onlyGivenNames t; refine via (?_ : State.Later r' t) (fun ht => ?_); subst t; rotate_left; clear_value t)
    | (extract_lets +onlyGivenNames t; clear_value t)
    | simp -zeta only [State.later_mk]
    | with_reducible refine State.later_ite (fun _ => ?_) (fun _ => ?_)
    | split

theorem State.endCmd_later {r' : State} (s : State) (c : HCmd) (st info reason : Nat) (h' : r'.Later s) :
    r'.Later (State.endCmd s c st info reason) := by
  delta State.endCmd
  repeat' first
    | with_reducible assumption
    | (extract_lets +onlyGivenNames t; refine via (?_ : State.Later r' t) (fun ht => ?_); subst t; rotate_left; clear_value t)
    | (extract_lets +onlyGivenNames t; clear_value t)
    | with_reducible apply State.updCmd_later
    | simp -zeta only [State.later_mk]
    | with_reducible refine State.later_ite (fun _ => ?_) (fun _ => ?_)
    | split
    | (intro _ _; try dsimp -zeta only)

theorem State.setQos_later {r' : State} (s : State) (n : Nat) (q : QosInst) (h' : r'.Later s) :
    r'.Later (State.setQos s n q) := by
  delta State.setQos
  repeat' first
    | with_reducible assumption
    | (extract_lets +onlyGivenNames t; refine via (?_ : State.Later r' t) (fun ht => ?_); subst t; rotate_left; clear_value t)
    | (extract_lets +onlyGivenNames t; clear_value t)
    | simp -zeta only [State.later_mk]
    | with_reducible refine State.later_ite (fun _ => ?_) (fun _ => ?_)
    | split

theorem State.refillQos_later {r' : State} (s : State) (n : Nat) (h' : r'.Later s) :
    r'.Later (State.refillQos s n) := by
  delta State.refillQos
  repeat' first
    | with_reducible assumption
    | (extract_lets +onlyGivenNames t; refine via (?_ : State.Later r' t) (fun ht => ?_); subst t; rotate_left; clear_value t)
    | (extract_lets +onlyGivenNames t; clear_value t)
    | with_reducible apply State.setQos_later
    | simp -zeta only [State.later_mk]
    | with_reducible refine State.later_ite (fun _ => ?_) (fun _ => ?_)
    | split

theorem State.sendReads_later {r' : State} (fuel : Nat) :
    ∀ s : State, r'.Later s → r'.Later (State.sendReads fuel s) := by
  induction fuel with
  | zero => exact fun _ h => h
  | succ fuel ih =>
    intro s h'
    unfold State.sendReads
    split
    · split
      · exact h'
      · refine ih _ (State.emit_later _ _ ?_)
        simp only [State.later_mk]
        exact h'
    · exact h'

theorem State.memRead_later {r' : State} (s : State) (fn addr len page : Nat) (use : ReadUse) (h' : r'.Later s) :
    r'.Later (s.memRead fn addr len page use) := by
  unfold State.memRead
  refine State.sendReads_later _ _ ?_
  simp only [State.later_mk]
  exact h'

theorem State.memWrite_later {r' : State} (s : State) (fn addr : Nat) (bytes : List Byte) (h' : r'.Later s) :
    r'.Later (State.memWrite s fn addr bytes) := by
  delta State.memWrite
  repeat' first
    | with_reducible assumption
    | (extract_lets +onlyGivenNames t; refine via (?_ : State.Later r' t) (fun ht => ?_); subst t; rotate_left; clear_value t)
    | (extract_lets +onlyGivenNames t; refine via (?_ : LaterSnd r' t) (fun ht => ?_); subst t; rotate_left; clear_value t)
    | (extract_lets +onlyGivenNames t; refine via (?_ : LaterFst r' t) (fun ht => ?_); subst t; rotate_left; clear_value t)
    | (extract_lets +onlyGivenNames t; have hf : State → State := t; clear hf; subst t; dsimp -zeta only)
    | (extract_lets +onlyGivenNames t; clear_value t)
    | with_reducible apply State.emit_later
    | with_reducible refine State.later_foldl (fun _ _ _ => ?_) _ ?_
    | with_reducible refine laterSnd_foldl (fun _ _ _ => ?_) _ ?_
    | with_reducible refine laterFst_foldl (fun _ _ _ => ?_) _ ?_
    | simp -zeta only [State.later_mk]
    | with_reducible refine State.later_ite (fun _ => ?_) (fun _ => ?_)
    | split
    | with_reducible apply laterSnd_mk
    | with_reducible apply laterFst_mk
    | with_reducible refine State.later_of_snd ?_
    | with_reducible refine LaterSnd.here ?_ (by assumption)
    | with_reducible refine State.later_of_fst ?_
    | with_reducible refine LaterFst.here ?_ (by assumption)
    | (intro _ _; try dsimp -zeta only)

theorem State.countMiss_later {r' : State} (s : State) (h' : r'.Later s) :
    r'.Later (State.countMiss s) := by
  delta State.countMiss
  repeat' first
    | with_reducible assumption
    | (extract_lets +onlyGivenNames t; refine via (?_ : State.Later r' t) (fun ht => ?_); subst t; rotate_left; clear_value t)
    | (extract_lets +onlyGivenNames t; clear_value t)
    | with_reducible (first | apply State.fire_later | apply State.setFld_later)
    | simp -zeta only [State.later_mk]
    | with_reducible refine State.later_ite (fun _ => ?_) (fun _ => ?_)
    | split

theorem State.startWalk_later {r' : State} (s : State) (n page : Nat) (h' : r'.Later s) :
    r'.Later (State.startWalk s n page) := by
  delta State.startWalk
  repeat' first
    | with_reducible assumption
    | (extract_lets +onlyGivenNames t; refine via (?_ : State.Later r' t) (fun ht => ?_); subst t; rotate_left; clear_value t)
    | (extract_lets +onlyGivenNames t; clear_value t)
    | with_reducible (first | apply State.countMiss_later | apply State.memRead_later)
    | simp -zeta only [State.later_mk]
    | with_reducible refine State.later_ite (fun _ => ?_) (fun _ => ?_)
    | split

theorem State.xlat_later {r' : State} (s : State) (n iova : Nat) (wr : Bool) (h' : r'.Later s) :
    LaterSnd r' (State.xlat s n iova wr) := by
  delta State.xlat
  repeat' first
    | with_reducible assumption
    | (extract_lets +onlyGivenNames t; refine via (?_ : State.Later r' t) (fun ht => ?_); subst t; rotate_left; clear_value t)
    | (extract_lets +onlyGivenNames t; have hf : State → State := t; clear hf; subst t; dsimp -zeta only)
    | (extract_lets +onlyGivenNames t; clear_value t)
    | with_reducible (first | apply State.fault_later | apply State.startWalk_later)
    | simp -zeta only [State.later_mk]
    | with_reducible refine State.later_ite (fun _ => ?_) (fun _ => ?_)
    | split
    | with_reducible apply laterSnd_mk
    | (intro _ _; try dsimp -zeta only)

theorem State.fillTlb_later {r' : State} (s : State) (e : TlbEntry) (h' : r'.Later s) :
    r'.Later (State.fillTlb s e) := by
  delta State.fillTlb
  repeat' first
    | with_reducible assumption
    | (extract_lets +onlyGivenNames t; refine via (?_ : State.Later r' t) (fun ht => ?_); subst t; rotate_left; clear_value t)
    | (extract_lets +onlyGivenNames t; have hf : State → State := t; clear hf; subst t; dsimp -zeta only)
    | (extract_lets +onlyGivenNames t; clear_value t)
    | simp -zeta only [State.later_mk]
    | with_reducible refine State.later_ite (fun _ => ?_) (fun _ => ?_)
    | split
    | (intro _ _; try dsimp -zeta only)

theorem State.xlatReport_later {r' : State} (s : State) (n access cause queue cid iova : Nat) (h' : r'.Later s) :
    r'.Later (State.xlatReport s n access cause queue cid iova) := by
  delta State.xlatReport
  repeat' first
    | with_reducible assumption
    | (extract_lets +onlyGivenNames t; refine via (?_ : State.Later r' t) (fun ht => ?_); subst t; rotate_left; clear_value t)
    | (extract_lets +onlyGivenNames t; clear_value t)
    | with_reducible (first | apply State.fireI_later | apply State.setFlag_later | apply State.setFld_later)
    | simp -zeta only [State.later_mk]
    | with_reducible refine State.later_ite (fun _ => ?_) (fun _ => ?_)
    | split

theorem State.failUnit_later {r' : State} (s : State) (c : HCmd) (unit st reason : Nat) (h' : r'.Later s) :
    r'.Later (State.failUnit s c unit st reason) := by
  delta State.failUnit
  repeat' first
    | with_reducible assumption
    | (extract_lets +onlyGivenNames t; refine via (?_ : State.Later r' t) (fun ht => ?_); subst t; rotate_left; clear_value t)
    | (extract_lets +onlyGivenNames t; clear_value t)
    | with_reducible apply State.updCmd_later
    | simp -zeta only [State.later_mk]
    | with_reducible refine State.later_ite (fun _ => ?_) (fun _ => ?_)
    | split
    | (intro _ _; try dsimp -zeta only)

theorem State.failXlat_later {r' : State} (s : State) (c : HCmd) (access cause unit iova : Nat) (h' : r'.Later s) :
    r'.Later (State.failXlat s c access cause unit iova) := by
  delta State.failXlat
  repeat' first
    | with_reducible assumption
    | (extract_lets +onlyGivenNames t; refine via (?_ : State.Later r' t) (fun ht => ?_); subst t; rotate_left; clear_value t)
    | (extract_lets +onlyGivenNames t; clear_value t)
    | with_reducible (first | apply State.failUnit_later | apply State.xlatReport_later)
    | simp -zeta only [State.later_mk]
    | with_reducible refine State.later_ite (fun _ => ?_) (fun _ => ?_)
    | split

theorem State.notePart_later {r' : State} (s : State) (i k cid : Nat) (e : PartEnd) (flags : Nat) (h' : r'.Later s) :
    r'.Later (State.notePart s i k cid e flags) := by
  delta State.notePart
  repeat' first
    | with_reducible assumption
    | (extract_lets +onlyGivenNames t; refine via (?_ : State.Later r' t) (fun ht => ?_); subst t; rotate_left; clear_value t)
    | (extract_lets +onlyGivenNames t; clear_value t)
    | with_reducible apply State.updCmd_later
    | simp -zeta only [State.later_mk]
    | with_reducible refine State.later_ite (fun _ => ?_) (fun _ => ?_)
    | split
    | (intro _ _; try dsimp -zeta only)

theorem State.closeParts_later {r' : State} (s : State) (i k cid : Nat) (h' : r'.Later s) :
    r'.Later (State.closeParts s i k cid) := by
  delta State.closeParts
  repeat' first
    | with_reducible assumption
    | (extract_lets +onlyGivenNames t; refine via (?_ : State.Later r' t) (fun ht => ?_); subst t; rotate_left; clear_value t)
    | (extract_lets +onlyGivenNames t; have hf : State → State := t; clear hf; subst t; dsimp -zeta only)
    | (extract_lets +onlyGivenNames t; clear_value t)
    | with_reducible apply State.endCmd_later
    | simp -zeta only [State.later_mk]
    | with_reducible refine State.later_ite (fun _ => ?_) (fun _ => ?_)
    | split
    | (intro _ _; try dsimp -zeta only)

theorem State.pumpList_later {r' : State} (s : State) (c : HCmd) (h' : r'.Later s) :
    r'.Later (State.pumpList s c) := by
  delta State.pumpList
  repeat' first
    | with_reducible assumption
    | (extract_lets +onlyGivenNames t; refine via (?_ : State.Later r' t) (fun ht => ?_); subst t; rotate_left; clear_value t)
    | (extract_lets +onlyGivenNames t; refine via (?_ : LaterSnd r' t) (fun ht => ?_); subst t; rotate_left; clear_value t)
    | (extract_lets +onlyGivenNames t; have hf : State → State := t; clear hf; subst t; dsimp -zeta only)
    | (extract_lets +onlyGivenNames t; clear_value t)
    | with_reducible (first | apply State.failXlat_later | apply State.fault_later | apply State.memRead_later | apply State.updCmd_later | apply State.xlat_later)
    | simp -zeta only [State.later_mk]
    | with_reducible refine State.later_ite (fun _ => ?_) (fun _ => ?_)
    | split
    | with_reducible apply laterSnd_mk
    | with_reducible refine State.later_of_snd ?_
    | with_reducible refine LaterSnd.here ?_ (by assumption)
    | (intro _ _; try dsimp -zeta only)

theorem State.pumpUnit_later {r' : State} (s : State) (c : HCmd) (h' : r'.Later s) :
    r'.Later (State.pumpUnit s c) := by
  delta State.pumpUnit
  repeat' first
    | with_reducible assumption
    | (extract_lets +onlyGivenNames t; refine via (?_ : State.Later r' t) (fun ht => ?_); subst t; rotate_left; clear_value t)
    | (extract_lets +onlyGivenNames t; refine via (?_ : LaterSnd r' t) (fun ht => ?_); subst t; rotate_left; clear_value t)
    | (extract_lets +onlyGivenNames t; have hf : State → State := t; clear hf; subst t; dsimp -zeta only)
    | (extract_lets +onlyGivenNames t; clear_value t)
    | with_reducible (first | apply State.failXlat_later | apply State.fault_later | apply State.memRead_later | apply State.updCmd_later | apply State.xlat_later)
    | simp -zeta only [State.later_mk]
    | with_reducible refine State.later_ite (fun _ => ?_) (fun _ => ?_)
    | split
    | with_reducible apply laterSnd_mk
    | with_reducible refine State.later_of_snd ?_
    | with_reducible refine LaterSnd.here ?_ (by assumption)
    | (intro _ _; try dsimp -zeta only)

theorem State.failDeliver_later {r' : State} (s : State) (c : HCmd) (cause i : Nat) (h' : r'.Later s) :
    r'.Later (State.failDeliver s c cause i) := by
  delta State.failDeliver
  repeat' first
    | with_reducible assumption
    | (extract_lets +onlyGivenNames t; refine via (?_ : State.Later r' t) (fun ht => ?_); subst t; rotate_left; clear_value t)
    | (extract_lets +onlyGivenNames t; have hf : State → State := t; clear hf; subst t; dsimp -zeta only)
    | (extract_lets +onlyGivenNames t; clear_value t)
    | with_reducible (first | apply State.closeParts_later | apply State.deliver_later | apply State.updCmd_later | apply State.xlatReport_later)
    | simp -zeta only [State.later_mk]
    | with_reducible refine State.later_ite (fun _ => ?_) (fun _ => ?_)
    | split
    | (intro _ _; try dsimp -zeta only)

theorem State.pumpDeliver_later {r' : State} (n k cid fuel : Nat) :
    ∀ s : State, r'.Later s → r'.Later (State.pumpDeliver n k cid fuel s) := by
  induction fuel with
  | zero => exact fun _ h => h
  | succ fuel ih =>
    intro s h'
    unfold State.pumpDeliver
    split
    · exact h'
    · rename_i c _
      split
      · exact h'
      · rename_i i bytes _ _
        have hx : LaterSnd r' (s.xlat n (c.bufOf i) true) := State.xlat_later _ _ _ _ h'
        split
        · exact ih _ (State.failDeliver_later _ _ _ _ h')
        · split
          · rename_i e
            exact ih _ (State.updCmd_later _ _ _ _ _ (State.memWrite_later _ _ _ _ (hx.here e)))
          · rename_i e; exact hx.here e
          · rename_i e; exact ih _ (State.failDeliver_later _ _ _ _ (hx.here e))

theorem State.dropReserved_later {r' : State} (s : State) (seqs : List Nat) (h' : r'.Later s) :
    r'.Later (State.dropReserved s seqs) := by
  delta State.dropReserved
  repeat' first
    | with_reducible assumption
    | (extract_lets +onlyGivenNames t; refine via (?_ : State.Later r' t) (fun ht => ?_); subst t; rotate_left; clear_value t)
    | (extract_lets +onlyGivenNames t; clear_value t)
    | simp -zeta only [State.later_mk]
    | with_reducible refine State.later_ite (fun _ => ?_) (fun _ => ?_)
    | split
    | (intro _ _; try dsimp -zeta only)

theorem State.removeCmd_later {r' : State} (s : State) (c : HCmd) (h' : r'.Later s) :
    r'.Later (State.removeCmd s c) := by
  delta State.removeCmd
  repeat' first
    | with_reducible assumption
    | (extract_lets +onlyGivenNames t; refine via (?_ : State.Later r' t) (fun ht => ?_); subst t; rotate_left; clear_value t)
    | (extract_lets +onlyGivenNames t; have hf : State → State := t; clear hf; subst t; dsimp -zeta only)
    | (extract_lets +onlyGivenNames t; clear_value t)
    | with_reducible apply State.dropReserved_later
    | simp -zeta only [State.later_mk]
    | with_reducible refine State.later_ite (fun _ => ?_) (fun _ => ?_)
    | split
    | (intro _ _; try dsimp -zeta only)

theorem State.signalCq_later {r' : State} (s : State) (n j : Nat) (h' : r'.Later s) :
    r'.Later (State.signalCq s n j) := by
  delta State.signalCq
  repeat' first
    | with_reducible assumption
    | (extract_lets +onlyGivenNames t; refine via (?_ : State.Later r' t) (fun ht => ?_); subst t; rotate_left; clear_value t)
    | (extract_lets +onlyGivenNames t; clear_value t)
    | with_reducible apply State.signal_later
    | simp -zeta only [State.later_mk]
    | with_reducible refine State.later_ite (fun _ => ?_) (fun _ => ?_)
    | split
    | (intro _ _; try dsimp -zeta only)

theorem State.coalesce_later {r' : State} (s : State) (n j : Nat) (h' : r'.Later s) :
    r'.Later (State.coalesce s n j) := by
  delta State.coalesce
  repeat' first
    | with_reducible assumption
    | (extract_lets +onlyGivenNames t; refine via (?_ : State.Later r' t) (fun ht => ?_); subst t; rotate_left; clear_value t)
    | (extract_lets +onlyGivenNames t; clear_value t)
    | with_reducible apply State.signalCq_later
    | simp -zeta only [State.later_mk]
    | with_reducible refine State.later_ite (fun _ => ?_) (fun _ => ?_)
    | split

theorem State.pumpPost_later {r' : State} (s : State) (c : HCmd) (h' : r'.Later s) :
    r'.Later (State.pumpPost s c) := by
  delta State.pumpPost
  repeat' first
    | with_reducible assumption
    | (extract_lets +onlyGivenNames t; refine via (?_ : State.Later r' t) (fun ht => ?_); subst t; rotate_left; clear_value t)
    | (extract_lets +onlyGivenNames t; refine via (?_ : LaterSnd r' t) (fun ht => ?_); subst t; rotate_left; clear_value t)
    | (extract_lets +onlyGivenNames t; clear_value t)
    | with_reducible (first | apply State.coalesce_later | apply State.emit_later | apply State.fault_later | apply State.removeCmd_later | apply State.setFlag_later | apply State.setFld_later | apply State.xlat_later | apply State.xlatReport_later)
    | simp -zeta only [State.later_mk]
    | with_reducible refine State.later_ite (fun _ => ?_) (fun _ => ?_)
    | split
    | with_reducible apply laterSnd_mk
    | with_reducible refine State.later_of_snd ?_
    | with_reducible refine LaterSnd.here ?_ (by assumption)

theorem State.pumpCmd_later {r' : State} (s : State) (c : HCmd) (h' : r'.Later s) :
    r'.Later (State.pumpCmd s c) := by
  delta State.pumpCmd
  repeat' first
    | with_reducible assumption
    | (extract_lets +onlyGivenNames t; refine via (?_ : State.Later r' t) (fun ht => ?_); subst t; rotate_left; clear_value t)
    | (extract_lets +onlyGivenNames t; clear_value t)
    | with_reducible (first | apply State.deliver_later | apply State.pumpDeliver_later | apply State.pumpList_later | apply State.pumpPost_later | apply State.pumpUnit_later)
    | simp -zeta only [State.later_mk]
    | with_reducible refine State.later_ite (fun _ => ?_) (fun _ => ?_)
    | split

theorem State.stopSq_later {r' : State} (s : State) (n k err : Nat) (h' : r'.Later s) :
    r'.Later (State.stopSq s n k err) := by
  delta State.stopSq
  repeat' first
    | with_reducible assumption
    | (extract_lets +onlyGivenNames t; refine via (?_ : State.Later r' t) (fun ht => ?_); subst t; rotate_left; clear_value t)
    | (extract_lets +onlyGivenNames t; clear_value t)
    | with_reducible apply State.setFld_later
    | simp -zeta only [State.later_mk]
    | with_reducible refine State.later_ite (fun _ => ?_) (fun _ => ?_)
    | split

theorem State.pumpFetch_later {r' : State} (n k m : Nat) :
    ∀ s : State, r'.Later s → r'.Later (s.pumpFetch n k m) := by
  induction m with
  | zero => exact fun _ h => h
  | succ m ih =>
    intro s h'
    unfold State.pumpFetch
    have hx : LaterSnd r' (s.xlat n (s.sqBase n k + 64 * s.fld (INS_SQ_STAT_HEAD n k)) false) := State.xlat_later _ _ _ _ h'
    dsimp only
    split
    · rename_i e
      have ht := hx.here e
      split
      · simp only [State.later_mk]
        exact State.setFld_later _ _ _ (State.memRead_later _ _ _ _ _ _ ht)
      · apply ih
        simp only [State.later_mk]
        exact State.setFld_later _ _ _ (State.memRead_later _ _ _ _ _ _ ht)
    · rename_i e; exact hx.here e
    · rename_i e
      simp only [State.later_mk]
      exact State.stopSq_later _ _ _ _ (State.xlatReport_later _ _ _ _ _ _ _ (hx.here e))

theorem State.pump_later {r' : State} (s : State) (h' : r'.Later s) :
    r'.Later (State.pump s) := by
  delta State.pump
  repeat' first
    | with_reducible assumption
    | (extract_lets +onlyGivenNames t; refine via (?_ : State.Later r' t) (fun ht => ?_); subst t; rotate_left; clear_value t)
    | (extract_lets +onlyGivenNames t; refine via (?_ : LaterSnd r' t) (fun ht => ?_); subst t; rotate_left; clear_value t)
    | (extract_lets +onlyGivenNames t; refine via (?_ : LaterFst r' t) (fun ht => ?_); subst t; rotate_left; clear_value t)
    | (extract_lets +onlyGivenNames t; have hf : State → State := t; clear hf; subst t; dsimp -zeta only)
    | (extract_lets +onlyGivenNames t; clear_value t)
    | with_reducible (first | apply State.pumpCmd_later | apply State.pumpFetch_later | apply State.sendReads_later)
    | with_reducible refine State.later_foldl (fun _ _ _ => ?_) _ ?_
    | with_reducible refine laterSnd_foldl (fun _ _ _ => ?_) _ ?_
    | with_reducible refine laterFst_foldl (fun _ _ _ => ?_) _ ?_
    | simp -zeta only [State.later_mk]
    | with_reducible refine State.later_ite (fun _ => ?_) (fun _ => ?_)
    | split
    | with_reducible apply laterSnd_mk
    | with_reducible apply laterFst_mk
    | with_reducible refine State.later_of_snd ?_
    | with_reducible refine LaterSnd.here ?_ (by assumption)
    | with_reducible refine State.later_of_fst ?_
    | with_reducible refine LaterFst.here ?_ (by assumption)
    | (intro _ _; try dsimp -zeta only)

theorem State.complete_later {r' : State} (s : State) (c : HCmd) (st info reason : Nat) (h' : r'.Later s) :
    r'.Later (State.complete s c st info reason) := by
  delta State.complete
  repeat' first
    | with_reducible assumption
    | (extract_lets +onlyGivenNames t; refine via (?_ : State.Later r' t) (fun ht => ?_); subst t; rotate_left; clear_value t)
    | (extract_lets +onlyGivenNames t; clear_value t)
    | with_reducible (first | apply State.endCmd_later | apply State.pump_later)
    | simp -zeta only [State.later_mk]
    | with_reducible refine State.later_ite (fun _ => ?_) (fun _ => ?_)
    | split

theorem State.failPage_later {r' : State} (s : State) (n page cause : Nat) (h' : r'.Later s) :
    r'.Later (State.failPage s n page cause) := by
  delta State.failPage
  repeat' first
    | with_reducible assumption
    | (extract_lets +onlyGivenNames t; refine via (?_ : State.Later r' t) (fun ht => ?_); subst t; rotate_left; clear_value t)
    | (extract_lets +onlyGivenNames t; refine via (?_ : LaterSnd r' t) (fun ht => ?_); subst t; rotate_left; clear_value t)
    | (extract_lets +onlyGivenNames t; refine via (?_ : LaterFst r' t) (fun ht => ?_); subst t; rotate_left; clear_value t)
    | (extract_lets +onlyGivenNames t; have hf : State → State := t; clear hf; subst t; dsimp -zeta only)
    | (extract_lets +onlyGivenNames t; clear_value t)
    | with_reducible (first | apply State.deliver_later | apply State.failDeliver_later | apply State.failXlat_later | apply State.setFlag_later | apply State.stopSq_later | apply State.xlatReport_later)
    | with_reducible refine State.later_foldl (fun _ _ _ => ?_) _ ?_
    | with_reducible refine laterSnd_foldl (fun _ _ _ => ?_) _ ?_
    | with_reducible refine laterFst_foldl (fun _ _ _ => ?_) _ ?_
    | simp -zeta only [State.later_mk]
    | with_reducible refine State.later_ite (fun _ => ?_) (fun _ => ?_)
    | split
    | with_reducible apply laterSnd_mk
    | with_reducible apply laterFst_mk
    | with_reducible refine State.later_of_snd ?_
    | with_reducible refine LaterSnd.here ?_ (by assumption)
    | with_reducible refine State.later_of_fst ?_
    | with_reducible refine LaterFst.here ?_ (by assumption)
    | (intro _ _; try dsimp -zeta only)

theorem State.dropTlb_later {r' : State} (s : State) (n : Nat) (h' : r'.Later s) :
    r'.Later (State.dropTlb s n) := by
  delta State.dropTlb
  repeat' first
    | with_reducible assumption
    | (extract_lets +onlyGivenNames t; refine via (?_ : State.Later r' t) (fun ht => ?_); subst t; rotate_left; clear_value t)
    | (extract_lets +onlyGivenNames t; clear_value t)
    | simp -zeta only [State.later_mk]
    | with_reducible refine State.later_ite (fun _ => ?_) (fun _ => ?_)
    | split
    | (intro _ _; try dsimp -zeta only)

theorem State.forgetBells_later {r' : State} (s : State) (n : Nat) (h' : r'.Later s) :
    r'.Later (State.forgetBells s n) := by
  delta State.forgetBells
  repeat' first
    | with_reducible assumption
    | (extract_lets +onlyGivenNames t; refine via (?_ : State.Later r' t) (fun ht => ?_); subst t; rotate_left; clear_value t)
    | (extract_lets +onlyGivenNames t; clear_value t)
    | simp -zeta only [State.later_mk]
    | with_reducible refine State.later_ite (fun _ => ?_) (fun _ => ?_)
    | split
    | (intro _ _; try dsimp -zeta only)

theorem State.disableQueues_later {r' : State} (s : State) (n : Nat) (h' : r'.Later s) : r'.Later (s.disableQueues n) :=
  State.forgetBells_later _ _ (State.later_regs h' (Sparse.wf_clear _ _ _))

theorem State.haltQueues_later {r' : State} (s : State) (n : Nat) (h' : r'.Later s) :
    r'.Later (State.haltQueues s n) := by
  delta State.haltQueues
  repeat' first
    | with_reducible assumption
    | (extract_lets +onlyGivenNames t; refine via (?_ : State.Later r' t) (fun ht => ?_); subst t; rotate_left; clear_value t)
    | (extract_lets +onlyGivenNames t; refine via (?_ : LaterSnd r' t) (fun ht => ?_); subst t; rotate_left; clear_value t)
    | (extract_lets +onlyGivenNames t; refine via (?_ : LaterFst r' t) (fun ht => ?_); subst t; rotate_left; clear_value t)
    | (extract_lets +onlyGivenNames t; have hf : State → State := t; clear hf; subst t; dsimp -zeta only)
    | (extract_lets +onlyGivenNames t; clear_value t)
    | with_reducible (first | apply State.forgetBells_later | apply State.setFlag_later | apply State.setReg_later)
    | with_reducible refine State.later_foldl (fun _ _ _ => ?_) _ ?_
    | with_reducible refine laterSnd_foldl (fun _ _ _ => ?_) _ ?_
    | with_reducible refine laterFst_foldl (fun _ _ _ => ?_) _ ?_
    | simp -zeta only [State.later_mk]
    | with_reducible refine State.later_ite (fun _ => ?_) (fun _ => ?_)
    | split
    | with_reducible apply laterSnd_mk
    | with_reducible apply laterFst_mk
    | with_reducible refine State.later_of_snd ?_
    | with_reducible refine LaterSnd.here ?_ (by assumption)
    | with_reducible refine State.later_of_fst ?_
    | with_reducible refine LaterFst.here ?_ (by assumption)
    | (intro _ _; try dsimp -zeta only)

theorem State.abortUnstarted_later {r' : State} (s : State) (n st : Nat) (h' : r'.Later s) :
    r'.Later (State.abortUnstarted s n st) := by
  delta State.abortUnstarted
  repeat' first
    | with_reducible assumption
    | (extract_lets +onlyGivenNames t; refine via (?_ : State.Later r' t) (fun ht => ?_); subst t; rotate_left; clear_value t)
    | (extract_lets +onlyGivenNames t; have hf : State → State := t; clear hf; subst t; dsimp -zeta only)
    | (extract_lets +onlyGivenNames t; clear_value t)
    | simp -zeta only [State.later_mk]
    | with_reducible refine State.later_ite (fun _ => ?_) (fun _ => ?_)
    | split
    | (intro _ _; try dsimp -zeta only)

theorem State.dropReads_later {r' : State} (s : State) (hit : HRead → Bool) (h' : r'.Later s) :
    r'.Later (State.dropReads s hit) := by
  delta State.dropReads
  repeat' first
    | with_reducible assumption
    | (extract_lets +onlyGivenNames t; refine via (?_ : State.Later r' t) (fun ht => ?_); subst t; rotate_left; clear_value t)
    | (extract_lets +onlyGivenNames t; clear_value t)
    | simp -zeta only [State.later_mk]
    | with_reducible refine State.later_ite (fun _ => ?_) (fun _ => ?_)
    | split
    | (intro _ _; try dsimp -zeta only)

theorem State.orphan_later {r' : State} (s : State) (n p : Nat) (h' : r'.Later s) :
    r'.Later (State.orphan s n p) := by
  delta State.orphan
  repeat' first
    | with_reducible assumption
    | (extract_lets +onlyGivenNames t; refine via (?_ : State.Later r' t) (fun ht => ?_); subst t; rotate_left; clear_value t)
    | (extract_lets +onlyGivenNames t; have hf : State → State := t; clear hf; subst t; dsimp -zeta only)
    | (extract_lets +onlyGivenNames t; clear_value t)
    | with_reducible apply State.setSp_later
    | simp -zeta only [State.later_mk]
    | with_reducible refine State.later_ite (fun _ => ?_) (fun _ => ?_)
    | split
    | (intro _ _; try dsimp -zeta only)

theorem State.forgetCmds_later {r' : State} (s : State) (n : Nat) (h' : r'.Later s) :
    r'.Later (State.forgetCmds s n) := by
  delta State.forgetCmds
  repeat' first
    | with_reducible assumption
    | (extract_lets +onlyGivenNames t; refine via (?_ : State.Later r' t) (fun ht => ?_); subst t; rotate_left; clear_value t)
    | (extract_lets +onlyGivenNames t; have hf : State → State := t; clear hf; subst t; dsimp -zeta only)
    | (extract_lets +onlyGivenNames t; clear_value t)
    | with_reducible (first | apply State.dropReads_later | apply State.dropReserved_later | apply State.orphan_later)
    | simp -zeta only [State.later_mk]
    | with_reducible refine State.later_ite (fun _ => ?_) (fun _ => ?_)
    | split
    | (intro _ _; try dsimp -zeta only)

end Sys2Proof.Machine
end

