-- ==== Sys2Proof/Laws/ArbiterLaws.lean ====
section
/-! SUPPORT. What the operations of Machine/Arbiter.lean never do: each gives a state after its own (State.Later). -/

namespace Sys2Proof.Machine

open Sys2Proof.Crypto

theorem State.toRing_later {r' : State} (s : State) (n cls : Nat) (h' : r'.Later s) :
    r'.Later (State.toRing s n cls) := by
  delta State.toRing
  repeat' first
    | with_reducible assumption
    | (extract_lets +onlyGivenNames t; refine via (?_ : State.Later r' t) (fun ht => ?_); subst t; rotate_left; clear_value t)
    | (extract_lets +onlyGivenNames t; have hf : State → State := t; clear hf; subst t; dsimp -zeta only)
    | (extract_lets +onlyGivenNames t; clear_value t)
    | simp -zeta only [State.later_mk]
    | with_reducible refine State.later_ite (fun _ => ?_) (fun _ => ?_)
    | split
    | (intro _ _; try dsimp -zeta only)

theorem State.setDeficit_later {r' : State} (s : State) (n : Nat) (d : Int) (h' : r'.Later s) :
    r'.Later (State.setDeficit s n d) := by
  delta State.setDeficit
  repeat' first
    | with_reducible assumption
    | (extract_lets +onlyGivenNames t; refine via (?_ : State.Later r' t) (fun ht => ?_); subst t; rotate_left; clear_value t)
    | (extract_lets +onlyGivenNames t; clear_value t)
    | with_reducible apply State.setQos_later
    | simp -zeta only [State.later_mk]
    | with_reducible refine State.later_ite (fun _ => ?_) (fun _ => ?_)
    | split

theorem State.grantIn_later {r' : State} (a : Arbiter) (cls fuel : Nat) :
    ∀ s : State, r'.Later s → LaterSnd r' (State.grantIn a cls fuel s) := by
  induction fuel with
  | zero => exact fun _ h => h
  | succ n ih =>
    intro s h'
    unfold State.grantIn
    dsimp only
    split
    · exact h'
    · split
      · refine ih _ (State.toRing_later _ _ _ ?_)
        split
        · exact h'
        · exact State.setDeficit_later _ _ _ h'
      · split
        · refine ih _ ?_
          split
          · exact State.toRing_later _ _ _ (State.setDeficit_later _ _ _ h')
          · exact State.setDeficit_later _ _ _ h'
        · apply laterSnd_mk
          split
          · exact State.toRing_later _ _ _ (State.setDeficit_later _ _ _ h')
          · exact State.setDeficit_later _ _ _ h'

theorem State.decideGrant_later {r' : State} (a : Arbiter) (s : State) (h' : r'.Later s) :
    LaterSnd r' (State.decideGrant a s) := by
  delta State.decideGrant
  repeat' first
    | with_reducible assumption
    | (extract_lets +onlyGivenNames t; refine via (?_ : State.Later r' t) (fun ht => ?_); subst t; rotate_left; clear_value t)
    | (extract_lets +onlyGivenNames t; refine via (?_ : LaterSnd r' t) (fun ht => ?_); subst t; rotate_left; clear_value t)
    | (extract_lets +onlyGivenNames t; clear_value t)
    | with_reducible apply State.grantIn_later
    | simp -zeta only [State.later_mk]
    | with_reducible refine State.later_ite (fun _ => ?_) (fun _ => ?_)
    | split
    | with_reducible apply laterSnd_mk
    | with_reducible refine State.later_of_snd ?_
    | with_reducible refine LaterSnd.here ?_ (by assumption)
    | (intro _ _; try dsimp -zeta only)

theorem State.rearrange_later {r' : State} (s : State) (n oldC newC oldW newW : Nat) (waits : Bool) (h' : r'.Later s) :
    r'.Later (State.rearrange s n oldC newC oldW newW waits) := by
  delta State.rearrange
  repeat' first
    | with_reducible assumption
    | (extract_lets +onlyGivenNames t; refine via (?_ : State.Later r' t) (fun ht => ?_); subst t; rotate_left; clear_value t)
    | (extract_lets +onlyGivenNames t; clear_value t)
    | with_reducible (first | apply State.setDeficit_later | apply State.toRing_later)
    | simp -zeta only [State.later_mk]
    | with_reducible refine State.later_ite (fun _ => ?_) (fun _ => ?_)
    | split

end Sys2Proof.Machine
end

