-- ==== Sys2Proof/Laws/MramLaws.lean ====
section
/-! SUPPORT. What the operations of Machine/Mram.lean never do: each gives a state after its own (State.Later). -/

namespace Sys2Proof.Machine

open Sys2Proof.Crypto

theorem State.request_later {r' : State} (s : State) (rank w : Nat) (h' : r'.Later s) :
    r'.Later (State.request s rank w) := by
  delta State.request
  repeat' first
    | with_reducible assumption
    | (extract_lets +onlyGivenNames t; refine via (?_ : State.Later r' t) (fun ht => ?_); subst t; rotate_left; clear_value t)
    | (extract_lets +onlyGivenNames t; clear_value t)
    | simp -zeta only [State.later_mk]
    | with_reducible refine State.later_ite (fun _ => ?_) (fun _ => ?_)
    | split

theorem State.cellWord_later {r' : State} (s : State) (w v e : Nat) (h' : r'.Later s) : r'.Later (s.cellWord w v e) :=
  h'.trans ⟨id, fun h => Sparse.wf_setRun _ _ _ _ h, fun h => Sparse.wf_set eccClean s.ecc w e h, id, fun _ _ _ h => h,
    fun _ _ _ => rfl, rfl, Nat.le_refl _, List.prefix_rfl⟩

theorem State.setTrack_later {r' : State} (s : State) (t : Nat) (x : Track) (h' : r'.Later s) :
    r'.Later (State.setTrack s t x) := by
  delta State.setTrack
  repeat' first
    | with_reducible assumption
    | (extract_lets +onlyGivenNames t; refine via (?_ : State.Later r' t) (fun ht => ?_); subst t; rotate_left; clear_value t)
    | (extract_lets +onlyGivenNames t; clear_value t)
    | simp -zeta only [State.later_mk]
    | with_reducible refine State.later_ite (fun _ => ?_) (fun _ => ?_)
    | split

theorem State.putTrackWord_later {r' : State} (s : State) (w v : Nat) (h' : r'.Later s) :
    r'.Later (State.putTrackWord s w v) := by
  delta State.putTrackWord
  repeat' first
    | with_reducible assumption
    | (extract_lets +onlyGivenNames t; refine via (?_ : State.Later r' t) (fun ht => ?_); subst t; rotate_left; clear_value t)
    | (extract_lets +onlyGivenNames t; refine via (?_ : LaterSnd r' t) (fun ht => ?_); subst t; rotate_left; clear_value t)
    | (extract_lets +onlyGivenNames t; refine via (?_ : LaterFst r' t) (fun ht => ?_); subst t; rotate_left; clear_value t)
    | (extract_lets +onlyGivenNames t; have hf : State → State := t; clear hf; subst t; dsimp -zeta only)
    | (extract_lets +onlyGivenNames t; clear_value t)
    | with_reducible apply State.setTrack_later
    | with_reducible refine State.later_foldl (fun _ _ _ => ?_) _ ?_
    | with_reducible refine laterSnd_foldl (fun _ _ _ => ?_) _ ?_
    | with_reducible refine laterFst_foldl (fun _ _ _ => ?_) _ ?_
    | simp -zeta only [State.later_mk]
    | with_reducible refine State.later_ite (fun _ => ?_) (fun _ => ?_)
    | split
    | with_reducible apply laterSnd_mk
    | with_reducible apply laterFst_mk
    | with_reducible refine State.later_of_snd ?_
    | with_reducible refine LaterSnd.here ?_ (by assumption)
    | with_reducible refine State.later_of_fst ?_
    | with_reducible refine LaterFst.here ?_ (by assumption)
    | (intro _ _; try dsimp -zeta only)

theorem State.putCell_later {r' : State} (s : State) (w v e : Nat) (h' : r'.Later s) : r'.Later (s.putCell w v e) := by
  delta State.putCell
  refine State.later_ite (fun _ => ?_) (fun _ => State.cellWord_later _ _ _ _ h')
  exact State.putTrackWord_later _ _ _ (h'.trans ⟨id, id, fun h => Sparse.wf_set eccClean _ w e h, id, fun _ _ _ h => h,
    fun _ _ _ => rfl, rfl, Nat.le_refl _, List.prefix_rfl⟩)

theorem State.writeLog_later {r' : State} (s : State) (rank w v : Nat) (h' : r'.Later s) :
    r'.Later (State.writeLog s rank w v) := by
  delta State.writeLog
  repeat' first
    | with_reducible assumption
    | (extract_lets +onlyGivenNames t; refine via (?_ : State.Later r' t) (fun ht => ?_); subst t; rotate_left; clear_value t)
    | (extract_lets +onlyGivenNames t; clear_value t)
    | with_reducible (first | apply State.injUsed_later | apply State.putCell_later)
    | simp -zeta only [State.later_mk]
    | with_reducible refine State.later_ite (fun _ => ?_) (fun _ => ?_)
    | split

theorem State.putRegions_later {r' : State} (s : State) (t lo hi : Nat) (b : Bool) (h' : r'.Later s) :
    r'.Later (State.putRegions s t lo hi b) := by
  delta State.putRegions
  repeat' first
    | with_reducible assumption
    | (extract_lets +onlyGivenNames t; refine via (?_ : State.Later r' t) (fun ht => ?_); subst t; rotate_left; clear_value t)
    | (extract_lets +onlyGivenNames t; refine via (?_ : LaterSnd r' t) (fun ht => ?_); subst t; rotate_left; clear_value t)
    | (extract_lets +onlyGivenNames t; refine via (?_ : LaterFst r' t) (fun ht => ?_); subst t; rotate_left; clear_value t)
    | (extract_lets +onlyGivenNames t; have hf : State → State := t; clear hf; subst t; dsimp -zeta only)
    | (extract_lets +onlyGivenNames t; clear_value t)
    | with_reducible apply State.writeLog_later
    | with_reducible refine State.later_foldl (fun _ _ _ => ?_) _ ?_
    | with_reducible refine laterSnd_foldl (fun _ _ _ => ?_) _ ?_
    | with_reducible refine laterFst_foldl (fun _ _ _ => ?_) _ ?_
    | simp -zeta only [State.later_mk]
    | with_reducible refine State.later_ite (fun _ => ?_) (fun _ => ?_)
    | split
    | with_reducible apply laterSnd_mk
    | with_reducible apply laterFst_mk
    | with_reducible refine State.later_of_snd ?_
    | with_reducible refine LaterSnd.here ?_ (by assumption)
    | with_reducible refine State.later_of_fst ?_
    | with_reducible refine LaterFst.here ?_ (by assumption)
    | (intro _ _; try dsimp -zeta only)

theorem State.fillRegions_later {r' : State} (s : State) (t lo hi : Nat) (b : Bool) (h' : r'.Later s) :
    r'.Later (State.fillRegions s t lo hi b) := by
  delta State.fillRegions
  have hc : ∀ p, r'.Later { s with ecc := Sparse.clear s.ecc p } := fun p =>
    h'.trans ⟨id, id, fun h => Sparse.wf_clear _ _ _ h, id, fun _ _ _ h => h, fun _ _ _ => rfl, rfl, Nat.le_refl _,
      List.prefix_rfl⟩
  exact State.setTrack_later _ _ _ (hc _)

theorem State.undoReq_later {r' : State} (s : State) (q : MramReq) (h' : r'.Later s) :
    r'.Later (State.undoReq s q) := by
  delta State.undoReq
  repeat' first
    | with_reducible assumption
    | (extract_lets +onlyGivenNames t; refine via (?_ : State.Later r' t) (fun ht => ?_); subst t; rotate_left; clear_value t)
    | (extract_lets +onlyGivenNames t; refine via (?_ : LaterSnd r' t) (fun ht => ?_); subst t; rotate_left; clear_value t)
    | (extract_lets +onlyGivenNames t; refine via (?_ : LaterFst r' t) (fun ht => ?_); subst t; rotate_left; clear_value t)
    | (extract_lets +onlyGivenNames t; clear_value t)
    | with_reducible apply State.putCell_later
    | with_reducible refine State.later_foldl (fun _ _ _ => ?_) _ ?_
    | with_reducible refine laterSnd_foldl (fun _ _ _ => ?_) _ ?_
    | with_reducible refine laterFst_foldl (fun _ _ _ => ?_) _ ?_
    | simp -zeta only [State.later_mk]
    | with_reducible refine State.later_ite (fun _ => ?_) (fun _ => ?_)
    | split
    | with_reducible apply laterSnd_mk
    | with_reducible apply laterFst_mk
    | with_reducible refine State.later_of_snd ?_
    | with_reducible refine LaterSnd.here ?_ (by assumption)
    | with_reducible refine State.later_of_fst ?_
    | with_reducible refine LaterFst.here ?_ (by assumption)
    | (intro _ _; try dsimp -zeta only)

theorem wf_spoil (line bad : Nat) (c : List (Nat × Nat)) (h : Sparse.wf eccClean c = true) :
    Sparse.wf eccClean (spoil line bad c) = true := by
  unfold spoil
  generalize List.range 8 = l
  induction l generalizing c with
  | nil => exact h
  | cons j l ih =>
    refine ih _ ?_
    dsimp only
    split
    · exact Sparse.wf_set _ _ _ _ h
    · exact h

theorem State.later_spoil {r' : State} (s : State) (line bad : Nat) (h' : r'.Later s) :
    r'.Later { s with ecc := spoil line bad s.ecc } :=
  h'.trans ⟨id, id, fun h => wf_spoil _ _ _ h, id, fun _ _ _ h => h, fun _ _ _ => rfl, rfl, Nat.le_refl _,
    List.prefix_rfl⟩

theorem State.tearReq_later {r' : State} (s : State) (q : MramReq) (x : TornLine) (h' : r'.Later s) :
    r'.Later (State.tearReq s q x) := by
  unfold State.tearReq
  dsimp only
  refine State.later_spoil _ _ _ (State.later_foldl (fun t e h => ?_) _ h')
  exact State.putCell_later _ _ _ _ h

theorem State.mramStop_later {r' : State} (s : State) (order : List Nat) (torn : Option TornLine) (h' : r'.Later s) :
    r'.Later (State.mramStop s order torn) := by
  delta State.mramStop
  repeat' first
    | with_reducible assumption
    | (extract_lets +onlyGivenNames t; refine via (?_ : State.Later r' t) (fun ht => ?_); subst t; rotate_left; clear_value t)
    | (extract_lets +onlyGivenNames t; refine via (?_ : LaterSnd r' t) (fun ht => ?_); subst t; rotate_left; clear_value t)
    | (extract_lets +onlyGivenNames t; refine via (?_ : LaterFst r' t) (fun ht => ?_); subst t; rotate_left; clear_value t)
    | (extract_lets +onlyGivenNames t; have hf : State → State := t; clear hf; subst t; dsimp -zeta only)
    | (extract_lets +onlyGivenNames t; clear_value t)
    | with_reducible (first | apply State.tearReq_later | apply State.undoReq_later)
    | with_reducible refine State.later_foldl (fun _ _ _ => ?_) _ ?_
    | with_reducible refine laterSnd_foldl (fun _ _ _ => ?_) _ ?_
    | with_reducible refine laterFst_foldl (fun _ _ _ => ?_) _ ?_
    | simp -zeta only [State.later_mk]
    | with_reducible refine State.later_ite (fun _ => ?_) (fun _ => ?_)
    | split
    | with_reducible apply laterSnd_mk
    | with_reducible apply laterFst_mk
    | with_reducible refine State.later_of_snd ?_
    | with_reducible refine LaterSnd.here ?_ (by assumption)
    | with_reducible refine State.later_of_fst ?_
    | with_reducible refine LaterFst.here ?_ (by assumption)
    | (intro _ _; try dsimp -zeta only)

theorem State.storeWord_later {r' : State} (s : State) (rank a v : Nat) (h' : r'.Later s) :
    r'.Later (s.storeWord rank a v) :=
  State.cellWord_later _ _ _ _ (State.request_later s rank (a / 8) h')

theorem State.writeRanked_later {r' : State} (s : State) (rank a v : Nat) (h' : r'.Later s) :
    r'.Later (State.writeRanked s rank a v) := by
  delta State.writeRanked
  repeat' first
    | with_reducible assumption
    | (extract_lets +onlyGivenNames t; refine via (?_ : State.Later r' t) (fun ht => ?_); subst t; rotate_left; clear_value t)
    | (extract_lets +onlyGivenNames t; clear_value t)
    | with_reducible (first | apply State.bump_later | apply State.fireD_later | apply State.injUsed_later | apply State.storeWord_later)
    | simp -zeta only [State.later_mk]
    | with_reducible refine State.later_ite (fun _ => ?_) (fun _ => ?_)
    | split

theorem State.writeWord_later {r' : State} (s : State) (a v : Nat) (h' : r'.Later s) :
    r'.Later (State.writeWord s a v) := by
  delta State.writeWord
  repeat' first
    | with_reducible assumption
    | (extract_lets +onlyGivenNames t; refine via (?_ : State.Later r' t) (fun ht => ?_); subst t; rotate_left; clear_value t)
    | (extract_lets +onlyGivenNames t; clear_value t)
    | with_reducible apply State.writeRanked_later
    | simp -zeta only [State.later_mk]
    | with_reducible refine State.later_ite (fun _ => ?_) (fun _ => ?_)
    | split

theorem State.writeCommit_later {r' : State} (s : State) (a v : Nat) (h' : r'.Later s) :
    r'.Later (State.writeCommit s a v) := by
  delta State.writeCommit
  repeat' first
    | with_reducible assumption
    | (extract_lets +onlyGivenNames t; refine via (?_ : State.Later r' t) (fun ht => ?_); subst t; rotate_left; clear_value t)
    | (extract_lets +onlyGivenNames t; clear_value t)
    | with_reducible apply State.writeRanked_later
    | simp -zeta only [State.later_mk]
    | with_reducible refine State.later_ite (fun _ => ?_) (fun _ => ?_)
    | split

theorem State.writeWords_later {r' : State} (ws : List Nat) :
    ∀ (s : State) (a : Nat), r'.Later s → r'.Later (s.writeWords a ws) := by
  induction ws with
  | nil => exact fun _ _ h => h
  | cons w ws ih => exact fun s a h => ih _ _ (State.writeWord_later s a w h)

theorem State.writeCommits_later {r' : State} (ws : List Nat) :
    ∀ (s : State) (a : Nat), r'.Later s → r'.Later (s.writeCommits a ws) := by
  induction ws with
  | nil => exact fun _ _ h => h
  | cons w ws ih => exact fun s a h => ih _ _ (State.writeCommit_later s a w h)

theorem State.writeBytes_later {r' : State} (s : State) (a : Nat) (bs : List Byte) (h' : r'.Later s) :
    r'.Later (State.writeBytes s a bs) := by
  delta State.writeBytes
  repeat' first
    | with_reducible assumption
    | (extract_lets +onlyGivenNames t; refine via (?_ : State.Later r' t) (fun ht => ?_); subst t; rotate_left; clear_value t)
    | (extract_lets +onlyGivenNames t; clear_value t)
    | with_reducible apply State.writeWords_later
    | simp -zeta only [State.later_mk]
    | with_reducible refine State.later_ite (fun _ => ?_) (fun _ => ?_)
    | split

theorem State.noteCorrected_later {r' : State} (s : State) (w : Nat) (h' : r'.Later s) :
    r'.Later (State.noteCorrected s w) := by
  delta State.noteCorrected
  repeat' first
    | with_reducible assumption
    | (extract_lets +onlyGivenNames t; refine via (?_ : State.Later r' t) (fun ht => ?_); subst t; rotate_left; clear_value t)
    | (extract_lets +onlyGivenNames t; clear_value t)
    | with_reducible (first | apply State.bump_later | apply State.fireD_later | apply State.setReg_later)
    | simp -zeta only [State.later_mk]
    | with_reducible refine State.later_ite (fun _ => ?_) (fun _ => ?_)
    | split

theorem State.noteUncorr_later {r' : State} (s : State) (w : Nat) (h' : r'.Later s) :
    r'.Later (State.noteUncorr s w) := by
  delta State.noteUncorr
  repeat' first
    | with_reducible assumption
    | (extract_lets +onlyGivenNames t; refine via (?_ : State.Later r' t) (fun ht => ?_); subst t; rotate_left; clear_value t)
    | (extract_lets +onlyGivenNames t; clear_value t)
    | with_reducible (first | apply State.bump_later | apply State.fault_later | apply State.fireD_later | apply State.setReg_later)
    | simp -zeta only [State.later_mk]
    | with_reducible refine State.later_ite (fun _ => ?_) (fun _ => ?_)
    | split

theorem State.noteArea_later {r' : State} (s : State) (lo hi : Nat) (h' : r'.Later s) :
    r'.Later (State.noteArea s lo hi) := by
  delta State.noteArea
  repeat' first
    | with_reducible assumption
    | (extract_lets +onlyGivenNames t; refine via (?_ : State.Later r' t) (fun ht => ?_); subst t; rotate_left; clear_value t)
    | (extract_lets +onlyGivenNames t; refine via (?_ : LaterSnd r' t) (fun ht => ?_); subst t; rotate_left; clear_value t)
    | (extract_lets +onlyGivenNames t; refine via (?_ : LaterFst r' t) (fun ht => ?_); subst t; rotate_left; clear_value t)
    | (extract_lets +onlyGivenNames t; clear_value t)
    | with_reducible (first | apply State.noteCorrected_later | apply State.noteUncorr_later)
    | with_reducible refine State.later_foldl (fun _ _ _ => ?_) _ ?_
    | with_reducible refine laterSnd_foldl (fun _ _ _ => ?_) _ ?_
    | with_reducible refine laterFst_foldl (fun _ _ _ => ?_) _ ?_
    | simp -zeta only [State.later_mk]
    | with_reducible refine State.later_ite (fun _ => ?_) (fun _ => ?_)
    | split
    | with_reducible apply laterSnd_mk
    | with_reducible apply laterFst_mk
    | with_reducible refine State.later_of_snd ?_
    | with_reducible refine LaterSnd.here ?_ (by assumption)
    | with_reducible refine State.later_of_fst ?_
    | with_reducible refine LaterFst.here ?_ (by assumption)
    | (intro _ _; try dsimp -zeta only)

theorem State.noteRead_later {r' : State} (s : State) (a n : Nat) (h' : r'.Later s) :
    r'.Later (State.noteRead s a n) := by
  delta State.noteRead
  repeat' first
    | with_reducible assumption
    | (extract_lets +onlyGivenNames t; refine via (?_ : State.Later r' t) (fun ht => ?_); subst t; rotate_left; clear_value t)
    | (extract_lets +onlyGivenNames t; refine via (?_ : LaterSnd r' t) (fun ht => ?_); subst t; rotate_left; clear_value t)
    | (extract_lets +onlyGivenNames t; refine via (?_ : LaterFst r' t) (fun ht => ?_); subst t; rotate_left; clear_value t)
    | (extract_lets +onlyGivenNames t; have hf : State → State := t; clear hf; subst t; dsimp -zeta only)
    | (extract_lets +onlyGivenNames t; clear_value t)
    | with_reducible (first | apply State.noteCorrected_later | apply State.noteUncorr_later)
    | with_reducible refine State.later_foldl (fun _ _ _ => ?_) _ ?_
    | with_reducible refine laterSnd_foldl (fun _ _ _ => ?_) _ ?_
    | with_reducible refine laterFst_foldl (fun _ _ _ => ?_) _ ?_
    | simp -zeta only [State.later_mk]
    | with_reducible refine State.later_ite (fun _ => ?_) (fun _ => ?_)
    | split
    | with_reducible apply laterSnd_mk
    | with_reducible apply laterFst_mk
    | with_reducible refine State.later_of_snd ?_
    | with_reducible refine LaterSnd.here ?_ (by assumption)
    | with_reducible refine State.later_of_fst ?_
    | with_reducible refine LaterFst.here ?_ (by assumption)
    | (intro _ _; try dsimp -zeta only)

theorem State.writePart_later {r' : State} (s : State) (a : Nat) (bs : List Byte) (h' : r'.Later s) :
    r'.Later (s.writePart a bs) := by
  have he : ∀ (t : State) (v : Nat), r'.Later t →
      r'.Later { t with mram := Sparse.setRun mramBlank t.mram a bs, ecc := Sparse.set eccClean t.ecc (a / 8) v } :=
    fun t v h => h.trans ⟨id, fun k => Sparse.wf_setRun _ _ _ _ k, fun k => Sparse.wf_set _ _ _ _ k, id, fun _ _ _ k => k,
      fun _ _ _ => rfl, rfl, Nat.le_refl _, List.prefix_rfl⟩
  have hr := State.request_later s (mramRank s.role a) (a / 8) h'
  unfold State.writePart
  dsimp only
  split
  · exact State.injUsed_later _ _ _ (he _ _ hr)
  · exact State.fireD_later _ _ _ _ (State.injUsed_later _ _ _ (he _ _ hr))
  · exact State.fault_later _ _ _ _ _ (State.fireD_later _ _ _ _ (State.bump_later _ _ (he _ 3 hr)))

theorem State.writeSlr_later {r' : State} (s : State) (a mid gen : Nat) (ws : List Nat) (h' : r'.Later s) :
    r'.Later (State.writeSlr s a mid gen ws) := by
  delta State.writeSlr
  repeat' first
    | with_reducible assumption
    | (extract_lets +onlyGivenNames t; refine via (?_ : State.Later r' t) (fun ht => ?_); subst t; rotate_left; clear_value t)
    | (extract_lets +onlyGivenNames t; clear_value t)
    | with_reducible apply State.writeWords_later
    | simp -zeta only [State.later_mk]
    | with_reducible refine State.later_ite (fun _ => ?_) (fun _ => ?_)
    | split

theorem State.writeTwoM_later {r' : State} (s : State) (a b mid : Nat) (ws : List Nat) (h' : r'.Later s) :
    r'.Later (State.writeTwoM s a b mid ws) := by
  delta State.writeTwoM
  repeat' first
    | with_reducible assumption
    | (extract_lets +onlyGivenNames t; refine via (?_ : State.Later r' t) (fun ht => ?_); subst t; rotate_left; clear_value t)
    | (extract_lets +onlyGivenNames t; clear_value t)
    | with_reducible apply State.writeSlr_later
    | simp -zeta only [State.later_mk]
    | with_reducible refine State.later_ite (fun _ => ?_) (fun _ => ?_)
    | split

theorem State.writeTwo_later {r' : State} (s : State) (a b : Nat) (ws : List Nat) (h' : r'.Later s) :
    r'.Later (State.writeTwo s a b ws) := by
  delta State.writeTwo
  repeat' first
    | with_reducible assumption
    | (extract_lets +onlyGivenNames t; refine via (?_ : State.Later r' t) (fun ht => ?_); subst t; rotate_left; clear_value t)
    | (extract_lets +onlyGivenNames t; clear_value t)
    | with_reducible apply State.writeSlr_later
    | simp -zeta only [State.later_mk]
    | with_reducible refine State.later_ite (fun _ => ?_) (fun _ => ?_)
    | split

theorem State.writePairSlot_later {r' : State} (s : State) (p sl gen : Nat) (payload : List Byte) (h' : r'.Later s) :
    r'.Later (State.writePairSlot s p sl gen payload) := by
  delta State.writePairSlot
  repeat' first
    | with_reducible assumption
    | (extract_lets +onlyGivenNames t; refine via (?_ : State.Later r' t) (fun ht => ?_); subst t; rotate_left; clear_value t)
    | (extract_lets +onlyGivenNames t; clear_value t)
    | with_reducible (first | apply State.writeBytes_later | apply State.writeWords_later)
    | simp -zeta only [State.later_mk]
    | with_reducible refine State.later_ite (fun _ => ?_) (fun _ => ?_)
    | split

theorem State.commitPair_later {r' : State} (s : State) (p : Nat) (payload : List Byte) (h' : r'.Later s) :
    r'.Later (State.commitPair s p payload) := by
  delta State.commitPair
  repeat' first
    | with_reducible assumption
    | (extract_lets +onlyGivenNames t; refine via (?_ : State.Later r' t) (fun ht => ?_); subst t; rotate_left; clear_value t)
    | (extract_lets +onlyGivenNames t; clear_value t)
    | with_reducible apply State.writePairSlot_later
    | simp -zeta only [State.later_mk]
    | with_reducible refine State.later_ite (fun _ => ?_) (fun _ => ?_)
    | split

end Sys2Proof.Machine
end

