-- ==== Sys2Proof/Laws/KeysLaws.lean ====
section
/-! SUPPORT. What the operations of Machine/Keys.lean never do: each gives a state after its own (State.Later). -/

namespace Sys2Proof.Machine

open Sys2Proof.Crypto

theorem State.keyOp_later {r' : State} (s : State) (op result pair : Nat) (h' : r'.Later s) :
    r'.Later (State.keyOp s op result pair) := by
  delta State.keyOp
  repeat' first
    | with_reducible assumption
    | (extract_lets +onlyGivenNames t; refine via (?_ : State.Later r' t) (fun ht => ?_); subst t; rotate_left; clear_value t)
    | (extract_lets +onlyGivenNames t; clear_value t)
    | with_reducible (first | apply State.bump_later | apply State.setFld_later)
    | simp -zeta only [State.later_mk]
    | with_reducible refine State.later_ite (fun _ => ?_) (fun _ => ?_)
    | split

theorem State.commitKey_later {r' : State} (s : State) (p cls kgen : Nat) (secret : List Byte) (boots : Nat) (h' : r'.Later s) :
    r'.Later (State.commitKey s p cls kgen secret boots) := by
  delta State.commitKey
  repeat' first
    | with_reducible assumption
    | (extract_lets +onlyGivenNames t; refine via (?_ : State.Later r' t) (fun ht => ?_); subst t; rotate_left; clear_value t)
    | (extract_lets +onlyGivenNames t; clear_value t)
    | with_reducible (first | apply State.keyOp_later | apply State.writePairSlot_later)
    | simp -zeta only [State.later_mk]
    | with_reducible refine State.later_ite (fun _ => ?_) (fun _ => ?_)
    | split

theorem State.commitEmpty_later {r' : State} (s : State) (p cls : Nat) (h' : r'.Later s) :
    r'.Later (State.commitEmpty s p cls) := by
  delta State.commitEmpty
  repeat' first
    | with_reducible assumption
    | (extract_lets +onlyGivenNames t; refine via (?_ : State.Later r' t) (fun ht => ?_); subst t; rotate_left; clear_value t)
    | (extract_lets +onlyGivenNames t; clear_value t)
    | with_reducible (first | apply State.keyOp_later | apply State.writePairSlot_later)
    | simp -zeta only [State.later_mk]
    | with_reducible refine State.later_ite (fun _ => ?_) (fun _ => ?_)
    | split

theorem State.overwriteKey_later {r' : State} (s : State) (p cls : Nat) (h' : r'.Later s) :
    r'.Later (State.overwriteKey s p cls) := by
  delta State.overwriteKey
  repeat' first
    | with_reducible assumption
    | (extract_lets +onlyGivenNames t; refine via (?_ : State.Later r' t) (fun ht => ?_); subst t; rotate_left; clear_value t)
    | (extract_lets +onlyGivenNames t; clear_value t)
    | with_reducible apply State.commitEmpty_later
    | simp -zeta only [State.later_mk]
    | with_reducible refine State.later_ite (fun _ => ?_) (fun _ => ?_)
    | split

theorem State.mendPair_later {r' : State} (s : State) (p cls : Nat) (h' : r'.Later s) :
    r'.Later (State.mendPair s p cls) := by
  delta State.mendPair
  repeat' first
    | with_reducible assumption
    | (extract_lets +onlyGivenNames t; refine via (?_ : State.Later r' t) (fun ht => ?_); subst t; rotate_left; clear_value t)
    | (extract_lets +onlyGivenNames t; clear_value t)
    | with_reducible (first | apply State.commitEmpty_later | apply State.commitKey_later | apply State.fireD_later)
    | simp -zeta only [State.later_mk]
    | with_reducible refine State.later_ite (fun _ => ?_) (fun _ => ?_)
    | split

theorem State.mendState_later {r' : State} (s : State) (p : Nat) (h' : r'.Later s) :
    r'.Later (State.mendState s p) := by
  delta State.mendState
  repeat' first
    | with_reducible assumption
    | (extract_lets +onlyGivenNames t; refine via (?_ : State.Later r' t) (fun ht => ?_); subst t; rotate_left; clear_value t)
    | (extract_lets +onlyGivenNames t; clear_value t)
    | with_reducible (first | apply State.commitPair_later | apply State.fireD_later | apply State.keyOp_later)
    | simp -zeta only [State.later_mk]
    | with_reducible refine State.later_ite (fun _ => ?_) (fun _ => ?_)
    | split

theorem State.createKey_later {r' : State} (s : State) (p cls kgen : Nat) (h' : r'.Later s) :
    LaterSnd r' (State.createKey s p cls kgen) := by
  delta State.createKey
  repeat' first
    | with_reducible assumption
    | (extract_lets +onlyGivenNames t; refine via (?_ : State.Later r' t) (fun ht => ?_); subst t; rotate_left; clear_value t)
    | (extract_lets +onlyGivenNames t; clear_value t)
    | with_reducible (first | apply State.commitKey_later | apply State.keyOp_later | apply State.spend_later)
    | simp -zeta only [State.later_mk]
    | with_reducible refine State.later_ite (fun _ => ?_) (fun _ => ?_)
    | split
    | with_reducible apply laterSnd_mk

theorem State.drawNonce_later {r' : State} (s : State) (h' : r'.Later s) :
    r'.Later (State.drawNonce s) := by
  delta State.drawNonce
  repeat' first
    | with_reducible assumption
    | (extract_lets +onlyGivenNames t; refine via (?_ : State.Later r' t) (fun ht => ?_); subst t; rotate_left; clear_value t)
    | (extract_lets +onlyGivenNames t; clear_value t)
    | with_reducible apply State.spend_later
    | simp -zeta only [State.later_mk]
    | with_reducible refine State.later_ite (fun _ => ?_) (fun _ => ?_)
    | split

theorem State.setPairKey_later {r' : State} (s : State) (k : Nat) (x : List Byte) (h' : r'.Later s) :
    r'.Later (State.setPairKey s k x) := by
  delta State.setPairKey
  repeat' first
    | with_reducible assumption
    | (extract_lets +onlyGivenNames t; refine via (?_ : State.Later r' t) (fun ht => ?_); subst t; rotate_left; clear_value t)
    | (extract_lets +onlyGivenNames t; clear_value t)
    | simp -zeta only [State.later_mk]
    | with_reducible refine State.later_ite (fun _ => ?_) (fun _ => ?_)
    | split

theorem State.setImk_later {r' : State} (s : State) (n kgen : Nat) (k : List Byte) (h' : r'.Later s) :
    r'.Later (State.setImk s n kgen k) := by
  delta State.setImk
  repeat' first
    | with_reducible assumption
    | (extract_lets +onlyGivenNames t; refine via (?_ : State.Later r' t) (fun ht => ?_); subst t; rotate_left; clear_value t)
    | (extract_lets +onlyGivenNames t; clear_value t)
    | simp -zeta only [State.later_mk]
    | with_reducible refine State.later_ite (fun _ => ?_) (fun _ => ?_)
    | split

end Sys2Proof.Machine
end

