-- ==== Sys2Proof/Laws/LandingLaws.lean ====
section
/-! SUPPORT. What the operations of Machine/Landing.lean never do: each gives a state after its own (State.Later). -/

namespace Sys2Proof.Machine

open Sys2Proof.Crypto

theorem State.writeHeader_later {r' : State} (s : State) (r : JRec) (lines : Nat) (h' : r'.Later s) :
    r'.Later (State.writeHeader s r lines) := by
  delta State.writeHeader
  repeat' first
    | with_reducible assumption
    | (extract_lets +onlyGivenNames t; refine via (?_ : State.Later r' t) (fun ht => ?_); subst t; rotate_left; clear_value t)
    | (extract_lets +onlyGivenNames t; clear_value t)
    | with_reducible apply State.writeBytes_later
    | simp -zeta only [State.later_mk]
    | with_reducible refine State.later_ite (fun _ => ?_) (fun _ => ?_)
    | split

theorem State.writeAnchor_later {r' : State} (s : State) (h' : r'.Later s) :
    r'.Later (State.writeAnchor s) := by
  delta State.writeAnchor
  repeat' first
    | with_reducible assumption
    | (extract_lets +onlyGivenNames t; refine via (?_ : State.Later r' t) (fun ht => ?_); subst t; rotate_left; clear_value t)
    | (extract_lets +onlyGivenNames t; clear_value t)
    | with_reducible apply State.writeTwo_later
    | simp -zeta only [State.later_mk]
    | with_reducible refine State.later_ite (fun _ => ?_) (fun _ => ?_)
    | split

theorem State.advanceHead_later {r' : State} (s : State) (lines : List Nat) (h' : r'.Later s) :
    r'.Later (State.advanceHead s lines) := by
  delta State.advanceHead
  repeat' first
    | with_reducible assumption
    | (extract_lets +onlyGivenNames t; refine via (?_ : State.Later r' t) (fun ht => ?_); subst t; rotate_left; clear_value t)
    | (extract_lets +onlyGivenNames t; clear_value t)
    | with_reducible (first | apply State.mramFence_later | apply State.writeAnchor_later)
    | simp -zeta only [State.later_mk]
    | with_reducible refine State.later_ite (fun _ => ?_) (fun _ => ?_)
    | split

theorem State.noteWear_later {r' : State} (s t : State) (h' : r'.Later t) :
    r'.Later (State.noteWear s t) := by
  delta State.noteWear
  repeat' first
    | with_reducible assumption
    | (extract_lets +onlyGivenNames t; refine via (?_ : State.Later r' t) (fun ht => ?_); subst t; rotate_left; clear_value t)
    | (extract_lets +onlyGivenNames t; clear_value t)
    | with_reducible apply State.fire_later
    | simp -zeta only [State.later_mk]
    | with_reducible refine State.later_ite (fun _ => ?_) (fun _ => ?_)
    | split

theorem State.padRing_later {r' : State} (s : State) (lines : List Nat) (h' : r'.Later s) :
    r'.Later (State.padRing s lines) := by
  delta State.padRing
  repeat' first
    | with_reducible assumption
    | (extract_lets +onlyGivenNames t; refine via (?_ : State.Later r' t) (fun ht => ?_); subst t; rotate_left; clear_value t)
    | (extract_lets +onlyGivenNames t; clear_value t)
    | with_reducible (first | apply State.advanceHead_later | apply State.fireD_later | apply State.noteWear_later | apply State.writeHeader_later)
    | simp -zeta only [State.later_mk]
    | with_reducible refine State.later_ite (fun _ => ?_) (fun _ => ?_)
    | split

theorem State.allocRecord_later {r' : State} (s : State) (kind inst cnt addr ports g : Nat) (h' : r'.Later s) :
    r'.Later (State.allocRecord s kind inst cnt addr ports g) := by
  delta State.allocRecord
  repeat' first
    | with_reducible assumption
    | (extract_lets +onlyGivenNames t; refine via (?_ : State.Later r' t) (fun ht => ?_); subst t; rotate_left; clear_value t)
    | (extract_lets +onlyGivenNames t; clear_value t)
    | with_reducible (first | apply State.advanceHead_later | apply State.padRing_later | apply State.writeHeader_later)
    | simp -zeta only [State.later_mk]
    | with_reducible refine State.later_ite (fun _ => ?_) (fun _ => ?_)
    | split

theorem State.noteHigh_later {r' : State} (s t : State) (h' : r'.Later t) :
    r'.Later (State.noteHigh s t) := by
  delta State.noteHigh
  repeat' first
    | with_reducible assumption
    | (extract_lets +onlyGivenNames t; refine via (?_ : State.Later r' t) (fun ht => ?_); subst t; rotate_left; clear_value t)
    | (extract_lets +onlyGivenNames t; clear_value t)
    | with_reducible apply State.fire_later
    | simp -zeta only [State.later_mk]
    | with_reducible refine State.later_ite (fun _ => ?_) (fun _ => ?_)
    | split

theorem State.allocWrites_later {r' : State} (kind inst ports n : Nat) :
    ∀ (s : State) (addr g : Nat), r'.Later s → r'.Later (s.allocWrites kind inst addr ports g n) := by
  induction n with
  | zero => exact fun _ _ _ h => h
  | succ n ih => exact fun s addr g h => ih _ _ _ (State.allocRecord_later _ _ _ _ _ _ _ h)

theorem State.noteFull_later {r' : State} (s : State) (h' : r'.Later s) :
    r'.Later (State.noteFull s) := by
  delta State.noteFull
  repeat' first
    | with_reducible assumption
    | (extract_lets +onlyGivenNames t; refine via (?_ : State.Later r' t) (fun ht => ?_); subst t; rotate_left; clear_value t)
    | (extract_lets +onlyGivenNames t; clear_value t)
    | with_reducible (first | apply State.fire_later | apply State.setFlag_later)
    | simp -zeta only [State.later_mk]
    | with_reducible refine State.later_ite (fun _ => ?_) (fun _ => ?_)
    | split

theorem State.noteResume_later {r' : State} (s : State) (h' : r'.Later s) :
    r'.Later (State.noteResume s) := by
  delta State.noteResume
  repeat' first
    | with_reducible assumption
    | (extract_lets +onlyGivenNames t; refine via (?_ : State.Later r' t) (fun ht => ?_); subst t; rotate_left; clear_value t)
    | (extract_lets +onlyGivenNames t; clear_value t)
    | with_reducible (first | apply State.fire_later | apply State.setFlag_later)
    | simp -zeta only [State.later_mk]
    | with_reducible refine State.later_ite (fun _ => ?_) (fun _ => ?_)
    | split

theorem State.updRec_later {r' : State} (s : State) (seq : Nat) (f : JRec → JRec) (h' : r'.Later s) :
    r'.Later (State.updRec s seq f) := by
  delta State.updRec
  repeat' first
    | with_reducible assumption
    | (extract_lets +onlyGivenNames t; refine via (?_ : State.Later r' t) (fun ht => ?_); subst t; rotate_left; clear_value t)
    | (extract_lets +onlyGivenNames t; clear_value t)
    | simp -zeta only [State.later_mk]
    | with_reducible refine State.later_ite (fun _ => ?_) (fun _ => ?_)
    | split
    | (intro _ _; try dsimp -zeta only)

theorem State.dropRec_later {r' : State} (s : State) (seq : Nat) (h' : r'.Later s) :
    r'.Later (State.dropRec s seq) := by
  delta State.dropRec
  repeat' first
    | with_reducible assumption
    | (extract_lets +onlyGivenNames t; refine via (?_ : State.Later r' t) (fun ht => ?_); subst t; rotate_left; clear_value t)
    | (extract_lets +onlyGivenNames t; clear_value t)
    | simp -zeta only [State.later_mk]
    | with_reducible refine State.later_ite (fun _ => ?_) (fun _ => ?_)
    | split
    | (intro _ _; try dsimp -zeta only)

theorem State.writePayload_later {r' : State} (lap : Nat) (ls : List Nat) :
    ∀ (s : State) (bs : List Byte), r'.Later s → r'.Later (s.writePayload lap ls bs) := by
  induction ls with
  | nil => exact fun _ _ h => h
  | cons l ls ih => exact fun s bs h => ih _ _ (State.writeBytes_later _ _ _ h)

theorem State.commitRec_later {r' : State} (s : State) (r : JRec) (payload : List Byte) (h' : r'.Later s) :
    r'.Later (State.commitRec s r payload) := by
  delta State.commitRec
  repeat' first
    | with_reducible assumption
    | (extract_lets +onlyGivenNames t; refine via (?_ : State.Later r' t) (fun ht => ?_); subst t; rotate_left; clear_value t)
    | (extract_lets +onlyGivenNames t; have hf : State → State := t; clear hf; subst t; dsimp -zeta only)
    | (extract_lets +onlyGivenNames t; clear_value t)
    | with_reducible (first | apply State.updRec_later | apply State.writeCommit_later | apply State.writeCommits_later | apply State.writePayload_later)
    | simp -zeta only [State.later_mk]
    | with_reducible refine State.later_ite (fun _ => ?_) (fun _ => ?_)
    | split
    | (intro _ _; try dsimp -zeta only)

theorem State.noteRecord_later {r' : State} (s : State) (r : JRec) (h' : r'.Later s) :
    r'.Later (State.noteRecord s r) := by
  delta State.noteRecord
  repeat' first
    | with_reducible assumption
    | (extract_lets +onlyGivenNames t; refine via (?_ : State.Later r' t) (fun ht => ?_); subst t; rotate_left; clear_value t)
    | (extract_lets +onlyGivenNames t; refine via (?_ : LaterSnd r' t) (fun ht => ?_); subst t; rotate_left; clear_value t)
    | (extract_lets +onlyGivenNames t; refine via (?_ : LaterFst r' t) (fun ht => ?_); subst t; rotate_left; clear_value t)
    | (extract_lets +onlyGivenNames t; clear_value t)
    | with_reducible apply State.noteRead_later
    | with_reducible refine State.later_foldl (fun _ _ _ => ?_) _ ?_
    | with_reducible refine laterSnd_foldl (fun _ _ _ => ?_) _ ?_
    | with_reducible refine laterFst_foldl (fun _ _ _ => ?_) _ ?_
    | simp -zeta only [State.later_mk]
    | with_reducible refine State.later_ite (fun _ => ?_) (fun _ => ?_)
    | split
    | with_reducible apply laterSnd_mk
    | with_reducible apply laterFst_mk
    | with_reducible refine State.later_of_snd ?_
    | with_reducible refine LaterSnd.here ?_ (by assumption)
    | with_reducible refine State.later_of_fst ?_
    | with_reducible refine LaterFst.here ?_ (by assumption)
    | (intro _ _; try dsimp -zeta only)

theorem State.writeBad_later {r' : State} (s : State) (h' : r'.Later s) :
    r'.Later (State.writeBad s) := by
  delta State.writeBad
  repeat' first
    | with_reducible assumption
    | (extract_lets +onlyGivenNames t; refine via (?_ : State.Later r' t) (fun ht => ?_); subst t; rotate_left; clear_value t)
    | (extract_lets +onlyGivenNames t; refine via (?_ : LaterSnd r' t) (fun ht => ?_); subst t; rotate_left; clear_value t)
    | (extract_lets +onlyGivenNames t; refine via (?_ : LaterFst r' t) (fun ht => ?_); subst t; rotate_left; clear_value t)
    | (extract_lets +onlyGivenNames t; have hf : State → State := t; clear hf; subst t; dsimp -zeta only)
    | (extract_lets +onlyGivenNames t; clear_value t)
    | with_reducible apply State.writeSlr_later
    | with_reducible refine State.later_foldl (fun _ _ _ => ?_) _ ?_
    | with_reducible refine laterSnd_foldl (fun _ _ _ => ?_) _ ?_
    | with_reducible refine laterFst_foldl (fun _ _ _ => ?_) _ ?_
    | simp -zeta only [State.later_mk]
    | with_reducible refine State.later_ite (fun _ => ?_) (fun _ => ?_)
    | split
    | with_reducible apply laterSnd_mk
    | with_reducible apply laterFst_mk
    | with_reducible refine State.later_of_snd ?_
    | with_reducible refine LaterSnd.here ?_ (by assumption)
    | with_reducible refine State.later_of_fst ?_
    | with_reducible refine LaterFst.here ?_ (by assumption)
    | (intro _ _; try dsimp -zeta only)

theorem State.loadBad_later {r' : State} (s : State) (h' : r'.Later s) :
    r'.Later (State.loadBad s) := by
  delta State.loadBad
  repeat' first
    | with_reducible assumption
    | (extract_lets +onlyGivenNames t; refine via (?_ : State.Later r' t) (fun ht => ?_); subst t; rotate_left; clear_value t)
    | (extract_lets +onlyGivenNames t; clear_value t)
    | simp -zeta only [State.later_mk]
    | with_reducible refine State.later_ite (fun _ => ?_) (fun _ => ?_)
    | split

theorem State.retireLine_later {r' : State} (s : State) (l : Nat) (h' : r'.Later s) :
    r'.Later (State.retireLine s l) := by
  delta State.retireLine
  repeat' first
    | with_reducible assumption
    | (extract_lets +onlyGivenNames t; refine via (?_ : State.Later r' t) (fun ht => ?_); subst t; rotate_left; clear_value t)
    | (extract_lets +onlyGivenNames t; clear_value t)
    | with_reducible (first | apply State.fault_later | apply State.writeBad_later)
    | simp -zeta only [State.later_mk]
    | with_reducible refine State.later_ite (fun _ => ?_) (fun _ => ?_)
    | split

theorem State.releaseRec_later {r' : State} (s : State) (r : JRec) (h' : r'.Later s) :
    r'.Later (State.releaseRec s r) := by
  delta State.releaseRec
  repeat' first
    | with_reducible assumption
    | (extract_lets +onlyGivenNames t; refine via (?_ : State.Later r' t) (fun ht => ?_); subst t; rotate_left; clear_value t)
    | (extract_lets +onlyGivenNames t; clear_value t)
    | with_reducible (first | apply State.dropRec_later | apply State.fire_later | apply State.mramFence_later | apply State.noteResume_later | apply State.writeCommit_later)
    | simp -zeta only [State.later_mk]
    | with_reducible refine State.later_ite (fun _ => ?_) (fun _ => ?_)
    | split

theorem State.noteScan_later {r' : State} (s : State) (line head : Nat) (h' : r'.Later s) :
    r'.Later (State.noteScan s line head) := by
  delta State.noteScan
  repeat' first
    | with_reducible assumption
    | (extract_lets +onlyGivenNames t; refine via (?_ : State.Later r' t) (fun ht => ?_); subst t; rotate_left; clear_value t)
    | (extract_lets +onlyGivenNames t; clear_value t)
    | with_reducible apply State.noteArea_later
    | simp -zeta only [State.later_mk]
    | with_reducible refine State.later_ite (fun _ => ?_) (fun _ => ?_)
    | split

theorem State.replay_later {r' : State} (s : State) (gOf : Nat → Nat → Nat) (h' : r'.Later s) :
    r'.Later (State.replay s gOf) := by
  delta State.replay
  repeat' first
    | with_reducible assumption
    | (extract_lets +onlyGivenNames t; refine via (?_ : State.Later r' t) (fun ht => ?_); subst t; rotate_left; clear_value t)
    | (extract_lets +onlyGivenNames t; have hf : State → State := t; clear hf; subst t; dsimp -zeta only)
    | (extract_lets +onlyGivenNames t; clear_value t)
    | with_reducible (first | apply State.fault_later | apply State.noteScan_later | apply State.noteWear_later | apply State.setFld_later)
    | simp -zeta only [State.later_mk]
    | with_reducible refine State.later_ite (fun _ => ?_) (fun _ => ?_)
    | split
    | (intro _ _; try dsimp -zeta only)

end Sys2Proof.Machine
end

