-- ==== Sys2Proof/Laws/FlashLaws.lean ====
section
/-! SUPPORT. What the operations of Machine/Flash.lean never do: each gives a state after its own (State.Later). -/

namespace Sys2Proof.Machine

open Sys2Proof.Crypto

theorem State.updSb_later {r' : State} (s : State) (k : Nat) (f : OpenSb → OpenSb) (h' : r'.Later s) :
    r'.Later (State.updSb s k f) := by
  delta State.updSb
  repeat' first
    | with_reducible assumption
    | (extract_lets +onlyGivenNames t; refine via (?_ : State.Later r' t) (fun ht => ?_); subst t; rotate_left; clear_value t)
    | (extract_lets +onlyGivenNames t; clear_value t)
    | simp -zeta only [State.later_mk]
    | with_reducible refine State.later_ite (fun _ => ?_) (fun _ => ?_)
    | split
    | (intro _ _; try dsimp -zeta only)

theorem State.setFlash_later {r' : State} (s : State) (e h : Nat) (u : Option FlashUnit) (h' : r'.Later s) :
    r'.Later (State.setFlash s e h u) := by
  delta State.setFlash
  repeat' first
    | with_reducible assumption
    | (extract_lets +onlyGivenNames t; refine via (?_ : State.Later r' t) (fun ht => ?_); subst t; rotate_left; clear_value t)
    | (extract_lets +onlyGivenNames t; clear_value t)
    | simp -zeta only [State.later_mk]
    | with_reducible refine State.later_ite (fun _ => ?_) (fun _ => ?_)
    | split
    | (intro _ _; try dsimp -zeta only)

theorem State.noteCheck_later {r' : State} (s : State) (inst g : Nat) (u : FlashUnit) (e : Ev) (h' : r'.Later s) :
    r'.Later (State.noteCheck s inst g u e) := by
  delta State.noteCheck
  repeat' first
    | with_reducible assumption
    | (extract_lets +onlyGivenNames t; refine via (?_ : State.Later r' t) (fun ht => ?_); subst t; rotate_left; clear_value t)
    | (extract_lets +onlyGivenNames t; clear_value t)
    | with_reducible (first | apply State.bump_later | apply State.fireI_later)
    | simp -zeta only [State.later_mk]
    | with_reducible refine State.later_ite (fun _ => ?_) (fun _ => ?_)
    | split

end Sys2Proof.Machine
end

