-- ==== Sys2Proof/Laws/MediaLaws.lean ====
section
/-! SUPPORT. What the operations of Machine/Media.lean never do: each gives a state after its own (State.Later). -/

namespace Sys2Proof.Machine

open Sys2Proof.Crypto

theorem State.rewriteSlr_later {r' : State} (s : State) (a : Nat) (ws : List Nat) (h' : r'.Later s) :
    r'.Later (State.rewriteSlr s a ws) := by
  delta State.rewriteSlr
  repeat' first
    | with_reducible assumption
    | (extract_lets +onlyGivenNames t; refine via (?_ : State.Later r' t) (fun ht => ?_); subst t; rotate_left; clear_value t)
    | (extract_lets +onlyGivenNames t; clear_value t)
    | with_reducible apply State.writeSlr_later
    | simp -zeta only [State.later_mk]
    | with_reducible refine State.later_ite (fun _ => ?_) (fun _ => ?_)
    | split

theorem State.putEntry_later {r' : State} (s : State) (k : Nat) (e : SbEntry) (h' : r'.Later s) :
    r'.Later (State.putEntry s k e) := by
  delta State.putEntry
  repeat' first
    | with_reducible assumption
    | (extract_lets +onlyGivenNames t; refine via (?_ : State.Later r' t) (fun ht => ?_); subst t; rotate_left; clear_value t)
    | (extract_lets +onlyGivenNames t; clear_value t)
    | simp -zeta only [State.later_mk]
    | with_reducible refine State.later_ite (fun _ => ?_) (fun _ => ?_)
    | split

theorem State.saveEntry_later {r' : State} (s : State) (slot k : Nat) (h' : r'.Later s) :
    r'.Later (State.saveEntry s slot k) := by
  delta State.saveEntry
  repeat' first
    | with_reducible assumption
    | (extract_lets +onlyGivenNames t; refine via (?_ : State.Later r' t) (fun ht => ?_); subst t; rotate_left; clear_value t)
    | (extract_lets +onlyGivenNames t; clear_value t)
    | with_reducible apply State.writeBytes_later
    | simp -zeta only [State.later_mk]
    | with_reducible refine State.later_ite (fun _ => ?_) (fun _ => ?_)
    | split

theorem State.loadTable_later {r' : State} (s : State) (page slot : Nat) (h' : r'.Later s) :
    r'.Later (State.loadTable s page slot) := by
  delta State.loadTable
  repeat' first
    | with_reducible assumption
    | (extract_lets +onlyGivenNames t; refine via (?_ : State.Later r' t) (fun ht => ?_); subst t; rotate_left; clear_value t)
    | (extract_lets +onlyGivenNames t; refine via (?_ : LaterSnd r' t) (fun ht => ?_); subst t; rotate_left; clear_value t)
    | (extract_lets +onlyGivenNames t; refine via (?_ : LaterFst r' t) (fun ht => ?_); subst t; rotate_left; clear_value t)
    | (extract_lets +onlyGivenNames t; have hf : State → State := t; clear hf; subst t; dsimp -zeta only)
    | (extract_lets +onlyGivenNames t; clear_value t)
    | with_reducible (first | apply State.bump_later | apply State.fault_later | apply State.mramFence_later | apply State.putEntry_later | apply State.rewriteSlr_later | apply State.saveEntry_later | apply State.writeBytes_later)
    | with_reducible refine State.later_foldl (fun _ _ _ => ?_) _ ?_
    | with_reducible refine laterSnd_foldl (fun _ _ _ => ?_) _ ?_
    | with_reducible refine laterFst_foldl (fun _ _ _ => ?_) _ ?_
    | simp -zeta only [State.later_mk]
    | with_reducible refine State.later_ite (fun _ => ?_) (fun _ => ?_)
    | split
    | with_reducible apply laterSnd_mk
    | with_reducible apply laterFst_mk
    | with_reducible refine State.later_of_snd ?_
    | with_reducible refine LaterSnd.here ?_ (by assumption)
    | with_reducible refine State.later_of_fst ?_
    | with_reducible refine LaterFst.here ?_ (by assumption)
    | (intro _ _; try dsimp -zeta only)

theorem State.saveResident_later {r' : State} (s : State) (k : Nat) (r : Nat × Nat) (h' : r'.Later s) :
    r'.Later (State.saveResident s k r) := by
  delta State.saveResident
  repeat' first
    | with_reducible assumption
    | (extract_lets +onlyGivenNames t; refine via (?_ : State.Later r' t) (fun ht => ?_); subst t; rotate_left; clear_value t)
    | (extract_lets +onlyGivenNames t; clear_value t)
    | with_reducible apply State.saveEntry_later
    | simp -zeta only [State.later_mk]
    | with_reducible refine State.later_ite (fun _ => ?_) (fun _ => ?_)
    | split

theorem State.setEntryK_later {r' : State} (s : State) (k : Nat) (e : SbEntry) (h' : r'.Later s) :
    r'.Later (State.setEntryK s k e) := by
  delta State.setEntryK
  repeat' first
    | with_reducible assumption
    | (extract_lets +onlyGivenNames t; refine via (?_ : State.Later r' t) (fun ht => ?_); subst t; rotate_left; clear_value t)
    | (extract_lets +onlyGivenNames t; clear_value t)
    | with_reducible (first | apply State.loadTable_later | apply State.putEntry_later | apply State.saveEntry_later | apply State.saveResident_later)
    | simp -zeta only [State.later_mk]
    | with_reducible refine State.later_ite (fun _ => ?_) (fun _ => ?_)
    | split

theorem State.writeSbRecord_later {r' : State} (s : State) (k : Nat) (h' : r'.Later s) :
    r'.Later (State.writeSbRecord s k) := by
  delta State.writeSbRecord
  repeat' first
    | with_reducible assumption
    | (extract_lets +onlyGivenNames t; refine via (?_ : State.Later r' t) (fun ht => ?_); subst t; rotate_left; clear_value t)
    | (extract_lets +onlyGivenNames t; clear_value t)
    | with_reducible apply State.writeTwo_later
    | simp -zeta only [State.later_mk]
    | with_reducible refine State.later_ite (fun _ => ?_) (fun _ => ?_)
    | split
    | (intro _ _; try dsimp -zeta only)

theorem State.writeInflight_later {r' : State} (s : State) (l w1 : Nat) (h' : r'.Later s) :
    r'.Later (State.writeInflight s l w1) := by
  delta State.writeInflight
  repeat' first
    | with_reducible assumption
    | (extract_lets +onlyGivenNames t; refine via (?_ : State.Later r' t) (fun ht => ?_); subst t; rotate_left; clear_value t)
    | (extract_lets +onlyGivenNames t; clear_value t)
    | with_reducible apply State.rewriteSlr_later
    | simp -zeta only [State.later_mk]
    | with_reducible refine State.later_ite (fun _ => ?_) (fun _ => ?_)
    | split

theorem State.foldWords_later {r' : State} (ws : List Nat) :
    ∀ (s : State) (a : Nat), r'.Later s → r'.Later (s.foldWords a ws) := by
  induction ws with
  | nil => exact fun _ _ h => h
  | cons w ws ih =>
    intro s a h
    refine ih _ _ ?_
    split
    · exact State.writePart_later _ _ _ h
    · exact State.writeWord_later _ _ _ h

theorem State.putParity_later {r' : State} (s : State) (i : Nat) (d : List Byte × List Byte) (h' : r'.Later s) :
    r'.Later (State.putParity s i d) := by
  delta State.putParity
  repeat' first
    | with_reducible assumption
    | (extract_lets +onlyGivenNames t; refine via (?_ : State.Later r' t) (fun ht => ?_); subst t; rotate_left; clear_value t)
    | (extract_lets +onlyGivenNames t; clear_value t)
    | with_reducible apply State.foldWords_later
    | simp -zeta only [State.later_mk]
    | with_reducible refine State.later_ite (fun _ => ?_) (fun _ => ?_)
    | split

theorem State.foldPage_later {r' : State} (s : State) (x : OpenSb) (lun page : Nat) (h' : r'.Later s) :
    r'.Later (State.foldPage s x lun page) := by
  delta State.foldPage
  repeat' first
    | with_reducible assumption
    | (extract_lets +onlyGivenNames t; refine via (?_ : State.Later r' t) (fun ht => ?_); subst t; rotate_left; clear_value t)
    | (extract_lets +onlyGivenNames t; clear_value t)
    | with_reducible (first | apply State.fault_later | apply State.putParity_later | apply State.writeBytes_later)
    | simp -zeta only [State.later_mk]
    | with_reducible refine State.later_ite (fun _ => ?_) (fun _ => ?_)
    | split

theorem State.noteIssued_later {r' : State} (s : State) (o : LunOp) (h' : r'.Later s) :
    r'.Later (State.noteIssued s o) := by
  delta State.noteIssued
  repeat' first
    | with_reducible assumption
    | (extract_lets +onlyGivenNames t; refine via (?_ : State.Later r' t) (fun ht => ?_); subst t; rotate_left; clear_value t)
    | (extract_lets +onlyGivenNames t; clear_value t)
    | with_reducible (first | apply State.foldPage_later | apply State.updSb_later)
    | simp -zeta only [State.later_mk]
    | with_reducible refine State.later_ite (fun _ => ?_) (fun _ => ?_)
    | split
    | (intro _ _; try dsimp -zeta only)

theorem State.issueOn_later {r' : State} (s : State) (l : Nat) (h' : r'.Later s) :
    r'.Later (State.issueOn s l) := by
  delta State.issueOn
  repeat' first
    | with_reducible assumption
    | (extract_lets +onlyGivenNames t; refine via (?_ : State.Later r' t) (fun ht => ?_); subst t; rotate_left; clear_value t)
    | (extract_lets +onlyGivenNames t; have hf : State → State := t; clear hf; subst t; dsimp -zeta only)
    | (extract_lets +onlyGivenNames t; clear_value t)
    | with_reducible (first | apply State.mramFence_later | apply State.mramSync_later | apply State.noteIssued_later | apply State.writeInflight_later)
    | simp -zeta only [State.later_mk]
    | with_reducible refine State.later_ite (fun _ => ?_) (fun _ => ?_)
    | split
    | (intro _ _; try dsimp -zeta only)

theorem State.issueAll_later {r' : State} (s : State) (h' : r'.Later s) :
    r'.Later (State.issueAll s) := by
  delta State.issueAll
  repeat' first
    | with_reducible assumption
    | (extract_lets +onlyGivenNames t; refine via (?_ : State.Later r' t) (fun ht => ?_); subst t; rotate_left; clear_value t)
    | (extract_lets +onlyGivenNames t; refine via (?_ : LaterSnd r' t) (fun ht => ?_); subst t; rotate_left; clear_value t)
    | (extract_lets +onlyGivenNames t; refine via (?_ : LaterFst r' t) (fun ht => ?_); subst t; rotate_left; clear_value t)
    | (extract_lets +onlyGivenNames t; clear_value t)
    | with_reducible apply State.issueOn_later
    | with_reducible refine State.later_foldl (fun _ _ _ => ?_) _ ?_
    | with_reducible refine laterSnd_foldl (fun _ _ _ => ?_) _ ?_
    | with_reducible refine laterFst_foldl (fun _ _ _ => ?_) _ ?_
    | simp -zeta only [State.later_mk]
    | with_reducible refine State.later_ite (fun _ => ?_) (fun _ => ?_)
    | split
    | with_reducible apply laterSnd_mk
    | with_reducible apply laterFst_mk
    | with_reducible refine State.later_of_snd ?_
    | with_reducible refine LaterSnd.here ?_ (by assumption)
    | with_reducible refine State.later_of_fst ?_
    | with_reducible refine LaterFst.here ?_ (by assumption)

theorem State.pushOp_later {r' : State} (s : State) (o : LunOp) (h' : r'.Later s) :
    r'.Later (State.pushOp s o) := by
  delta State.pushOp
  repeat' first
    | with_reducible assumption
    | (extract_lets +onlyGivenNames t; refine via (?_ : State.Later r' t) (fun ht => ?_); subst t; rotate_left; clear_value t)
    | (extract_lets +onlyGivenNames t; clear_value t)
    | simp -zeta only [State.later_mk]
    | with_reducible refine State.later_ite (fun _ => ?_) (fun _ => ?_)
    | split

theorem State.addSb_later {r' : State} (s : State) (x : OpenSb) (h' : r'.Later s) :
    r'.Later (State.addSb s x) := by
  delta State.addSb
  repeat' first
    | with_reducible assumption
    | (extract_lets +onlyGivenNames t; refine via (?_ : State.Later r' t) (fun ht => ?_); subst t; rotate_left; clear_value t)
    | (extract_lets +onlyGivenNames t; clear_value t)
    | simp -zeta only [State.later_mk]
    | with_reducible refine State.later_ite (fun _ => ?_) (fun _ => ?_)
    | split
    | (intro _ _; try dsimp -zeta only)

theorem State.takeSb_later {r' : State} (s : State) (k i : Nat) (forMove : Bool) (h' : r'.Later s) :
    r'.Later (State.takeSb s k i forMove) := by
  delta State.takeSb
  repeat' first
    | with_reducible assumption
    | (extract_lets +onlyGivenNames t; refine via (?_ : State.Later r' t) (fun ht => ?_); subst t; rotate_left; clear_value t)
    | (extract_lets +onlyGivenNames t; refine via (?_ : LaterSnd r' t) (fun ht => ?_); subst t; rotate_left; clear_value t)
    | (extract_lets +onlyGivenNames t; refine via (?_ : LaterFst r' t) (fun ht => ?_); subst t; rotate_left; clear_value t)
    | (extract_lets +onlyGivenNames t; have hf : State → State := t; clear hf; subst t; dsimp -zeta only)
    | (extract_lets +onlyGivenNames t; clear_value t)
    | with_reducible (first | apply State.addSb_later | apply State.fire_later | apply State.issueAll_later | apply State.pushOp_later | apply State.setEntryK_later | apply State.writeSbRecord_later)
    | with_reducible refine State.later_foldl (fun _ _ _ => ?_) _ ?_
    | with_reducible refine laterSnd_foldl (fun _ _ _ => ?_) _ ?_
    | with_reducible refine laterFst_foldl (fun _ _ _ => ?_) _ ?_
    | simp -zeta only [State.later_mk]
    | with_reducible refine State.later_ite (fun _ => ?_) (fun _ => ?_)
    | split
    | with_reducible apply laterSnd_mk
    | with_reducible apply laterFst_mk
    | with_reducible refine State.later_of_snd ?_
    | with_reducible refine LaterSnd.here ?_ (by assumption)
    | with_reducible refine State.later_of_fst ?_
    | with_reducible refine LaterFst.here ?_ (by assumption)
    | (intro _ _; try dsimp -zeta only)

theorem State.openSb_later {r' : State} (s : State) (h : Nat) (forMove : Bool) (h' : r'.Later s) :
    r'.Later (State.openSb s h forMove) := by
  delta State.openSb
  repeat' first
    | with_reducible assumption
    | (extract_lets +onlyGivenNames t; refine via (?_ : State.Later r' t) (fun ht => ?_); subst t; rotate_left; clear_value t)
    | (extract_lets +onlyGivenNames t; clear_value t)
    | with_reducible apply State.takeSb_later
    | simp -zeta only [State.later_mk]
    | with_reducible refine State.later_ite (fun _ => ?_) (fun _ => ?_)
    | split

theorem State.ensureOpen_later {r' : State} (s : State) (h : Nat) (forMove : Bool) (h' : r'.Later s) :
    r'.Later (State.ensureOpen s h forMove) := by
  delta State.ensureOpen
  repeat' first
    | with_reducible assumption
    | (extract_lets +onlyGivenNames t; refine via (?_ : State.Later r' t) (fun ht => ?_); subst t; rotate_left; clear_value t)
    | (extract_lets +onlyGivenNames t; clear_value t)
    | with_reducible apply State.openSb_later
    | simp -zeta only [State.later_mk]
    | with_reducible refine State.later_ite (fun _ => ?_) (fun _ => ?_)
    | split

theorem State.mustOpen_later {r' : State} (s : State) (h : Nat) (h' : r'.Later s) :
    r'.Later (State.mustOpen s h) := by
  delta State.mustOpen
  repeat' first
    | with_reducible assumption
    | (extract_lets +onlyGivenNames t; refine via (?_ : State.Later r' t) (fun ht => ?_); subst t; rotate_left; clear_value t)
    | (extract_lets +onlyGivenNames t; clear_value t)
    | with_reducible (first | apply State.fire_later | apply State.openSb_later)
    | simp -zeta only [State.later_mk]
    | with_reducible refine State.later_ite (fun _ => ?_) (fun _ => ?_)
    | split

theorem State.closeSb_later {r' : State} (s : State) (k : Nat) (h' : r'.Later s) :
    r'.Later (State.closeSb s k) := by
  delta State.closeSb
  repeat' first
    | with_reducible assumption
    | (extract_lets +onlyGivenNames t; refine via (?_ : State.Later r' t) (fun ht => ?_); subst t; rotate_left; clear_value t)
    | (extract_lets +onlyGivenNames t; clear_value t)
    | with_reducible (first | apply State.mustOpen_later | apply State.updSb_later | apply State.writeSbRecord_later)
    | simp -zeta only [State.later_mk]
    | with_reducible refine State.later_ite (fun _ => ?_) (fun _ => ?_)
    | split
    | (intro _ _; try dsimp -zeta only)

theorem State.closeIfFull_later {r' : State} (s : State) (k : Nat) (h' : r'.Later s) :
    r'.Later (State.closeIfFull s k) := by
  delta State.closeIfFull
  repeat' first
    | with_reducible assumption
    | (extract_lets +onlyGivenNames t; refine via (?_ : State.Later r' t) (fun ht => ?_); subst t; rotate_left; clear_value t)
    | (extract_lets +onlyGivenNames t; clear_value t)
    | with_reducible apply State.closeSb_later
    | simp -zeta only [State.later_mk]
    | with_reducible refine State.later_ite (fun _ => ?_) (fun _ => ?_)
    | split

theorem State.fillSlot_later {r' : State} (s : State) (k lun : Nat) (u : FlashUnit) (h' : r'.Later s) :
    r'.Later (State.fillSlot s k lun u) := by
  delta State.fillSlot
  repeat' first
    | with_reducible assumption
    | (extract_lets +onlyGivenNames t; refine via (?_ : State.Later r' t) (fun ht => ?_); subst t; rotate_left; clear_value t)
    | (extract_lets +onlyGivenNames t; have hf : State → State := t; clear hf; subst t; dsimp -zeta only)
    | (extract_lets +onlyGivenNames t; clear_value t)
    | with_reducible (first | apply State.closeIfFull_later | apply State.pushOp_later | apply State.setFlash_later | apply State.updSb_later)
    | simp -zeta only [State.later_mk]
    | with_reducible refine State.later_ite (fun _ => ?_) (fun _ => ?_)
    | split
    | (intro _ _; try dsimp -zeta only)

theorem State.padSlots_later {r' : State} (k lun n : Nat) : ∀ s : State, r'.Later s → r'.Later (s.padSlots k lun n) := by
  induction n with
  | zero => exact fun _ h => h
  | succ n ih => exact fun s h => ih _ (State.fillSlot_later _ _ _ _ h)

theorem State.padMember_later {r' : State} (s : State) (k lun : Nat) (h' : r'.Later s) :
    r'.Later (State.padMember s k lun) := by
  delta State.padMember
  repeat' first
    | with_reducible assumption
    | (extract_lets +onlyGivenNames t; refine via (?_ : State.Later r' t) (fun ht => ?_); subst t; rotate_left; clear_value t)
    | (extract_lets +onlyGivenNames t; clear_value t)
    | with_reducible apply State.padSlots_later
    | simp -zeta only [State.later_mk]
    | with_reducible refine State.later_ite (fun _ => ?_) (fun _ => ?_)
    | split

theorem State.padPage_later {r' : State} (s : State) (k lun : Nat) (h' : r'.Later s) :
    r'.Later (State.padPage s k lun) := by
  delta State.padPage
  repeat' first
    | with_reducible assumption
    | (extract_lets +onlyGivenNames t; refine via (?_ : State.Later r' t) (fun ht => ?_); subst t; rotate_left; clear_value t)
    | (extract_lets +onlyGivenNames t; clear_value t)
    | with_reducible apply State.padSlots_later
    | simp -zeta only [State.later_mk]
    | with_reducible refine State.later_ite (fun _ => ?_) (fun _ => ?_)
    | split

theorem State.placeWrite_later {r' : State} (s : State) (r : JRec) (loc : Nat) (h' : r'.Later s) :
    r'.Later (State.placeWrite s r loc) := by
  delta State.placeWrite
  repeat' first
    | with_reducible assumption
    | (extract_lets +onlyGivenNames t; refine via (?_ : State.Later r' t) (fun ht => ?_); subst t; rotate_left; clear_value t)
    | (extract_lets +onlyGivenNames t; have hf : State → State := t; clear hf; subst t; dsimp -zeta only)
    | (extract_lets +onlyGivenNames t; clear_value t)
    | with_reducible (first | apply State.bumpCtr_later | apply State.commitDeltas_later | apply State.ensureOpen_later | apply State.fillSlot_later | apply State.issueAll_later | apply State.mramSync_later | apply State.noteDeltaHigh_later | apply State.setEntry_later | apply State.touchMap_later | apply State.touchTree_later | apply State.updRec_later)
    | simp -zeta only [State.later_mk]
    | with_reducible refine State.later_ite (fun _ => ?_) (fun _ => ?_)
    | split
    | (intro _ _; try dsimp -zeta only)

theorem State.placeDiscard_later {r' : State} (s : State) (r : JRec) (h' : r'.Later s) :
    r'.Later (State.placeDiscard s r) := by
  delta State.placeDiscard
  repeat' first
    | with_reducible assumption
    | (extract_lets +onlyGivenNames t; refine via (?_ : State.Later r' t) (fun ht => ?_); subst t; rotate_left; clear_value t)
    | (extract_lets +onlyGivenNames t; have hf : State → State := t; clear hf; subst t; dsimp -zeta only)
    | (extract_lets +onlyGivenNames t; clear_value t)
    | with_reducible (first | apply State.commitDeltas_later | apply State.fireI_later | apply State.unmapRange_later | apply State.updRec_later)
    | simp -zeta only [State.later_mk]
    | with_reducible refine State.later_ite (fun _ => ?_) (fun _ => ?_)
    | split
    | (intro _ _; try dsimp -zeta only)

end Sys2Proof.Machine
end

