-- ==== Sys2Proof/Laws/SnapshotsLaws.lean ====
section
/-! SUPPORT. What the operations of Machine/Snapshots.lean never do: each gives a state after its own (State.Later). -/

namespace Sys2Proof.Machine

open Sys2Proof.Crypto

theorem State.placeUnit_later {r' : State} (s : State) (h : Nat) (forMove : Bool) (u : FlashUnit) (bar : Nat → Bool) (h' : r'.Later s) :
    LaterSnd r' (State.placeUnit s h forMove u bar) := by
  delta State.placeUnit
  repeat' first
    | with_reducible assumption
    | (extract_lets +onlyGivenNames t; refine via (?_ : State.Later r' t) (fun ht => ?_); subst t; rotate_left; clear_value t)
    | (extract_lets +onlyGivenNames t; clear_value t)
    | with_reducible (first | apply State.ensureOpen_later | apply State.fillSlot_later)
    | simp -zeta only [State.later_mk]
    | with_reducible refine State.later_ite (fun _ => ?_) (fun _ => ?_)
    | split
    | with_reducible apply laterSnd_mk

theorem State.placePage_later {r' : State} (s : State) (h : Nat) (us : List FlashUnit) (h' : r'.Later s) :
    LaterSnd r' (State.placePage s h us) := by
  delta State.placePage
  repeat' first
    | with_reducible assumption
    | (extract_lets +onlyGivenNames t; refine via (?_ : State.Later r' t) (fun ht => ?_); subst t; rotate_left; clear_value t)
    | (extract_lets +onlyGivenNames t; refine via (?_ : LaterSnd r' t) (fun ht => ?_); subst t; rotate_left; clear_value t)
    | (extract_lets +onlyGivenNames t; refine via (?_ : LaterFst r' t) (fun ht => ?_); subst t; rotate_left; clear_value t)
    | (extract_lets +onlyGivenNames t; have hf : State → State := t; clear hf; subst t; dsimp -zeta only)
    | (extract_lets +onlyGivenNames t; clear_value t)
    | with_reducible (first | apply State.ensureOpen_later | apply State.fillSlot_later | apply State.padPage_later)
    | with_reducible refine State.later_foldl (fun _ _ _ => ?_) _ ?_
    | with_reducible refine laterSnd_foldl (fun _ _ _ => ?_) _ ?_
    | with_reducible refine laterFst_foldl (fun _ _ _ => ?_) _ ?_
    | simp -zeta only [State.later_mk]
    | with_reducible refine State.later_ite (fun _ => ?_) (fun _ => ?_)
    | split
    | with_reducible apply laterSnd_mk
    | with_reducible apply laterFst_mk
    | with_reducible refine State.later_of_snd ?_
    | with_reducible refine LaterSnd.here ?_ (by assumption)
    | with_reducible refine State.later_of_fst ?_
    | with_reducible refine LaterFst.here ?_ (by assumption)
    | (intro _ _; try dsimp -zeta only)

theorem State.bumpSnap_later {r' : State} (s : State) (page : Nat) (isDir : Bool) (h' : r'.Later s) :
    r'.Later (State.bumpSnap s page isDir) := by
  delta State.bumpSnap
  repeat' first
    | with_reducible assumption
    | (extract_lets +onlyGivenNames t; refine via (?_ : State.Later r' t) (fun ht => ?_); subst t; rotate_left; clear_value t)
    | (extract_lets +onlyGivenNames t; refine via (?_ : LaterSnd r' t) (fun ht => ?_); subst t; rotate_left; clear_value t)
    | (extract_lets +onlyGivenNames t; refine via (?_ : LaterFst r' t) (fun ht => ?_); subst t; rotate_left; clear_value t)
    | (extract_lets +onlyGivenNames t; clear_value t)
    | with_reducible (first | apply State.bumpCtr_later | apply State.commitDeltas_later | apply State.mramSync_later)
    | with_reducible refine State.later_foldl (fun _ _ _ => ?_) _ ?_
    | with_reducible refine laterSnd_foldl (fun _ _ _ => ?_) _ ?_
    | with_reducible refine laterFst_foldl (fun _ _ _ => ?_) _ ?_
    | simp -zeta only [State.later_mk]
    | with_reducible refine State.later_ite (fun _ => ?_) (fun _ => ?_)
    | split
    | with_reducible apply laterSnd_mk
    | with_reducible apply laterFst_mk
    | with_reducible refine State.later_of_snd ?_
    | with_reducible refine LaterSnd.here ?_ (by assumption)
    | with_reducible refine State.later_of_fst ?_
    | with_reducible refine LaterFst.here ?_ (by assumption)
    | (intro _ _; try dsimp -zeta only)

theorem State.startWriteback_later {r' : State} (s : State) (page : Nat) (isDir : Bool) (h' : r'.Later s) :
    r'.Later (State.startWriteback s page isDir) := by
  delta State.startWriteback
  repeat' first
    | with_reducible assumption
    | (extract_lets +onlyGivenNames t; refine via (?_ : State.Later r' t) (fun ht => ?_); subst t; rotate_left; clear_value t)
    | (extract_lets +onlyGivenNames t; refine via (?_ : LaterSnd r' t) (fun ht => ?_); subst t; rotate_left; clear_value t)
    | (extract_lets +onlyGivenNames t; clear_value t)
    | with_reducible (first | apply State.bumpSnap_later | apply State.ensureOpen_later | apply State.issueAll_later | apply State.placePage_later | apply State.touchMap_later | apply State.touchTree_later)
    | simp -zeta only [State.later_mk]
    | with_reducible refine State.later_ite (fun _ => ?_) (fun _ => ?_)
    | split
    | with_reducible apply laterSnd_mk
    | with_reducible refine State.later_of_snd ?_
    | with_reducible refine LaterSnd.here ?_ (by assumption)

theorem State.coverPage_later {r' : State} (s : State) (w : Writeback) (h' : r'.Later s) :
    r'.Later (State.coverPage s w) := by
  delta State.coverPage
  repeat' first
    | with_reducible assumption
    | (extract_lets +onlyGivenNames t; refine via (?_ : State.Later r' t) (fun ht => ?_); subst t; rotate_left; clear_value t)
    | (extract_lets +onlyGivenNames t; have hf : State → State := t; clear hf; subst t; dsimp -zeta only)
    | (extract_lets +onlyGivenNames t; clear_value t)
    | simp -zeta only [State.later_mk]
    | with_reducible refine State.later_ite (fun _ => ?_) (fun _ => ?_)
    | split
    | (intro _ _; try dsimp -zeta only)

theorem State.finishWriteback_later {r' : State} (s : State) (w : Writeback) (h' : r'.Later s) :
    r'.Later (State.finishWriteback s w) := by
  delta State.finishWriteback
  repeat' first
    | with_reducible assumption
    | (extract_lets +onlyGivenNames t; refine via (?_ : State.Later r' t) (fun ht => ?_); subst t; rotate_left; clear_value t)
    | (extract_lets +onlyGivenNames t; have hf : State → State := t; clear hf; subst t; dsimp -zeta only)
    | (extract_lets +onlyGivenNames t; clear_value t)
    | with_reducible (first | apply State.bump_later | apply State.commitDeltas_later | apply State.coverPage_later | apply State.dirtyMap_later | apply State.fireD_later | apply State.queueDelta_later | apply State.retireDeltas_later | apply State.writeDeltaAnchor_later | apply State.writeTwo_later)
    | simp -zeta only [State.later_mk]
    | with_reducible refine State.later_ite (fun _ => ?_) (fun _ => ?_)
    | split
    | (intro _ _; try dsimp -zeta only)

theorem State.placeTree_later {r' : State} (a : Option (List (Nat × TreeEnt)) × State) (k : Nat) (h : LaterSnd r' a) :
    LaterSnd r' (State.placeTree a k) := by
  have h2 : r'.Later a.2 := h
  unfold State.placeTree
  split
  · exact h
  · rename_i ents _
    have hp := fun u => State.placeUnit_later (r' := r') a.2 (keyUnit k % 2) false u (fun _ => false) h2
    dsimp only
    split
    · exact h2
    · rename_i ea _
      have hq := fun u f => State.placeUnit_later (r' := r') _ (keyUnit k % 2) false u f (hp u)
      split
      · exact h2
      · split
        · exact hq _ _
        · exact hq _ _

theorem State.startCheckpoint_later {r' : State} (s : State) (h' : r'.Later s) :
    r'.Later (State.startCheckpoint s) := by
  have hc : r'.Later s.commitDeltas := State.commitDeltas_later _ h'
  have hr : LaterSnd r' (s.commitDeltas.ckptKeys.foldl State.placeTree (some s.commitDeltas.tree.ents, s.commitDeltas)) :=
    laterSnd_foldl (fun r k h => State.placeTree_later r k h) _ hc
  unfold State.startCheckpoint
  split
  · exact h'
  · dsimp only
    split
    · exact State.ensureOpen_later _ _ _ (State.ensureOpen_later _ _ _ hc)
    · refine State.issueAll_later _ (State.setFlag_later _ _ _ ?_)
      simp only [State.later_mk]
      exact hr

theorem State.finishCheckpoint_later {r' : State} (s : State) (h' : r'.Later s) :
    r'.Later (State.finishCheckpoint s) := by
  delta State.finishCheckpoint
  repeat' first
    | with_reducible assumption
    | (extract_lets +onlyGivenNames t; refine via (?_ : State.Later r' t) (fun ht => ?_); subst t; rotate_left; clear_value t)
    | (extract_lets +onlyGivenNames t; have hf : State → State := t; clear hf; subst t; dsimp -zeta only)
    | (extract_lets +onlyGivenNames t; clear_value t)
    | with_reducible (first | apply State.bump_later | apply State.commitRoot_later | apply State.retireDeltas_later | apply State.setFlag_later | apply State.writeDeltaAnchor_later)
    | simp -zeta only [State.later_mk]
    | with_reducible refine State.later_ite (fun _ => ?_) (fun _ => ?_)
    | split
    | (intro _ _; try dsimp -zeta only)

theorem State.dropCheckpoint_later {r' : State} (s : State) (h' : r'.Later s) :
    r'.Later (State.dropCheckpoint s) := by
  delta State.dropCheckpoint
  repeat' first
    | with_reducible assumption
    | (extract_lets +onlyGivenNames t; refine via (?_ : State.Later r' t) (fun ht => ?_); subst t; rotate_left; clear_value t)
    | (extract_lets +onlyGivenNames t; clear_value t)
    | with_reducible apply State.setFlag_later
    | simp -zeta only [State.later_mk]
    | with_reducible refine State.later_ite (fun _ => ?_) (fun _ => ?_)
    | split

theorem State.placeTable_later {r' : State} (s : State) (slot page : Nat) (bs : List Byte) (h' : r'.Later s) :
    r'.Later (State.placeTable s slot page bs) := by
  delta State.placeTable
  repeat' first
    | with_reducible assumption
    | (extract_lets +onlyGivenNames t; refine via (?_ : State.Later r' t) (fun ht => ?_); subst t; rotate_left; clear_value t)
    | (extract_lets +onlyGivenNames t; refine via (?_ : LaterSnd r' t) (fun ht => ?_); subst t; rotate_left; clear_value t)
    | (extract_lets +onlyGivenNames t; have hf : State → State := t; clear hf; subst t; dsimp -zeta only)
    | (extract_lets +onlyGivenNames t; clear_value t)
    | with_reducible (first | apply State.issueAll_later | apply State.placePage_later)
    | simp -zeta only [State.later_mk]
    | with_reducible refine State.later_ite (fun _ => ?_) (fun _ => ?_)
    | split
    | with_reducible apply laterSnd_mk
    | with_reducible refine State.later_of_snd ?_
    | with_reducible refine LaterSnd.here ?_ (by assumption)
    | (intro _ _; try dsimp -zeta only)

theorem State.finishTable_later {r' : State} (s : State) (e : Nat × Nat × Nat) (h' : r'.Later s) :
    r'.Later (State.finishTable s e) := by
  delta State.finishTable
  repeat' first
    | with_reducible assumption
    | (extract_lets +onlyGivenNames t; refine via (?_ : State.Later r' t) (fun ht => ?_); subst t; rotate_left; clear_value t)
    | (extract_lets +onlyGivenNames t; have hf : State → State := t; clear hf; subst t; dsimp -zeta only)
    | (extract_lets +onlyGivenNames t; clear_value t)
    | with_reducible (first | apply State.mramFence_later | apply State.rewriteSlr_later | apply State.writeTwo_later)
    | simp -zeta only [State.later_mk]
    | with_reducible refine State.later_ite (fun _ => ?_) (fun _ => ?_)
    | split
    | (intro _ _; try dsimp -zeta only)

theorem State.driveTable_later {r' : State} (s : State) (h' : r'.Later s) :
    r'.Later (State.driveTable s) := by
  delta State.driveTable
  repeat' first
    | with_reducible assumption
    | (extract_lets +onlyGivenNames t; refine via (?_ : State.Later r' t) (fun ht => ?_); subst t; rotate_left; clear_value t)
    | (extract_lets +onlyGivenNames t; refine via (?_ : LaterSnd r' t) (fun ht => ?_); subst t; rotate_left; clear_value t)
    | (extract_lets +onlyGivenNames t; refine via (?_ : LaterFst r' t) (fun ht => ?_); subst t; rotate_left; clear_value t)
    | (extract_lets +onlyGivenNames t; clear_value t)
    | with_reducible (first | apply State.placeTable_later | apply State.setEntryK_later)
    | with_reducible refine State.later_foldl (fun _ _ _ => ?_) _ ?_
    | with_reducible refine laterSnd_foldl (fun _ _ _ => ?_) _ ?_
    | with_reducible refine laterFst_foldl (fun _ _ _ => ?_) _ ?_
    | simp -zeta only [State.later_mk]
    | with_reducible refine State.later_ite (fun _ => ?_) (fun _ => ?_)
    | split
    | with_reducible apply laterSnd_mk
    | with_reducible apply laterFst_mk
    | with_reducible refine State.later_of_snd ?_
    | with_reducible refine LaterSnd.here ?_ (by assumption)
    | with_reducible refine State.later_of_fst ?_
    | with_reducible refine LaterFst.here ?_ (by assumption)
    | (intro _ _; try dsimp -zeta only)

theorem State.undoInternal_later {r' : State} (s : State) (p : Nat → Nat → Bool) (h' : r'.Later s) :
    r'.Later (State.undoInternal s p) := by
  delta State.undoInternal
  repeat' first
    | with_reducible assumption
    | (extract_lets +onlyGivenNames t; refine via (?_ : State.Later r' t) (fun ht => ?_); subst t; rotate_left; clear_value t)
    | (extract_lets +onlyGivenNames t; have hf : State → State := t; clear hf; subst t; dsimp -zeta only)
    | (extract_lets +onlyGivenNames t; clear_value t)
    | with_reducible apply State.dropCheckpoint_later
    | simp -zeta only [State.later_mk]
    | with_reducible refine State.later_ite (fun _ => ?_) (fun _ => ?_)
    | split
    | (intro _ _; try dsimp -zeta only)

theorem State.moveInternal_later {r' : State} (s : State) (p : Nat → Nat → Bool) (h' : r'.Later s) :
    r'.Later (State.moveInternal s p) := by
  delta State.moveInternal
  repeat' first
    | with_reducible assumption
    | (extract_lets +onlyGivenNames t; refine via (?_ : State.Later r' t) (fun ht => ?_); subst t; rotate_left; clear_value t)
    | (extract_lets +onlyGivenNames t; refine via (?_ : LaterSnd r' t) (fun ht => ?_); subst t; rotate_left; clear_value t)
    | (extract_lets +onlyGivenNames t; refine via (?_ : LaterFst r' t) (fun ht => ?_); subst t; rotate_left; clear_value t)
    | (extract_lets +onlyGivenNames t; have hf : State → State := t; clear hf; subst t; dsimp -zeta only)
    | (extract_lets +onlyGivenNames t; clear_value t)
    | with_reducible (first | apply State.placeTable_later | apply State.startCheckpoint_later | apply State.startWriteback_later)
    | with_reducible refine State.later_foldl (fun _ _ _ => ?_) _ ?_
    | with_reducible refine laterSnd_foldl (fun _ _ _ => ?_) _ ?_
    | with_reducible refine laterFst_foldl (fun _ _ _ => ?_) _ ?_
    | simp -zeta only [State.later_mk]
    | with_reducible refine State.later_ite (fun _ => ?_) (fun _ => ?_)
    | split
    | with_reducible apply laterSnd_mk
    | with_reducible apply laterFst_mk
    | with_reducible refine State.later_of_snd ?_
    | with_reducible refine LaterSnd.here ?_ (by assumption)
    | with_reducible refine State.later_of_fst ?_
    | with_reducible refine LaterFst.here ?_ (by assumption)
    | (intro _ _; try dsimp -zeta only)

end Sys2Proof.Machine
end

