-- ==== Sys2Proof/Laws/ReadPathLaws.lean ====
section
/-! SUPPORT. What the operations of Machine/ReadPath.lean never do: each gives a state after its own (State.Later). -/

namespace Sys2Proof.Machine

open Sys2Proof.Crypto

theorem State.checkMedia_later {r' : State} (s : State) (inst addr g : Nat) (u : FlashUnit) (h' : r'.Later s) :
    LaterSnd r' (State.checkMedia s inst addr g u) := by
  delta State.checkMedia
  repeat' first
    | with_reducible assumption
    | (extract_lets +onlyGivenNames t; refine via (?_ : State.Later r' t) (fun ht => ?_); subst t; rotate_left; clear_value t)
    | (extract_lets +onlyGivenNames t; clear_value t)
    | with_reducible apply State.injUsed_later
    | simp -zeta only [State.later_mk]
    | with_reducible refine State.later_ite (fun _ => ?_) (fun _ => ?_)
    | split
    | with_reducible apply laterSnd_mk

theorem State.checkedRead_later {r' : State} (s : State) (inst addr g corrected : Nat) (u : FlashUnit) (h' : r'.Later s) :
    LaterSnd r' (State.checkedRead s inst addr g corrected u) := by
  delta State.checkedRead
  repeat' first
    | with_reducible assumption
    | (extract_lets +onlyGivenNames t; refine via (?_ : State.Later r' t) (fun ht => ?_); subst t; rotate_left; clear_value t)
    | (extract_lets +onlyGivenNames t; refine via (?_ : LaterSnd r' t) (fun ht => ?_); subst t; rotate_left; clear_value t)
    | (extract_lets +onlyGivenNames t; clear_value t)
    | with_reducible (first | apply State.checkMedia_later | apply State.noteCheck_later)
    | simp -zeta only [State.later_mk]
    | with_reducible refine State.later_ite (fun _ => ?_) (fun _ => ?_)
    | split
    | with_reducible apply laterSnd_mk
    | with_reducible refine State.later_of_snd ?_
    | with_reducible refine LaterSnd.here ?_ (by assumption)

theorem State.unrecovered_later {r' : State} (s : State) (inst addr g e : Nat) (m : MediaRead) (h' : r'.Later s) :
    LaterSnd r' (State.unrecovered s inst addr g e m) := by
  unfold State.unrecovered
  dsimp only
  split
  · exact laterSnd_mk h'
  · split
    · exact State.rebuildAt_later _ _ _ _ (State.checkedRead_later _ _ _ _ _ _ h')
    · refine laterSnd_mk ?_
      split
      · exact State.rebuildAt_later _ _ _ _ h'
      · exact State.bump_later _ _ h'

theorem State.flashRead_later {r' : State} (s : State) (inst addr g e : Nat) (m : MediaRead) (h' : r'.Later s) :
    LaterSnd r' (State.flashRead s inst addr g e m) := by
  delta State.flashRead
  repeat' first
    | with_reducible assumption
    | (extract_lets +onlyGivenNames t; refine via (?_ : State.Later r' t) (fun ht => ?_); subst t; rotate_left; clear_value t)
    | (extract_lets +onlyGivenNames t; refine via (?_ : LaterSnd r' t) (fun ht => ?_); subst t; rotate_left; clear_value t)
    | (extract_lets +onlyGivenNames t; have hf : State → State := t; clear hf; subst t; dsimp -zeta only)
    | (extract_lets +onlyGivenNames t; clear_value t)
    | with_reducible (first | apply State.bump_later | apply State.checkMedia_later | apply State.checkedRead_later | apply State.countRead_later | apply State.noteCb_later | apply State.noteCheck_later | apply State.noteLadder_later | apply State.unrecovered_later)
    | simp -zeta only [State.later_mk]
    | with_reducible refine State.later_ite (fun _ => ?_) (fun _ => ?_)
    | split
    | with_reducible apply laterSnd_mk
    | with_reducible refine State.later_of_snd ?_
    | with_reducible refine LaterSnd.here ?_ (by assumption)
    | (intro _ _; try dsimp -zeta only)

theorem State.readUnit_later {r' : State} (s : State) (inst addr : Nat) (m : MediaRead) (h' : r'.Later s) :
    LaterSnd r' (State.readUnit s inst addr m) := by
  delta State.readUnit
  repeat' first
    | with_reducible assumption
    | (extract_lets +onlyGivenNames t; refine via (?_ : State.Later r' t) (fun ht => ?_); subst t; rotate_left; clear_value t)
    | (extract_lets +onlyGivenNames t; refine via (?_ : LaterSnd r' t) (fun ht => ?_); subst t; rotate_left; clear_value t)
    | (extract_lets +onlyGivenNames t; clear_value t)
    | with_reducible (first | apply State.flashRead_later | apply State.noteRecord_later | apply State.touchMap_later | apply State.touchTree_later)
    | simp -zeta only [State.later_mk]
    | with_reducible refine State.later_ite (fun _ => ?_) (fun _ => ?_)
    | split
    | with_reducible apply laterSnd_mk
    | with_reducible refine State.later_of_snd ?_
    | with_reducible refine LaterSnd.here ?_ (by assumption)

theorem State.readUnits_later {r' : State} (inst n : Nat) : ∀ (s : State) (addr : Nat) (env : List MediaRead),
    r'.Later s → LaterFourth r' (s.readUnits inst addr n env) := by
  induction n with
  | zero => exact fun _ _ _ h => h
  | succ n ih =>
    intro s addr env h
    have hr : LaterSnd r' (s.readUnit inst addr (env.headD {})) := State.readUnit_later _ _ _ _ h
    unfold State.readUnits
    dsimp only
    split
    · exact ih _ _ _ hr
    · exact hr

theorem State.verifyRange_later {r' : State} (inst addr n : Nat) :
    ∀ (s : State) (off : Nat) (chain : List Word) (env : List MediaRead),
    r'.Later s → LaterThird r' (s.verifyRange inst addr off chain n env) := by
  induction n with
  | zero => exact fun _ _ _ _ h => h
  | succ n ih =>
    intro s off chain env h
    have hr : LaterSnd r' (s.readUnit inst (addr + off) (env.headD {})) := State.readUnit_later _ _ _ _ h
    unfold State.verifyRange
    dsimp only
    split
    · exact ih _ _ _ _ hr
    · exact hr

end Sys2Proof.Machine
end

