-- ==== Sys2Proof/Laws/MediaCmdsLaws.lean ====
section
/-! SUPPORT. What the operations of Machine/MediaCmds.lean never do: each gives a state after its own (State.Later). -/

namespace Sys2Proof.Machine

open Sys2Proof.Crypto

theorem execRecordPlacement_later (seq loc : Nat) (s : State) :
    Goes s (execRecordPlacement seq loc s) := by
  delta execRecordPlacement
  repeat' first
    | with_reducible assumption
    | with_reducible exact State.Later.refl _
    | (extract_lets +onlyGivenNames t; refine via (?_ : State.Later s t) (fun ht => ?_); subst t; rotate_left; clear_value t)
    | (extract_lets +onlyGivenNames t; clear_value t)
    | with_reducible apply goes_next
    | with_reducible (first | apply State.placeDiscard_later | apply State.placeWrite_later)
    | simp -zeta only [State.later_mk]
    | with_reducible refine goes_ite (fun _ => ?_) (fun _ => ?_)
    | with_reducible refine State.later_ite (fun _ => ?_) (fun _ => ?_)
    | split

theorem State.writeFormat_later {r' : State} (s : State) (extents p width : Nat) (luns : List Nat) (h' : r'.Later s) :
    r'.Later (State.writeFormat s extents p width luns) := by
  delta State.writeFormat
  repeat' first
    | with_reducible assumption
    | (extract_lets +onlyGivenNames t; refine via (?_ : State.Later r' t) (fun ht => ?_); subst t; rotate_left; clear_value t)
    | (extract_lets +onlyGivenNames t; clear_value t)
    | with_reducible apply State.writeTwo_later
    | simp -zeta only [State.later_mk]
    | with_reducible refine State.later_ite (fun _ => ?_) (fun _ => ?_)
    | split

theorem State.finishRetire_later {r' : State} (s : State) (h' : r'.Later s) :
    r'.Later (State.finishRetire s) := by
  delta State.finishRetire
  repeat' first
    | with_reducible assumption
    | (extract_lets +onlyGivenNames t; refine via (?_ : State.Later r' t) (fun ht => ?_); subst t; rotate_left; clear_value t)
    | (extract_lets +onlyGivenNames t; have hf : State → State := t; clear hf; subst t; dsimp -zeta only)
    | (extract_lets +onlyGivenNames t; clear_value t)
    | with_reducible (first | apply State.bump_later | apply State.fireD_later | apply State.setFlag_later | apply State.writeFormat_later)
    | simp -zeta only [State.later_mk]
    | with_reducible refine State.later_ite (fun _ => ?_) (fun _ => ?_)
    | split
    | (intro _ _; try dsimp -zeta only)

theorem State.checkDieLimit_later {r' : State} (s : State) (l : Nat) (h' : r'.Later s) :
    r'.Later (State.checkDieLimit s l) := by
  delta State.checkDieLimit
  repeat' first
    | with_reducible assumption
    | (extract_lets +onlyGivenNames t; refine via (?_ : State.Later r' t) (fun ht => ?_); subst t; rotate_left; clear_value t)
    | (extract_lets +onlyGivenNames t; have hf : State → State := t; clear hf; subst t; dsimp -zeta only)
    | (extract_lets +onlyGivenNames t; clear_value t)
    | with_reducible apply State.setFlag_later
    | simp -zeta only [State.later_mk]
    | with_reducible refine State.later_ite (fun _ => ?_) (fun _ => ?_)
    | split
    | (intro _ _; try dsimp -zeta only)

theorem State.driveRetire_later {r' : State} (s : State) (h' : r'.Later s) :
    r'.Later (State.driveRetire s) := by
  delta State.driveRetire
  repeat' first
    | with_reducible assumption
    | (extract_lets +onlyGivenNames t; refine via (?_ : State.Later r' t) (fun ht => ?_); subst t; rotate_left; clear_value t)
    | (extract_lets +onlyGivenNames t; refine via (?_ : LaterSnd r' t) (fun ht => ?_); subst t; rotate_left; clear_value t)
    | (extract_lets +onlyGivenNames t; refine via (?_ : LaterFst r' t) (fun ht => ?_); subst t; rotate_left; clear_value t)
    | (extract_lets +onlyGivenNames t; have hf : State → State := t; clear hf; subst t; dsimp -zeta only)
    | (extract_lets +onlyGivenNames t; clear_value t)
    | with_reducible (first | apply State.finishRetire_later | apply State.issueAll_later | apply State.moveInternal_later | apply State.moveUnit_later)
    | with_reducible refine State.later_foldl (fun _ _ _ => ?_) _ ?_
    | with_reducible refine laterSnd_foldl (fun _ _ _ => ?_) _ ?_
    | with_reducible refine laterFst_foldl (fun _ _ _ => ?_) _ ?_
    | simp -zeta only [State.later_mk]
    | with_reducible refine State.later_ite (fun _ => ?_) (fun _ => ?_)
    | split
    | with_reducible apply laterSnd_mk
    | with_reducible apply laterFst_mk
    | with_reducible refine State.later_of_snd ?_
    | with_reducible refine LaterSnd.here ?_ (by assumption)
    | with_reducible refine State.later_of_fst ?_
    | with_reducible refine LaterFst.here ?_ (by assumption)
    | (intro _ _; try dsimp -zeta only)

theorem execFlashOpComplete_later (lun : Nat) (ok : Bool) (s : State) :
    Goes s (execFlashOpComplete lun ok s) := by
  delta execFlashOpComplete
  repeat' first
    | with_reducible assumption
    | with_reducible exact State.Later.refl _
    | (extract_lets +onlyGivenNames t; refine via (?_ : State.Later s t) (fun ht => ?_); subst t; rotate_left; clear_value t)
    | (extract_lets +onlyGivenNames t; clear_value t)
    | with_reducible apply goes_next
    | with_reducible (first | apply State.checkDieLimit_later | apply State.driveRetire_later | apply State.lunDone_later | apply State.lunReady_later)
    | simp -zeta only [State.later_mk]
    | with_reducible refine goes_ite (fun _ => ?_) (fun _ => ?_)
    | with_reducible refine State.later_ite (fun _ => ?_) (fun _ => ?_)
    | split

theorem execRecordRelease_later (seq : Nat) (s : State) :
    Goes s (execRecordRelease seq s) := by
  delta execRecordRelease
  repeat' first
    | with_reducible assumption
    | with_reducible exact State.Later.refl _
    | (extract_lets +onlyGivenNames t; refine via (?_ : State.Later s t) (fun ht => ?_); subst t; rotate_left; clear_value t)
    | (extract_lets +onlyGivenNames t; clear_value t)
    | with_reducible apply goes_next
    | with_reducible apply State.releaseRec_later
    | simp -zeta only [State.later_mk]
    | with_reducible refine goes_ite (fun _ => ?_) (fun _ => ?_)
    | with_reducible refine State.later_ite (fun _ => ?_) (fun _ => ?_)
    | split

theorem execAnchorRewrite_later (s : State) :
    Goes s (execAnchorRewrite s) := by
  delta execAnchorRewrite
  repeat' first
    | with_reducible assumption
    | with_reducible exact State.Later.refl _
    | (extract_lets +onlyGivenNames t; refine via (?_ : State.Later s t) (fun ht => ?_); subst t; rotate_left; clear_value t)
    | (extract_lets +onlyGivenNames t; clear_value t)
    | with_reducible apply goes_next
    | with_reducible apply State.writeAnchor_later
    | simp -zeta only [State.later_mk]
    | with_reducible refine goes_ite (fun _ => ?_) (fun _ => ?_)
    | with_reducible refine State.later_ite (fun _ => ?_) (fun _ => ?_)
    | split

theorem execDeltaLineWrite_later (s : State) :
    Goes s (execDeltaLineWrite s) := by
  delta execDeltaLineWrite
  repeat' first
    | with_reducible assumption
    | with_reducible exact State.Later.refl _
    | (extract_lets +onlyGivenNames t; refine via (?_ : State.Later s t) (fun ht => ?_); subst t; rotate_left; clear_value t)
    | (extract_lets +onlyGivenNames t; clear_value t)
    | with_reducible apply goes_next
    | with_reducible apply State.writeDeltaLine_later
    | simp -zeta only [State.later_mk]
    | with_reducible refine goes_ite (fun _ => ?_) (fun _ => ?_)
    | with_reducible refine State.later_ite (fun _ => ?_) (fun _ => ?_)
    | split

theorem execMapWriteback_later (page : Nat) (s : State) :
    Goes s (execMapWriteback page s) := by
  delta execMapWriteback
  repeat' first
    | with_reducible assumption
    | with_reducible exact State.Later.refl _
    | (extract_lets +onlyGivenNames t; refine via (?_ : State.Later s t) (fun ht => ?_); subst t; rotate_left; clear_value t)
    | (extract_lets +onlyGivenNames t; clear_value t)
    | with_reducible apply goes_next
    | with_reducible apply State.startWriteback_later
    | simp -zeta only [State.later_mk]
    | with_reducible refine goes_ite (fun _ => ?_) (fun _ => ?_)
    | with_reducible refine State.later_ite (fun _ => ?_) (fun _ => ?_)
    | split

theorem execCheckpoint_later (s : State) :
    Goes s (execCheckpoint s) := by
  delta execCheckpoint
  repeat' first
    | with_reducible assumption
    | with_reducible exact State.Later.refl _
    | (extract_lets +onlyGivenNames t; refine via (?_ : State.Later s t) (fun ht => ?_); subst t; rotate_left; clear_value t)
    | (extract_lets +onlyGivenNames t; clear_value t)
    | with_reducible apply goes_next
    | with_reducible apply State.startCheckpoint_later
    | simp -zeta only [State.later_mk]
    | with_reducible refine goes_ite (fun _ => ?_) (fun _ => ?_)
    | with_reducible refine State.later_ite (fun _ => ?_) (fun _ => ?_)
    | split

theorem State.padHalf_later {r' : State} (s : State) (h : Nat) (h' : r'.Later s) :
    r'.Later (State.padHalf s h) := by
  delta State.padHalf
  repeat' first
    | with_reducible assumption
    | (extract_lets +onlyGivenNames t; refine via (?_ : State.Later r' t) (fun ht => ?_); subst t; rotate_left; clear_value t)
    | (extract_lets +onlyGivenNames t; refine via (?_ : LaterSnd r' t) (fun ht => ?_); subst t; rotate_left; clear_value t)
    | (extract_lets +onlyGivenNames t; refine via (?_ : LaterFst r' t) (fun ht => ?_); subst t; rotate_left; clear_value t)
    | (extract_lets +onlyGivenNames t; clear_value t)
    | with_reducible (first | apply State.issueAll_later | apply State.padMember_later)
    | with_reducible refine State.later_foldl (fun _ _ _ => ?_) _ ?_
    | with_reducible refine laterSnd_foldl (fun _ _ _ => ?_) _ ?_
    | with_reducible refine laterFst_foldl (fun _ _ _ => ?_) _ ?_
    | simp -zeta only [State.later_mk]
    | with_reducible refine State.later_ite (fun _ => ?_) (fun _ => ?_)
    | split
    | with_reducible apply laterSnd_mk
    | with_reducible apply laterFst_mk
    | with_reducible refine State.later_of_snd ?_
    | with_reducible refine LaterSnd.here ?_ (by assumption)
    | with_reducible refine State.later_of_fst ?_
    | with_reducible refine LaterFst.here ?_ (by assumption)
    | (intro _ _; try dsimp -zeta only)

theorem execPagePadTimer_later (half : Nat) (s : State) :
    Goes s (execPagePadTimer half s) := by
  delta execPagePadTimer
  repeat' first
    | with_reducible assumption
    | with_reducible exact State.Later.refl _
    | (extract_lets +onlyGivenNames t; refine via (?_ : State.Later s t) (fun ht => ?_); subst t; rotate_left; clear_value t)
    | (extract_lets +onlyGivenNames t; clear_value t)
    | with_reducible apply goes_next
    | with_reducible apply State.padHalf_later
    | simp -zeta only [State.later_mk]
    | with_reducible refine goes_ite (fun _ => ?_) (fun _ => ?_)
    | with_reducible refine State.later_ite (fun _ => ?_) (fun _ => ?_)
    | split

theorem execSuperblockVerify_later (k : Nat) (s : State) :
    Goes s (execSuperblockVerify k s) := by
  delta execSuperblockVerify
  repeat' first
    | with_reducible assumption
    | with_reducible exact State.Later.refl _
    | (extract_lets +onlyGivenNames t; refine via (?_ : State.Later s t) (fun ht => ?_); subst t; rotate_left; clear_value t)
    | (extract_lets +onlyGivenNames t; clear_value t)
    | with_reducible apply goes_next
    | with_reducible apply State.verifySb_later
    | simp -zeta only [State.later_mk]
    | with_reducible refine goes_ite (fun _ => ?_) (fun _ => ?_)
    | with_reducible refine State.later_ite (fun _ => ?_) (fun _ => ?_)
    | split

theorem execWearMove_later (s : State) :
    Goes s (execWearMove s) := by
  delta execWearMove
  repeat' first
    | with_reducible assumption
    | with_reducible exact State.Later.refl _
    | (extract_lets +onlyGivenNames t; refine via (?_ : State.Later s t) (fun ht => ?_); subst t; rotate_left; clear_value t)
    | (extract_lets +onlyGivenNames t; have hf : State → State := t; clear hf; subst t; dsimp -zeta only)
    | (extract_lets +onlyGivenNames t; clear_value t)
    | with_reducible apply goes_next
    | with_reducible (first | apply State.evacuate_later | apply State.fireD_later)
    | simp -zeta only [State.later_mk]
    | with_reducible refine goes_ite (fun _ => ?_) (fun _ => ?_)
    | with_reducible refine State.later_ite (fun _ => ?_) (fun _ => ?_)
    | split
    | (intro _ _; try dsimp -zeta only)

theorem execMedReclaim_later (half : Nat) (s : State) :
    Goes s (execMedReclaim half s) := by
  delta execMedReclaim
  repeat' first
    | with_reducible assumption
    | with_reducible exact State.Later.refl _
    | (extract_lets +onlyGivenNames t; refine via (?_ : State.Later s t) (fun ht => ?_); subst t; rotate_left; clear_value t)
    | (extract_lets +onlyGivenNames t; have hf : State → State := t; clear hf; subst t; dsimp -zeta only)
    | (extract_lets +onlyGivenNames t; clear_value t)
    | with_reducible apply goes_next
    | with_reducible (first | apply State.evacuate_later | apply State.fire_later)
    | simp -zeta only [State.later_mk]
    | with_reducible refine goes_ite (fun _ => ?_) (fun _ => ?_)
    | with_reducible refine State.later_ite (fun _ => ?_) (fun _ => ?_)
    | split
    | (intro _ _; try dsimp -zeta only)

theorem execReadRefresh_later (k : Nat) (s : State) :
    Goes s (execReadRefresh k s) := by
  delta execReadRefresh
  repeat' first
    | with_reducible assumption
    | with_reducible exact State.Later.refl _
    | (extract_lets +onlyGivenNames t; refine via (?_ : State.Later s t) (fun ht => ?_); subst t; rotate_left; clear_value t)
    | (extract_lets +onlyGivenNames t; clear_value t)
    | with_reducible apply goes_next
    | with_reducible (first | apply State.closeSb_later | apply State.evacuate_later | apply State.fireD_later)
    | simp -zeta only [State.later_mk]
    | with_reducible refine goes_ite (fun _ => ?_) (fun _ => ?_)
    | with_reducible refine State.later_ite (fun _ => ?_) (fun _ => ?_)
    | split

theorem State.startScan_later {r' : State} (s : State) (h' : r'.Later s) :
    r'.Later (State.startScan s) := by
  delta State.startScan
  repeat' first
    | with_reducible assumption
    | (extract_lets +onlyGivenNames t; refine via (?_ : State.Later r' t) (fun ht => ?_); subst t; rotate_left; clear_value t)
    | (extract_lets +onlyGivenNames t; clear_value t)
    | with_reducible apply State.fire_later
    | simp -zeta only [State.later_mk]
    | with_reducible refine State.later_ite (fun _ => ?_) (fun _ => ?_)
    | split

theorem State.scanPage_later {r' : State} (k : Nat) (s : State) (x : (Nat × Nat) × MediaRead) (h' : r'.Later s) :
    r'.Later (State.scanPage k s x) := by
  delta State.scanPage
  repeat' first
    | with_reducible assumption
    | (extract_lets +onlyGivenNames t; refine via (?_ : State.Later r' t) (fun ht => ?_); subst t; rotate_left; clear_value t)
    | (extract_lets +onlyGivenNames t; have hf : State → State := t; clear hf; subst t; dsimp -zeta only)
    | (extract_lets +onlyGivenNames t; clear_value t)
    | with_reducible (first | apply State.bump_later | apply State.countReads_later | apply State.noteCb_later | apply State.noteLadder_later)
    | simp -zeta only [State.later_mk]
    | with_reducible refine State.later_ite (fun _ => ?_) (fun _ => ?_)
    | split
    | (intro _ _; try dsimp -zeta only)

theorem State.scanSb_later {r' : State} (s : State) (k : Nat) (reads : List MediaRead) (h' : r'.Later s) :
    r'.Later (State.scanSb s k reads) := by
  delta State.scanSb
  repeat' first
    | with_reducible assumption
    | (extract_lets +onlyGivenNames t; refine via (?_ : State.Later r' t) (fun ht => ?_); subst t; rotate_left; clear_value t)
    | (extract_lets +onlyGivenNames t; refine via (?_ : LaterSnd r' t) (fun ht => ?_); subst t; rotate_left; clear_value t)
    | (extract_lets +onlyGivenNames t; refine via (?_ : LaterFst r' t) (fun ht => ?_); subst t; rotate_left; clear_value t)
    | (extract_lets +onlyGivenNames t; have hf : State → State := t; clear hf; subst t; dsimp -zeta only)
    | (extract_lets +onlyGivenNames t; clear_value t)
    | with_reducible (first | apply State.scanPage_later | apply State.setEntryK_later)
    | with_reducible refine State.later_foldl (fun _ _ _ => ?_) _ ?_
    | with_reducible refine laterSnd_foldl (fun _ _ _ => ?_) _ ?_
    | with_reducible refine laterFst_foldl (fun _ _ _ => ?_) _ ?_
    | simp -zeta only [State.later_mk]
    | with_reducible refine State.later_ite (fun _ => ?_) (fun _ => ?_)
    | split
    | with_reducible apply laterSnd_mk
    | with_reducible apply laterFst_mk
    | with_reducible refine State.later_of_snd ?_
    | with_reducible refine LaterSnd.here ?_ (by assumption)
    | with_reducible refine State.later_of_fst ?_
    | with_reducible refine LaterFst.here ?_ (by assumption)
    | (intro _ _; try dsimp -zeta only)

theorem State.writeScan_later {r' : State} (s : State) (h' : r'.Later s) :
    r'.Later (State.writeScan s) := by
  delta State.writeScan
  repeat' first
    | with_reducible assumption
    | (extract_lets +onlyGivenNames t; refine via (?_ : State.Later r' t) (fun ht => ?_); subst t; rotate_left; clear_value t)
    | (extract_lets +onlyGivenNames t; clear_value t)
    | with_reducible apply State.writeTwo_later
    | simp -zeta only [State.later_mk]
    | with_reducible refine State.later_ite (fun _ => ?_) (fun _ => ?_)
    | split

theorem execRetentionScan_later (reads : List MediaRead) (s : State) :
    Goes s (execRetentionScan reads s) := by
  delta execRetentionScan
  repeat' first
    | with_reducible assumption
    | with_reducible exact State.Later.refl _
    | (extract_lets +onlyGivenNames t; refine via (?_ : State.Later s t) (fun ht => ?_); subst t; rotate_left; clear_value t)
    | (extract_lets +onlyGivenNames t; have hf : State → State := t; clear hf; subst t; dsimp -zeta only)
    | (extract_lets +onlyGivenNames t; clear_value t)
    | with_reducible apply goes_next
    | with_reducible (first | apply State.fire_later | apply State.scanSb_later | apply State.writeScan_later)
    | simp -zeta only [State.later_mk]
    | with_reducible refine goes_ite (fun _ => ?_) (fun _ => ?_)
    | with_reducible refine State.later_ite (fun _ => ?_) (fun _ => ?_)
    | split
    | (intro _ _; try dsimp -zeta only)

theorem execReadCountFlush_later (s : State) :
    Goes s (execReadCountFlush s) := by
  delta execReadCountFlush
  repeat' first
    | with_reducible assumption
    | with_reducible exact State.Later.refl _
    | (extract_lets +onlyGivenNames t; refine via (?_ : State.Later s t) (fun ht => ?_); subst t; rotate_left; clear_value t)
    | (extract_lets +onlyGivenNames t; clear_value t)
    | with_reducible apply goes_next
    | with_reducible apply State.flushReads_later
    | simp -zeta only [State.later_mk]
    | with_reducible refine goes_ite (fun _ => ?_) (fun _ => ?_)
    | with_reducible refine State.later_ite (fun _ => ?_) (fun _ => ?_)
    | split

theorem execDieTimeout_later (lun : Nat) (ready busHeld : Bool) (read : Nat × Nat) (s : State) :
    Goes s (execDieTimeout lun ready busHeld read s) := by
  delta execDieTimeout
  repeat' first
    | with_reducible assumption
    | with_reducible exact State.Later.refl _
    | (extract_lets +onlyGivenNames t; refine via (?_ : State.Later s t) (fun ht => ?_); subst t; rotate_left; clear_value t)
    | (extract_lets +onlyGivenNames t; have hf : State → State := t; clear hf; subst t; dsimp -zeta only)
    | (extract_lets +onlyGivenNames t; clear_value t)
    | with_reducible apply goes_next
    | with_reducible (first | apply State.abortCe_later | apply State.bump_later | apply State.fault_later | apply State.fireD_later | apply State.issueAll_later | apply State.lunsLost_later | apply State.setFlag_later | apply State.setFld_later | apply State.voidWordline_later)
    | simp -zeta only [State.later_mk]
    | with_reducible refine goes_ite (fun _ => ?_) (fun _ => ?_)
    | with_reducible refine State.later_ite (fun _ => ?_) (fun _ => ?_)
    | split
    | (intro _ _; try dsimp -zeta only)

theorem State.scrubWord_later {r' : State} (s : State) (a : Nat) (h' : r'.Later s) : r'.Later (s.scrubWord a) := by
  delta State.scrubWord
  generalize twoSlots.find? (fun t => a / 64 == t.1 / 64 || a / 64 == t.2 / 64) = o
  refine State.later_ite (fun _ => State.writeLog_later _ _ _ _ h') (fun _ =>
    State.later_ite (fun _ => State.writeRanked_later _ _ _ _ h') (fun _ => State.later_ite (fun _ => ?_)
      (fun _ => State.later_ite (fun _ => ?_) (fun _ => ?_))))
  · dsimp only
    split
    · split
      · exact State.commitPair_later _ _ _ h'
      · exact h'
    · exact h'
  · split
    · exact State.later_ite (fun _ => State.writeBad_later _ h') (fun _ => h')
    · exact h'
  · match o with
    | none => exact h'
    | some (x, y) =>
      dsimp only
      split
      · split
        · exact State.writeTwoM_later _ _ _ _ _ h'
        · exact h'
      · exact h'

theorem State.scrubOne_later {r' : State} (s : State) (a : Nat) (h' : r'.Later s) :
    r'.Later (State.scrubOne s a) := by
  delta State.scrubOne
  repeat' first
    | with_reducible assumption
    | (extract_lets +onlyGivenNames t; refine via (?_ : State.Later r' t) (fun ht => ?_); subst t; rotate_left; clear_value t)
    | (extract_lets +onlyGivenNames t; clear_value t)
    | with_reducible (first | apply State.noteCorrected_later | apply State.noteUncorr_later | apply State.retireLine_later | apply State.scrubWord_later)
    | simp -zeta only [State.later_mk]
    | with_reducible refine State.later_ite (fun _ => ?_) (fun _ => ?_)
    | split

theorem State.medCtrl_later {r' : State} (s : State) (w : Nat) (h' : r'.Later s) :
    r'.Later (State.medCtrl s w) := by
  delta State.medCtrl
  repeat' first
    | with_reducible assumption
    | (extract_lets +onlyGivenNames t; refine via (?_ : State.Later r' t) (fun ht => ?_); subst t; rotate_left; clear_value t)
    | (extract_lets +onlyGivenNames t; clear_value t)
    | with_reducible (first | apply State.driveRetire_later | apply State.setFlag_later | apply State.startScan_later)
    | simp -zeta only [State.later_mk]
    | with_reducible refine State.later_ite (fun _ => ?_) (fun _ => ?_)
    | split

theorem State.treCtrl_later {r' : State} (s : State) (w : Nat) (h' : r'.Later s) :
    r'.Later (State.treCtrl s w) := by
  delta State.treCtrl
  repeat' first
    | with_reducible assumption
    | (extract_lets +onlyGivenNames t; refine via (?_ : State.Later r' t) (fun ht => ?_); subst t; rotate_left; clear_value t)
    | (extract_lets +onlyGivenNames t; clear_value t)
    | with_reducible apply State.startCheckpoint_later
    | simp -zeta only [State.later_mk]
    | with_reducible refine State.later_ite (fun _ => ?_) (fun _ => ?_)
    | split

end Sys2Proof.Machine
end

