-- ==== Sys2Proof/Laws/DockSendLaws.lean ====
section
/-! SUPPORT. What the operations of Machine/DockSend.lean never do: each gives a state after its own (State.Later). -/

namespace Sys2Proof.Machine

open Sys2Proof.Crypto

theorem State.setLink_later {r' : State} (s : State) (p l : Nat) (h' : r'.Later s) :
    r'.Later (State.setLink s p l) := by
  delta State.setLink
  repeat' first
    | with_reducible assumption
    | (extract_lets +onlyGivenNames t; refine via (?_ : State.Later r' t) (fun ht => ?_); subst t; rotate_left; clear_value t)
    | (extract_lets +onlyGivenNames t; clear_value t)
    | with_reducible apply State.setFld_later
    | simp -zeta only [State.later_mk]
    | with_reducible refine State.later_ite (fun _ => ?_) (fun _ => ?_)
    | split

theorem State.pushD_later {r' : State} (s : State) (p : Nat) (c : DCmd) (h' : r'.Later s) :
    r'.Later (State.pushD s p c) := by
  delta State.pushD
  repeat' first
    | with_reducible assumption
    | (extract_lets +onlyGivenNames t; refine via (?_ : State.Later r' t) (fun ht => ?_); subst t; rotate_left; clear_value t)
    | (extract_lets +onlyGivenNames t; clear_value t)
    | with_reducible apply State.setSp_later
    | simp -zeta only [State.later_mk]
    | with_reducible refine State.later_ite (fun _ => ?_) (fun _ => ?_)
    | split

theorem State.pushAhead_later {r' : State} (s : State) (p : Nat) (c : DCmd) (h' : r'.Later s) :
    r'.Later (State.pushAhead s p c) := by
  delta State.pushAhead
  repeat' first
    | with_reducible assumption
    | (extract_lets +onlyGivenNames t; refine via (?_ : State.Later r' t) (fun ht => ?_); subst t; rotate_left; clear_value t)
    | (extract_lets +onlyGivenNames t; have hf : State → State := t; clear hf; subst t; dsimp -zeta only)
    | (extract_lets +onlyGivenNames t; clear_value t)
    | with_reducible apply State.setSp_later
    | simp -zeta only [State.later_mk]
    | with_reducible refine State.later_ite (fun _ => ?_) (fun _ => ?_)
    | split
    | (intro _ _; try dsimp -zeta only)

theorem State.dropD_later {r' : State} (s : State) (p id : Nat) (h' : r'.Later s) :
    r'.Later (State.dropD s p id) := by
  delta State.dropD
  repeat' first
    | with_reducible assumption
    | (extract_lets +onlyGivenNames t; refine via (?_ : State.Later r' t) (fun ht => ?_); subst t; rotate_left; clear_value t)
    | (extract_lets +onlyGivenNames t; have hf : State → State := t; clear hf; subst t; dsimp -zeta only)
    | (extract_lets +onlyGivenNames t; clear_value t)
    | with_reducible apply State.setSp_later
    | simp -zeta only [State.later_mk]
    | with_reducible refine State.later_ite (fun _ => ?_) (fun _ => ?_)
    | split
    | (intro _ _; try dsimp -zeta only)

theorem State.updD_later {r' : State} (s : State) (p id : Nat) (f : DCmd → DCmd) (h' : r'.Later s) :
    r'.Later (State.updD s p id f) := by
  delta State.updD
  repeat' first
    | with_reducible assumption
    | (extract_lets +onlyGivenNames t; refine via (?_ : State.Later r' t) (fun ht => ?_); subst t; rotate_left; clear_value t)
    | (extract_lets +onlyGivenNames t; have hf : State → State := t; clear hf; subst t; dsimp -zeta only)
    | (extract_lets +onlyGivenNames t; clear_value t)
    | with_reducible apply State.setSp_later
    | simp -zeta only [State.later_mk]
    | with_reducible refine State.later_ite (fun _ => ?_) (fun _ => ?_)
    | split
    | (intro _ _; try dsimp -zeta only)

theorem State.startClock_later {r' : State} (s : State) (p : Nat) (h' : r'.Later s) :
    r'.Later (State.startClock s p) := by
  delta State.startClock
  repeat' first
    | with_reducible assumption
    | (extract_lets +onlyGivenNames t; refine via (?_ : State.Later r' t) (fun ht => ?_); subst t; rotate_left; clear_value t)
    | (extract_lets +onlyGivenNames t; clear_value t)
    | with_reducible (first | apply State.emit_later | apply State.setFlag_later | apply State.setSp_later)
    | simp -zeta only [State.later_mk]
    | with_reducible refine State.later_ite (fun _ => ?_) (fun _ => ?_)
    | split

theorem State.countRot_later {r' : State} (s : State) (p : Nat) (d : DCmd) (h' : r'.Later s) :
    r'.Later (State.countRot s p d) := by
  delta State.countRot
  repeat' first
    | with_reducible assumption
    | (extract_lets +onlyGivenNames t; refine via (?_ : State.Later r' t) (fun ht => ?_); subst t; rotate_left; clear_value t)
    | (extract_lets +onlyGivenNames t; clear_value t)
    | with_reducible apply State.bump_later
    | simp -zeta only [State.later_mk]
    | with_reducible refine State.later_ite (fun _ => ?_) (fun _ => ?_)
    | split

theorem State.sendHostUnit_later {r' : State} (s : State) (p : Nat) (d : DCmd) (h' : r'.Later s) :
    r'.Later (State.sendHostUnit s p d) := by
  delta State.sendHostUnit
  repeat' first
    | with_reducible assumption
    | (extract_lets +onlyGivenNames t; refine via (?_ : State.Later r' t) (fun ht => ?_); subst t; rotate_left; clear_value t)
    | (extract_lets +onlyGivenNames t; clear_value t)
    | with_reducible (first | apply State.countRot_later | apply State.countUnit_later | apply State.emit_later)
    | simp -zeta only [State.later_mk]
    | with_reducible refine State.later_ite (fun _ => ?_) (fun _ => ?_)
    | split

theorem State.sendFrame_later {r' : State} (s : State) (p : Nat) (d : DCmd) (h' : r'.Later s) :
    r'.Later (State.sendFrame s p d) := by
  delta State.sendFrame
  repeat' first
    | with_reducible assumption
    | (extract_lets +onlyGivenNames t; refine via (?_ : State.Later r' t) (fun ht => ?_); subst t; rotate_left; clear_value t)
    | (extract_lets +onlyGivenNames t; clear_value t)
    | with_reducible (first | apply State.emit_later | apply State.sendHostUnit_later | apply State.startClock_later)
    | simp -zeta only [State.later_mk]
    | with_reducible refine State.later_ite (fun _ => ?_) (fun _ => ?_)
    | split

theorem State.sendNew_later {r' : State} (s : State) (p : Nat) (d : DCmd) (epoch : Nat) (h' : r'.Later s) :
    r'.Later (State.sendNew s p d epoch) := by
  delta State.sendNew
  repeat' first
    | with_reducible assumption
    | (extract_lets +onlyGivenNames t; refine via (?_ : State.Later r' t) (fun ht => ?_); subst t; rotate_left; clear_value t)
    | (extract_lets +onlyGivenNames t; have hf : State → State := t; clear hf; subst t; dsimp -zeta only)
    | (extract_lets +onlyGivenNames t; clear_value t)
    | with_reducible (first | apply State.sendFrame_later | apply State.setSp_later | apply State.updD_later)
    | simp -zeta only [State.later_mk]
    | with_reducible refine State.later_ite (fun _ => ?_) (fun _ => ?_)
    | split
    | (intro _ _; try dsimp -zeta only)

theorem State.driveList_later {r' : State} (p : Nat) (ds : List DCmd) :
    ∀ (s : State) (before : List DCmd), r'.Later s → r'.Later (s.driveList p before ds) := by
  induction ds with
  | nil => intro s before h; unfold State.driveList; exact h
  | cons d rest ih =>
    intro s before h
    unfold State.driveList
    split
    · exact ih _ _ h
    · split
      · exact ih _ _ (State.sendNew_later _ _ _ _ h)
      · exact ih _ _ h

theorem State.drive_later {r' : State} (s : State) (p : Nat) (h' : r'.Later s) :
    r'.Later (State.drive s p) := by
  delta State.drive
  repeat' first
    | with_reducible assumption
    | (extract_lets +onlyGivenNames t; refine via (?_ : State.Later r' t) (fun ht => ?_); subst t; rotate_left; clear_value t)
    | (extract_lets +onlyGivenNames t; clear_value t)
    | with_reducible apply State.driveList_later
    | simp -zeta only [State.later_mk]
    | with_reducible refine State.later_ite (fun _ => ?_) (fun _ => ?_)
    | split

theorem State.linkCmd_later {r' : State} (s : State) (p op arg : Nat) (h' : r'.Later s) :
    r'.Later (State.linkCmd s p op arg) := by
  delta State.linkCmd
  repeat' first
    | with_reducible assumption
    | (extract_lets +onlyGivenNames t; refine via (?_ : State.Later r' t) (fun ht => ?_); subst t; rotate_left; clear_value t)
    | (extract_lets +onlyGivenNames t; clear_value t)
    | with_reducible (first | apply State.drive_later | apply State.pushD_later)
    | simp -zeta only [State.later_mk]
    | with_reducible refine State.later_ite (fun _ => ?_) (fun _ => ?_)
    | split

theorem State.sendAgain_later {r' : State} (s : State) (p : Nat) (d : DCmd) (h' : r'.Later s) :
    r'.Later (State.sendAgain s p d) := by
  delta State.sendAgain
  repeat' first
    | with_reducible assumption
    | (extract_lets +onlyGivenNames t; refine via (?_ : State.Later r' t) (fun ht => ?_); subst t; rotate_left; clear_value t)
    | (extract_lets +onlyGivenNames t; have hf : State → State := t; clear hf; subst t; dsimp -zeta only)
    | (extract_lets +onlyGivenNames t; clear_value t)
    | with_reducible (first | apply State.dropD_later | apply State.pushAhead_later | apply State.sendFrame_later | apply State.updD_later)
    | simp -zeta only [State.later_mk]
    | with_reducible refine State.later_ite (fun _ => ?_) (fun _ => ?_)
    | split
    | (intro _ _; try dsimp -zeta only)

end Sys2Proof.Machine
end

