-- ==== Sys2Proof/Laws/DockPairLaws.lean ====
section
/-! SUPPORT. What the operations of Machine/DockPair.lean never do: each gives a state after its own (State.Later). -/

namespace Sys2Proof.Machine

open Sys2Proof.Crypto

theorem State.toLink_later {r' : State} (s : State) (p l : Nat) (h' : r'.Later s) :
    r'.Later (State.toLink s p l) := by
  delta State.toLink
  repeat' first
    | with_reducible assumption
    | (extract_lets +onlyGivenNames t; refine via (?_ : State.Later r' t) (fun ht => ?_); subst t; rotate_left; clear_value t)
    | (extract_lets +onlyGivenNames t; clear_value t)
    | with_reducible (first | apply State.evalAll_later | apply State.setLink_later)
    | simp -zeta only [State.later_mk]
    | with_reducible refine State.later_ite (fun _ => ?_) (fun _ => ?_)
    | split

theorem State.cnRequest_later {r' : State} (s : State) (p op : Nat) (payload : List Byte) (h' : r'.Later s) :
    r'.Later (State.cnRequest s p op payload) := by
  delta State.cnRequest
  repeat' first
    | with_reducible assumption
    | (extract_lets +onlyGivenNames t; refine via (?_ : State.Later r' t) (fun ht => ?_); subst t; rotate_left; clear_value t)
    | (extract_lets +onlyGivenNames t; clear_value t)
    | with_reducible (first | apply State.emit_later | apply State.setCn_later | apply State.setFld_later)
    | simp -zeta only [State.later_mk]
    | with_reducible refine State.later_ite (fun _ => ?_) (fun _ => ?_)
    | split

theorem State.cnRest_later {r' : State} (s : State) (p : Nat) (h' : r'.Later s) :
    r'.Later (State.cnRest s p) := by
  delta State.cnRest
  repeat' first
    | with_reducible assumption
    | (extract_lets +onlyGivenNames t; refine via (?_ : State.Later r' t) (fun ht => ?_); subst t; rotate_left; clear_value t)
    | (extract_lets +onlyGivenNames t; clear_value t)
    | with_reducible apply State.setCn_later
    | simp -zeta only [State.later_mk]
    | with_reducible refine State.later_ite (fun _ => ?_) (fun _ => ?_)
    | split

theorem State.frameError_later {r' : State} (s : State) (p op index : Nat) (h' : r'.Later s) :
    r'.Later (State.frameError s p op index) := by
  delta State.frameError
  repeat' first
    | with_reducible assumption
    | (extract_lets +onlyGivenNames t; refine via (?_ : State.Later r' t) (fun ht => ?_); subst t; rotate_left; clear_value t)
    | (extract_lets +onlyGivenNames t; clear_value t)
    | with_reducible (first | apply State.bump_later | apply State.fireD_later)
    | simp -zeta only [State.later_mk]
    | with_reducible refine State.later_ite (fun _ => ?_) (fun _ => ?_)
    | split

theorem State.charSignalled_later {r' : State} (s : State) (p n : Nat) (h' : r'.Later s) :
    r'.Later (State.charSignalled s p n) := by
  delta State.charSignalled
  repeat' first
    | with_reducible assumption
    | (extract_lets +onlyGivenNames t; refine via (?_ : State.Later r' t) (fun ht => ?_); subst t; rotate_left; clear_value t)
    | (extract_lets +onlyGivenNames t; clear_value t)
    | with_reducible (first | apply State.bumpBy_later | apply State.fire_later)
    | simp -zeta only [State.later_mk]
    | with_reducible refine State.later_ite (fun _ => ?_) (fun _ => ?_)
    | split

theorem State.cnChars_later {r' : State} (s : State) (p : Nat) (h' : r'.Later s) :
    LaterSnd r' (State.cnChars s p) := by
  delta State.cnChars
  repeat' first
    | with_reducible assumption
    | (extract_lets +onlyGivenNames t; refine via (?_ : State.Later r' t) (fun ht => ?_); subst t; rotate_left; clear_value t)
    | (extract_lets +onlyGivenNames t; clear_value t)
    | with_reducible (first | apply State.charSignalled_later | apply State.injUsed_later)
    | simp -zeta only [State.later_mk]
    | with_reducible refine State.later_ite (fun _ => ?_) (fun _ => ?_)
    | split
    | with_reducible apply laterSnd_mk

theorem State.cnReceive_later {r' : State} (s : State) (p op : Nat) (h' : r'.Later s) :
    LaterSnd r' (State.cnReceive s p op) := by
  delta State.cnReceive
  repeat' first
    | with_reducible assumption
    | (extract_lets +onlyGivenNames t; refine via (?_ : State.Later r' t) (fun ht => ?_); subst t; rotate_left; clear_value t)
    | (extract_lets +onlyGivenNames t; refine via (?_ : LaterSnd r' t) (fun ht => ?_); subst t; rotate_left; clear_value t)
    | (extract_lets +onlyGivenNames t; clear_value t)
    | with_reducible (first | apply State.cnChars_later | apply State.frameError_later | apply State.injUsed_later)
    | simp -zeta only [State.later_mk]
    | with_reducible refine State.later_ite (fun _ => ?_) (fun _ => ?_)
    | split
    | with_reducible apply laterSnd_mk
    | with_reducible refine State.later_of_snd ?_
    | with_reducible refine LaterSnd.here ?_ (by assumption)

theorem State.beginPair_later {r' : State} (s : State) (p : Nat) (h' : r'.Later s) :
    r'.Later (State.beginPair s p) := by
  delta State.beginPair
  repeat' first
    | with_reducible assumption
    | (extract_lets +onlyGivenNames t; refine via (?_ : State.Later r' t) (fun ht => ?_); subst t; rotate_left; clear_value t)
    | (extract_lets +onlyGivenNames t; clear_value t)
    | with_reducible (first | apply State.cnRequest_later | apply State.drawNonce_later | apply State.setCn_later | apply State.toLink_later)
    | simp -zeta only [State.later_mk]
    | with_reducible refine State.later_ite (fun _ => ?_) (fun _ => ?_)
    | split

theorem State.beginEnrol_later {r' : State} (s : State) (p slot : Nat) (h' : r'.Later s) :
    r'.Later (State.beginEnrol s p slot) := by
  delta State.beginEnrol
  repeat' first
    | with_reducible assumption
    | (extract_lets +onlyGivenNames t; refine via (?_ : State.Later r' t) (fun ht => ?_); subst t; rotate_left; clear_value t)
    | (extract_lets +onlyGivenNames t; clear_value t)
    | with_reducible (first | apply State.cnRequest_later | apply State.drawNonce_later | apply State.setCn_later)
    | simp -zeta only [State.later_mk]
    | with_reducible refine State.later_ite (fun _ => ?_) (fun _ => ?_)
    | split

theorem State.sendMailbox_later {r' : State} (s : State) (p : Nat) (h' : r'.Later s) :
    r'.Later (State.sendMailbox s p) := by
  delta State.sendMailbox
  repeat' first
    | with_reducible assumption
    | (extract_lets +onlyGivenNames t; refine via (?_ : State.Later r' t) (fun ht => ?_); subst t; rotate_left; clear_value t)
    | (extract_lets +onlyGivenNames t; clear_value t)
    | with_reducible (first | apply State.cnRequest_later | apply State.setCn_later | apply State.setFld_later)
    | simp -zeta only [State.later_mk]
    | with_reducible refine State.later_ite (fun _ => ?_) (fun _ => ?_)
    | split

theorem State.linkupEnd_later {r' : State} (s : State) (p st : Nat) (h' : r'.Later s) :
    r'.Later (State.linkupEnd s p st) := by
  delta State.linkupEnd
  repeat' first
    | with_reducible assumption
    | (extract_lets +onlyGivenNames t; refine via (?_ : State.Later r' t) (fun ht => ?_); subst t; rotate_left; clear_value t)
    | (extract_lets +onlyGivenNames t; have hf : State → State := t; clear hf; subst t; dsimp -zeta only)
    | (extract_lets +onlyGivenNames t; clear_value t)
    | with_reducible (first | apply State.endWaiting_later | apply State.setCn_later | apply State.setFld_later | apply State.toLink_later)
    | simp -zeta only [State.later_mk]
    | with_reducible refine State.later_ite (fun _ => ?_) (fun _ => ?_)
    | split
    | (intro _ _; try dsimp -zeta only)

theorem State.enrolEnd_later {r' : State} (s : State) (p st : Nat) (h' : r'.Later s) :
    r'.Later (State.enrolEnd s p st) := by
  delta State.enrolEnd
  repeat' first
    | with_reducible assumption
    | (extract_lets +onlyGivenNames t; refine via (?_ : State.Later r' t) (fun ht => ?_); subst t; rotate_left; clear_value t)
    | (extract_lets +onlyGivenNames t; clear_value t)
    | with_reducible (first | apply State.setCn_later | apply State.setFlag_later | apply State.setFld_later)
    | simp -zeta only [State.later_mk]
    | with_reducible refine State.later_ite (fun _ => ?_) (fun _ => ?_)
    | split

theorem State.cnGo_later {r' : State} (s : State) (p : Nat) (h' : r'.Later s) :
    r'.Later (State.cnGo s p) := by
  delta State.cnGo
  repeat' first
    | with_reducible assumption
    | (extract_lets +onlyGivenNames t; refine via (?_ : State.Later r' t) (fun ht => ?_); subst t; rotate_left; clear_value t)
    | (extract_lets +onlyGivenNames t; clear_value t)
    | with_reducible (first | apply State.beginEnrol_later | apply State.beginPair_later | apply State.enrolEnd_later | apply State.linkupEnd_later | apply State.sendMailbox_later)
    | simp -zeta only [State.later_mk]
    | with_reducible refine State.later_ite (fun _ => ?_) (fun _ => ?_)
    | split

theorem State.askPair_later {r' : State} (s : State) (p : Nat) (h' : r'.Later s) :
    r'.Later (State.askPair s p) := by
  delta State.askPair
  repeat' first
    | with_reducible assumption
    | (extract_lets +onlyGivenNames t; refine via (?_ : State.Later r' t) (fun ht => ?_); subst t; rotate_left; clear_value t)
    | (extract_lets +onlyGivenNames t; clear_value t)
    | with_reducible (first | apply State.cnGo_later | apply State.setCn_later)
    | simp -zeta only [State.later_mk]
    | with_reducible refine State.later_ite (fun _ => ?_) (fun _ => ?_)
    | split

theorem State.linkupFails_later {r' : State} (s : State) (p st : Nat) (h' : r'.Later s) :
    r'.Later (State.linkupFails s p st) := by
  delta State.linkupFails
  repeat' first
    | with_reducible assumption
    | (extract_lets +onlyGivenNames t; refine via (?_ : State.Later r' t) (fun ht => ?_); subst t; rotate_left; clear_value t)
    | (extract_lets +onlyGivenNames t; clear_value t)
    | with_reducible (first | apply State.cnGo_later | apply State.linkupEnd_later)
    | simp -zeta only [State.later_mk]
    | with_reducible refine State.later_ite (fun _ => ?_) (fun _ => ?_)
    | split

theorem State.enrolEnds_later {r' : State} (s : State) (p st : Nat) (h' : r'.Later s) :
    r'.Later (State.enrolEnds s p st) := by
  delta State.enrolEnds
  repeat' first
    | with_reducible assumption
    | (extract_lets +onlyGivenNames t; refine via (?_ : State.Later r' t) (fun ht => ?_); subst t; rotate_left; clear_value t)
    | (extract_lets +onlyGivenNames t; clear_value t)
    | with_reducible (first | apply State.cnGo_later | apply State.enrolEnd_later)
    | simp -zeta only [State.later_mk]
    | with_reducible refine State.later_ite (fun _ => ?_) (fun _ => ?_)
    | split

theorem State.endMailbox_later {r' : State} (s : State) (p result : Nat) (h' : r'.Later s) :
    r'.Later (State.endMailbox s p result) := by
  delta State.endMailbox
  repeat' first
    | with_reducible assumption
    | (extract_lets +onlyGivenNames t; refine via (?_ : State.Later r' t) (fun ht => ?_); subst t; rotate_left; clear_value t)
    | (extract_lets +onlyGivenNames t; clear_value t)
    | with_reducible (first | apply State.setCn_later | apply State.setFlag_later | apply State.setFld_later)
    | simp -zeta only [State.later_mk]
    | with_reducible refine State.later_ite (fun _ => ?_) (fun _ => ?_)
    | split

theorem State.cnLow_later {r' : State} (s : State) (p : Nat) (h' : r'.Later s) :
    r'.Later (State.cnLow s p) := by
  delta State.cnLow
  repeat' first
    | with_reducible assumption
    | (extract_lets +onlyGivenNames t; refine via (?_ : State.Later r' t) (fun ht => ?_); subst t; rotate_left; clear_value t)
    | (extract_lets +onlyGivenNames t; clear_value t)
    | with_reducible (first | apply State.emit_later | apply State.fire_later | apply State.setCn_later | apply State.setFlag_later | apply State.setReg_later)
    | simp -zeta only [State.later_mk]
    | with_reducible refine State.later_ite (fun _ => ?_) (fun _ => ?_)
    | split

theorem State.cnReset_later {r' : State} (s : State) (p result : Nat) (h' : r'.Later s) :
    r'.Later (State.cnReset s p result) := by
  delta State.cnReset
  repeat' first
    | with_reducible assumption
    | (extract_lets +onlyGivenNames t; refine via (?_ : State.Later r' t) (fun ht => ?_); subst t; rotate_left; clear_value t)
    | (extract_lets +onlyGivenNames t; clear_value t)
    | with_reducible (first | apply State.cnLow_later | apply State.endMailbox_later | apply State.setCn_later | apply State.setFlag_later)
    | simp -zeta only [State.later_mk]
    | with_reducible refine State.later_ite (fun _ => ?_) (fun _ => ?_)
    | split

theorem State.startLinkup_later {r' : State} (s : State) (p : Nat) (h' : r'.Later s) :
    r'.Later (State.startLinkup s p) := by
  delta State.startLinkup
  repeat' first
    | with_reducible assumption
    | (extract_lets +onlyGivenNames t; refine via (?_ : State.Later r' t) (fun ht => ?_); subst t; rotate_left; clear_value t)
    | (extract_lets +onlyGivenNames t; clear_value t)
    | with_reducible (first | apply State.setCn_later | apply State.setFld_later | apply State.toLink_later)
    | simp -zeta only [State.later_mk]
    | with_reducible refine State.later_ite (fun _ => ?_) (fun _ => ?_)
    | split

end Sys2Proof.Machine
end

