-- ==== Sys2Proof/Laws/DockLinkLaws.lean ====
section
/-! SUPPORT. What the operations of Machine/DockLink.lean never do: each gives a state after its own (State.Later). -/

namespace Sys2Proof.Machine

open Sys2Proof.Crypto

theorem State.dropPort_later {r' : State} (s : State) (p l : Nat) (h' : r'.Later s) :
    r'.Later (State.dropPort s p l) := by
  delta State.dropPort
  repeat' first
    | with_reducible assumption
    | (extract_lets +onlyGivenNames t; refine via (?_ : State.Later r' t) (fun ht => ?_); subst t; rotate_left; clear_value t)
    | (extract_lets +onlyGivenNames t; clear_value t)
    | with_reducible (first | apply State.closeSession_later | apply State.portGone_later | apply State.setFlag_later | apply State.setLink_later)
    | simp -zeta only [State.later_mk]
    | with_reducible refine State.later_ite (fun _ => ?_) (fun _ => ?_)
    | split

theorem State.countLinkReset_later {r' : State} (s : State) (p : Nat) (h' : r'.Later s) :
    r'.Later (State.countLinkReset s p) := by
  delta State.countLinkReset
  repeat' first
    | with_reducible assumption
    | (extract_lets +onlyGivenNames t; refine via (?_ : State.Later r' t) (fun ht => ?_); subst t; rotate_left; clear_value t)
    | (extract_lets +onlyGivenNames t; clear_value t)
    | with_reducible (first | apply State.bump_later | apply State.fire_later)
    | simp -zeta only [State.later_mk]
    | with_reducible refine State.later_ite (fun _ => ?_) (fun _ => ?_)
    | split

theorem State.resetLink_later {r' : State} (s : State) (p : Nat) (h' : r'.Later s) :
    r'.Later (State.resetLink s p) := by
  delta State.resetLink
  repeat' first
    | with_reducible assumption
    | (extract_lets +onlyGivenNames t; refine via (?_ : State.Later r' t) (fun ht => ?_); subst t; rotate_left; clear_value t)
    | (extract_lets +onlyGivenNames t; clear_value t)
    | with_reducible (first | apply State.cnReset_later | apply State.countLinkReset_later | apply State.dropPort_later | apply State.emit_later | apply State.slowDown_later | apply State.startLinkup_later)
    | simp -zeta only [State.later_mk]
    | with_reducible refine State.later_ite (fun _ => ?_) (fun _ => ?_)
    | split

theorem State.removePort_later {r' : State} (s : State) (p : Nat) (h' : r'.Later s) :
    r'.Later (State.removePort s p) := by
  delta State.removePort
  repeat' first
    | with_reducible assumption
    | (extract_lets +onlyGivenNames t; refine via (?_ : State.Later r' t) (fun ht => ?_); subst t; rotate_left; clear_value t)
    | (extract_lets +onlyGivenNames t; clear_value t)
    | with_reducible (first | apply State.cnReset_later | apply State.dropPort_later | apply State.fire_later | apply State.setCn_later | apply State.setFlag_later | apply State.stopClock_later)
    | simp -zeta only [State.later_mk]
    | with_reducible refine State.later_ite (fun _ => ?_) (fun _ => ?_)
    | split

theorem State.removeLow_later {r' : State} (s : State) (p : Nat) (h' : r'.Later s) :
    r'.Later (State.removeLow s p) := by
  delta State.removeLow
  repeat' first
    | with_reducible assumption
    | (extract_lets +onlyGivenNames t; refine via (?_ : State.Later r' t) (fun ht => ?_); subst t; rotate_left; clear_value t)
    | (extract_lets +onlyGivenNames t; have hf : State → State := t; clear hf; subst t; dsimp -zeta only)
    | (extract_lets +onlyGivenNames t; clear_value t)
    | with_reducible (first | apply State.removePort_later | apply State.setCn_later | apply State.setFld_later)
    | simp -zeta only [State.later_mk]
    | with_reducible refine State.later_ite (fun _ => ?_) (fun _ => ?_)
    | split
    | (intro _ _; try dsimp -zeta only)

theorem State.exhausted_later {r' : State} (s : State) (p : Nat) (h' : r'.Later s) :
    r'.Later (State.exhausted s p) := by
  delta State.exhausted
  repeat' first
    | with_reducible assumption
    | (extract_lets +onlyGivenNames t; refine via (?_ : State.Later r' t) (fun ht => ?_); subst t; rotate_left; clear_value t)
    | (extract_lets +onlyGivenNames t; clear_value t)
    | with_reducible (first | apply State.removeLow_later | apply State.resetLink_later | apply State.setSp_later)
    | simp -zeta only [State.later_mk]
    | with_reducible refine State.later_ite (fun _ => ?_) (fun _ => ?_)
    | split

theorem State.endDockSession_later {r' : State} (s : State) (p : Nat) (h' : r'.Later s) :
    r'.Later (State.endDockSession s p) := by
  delta State.endDockSession
  repeat' first
    | with_reducible assumption
    | (extract_lets +onlyGivenNames t; refine via (?_ : State.Later r' t) (fun ht => ?_); subst t; rotate_left; clear_value t)
    | (extract_lets +onlyGivenNames t; clear_value t)
    | with_reducible (first | apply State.askPair_later | apply State.dropPort_later)
    | simp -zeta only [State.later_mk]
    | with_reducible refine State.later_ite (fun _ => ?_) (fun _ => ?_)
    | split

theorem State.tuneCmd_later {r' : State} (s : State) (p op arg : Nat) (h' : r'.Later s) :
    r'.Later (State.tuneCmd s p op arg) := by
  delta State.tuneCmd
  repeat' first
    | with_reducible assumption
    | (extract_lets +onlyGivenNames t; refine via (?_ : State.Later r' t) (fun ht => ?_); subst t; rotate_left; clear_value t)
    | (extract_lets +onlyGivenNames t; clear_value t)
    | with_reducible (first | apply State.emit_later | apply State.setSp_later | apply State.startClock_later)
    | simp -zeta only [State.later_mk]
    | with_reducible refine State.later_ite (fun _ => ?_) (fun _ => ?_)
    | split

theorem State.setSpeed_later {r' : State} (s : State) (p mode : Nat) (h' : r'.Later s) :
    r'.Later (State.setSpeed s p mode) := by
  delta State.setSpeed
  repeat' first
    | with_reducible assumption
    | (extract_lets +onlyGivenNames t; refine via (?_ : State.Later r' t) (fun ht => ?_); subst t; rotate_left; clear_value t)
    | (extract_lets +onlyGivenNames t; clear_value t)
    | with_reducible (first | apply State.startClock_later | apply State.stopClock_later | apply State.switchMode_later | apply State.tuneCmd_later)
    | simp -zeta only [State.later_mk]
    | with_reducible refine State.later_ite (fun _ => ?_) (fun _ => ?_)
    | split

theorem State.sweepRd_later {r' : State} (s : State) (p : Nat) (h' : r'.Later s) :
    r'.Later (State.sweepRd s p) := by
  delta State.sweepRd
  repeat' first
    | with_reducible assumption
    | (extract_lets +onlyGivenNames t; refine via (?_ : State.Later r' t) (fun ht => ?_); subst t; rotate_left; clear_value t)
    | (extract_lets +onlyGivenNames t; refine via (?_ : LaterSnd r' t) (fun ht => ?_); subst t; rotate_left; clear_value t)
    | (extract_lets +onlyGivenNames t; refine via (?_ : LaterFst r' t) (fun ht => ?_); subst t; rotate_left; clear_value t)
    | (extract_lets +onlyGivenNames t; clear_value t)
    | with_reducible apply State.tuneCmd_later
    | with_reducible refine State.later_foldl (fun _ _ _ => ?_) _ ?_
    | with_reducible refine laterSnd_foldl (fun _ _ _ => ?_) _ ?_
    | with_reducible refine laterFst_foldl (fun _ _ _ => ?_) _ ?_
    | simp -zeta only [State.later_mk]
    | with_reducible refine State.later_ite (fun _ => ?_) (fun _ => ?_)
    | split
    | with_reducible apply laterSnd_mk
    | with_reducible apply laterFst_mk
    | with_reducible refine State.later_of_snd ?_
    | with_reducible refine LaterSnd.here ?_ (by assumption)
    | with_reducible refine State.later_of_fst ?_
    | with_reducible refine LaterFst.here ?_ (by assumption)
    | (intro _ _; try dsimp -zeta only)

theorem State.sweepWr_later {r' : State} (s : State) (p : Nat) (h' : r'.Later s) :
    r'.Later (State.sweepWr s p) := by
  delta State.sweepWr
  repeat' first
    | with_reducible assumption
    | (extract_lets +onlyGivenNames t; refine via (?_ : State.Later r' t) (fun ht => ?_); subst t; rotate_left; clear_value t)
    | (extract_lets +onlyGivenNames t; refine via (?_ : LaterSnd r' t) (fun ht => ?_); subst t; rotate_left; clear_value t)
    | (extract_lets +onlyGivenNames t; refine via (?_ : LaterFst r' t) (fun ht => ?_); subst t; rotate_left; clear_value t)
    | (extract_lets +onlyGivenNames t; clear_value t)
    | with_reducible apply State.tuneCmd_later
    | with_reducible refine State.later_foldl (fun _ _ _ => ?_) _ ?_
    | with_reducible refine laterSnd_foldl (fun _ _ _ => ?_) _ ?_
    | with_reducible refine laterFst_foldl (fun _ _ _ => ?_) _ ?_
    | simp -zeta only [State.later_mk]
    | with_reducible refine State.later_ite (fun _ => ?_) (fun _ => ?_)
    | split
    | with_reducible apply laterSnd_mk
    | with_reducible apply laterFst_mk
    | with_reducible refine State.later_of_snd ?_
    | with_reducible refine LaterSnd.here ?_ (by assumption)
    | with_reducible refine State.later_of_fst ?_
    | with_reducible refine LaterFst.here ?_ (by assumption)
    | (intro _ _; try dsimp -zeta only)

theorem State.tuneAt_later {r' : State} (s : State) (p mode : Nat) (sweep : Sweep) (h' : r'.Later s) :
    LaterSnd r' (State.tuneAt s p mode sweep) := by
  delta State.tuneAt
  repeat' first
    | with_reducible assumption
    | (extract_lets +onlyGivenNames t; refine via (?_ : State.Later r' t) (fun ht => ?_); subst t; rotate_left; clear_value t)
    | (extract_lets +onlyGivenNames t; clear_value t)
    | with_reducible (first | apply State.setSpeed_later | apply State.setTaps_later | apply State.sweepRd_later | apply State.sweepWr_later | apply State.tuneCmd_later)
    | simp -zeta only [State.later_mk]
    | with_reducible refine State.later_ite (fun _ => ?_) (fun _ => ?_)
    | split
    | with_reducible apply laterSnd_mk

theorem State.tuneEnd_later {r' : State} (s : State) (p : Nat) (h' : r'.Later s) :
    r'.Later (State.tuneEnd s p) := by
  delta State.tuneEnd
  repeat' first
    | with_reducible assumption
    | (extract_lets +onlyGivenNames t; refine via (?_ : State.Later r' t) (fun ht => ?_); subst t; rotate_left; clear_value t)
    | (extract_lets +onlyGivenNames t; clear_value t)
    | with_reducible (first | apply State.bump_later | apply State.fire_later | apply State.portReady_later | apply State.setSp_later)
    | simp -zeta only [State.later_mk]
    | with_reducible refine State.later_ite (fun _ => ?_) (fun _ => ?_)
    | split

theorem State.runTune_later {r' : State} (s : State) (p mode : Nat) (sweep : Sweep) (h' : r'.Later s) :
    r'.Later (State.runTune s p mode sweep) := by
  delta State.runTune
  repeat' first
    | with_reducible assumption
    | (extract_lets +onlyGivenNames t; refine via (?_ : State.Later r' t) (fun ht => ?_); subst t; rotate_left; clear_value t)
    | (extract_lets +onlyGivenNames t; refine via (?_ : LaterSnd r' t) (fun ht => ?_); subst t; rotate_left; clear_value t)
    | (extract_lets +onlyGivenNames t; clear_value t)
    | with_reducible (first | apply State.setSp_later | apply State.setSpeed_later | apply State.toLink_later | apply State.tuneAt_later | apply State.tuneEnd_later | apply State.tunePassed_later)
    | simp -zeta only [State.later_mk]
    | with_reducible refine State.later_ite (fun _ => ?_) (fun _ => ?_)
    | split
    | with_reducible apply laterSnd_mk
    | with_reducible refine State.later_of_snd ?_
    | with_reducible refine LaterSnd.here ?_ (by assumption)

theorem State.pingMap_later {r' : State} (s : State) (p q info : Nat) (h' : r'.Later s) :
    r'.Later (State.pingMap s p q info) := by
  delta State.pingMap
  repeat' first
    | with_reducible assumption
    | (extract_lets +onlyGivenNames t; refine via (?_ : State.Later r' t) (fun ht => ?_); subst t; rotate_left; clear_value t)
    | (extract_lets +onlyGivenNames t; refine via (?_ : LaterSnd r' t) (fun ht => ?_); subst t; rotate_left; clear_value t)
    | (extract_lets +onlyGivenNames t; refine via (?_ : LaterFst r' t) (fun ht => ?_); subst t; rotate_left; clear_value t)
    | (extract_lets +onlyGivenNames t; have hf : State → State := t; clear hf; subst t; dsimp -zeta only)
    | (extract_lets +onlyGivenNames t; clear_value t)
    | with_reducible apply State.sendAgain_later
    | with_reducible refine State.later_foldl (fun _ _ _ => ?_) _ ?_
    | with_reducible refine laterSnd_foldl (fun _ _ _ => ?_) _ ?_
    | with_reducible refine laterFst_foldl (fun _ _ _ => ?_) _ ?_
    | simp -zeta only [State.later_mk]
    | with_reducible refine State.later_ite (fun _ => ?_) (fun _ => ?_)
    | split
    | with_reducible apply laterSnd_mk
    | with_reducible apply laterFst_mk
    | with_reducible refine State.later_of_snd ?_
    | with_reducible refine LaterSnd.here ?_ (by assumption)
    | with_reducible refine State.later_of_fst ?_
    | with_reducible refine LaterFst.here ?_ (by assumption)
    | (intro _ _; try dsimp -zeta only)

theorem State.linkAnswer_later {r' : State} (s : State) (p : Nat) (d : DCmd) (st info : Nat) (h' : r'.Later s) :
    r'.Later (State.linkAnswer s p d st info) := by
  delta State.linkAnswer
  repeat' first
    | with_reducible assumption
    | (extract_lets +onlyGivenNames t; refine via (?_ : State.Later r' t) (fun ht => ?_); subst t; rotate_left; clear_value t)
    | (extract_lets +onlyGivenNames t; have hf : State → State := t; clear hf; subst t; dsimp -zeta only)
    | (extract_lets +onlyGivenNames t; clear_value t)
    | with_reducible (first | apply State.linkCmd_later | apply State.openRekey_later | apply State.pingMap_later | apply State.portReady_later | apply State.setLink_later | apply State.setSp_later)
    | simp -zeta only [State.later_mk]
    | with_reducible refine State.later_ite (fun _ => ?_) (fun _ => ?_)
    | split
    | (intro _ _; try dsimp -zeta only)

theorem State.noteCreate_later {r' : State} (s : State) (p : Nat) (d : DCmd) (st : Nat) (h' : r'.Later s) :
    r'.Later (State.noteCreate s p d st) := by
  delta State.noteCreate
  repeat' first
    | with_reducible assumption
    | (extract_lets +onlyGivenNames t; refine via (?_ : State.Later r' t) (fun ht => ?_); subst t; rotate_left; clear_value t)
    | (extract_lets +onlyGivenNames t; clear_value t)
    | with_reducible (first | apply State.deliverTo_later | apply State.unblock_later)
    | simp -zeta only [State.later_mk]
    | with_reducible refine State.later_ite (fun _ => ?_) (fun _ => ?_)
    | split

theorem State.endD_later {r' : State} (s : State) (p : Nat) (d : DCmd) (st info flags : Nat) (h' : r'.Later s) :
    r'.Later (State.endD s p d st info flags) := by
  delta State.endD
  repeat' first
    | with_reducible assumption
    | (extract_lets +onlyGivenNames t; refine via (?_ : State.Later r' t) (fun ht => ?_); subst t; rotate_left; clear_value t)
    | (extract_lets +onlyGivenNames t; clear_value t)
    | with_reducible (first | apply State.bridgeAnswer_later | apply State.closeParts_later | apply State.drainCheck_later | apply State.drive_later | apply State.dropD_later | apply State.linkAnswer_later | apply State.noteCreate_later | apply State.notePart_later | apply State.pump_later | apply State.resyncAnswer_later | apply State.setFlag_later)
    | simp -zeta only [State.later_mk]
    | with_reducible refine State.later_ite (fun _ => ?_) (fun _ => ?_)
    | split

theorem State.endUnits_later {r' : State} (s : State) (p : Nat) (d : DCmd) (k : Nat) (h' : r'.Later s) :
    r'.Later (State.endUnits s p d k) := by
  delta State.endUnits
  repeat' first
    | with_reducible assumption
    | (extract_lets +onlyGivenNames t; refine via (?_ : State.Later r' t) (fun ht => ?_); subst t; rotate_left; clear_value t)
    | (extract_lets +onlyGivenNames t; refine via (?_ : LaterSnd r' t) (fun ht => ?_); subst t; rotate_left; clear_value t)
    | (extract_lets +onlyGivenNames t; refine via (?_ : LaterFst r' t) (fun ht => ?_); subst t; rotate_left; clear_value t)
    | (extract_lets +onlyGivenNames t; have hf : State → State := t; clear hf; subst t; dsimp -zeta only)
    | (extract_lets +onlyGivenNames t; clear_value t)
    | with_reducible (first | apply State.markDone_later | apply State.settleRefusal_later | apply State.updCmd_later)
    | with_reducible refine State.later_foldl (fun _ _ _ => ?_) _ ?_
    | with_reducible refine laterSnd_foldl (fun _ _ _ => ?_) _ ?_
    | with_reducible refine laterFst_foldl (fun _ _ _ => ?_) _ ?_
    | simp -zeta only [State.later_mk]
    | with_reducible refine State.later_ite (fun _ => ?_) (fun _ => ?_)
    | split
    | with_reducible apply laterSnd_mk
    | with_reducible apply laterFst_mk
    | with_reducible refine State.later_of_snd ?_
    | with_reducible refine LaterSnd.here ?_ (by assumption)
    | with_reducible refine State.later_of_fst ?_
    | with_reducible refine LaterFst.here ?_ (by assumption)
    | (intro _ _; try dsimp -zeta only)

theorem State.reissue_later {r' : State} (s : State) (p : Nat) (d : DCmd) (st k : Nat) (h' : r'.Later s) :
    r'.Later (State.reissue s p d st k) := by
  delta State.reissue
  repeat' first
    | with_reducible assumption
    | (extract_lets +onlyGivenNames t; refine via (?_ : State.Later r' t) (fun ht => ?_); subst t; rotate_left; clear_value t)
    | (extract_lets +onlyGivenNames t; clear_value t)
    | with_reducible (first | apply State.drive_later | apply State.dropD_later | apply State.endUnits_later | apply State.exhausted_later | apply State.pushAhead_later | apply State.resetLink_later)
    | simp -zeta only [State.later_mk]
    | with_reducible refine State.later_ite (fun _ => ?_) (fun _ => ?_)
    | split

theorem State.noteFlags_later {r' : State} (s : State) (p flags : Nat) (h' : r'.Later s) :
    r'.Later (State.noteFlags s p flags) := by
  delta State.noteFlags
  repeat' first
    | with_reducible assumption
    | (extract_lets +onlyGivenNames t; refine via (?_ : State.Later r' t) (fun ht => ?_); subst t; rotate_left; clear_value t)
    | (extract_lets +onlyGivenNames t; clear_value t)
    | with_reducible (first | apply State.fire_later | apply State.setSp_later)
    | simp -zeta only [State.later_mk]
    | with_reducible refine State.later_ite (fun _ => ?_) (fun _ => ?_)
    | split

theorem State.noteEpoch_later {r' : State} (s : State) (p : Nat) (d : DCmd) (h' : r'.Later s) :
    r'.Later (State.noteEpoch s p d) := by
  delta State.noteEpoch
  repeat' first
    | with_reducible assumption
    | (extract_lets +onlyGivenNames t; refine via (?_ : State.Later r' t) (fun ht => ?_); subst t; rotate_left; clear_value t)
    | (extract_lets +onlyGivenNames t; clear_value t)
    | with_reducible (first | apply State.closeRekey_later | apply State.fire_later | apply State.setSp_later)
    | simp -zeta only [State.later_mk]
    | with_reducible refine State.later_ite (fun _ => ?_) (fun _ => ?_)
    | split

theorem State.noSession_later {r' : State} (s : State) (p : Nat) (d : DCmd) (st flags : Nat) (h' : r'.Later s) :
    r'.Later (State.noSession s p d st flags) := by
  delta State.noSession
  repeat' first
    | with_reducible assumption
    | (extract_lets +onlyGivenNames t; refine via (?_ : State.Later r' t) (fun ht => ?_); subst t; rotate_left; clear_value t)
    | (extract_lets +onlyGivenNames t; clear_value t)
    | with_reducible (first | apply State.closeParts_later | apply State.dropD_later | apply State.endDockSession_later | apply State.notePart_later | apply State.pump_later)
    | simp -zeta only [State.later_mk]
    | with_reducible refine State.later_ite (fun _ => ?_) (fun _ => ?_)
    | split

theorem State.dockResponse_later {r' : State} (s : State) (p : Nat) (r : RespIn) (h' : r'.Later s) :
    r'.Later (State.dockResponse s p r) := by
  delta State.dockResponse
  repeat' first
    | with_reducible assumption
    | (extract_lets +onlyGivenNames t; refine via (?_ : State.Later r' t) (fun ht => ?_); subst t; rotate_left; clear_value t)
    | (extract_lets +onlyGivenNames t; clear_value t)
    | with_reducible (first | apply State.endD_later | apply State.endDockSession_later | apply State.injUsed_later | apply State.noSession_later | apply State.noteAuth_later | apply State.noteEpoch_later | apply State.noteFlags_later | apply State.pump_later | apply State.reissue_later | apply State.setSp_later)
    | simp -zeta only [State.later_mk]
    | with_reducible refine State.later_ite (fun _ => ?_) (fun _ => ?_)
    | split

theorem State.unitAgain_later {r' : State} (s : State) (p : Nat) (heard : Bool) (h' : r'.Later s) :
    r'.Later (State.unitAgain s p heard) := by
  delta State.unitAgain
  repeat' first
    | with_reducible assumption
    | (extract_lets +onlyGivenNames t; refine via (?_ : State.Later r' t) (fun ht => ?_); subst t; rotate_left; clear_value t)
    | (extract_lets +onlyGivenNames t; have hf : State → State := t; clear hf; subst t; dsimp -zeta only)
    | (extract_lets +onlyGivenNames t; clear_value t)
    | with_reducible (first | apply State.noteExhausted_later | apply State.noteResent_later | apply State.pump_later | apply State.resetLink_later | apply State.sendHostUnit_later | apply State.updD_later)
    | simp -zeta only [State.later_mk]
    | with_reducible refine State.later_ite (fun _ => ?_) (fun _ => ?_)
    | split
    | (intro _ _; try dsimp -zeta only)

theorem State.dockToken_later {r' : State} (s : State) (p : Nat) (valid : Bool) (token : Nat) (h' : r'.Later s) :
    r'.Later (State.dockToken s p valid token) := by
  delta State.dockToken
  repeat' first
    | with_reducible assumption
    | (extract_lets +onlyGivenNames t; refine via (?_ : State.Later r' t) (fun ht => ?_); subst t; rotate_left; clear_value t)
    | (extract_lets +onlyGivenNames t; have hf : State → State := t; clear hf; subst t; dsimp -zeta only)
    | (extract_lets +onlyGivenNames t; clear_value t)
    | with_reducible (first | apply State.sendHostUnit_later | apply State.unitAgain_later | apply State.updD_later)
    | simp -zeta only [State.later_mk]
    | with_reducible refine State.later_ite (fun _ => ?_) (fun _ => ?_)
    | split
    | (intro _ _; try dsimp -zeta only)

theorem State.takeUnit_later {r' : State} (s : State) (p : Nat) (d : DCmd) (index : Nat) (plain : List Byte) (h' : r'.Later s) :
    r'.Later (State.takeUnit s p d index plain) := by
  delta State.takeUnit
  repeat' first
    | with_reducible assumption
    | (extract_lets +onlyGivenNames t; refine via (?_ : State.Later r' t) (fun ht => ?_); subst t; rotate_left; clear_value t)
    | (extract_lets +onlyGivenNames t; have hf : State → State := t; clear hf; subst t; dsimp -zeta only)
    | (extract_lets +onlyGivenNames t; clear_value t)
    | with_reducible (first | apply State.deliver_later | apply State.updCmd_later | apply State.updD_later)
    | simp -zeta only [State.later_mk]
    | with_reducible refine State.later_ite (fun _ => ?_) (fun _ => ?_)
    | split
    | (intro _ _; try dsimp -zeta only)

theorem State.strayUnit_later {r' : State} (s : State) (p mask op inst tag epoch fc : Nat) (h' : r'.Later s) :
    r'.Later (State.strayUnit s p mask op inst tag epoch fc) := by
  delta State.strayUnit
  repeat' first
    | with_reducible assumption
    | (extract_lets +onlyGivenNames t; refine via (?_ : State.Later r' t) (fun ht => ?_); subst t; rotate_left; clear_value t)
    | (extract_lets +onlyGivenNames t; clear_value t)
    | with_reducible (first | apply State.emit_later | apply State.endDockSession_later | apply State.noteAuth_later | apply State.noteLines_later | apply State.pump_later)
    | simp -zeta only [State.later_mk]
    | with_reducible refine State.later_ite (fun _ => ?_) (fun _ => ?_)
    | split

theorem State.refuseUnit_later {r' : State} (s : State) (p index token : Nat) (d : DCmd) (h' : r'.Later s) :
    r'.Later (State.refuseUnit s p index token d) := by
  delta State.refuseUnit
  repeat' first
    | with_reducible assumption
    | (extract_lets +onlyGivenNames t; refine via (?_ : State.Later r' t) (fun ht => ?_); subst t; rotate_left; clear_value t)
    | (extract_lets +onlyGivenNames t; have hf : State → State := t; clear hf; subst t; dsimp -zeta only)
    | (extract_lets +onlyGivenNames t; clear_value t)
    | with_reducible (first | apply State.emit_later | apply State.noteExhausted_later | apply State.updD_later)
    | simp -zeta only [State.later_mk]
    | with_reducible refine State.later_ite (fun _ => ?_) (fun _ => ?_)
    | split
    | (intro _ _; try dsimp -zeta only)

theorem State.dockUnit_later {r' : State} (s : State) (p tag index : Nat) (u : UnitIn) (h' : r'.Later s) :
    r'.Later (State.dockUnit s p tag index u) := by
  delta State.dockUnit
  repeat' first
    | with_reducible assumption
    | (extract_lets +onlyGivenNames t; refine via (?_ : State.Later r' t) (fun ht => ?_); subst t; rotate_left; clear_value t)
    | (extract_lets +onlyGivenNames t; clear_value t)
    | with_reducible (first | apply State.countUnit_later | apply State.emit_later | apply State.endDockSession_later | apply State.injUsed_later | apply State.noteAuth_later | apply State.noteLines_later | apply State.pump_later | apply State.refuseUnit_later | apply State.strayUnit_later | apply State.takeUnit_later)
    | simp -zeta only [State.later_mk]
    | with_reducible refine State.later_ite (fun _ => ?_) (fun _ => ?_)
    | split

end Sys2Proof.Machine
end

