-- ==== Sys2Proof/Laws/TamperLaws.lean ====
section
/-! SUPPORT. What the operations of Machine/Tamper.lean never do: each gives a state after its own (State.Later). -/

namespace Sys2Proof.Machine

open Sys2Proof.Crypto

theorem State.loopWord_later {r' : State} (s : State) (halves : Nat) (h' : r'.Later s) :
    LaterSnd r' (State.loopWord s halves) := by
  delta State.loopWord
  repeat' first
    | with_reducible assumption
    | (extract_lets +onlyGivenNames t; refine via (?_ : State.Later r' t) (fun ht => ?_); subst t; rotate_left; clear_value t)
    | (extract_lets +onlyGivenNames t; clear_value t)
    | with_reducible (first | apply State.setFlag_later | apply State.setFld_later)
    | simp -zeta only [State.later_mk]
    | with_reducible refine State.later_ite (fun _ => ?_) (fun _ => ?_)
    | split
    | with_reducible apply laterSnd_mk

theorem State.tamperStop_later {r' : State} (s : State) (served : List Nat) (h' : r'.Later s) :
    r'.Later (State.tamperStop s served) := by
  delta State.tamperStop
  repeat' first
    | with_reducible assumption
    | (extract_lets +onlyGivenNames t; refine via (?_ : State.Later r' t) (fun ht => ?_); subst t; rotate_left; clear_value t)
    | (extract_lets +onlyGivenNames t; have hf : State → State := t; clear hf; subst t; dsimp -zeta only)
    | (extract_lets +onlyGivenNames t; clear_value t)
    | with_reducible (first | apply State.fire_later | apply State.mramStop_later | apply State.setFld_later)
    | simp -zeta only [State.later_mk]
    | with_reducible refine State.later_ite (fun _ => ?_) (fun _ => ?_)
    | split
    | (intro _ _; try dsimp -zeta only)

theorem State.tamperWipe_later {r' : State} (s : State) (h' : r'.Later s) :
    r'.Later (State.tamperWipe s) := by
  delta State.tamperWipe
  repeat' first
    | with_reducible assumption
    | (extract_lets +onlyGivenNames t; refine via (?_ : State.Later r' t) (fun ht => ?_); subst t; rotate_left; clear_value t)
    | (extract_lets +onlyGivenNames t; clear_value t)
    | with_reducible (first | apply State.fire_later | apply State.zeroizeAll_later)
    | simp -zeta only [State.later_mk]
    | with_reducible refine State.later_ite (fun _ => ?_) (fun _ => ?_)
    | split

theorem State.latchTamper_later {r' : State} (s : State) (cause : Nat) (served : List Nat) (h' : r'.Later s) :
    r'.Later (State.latchTamper s cause served) := by
  delta State.latchTamper
  repeat' first
    | with_reducible assumption
    | (extract_lets +onlyGivenNames t; refine via (?_ : State.Later r' t) (fun ht => ?_); subst t; rotate_left; clear_value t)
    | (extract_lets +onlyGivenNames t; clear_value t)
    | with_reducible (first | apply State.bump_later | apply State.closeSession_later | apply State.dropCred_later | apply State.fire_later | apply State.fireD_later | apply State.forceLocks_later | apply State.setFlag_later | apply State.setFld_later | apply State.stopDock_later | apply State.tamperStop_later | apply State.tamperWipe_later)
    | simp -zeta only [State.later_mk]
    | with_reducible refine State.later_ite (fun _ => ?_) (fun _ => ?_)
    | split

theorem State.loopStep_later {r' : State} (s : State) (miss halves : Nat) (served : List Nat) (h' : r'.Later s) :
    r'.Later (State.loopStep s miss halves served) := by
  delta State.loopStep
  repeat' first
    | with_reducible assumption
    | (extract_lets +onlyGivenNames t; refine via (?_ : State.Later r' t) (fun ht => ?_); subst t; rotate_left; clear_value t)
    | (extract_lets +onlyGivenNames t; refine via (?_ : LaterSnd r' t) (fun ht => ?_); subst t; rotate_left; clear_value t)
    | (extract_lets +onlyGivenNames t; clear_value t)
    | with_reducible (first | apply State.latchTamper_later | apply State.loopWord_later)
    | simp -zeta only [State.later_mk]
    | with_reducible refine State.later_ite (fun _ => ?_) (fun _ => ?_)
    | split
    | with_reducible apply laterSnd_mk
    | with_reducible refine State.later_of_snd ?_
    | with_reducible refine LaterSnd.here ?_ (by assumption)

theorem State.setSwitch_later {r' : State} (s : State) (high : Bool) (h' : r'.Later s) :
    r'.Later (State.setSwitch s high) := by
  delta State.setSwitch
  repeat' first
    | with_reducible assumption
    | (extract_lets +onlyGivenNames t; refine via (?_ : State.Later r' t) (fun ht => ?_); subst t; rotate_left; clear_value t)
    | (extract_lets +onlyGivenNames t; clear_value t)
    | with_reducible apply State.setFlag_later
    | simp -zeta only [State.later_mk]
    | with_reducible refine State.later_ite (fun _ => ?_) (fun _ => ?_)
    | split

theorem State.tamperStep5_later {r' : State} (s : State) (words : List Nat) (switchHigh : Bool) (h' : r'.Later s) :
    r'.Later (State.tamperStep5 s words switchHigh) := by
  delta State.tamperStep5
  repeat' first
    | with_reducible assumption
    | (extract_lets +onlyGivenNames t; refine via (?_ : State.Later r' t) (fun ht => ?_); subst t; rotate_left; clear_value t)
    | (extract_lets +onlyGivenNames t; refine via (?_ : LaterSnd r' t) (fun ht => ?_); subst t; rotate_left; clear_value t)
    | (extract_lets +onlyGivenNames t; refine via (?_ : LaterFst r' t) (fun ht => ?_); subst t; rotate_left; clear_value t)
    | (extract_lets +onlyGivenNames t; have hf : State → State := t; clear hf; subst t; dsimp -zeta only)
    | (extract_lets +onlyGivenNames t; clear_value t)
    | with_reducible (first | apply State.latchTamper_later | apply State.loopStep_later | apply State.mramSync_later | apply State.setFlag_later | apply State.setSwitch_later | apply State.spend_later)
    | with_reducible refine State.later_foldl (fun _ _ _ => ?_) _ ?_
    | with_reducible refine laterSnd_foldl (fun _ _ _ => ?_) _ ?_
    | with_reducible refine laterFst_foldl (fun _ _ _ => ?_) _ ?_
    | simp -zeta only [State.later_mk]
    | with_reducible refine State.later_ite (fun _ => ?_) (fun _ => ?_)
    | split
    | with_reducible apply laterSnd_mk
    | with_reducible apply laterFst_mk
    | with_reducible refine State.later_of_snd ?_
    | with_reducible refine LaterSnd.here ?_ (by assumption)
    | with_reducible refine State.later_of_fst ?_
    | with_reducible refine LaterFst.here ?_ (by assumption)
    | (intro _ _; try dsimp -zeta only)

theorem execTamperLoopWord_later (halves : Nat) (served : List Nat) (s : State) :
    Goes s (execTamperLoopWord halves served s) := by
  delta execTamperLoopWord
  repeat' first
    | with_reducible assumption
    | with_reducible exact State.Later.refl _
    | (extract_lets +onlyGivenNames t; refine via (?_ : State.Later s t) (fun ht => ?_); subst t; rotate_left; clear_value t)
    | (extract_lets +onlyGivenNames t; clear_value t)
    | with_reducible apply goes_next
    | with_reducible apply State.loopStep_later
    | simp -zeta only [State.later_mk]
    | with_reducible refine goes_ite (fun _ => ?_) (fun _ => ?_)
    | with_reducible refine State.later_ite (fun _ => ?_) (fun _ => ?_)
    | split

theorem execTamperSwitchOpen_later (served : List Nat) (s : State) :
    Goes s (execTamperSwitchOpen served s) := by
  delta execTamperSwitchOpen
  repeat' first
    | with_reducible assumption
    | with_reducible exact State.Later.refl _
    | (extract_lets +onlyGivenNames t; refine via (?_ : State.Later s t) (fun ht => ?_); subst t; rotate_left; clear_value t)
    | (extract_lets +onlyGivenNames t; clear_value t)
    | with_reducible apply goes_next
    | with_reducible (first | apply State.latchTamper_later | apply State.setSwitch_later)
    | simp -zeta only [State.later_mk]
    | with_reducible refine goes_ite (fun _ => ?_) (fun _ => ?_)
    | with_reducible refine State.later_ite (fun _ => ?_) (fun _ => ?_)
    | split

end Sys2Proof.Machine
end

