-- ==== Sys2Proof/Laws/BringUpLaws.lean ====
section
/-! SUPPORT. What the operations of Machine/BringUp.lean never do: each gives a state after its own (State.Later). -/

namespace Sys2Proof.Machine

open Sys2Proof.Crypto

theorem State.endBurn_later {r' : State} (s : State) (h' : r'.Later s) : r'.Later s.endBurn := by
  unfold State.endBurn
  split
  · exact h'
  · rename_i i _
    have hb : s.Later { s with
        otp := Sparse.set otpBlank s.otp (7 + i / 64 % 2) (s.fuseWord (7 + i / 64 % 2) ||| 2 ^ (i % 64)),
        boot := { s.boot with fuse := none } } := by
      refine ⟨id, id, id, fun h => Sparse.wf_set _ _ _ _ h, fun h w j hj => ?_, fun h w j => ?_, rfl, Nat.le_refl _, List.prefix_rfl⟩
      · simp only [State.fuseWord, Sparse.get_set _ _ _ _ _ h]
        split
        · rename_i e
          subst e
          simp only [Nat.testBit_or, Bool.or_eq_true]
          exact Or.inl hj
        · exact hj
      · have e : ¬7 + i / 64 % 2 = w := by omega
        simp only [State.fuseWord, Sparse.get_set _ _ _ _ _ h, e, if_false]
    dsimp only
    have ht : ∀ u, r'.Later u → r'.Later
        (if u.flag TMP_STAT_LATCHED && !u.flag KEY_STAT_ZEROIZED then u.tamperWipe else u) :=
      fun u hu => State.later_ite (fun _ => State.tamperWipe_later _ hu) (fun _ => hu)
    refine ht _ (State.fire_later _ _ (State.keyOp_later _ _ _ _ ?_))
    split
    · exact h'.trans hb
    · exact State.later_mk.2 (h'.trans hb)

theorem State.histReset_later {r' : State} (s : State) (h' : r'.Later s) :
    r'.Later (State.histReset s) := by
  delta State.histReset
  repeat' first
    | with_reducible assumption
    | (extract_lets +onlyGivenNames t; refine via (?_ : State.Later r' t) (fun ht => ?_); subst t; rotate_left; clear_value t)
    | (extract_lets +onlyGivenNames t; refine via (?_ : LaterSnd r' t) (fun ht => ?_); subst t; rotate_left; clear_value t)
    | (extract_lets +onlyGivenNames t; refine via (?_ : LaterFst r' t) (fun ht => ?_); subst t; rotate_left; clear_value t)
    | (extract_lets +onlyGivenNames t; clear_value t)
    | with_reducible apply State.setFld_later
    | with_reducible refine State.later_foldl (fun _ _ _ => ?_) _ ?_
    | with_reducible refine laterSnd_foldl (fun _ _ _ => ?_) _ ?_
    | with_reducible refine laterFst_foldl (fun _ _ _ => ?_) _ ?_
    | simp -zeta only [State.later_mk]
    | with_reducible refine State.later_ite (fun _ => ?_) (fun _ => ?_)
    | split
    | with_reducible apply laterSnd_mk
    | with_reducible apply laterFst_mk
    | with_reducible refine State.later_of_snd ?_
    | with_reducible refine LaterSnd.here ?_ (by assumption)
    | with_reducible refine State.later_of_fst ?_
    | with_reducible refine LaterFst.here ?_ (by assumption)
    | (intro _ _; try dsimp -zeta only)

theorem State.clearOutcome_later {r' : State} (s : State) (h' : r'.Later s) :
    r'.Later (State.clearOutcome s) := by
  delta State.clearOutcome
  repeat' first
    | with_reducible assumption
    | (extract_lets +onlyGivenNames t; refine via (?_ : State.Later r' t) (fun ht => ?_); subst t; rotate_left; clear_value t)
    | (extract_lets +onlyGivenNames t; refine via (?_ : LaterSnd r' t) (fun ht => ?_); subst t; rotate_left; clear_value t)
    | (extract_lets +onlyGivenNames t; refine via (?_ : LaterFst r' t) (fun ht => ?_); subst t; rotate_left; clear_value t)
    | (extract_lets +onlyGivenNames t; clear_value t)
    | with_reducible (first | apply State.setFlag_later | apply State.setReg_later)
    | with_reducible refine State.later_foldl (fun _ _ _ => ?_) _ ?_
    | with_reducible refine laterSnd_foldl (fun _ _ _ => ?_) _ ?_
    | with_reducible refine laterFst_foldl (fun _ _ _ => ?_) _ ?_
    | simp -zeta only [State.later_mk]
    | with_reducible refine State.later_ite (fun _ => ?_) (fun _ => ?_)
    | split
    | with_reducible apply laterSnd_mk
    | with_reducible apply laterFst_mk
    | with_reducible refine State.later_of_snd ?_
    | with_reducible refine LaterSnd.here ?_ (by assumption)
    | with_reducible refine State.later_of_fst ?_
    | with_reducible refine LaterFst.here ?_ (by assumption)
    | (intro _ _; try dsimp -zeta only)

theorem State.startAt_later {r' : State} (s : State) (step : Nat) (poc wdog : Bool) (h' : r'.Later s) :
    r'.Later (State.startAt s step poc wdog) := by
  delta State.startAt
  repeat' first
    | with_reducible assumption
    | (extract_lets +onlyGivenNames t; refine via (?_ : State.Later r' t) (fun ht => ?_); subst t; rotate_left; clear_value t)
    | (extract_lets +onlyGivenNames t; clear_value t)
    | with_reducible (first | apply State.clearOutcome_later | apply State.histReset_later | apply State.setFld_later)
    | simp -zeta only [State.later_mk]
    | with_reducible refine State.later_ite (fun _ => ?_) (fun _ => ?_)
    | split

theorem State.startChip_later {r' : State} (s : State) (poc strap : Bool) (h' : r'.Later s) :
    r'.Later (State.startChip s poc strap) := by
  delta State.startChip
  repeat' first
    | with_reducible assumption
    | (extract_lets +onlyGivenNames t; refine via (?_ : State.Later r' t) (fun ht => ?_); subst t; rotate_left; clear_value t)
    | (extract_lets +onlyGivenNames t; clear_value t)
    | with_reducible apply State.startAt_later
    | simp -zeta only [State.later_mk]
    | with_reducible refine State.later_ite (fun _ => ?_) (fun _ => ?_)
    | split

theorem State.askAtr_later {r' : State} (s : State) (h' : r'.Later s) :
    r'.Later (State.askAtr s) := by
  delta State.askAtr
  repeat' first
    | with_reducible assumption
    | (extract_lets +onlyGivenNames t; refine via (?_ : State.Later r' t) (fun ht => ?_); subst t; rotate_left; clear_value t)
    | (extract_lets +onlyGivenNames t; clear_value t)
    | with_reducible apply State.setFld_later
    | simp -zeta only [State.later_mk]
    | with_reducible refine State.later_ite (fun _ => ?_) (fun _ => ?_)
    | split

theorem State.holdChip_later {r' : State} (s : State) (poc : Bool) (h' : r'.Later s) :
    r'.Later (State.holdChip s poc) := by
  delta State.holdChip
  repeat' first
    | with_reducible assumption
    | (extract_lets +onlyGivenNames t; refine via (?_ : State.Later r' t) (fun ht => ?_); subst t; rotate_left; clear_value t)
    | (extract_lets +onlyGivenNames t; clear_value t)
    | with_reducible apply State.setFld_later
    | simp -zeta only [State.later_mk]
    | with_reducible refine State.later_ite (fun _ => ?_) (fun _ => ?_)
    | split

theorem State.takeReset_later {r' : State} (s : State) (k : ResetKind) (deferred : Bool) (h' : r'.Later s) :
    r'.Later (State.takeReset s k deferred) := by
  delta State.takeReset
  repeat' first
    | with_reducible assumption
    | (extract_lets +onlyGivenNames t; refine via (?_ : State.Later r' t) (fun ht => ?_); subst t; rotate_left; clear_value t)
    | (extract_lets +onlyGivenNames t; clear_value t)
    | with_reducible (first | apply State.bump_later | apply State.clearChip_later | apply State.clearWdog_later | apply State.fire_later | apply State.holdChip_later | apply State.setFlag_later | apply State.startAt_later | apply State.startChip_later)
    | simp -zeta only [State.later_mk]
    | with_reducible refine State.later_ite (fun _ => ?_) (fun _ => ?_)
    | split

theorem State.await_later {r' : State} (s : State) (k : ResetKind) (h' : r'.Later s) :
    r'.Later (State.await s k) := by
  delta State.await
  repeat' first
    | with_reducible assumption
    | (extract_lets +onlyGivenNames t; refine via (?_ : State.Later r' t) (fun ht => ?_); subst t; rotate_left; clear_value t)
    | (extract_lets +onlyGivenNames t; clear_value t)
    | simp -zeta only [State.later_mk]
    | with_reducible refine State.later_ite (fun _ => ?_) (fun _ => ?_)
    | split
    | (intro _ _; try dsimp -zeta only)

theorem State.askReset_later {r' : State} (s : State) (k : ResetKind) (pulse : Bool) (h' : r'.Later s) :
    r'.Later (State.askReset s k pulse) := by
  delta State.askReset
  repeat' first
    | with_reducible assumption
    | (extract_lets +onlyGivenNames t; refine via (?_ : State.Later r' t) (fun ht => ?_); subst t; rotate_left; clear_value t)
    | (extract_lets +onlyGivenNames t; clear_value t)
    | with_reducible (first | apply State.await_later | apply State.takeReset_later)
    | simp -zeta only [State.later_mk]
    | with_reducible refine State.later_ite (fun _ => ?_) (fun _ => ?_)
    | split

theorem State.endStep2_later {r' : State} (s : State) (locked : Bool) (h' : r'.Later s) :
    r'.Later (State.endStep2 s locked) := by
  delta State.endStep2
  repeat' first
    | with_reducible assumption
    | (extract_lets +onlyGivenNames t; refine via (?_ : State.Later r' t) (fun ht => ?_); subst t; rotate_left; clear_value t)
    | (extract_lets +onlyGivenNames t; clear_value t)
    | with_reducible (first | apply State.setFlag_later | apply State.setFld_later)
    | simp -zeta only [State.later_mk]
    | with_reducible refine State.later_ite (fun _ => ?_) (fun _ => ?_)
    | split

theorem State.endStep3_later {r' : State} (s : State) (ok : Bool) (h' : r'.Later s) :
    r'.Later (State.endStep3 s ok) := by
  delta State.endStep3
  repeat' first
    | with_reducible assumption
    | (extract_lets +onlyGivenNames t; refine via (?_ : State.Later r' t) (fun ht => ?_); subst t; rotate_left; clear_value t)
    | (extract_lets +onlyGivenNames t; clear_value t)
    | with_reducible apply State.setFld_later
    | simp -zeta only [State.later_mk]
    | with_reducible refine State.later_ite (fun _ => ?_) (fun _ => ?_)
    | split
    | (intro _ _; try dsimp -zeta only)

theorem State.loadFormat_later {r' : State} (s : State) (h' : r'.Later s) :
    r'.Later (State.loadFormat s) := by
  delta State.loadFormat
  repeat' first
    | with_reducible assumption
    | (extract_lets +onlyGivenNames t; refine via (?_ : State.Later r' t) (fun ht => ?_); subst t; rotate_left; clear_value t)
    | (extract_lets +onlyGivenNames t; clear_value t)
    | with_reducible apply State.setFld_later
    | simp -zeta only [State.later_mk]
    | with_reducible refine State.later_ite (fun _ => ?_) (fun _ => ?_)
    | split

theorem State.findRing_later {r' : State} (s : State) (h' : r'.Later s) :
    r'.Later (State.findRing s) := by
  delta State.findRing
  repeat' first
    | with_reducible assumption
    | (extract_lets +onlyGivenNames t; refine via (?_ : State.Later r' t) (fun ht => ?_); subst t; rotate_left; clear_value t)
    | (extract_lets +onlyGivenNames t; clear_value t)
    | simp -zeta only [State.later_mk]
    | with_reducible refine State.later_ite (fun _ => ?_) (fun _ => ?_)
    | split

theorem State.finishErase_later {r' : State} (s : State) (h' : r'.Later s) :
    r'.Later (State.finishErase s) := by
  delta State.finishErase
  repeat' first
    | with_reducible assumption
    | (extract_lets +onlyGivenNames t; refine via (?_ : State.Later r' t) (fun ht => ?_); subst t; rotate_left; clear_value t)
    | (extract_lets +onlyGivenNames t; clear_value t)
    | with_reducible (first | apply State.eraseSteps_later | apply State.findRing_later | apply State.fire_later | apply State.setFlag_later)
    | simp -zeta only [State.later_mk]
    | with_reducible refine State.later_ite (fun _ => ?_) (fun _ => ?_)
    | split

theorem State.finishDeletes_later {r' : State} (s : State) (h' : r'.Later s) :
    r'.Later (State.finishDeletes s) := by
  delta State.finishDeletes
  repeat' first
    | with_reducible assumption
    | (extract_lets +onlyGivenNames t; refine via (?_ : State.Later r' t) (fun ht => ?_); subst t; rotate_left; clear_value t)
    | (extract_lets +onlyGivenNames t; refine via (?_ : LaterSnd r' t) (fun ht => ?_); subst t; rotate_left; clear_value t)
    | (extract_lets +onlyGivenNames t; refine via (?_ : LaterFst r' t) (fun ht => ?_); subst t; rotate_left; clear_value t)
    | (extract_lets +onlyGivenNames t; have hf : State → State := t; clear hf; subst t; dsimp -zeta only)
    | (extract_lets +onlyGivenNames t; clear_value t)
    | with_reducible (first | apply State.deleteSteps_later | apply State.findRing_later | apply State.mapResume_later)
    | with_reducible refine State.later_foldl (fun _ _ _ => ?_) _ ?_
    | with_reducible refine laterSnd_foldl (fun _ _ _ => ?_) _ ?_
    | with_reducible refine laterFst_foldl (fun _ _ _ => ?_) _ ?_
    | simp -zeta only [State.later_mk]
    | with_reducible refine State.later_ite (fun _ => ?_) (fun _ => ?_)
    | split
    | with_reducible apply laterSnd_mk
    | with_reducible apply laterFst_mk
    | with_reducible refine State.later_of_snd ?_
    | with_reducible refine LaterSnd.here ?_ (by assumption)
    | with_reducible refine State.later_of_fst ?_
    | with_reducible refine LaterFst.here ?_ (by assumption)
    | (intro _ _; try dsimp -zeta only)

theorem State.showErase_later {r' : State} (s : State) (h' : r'.Later s) :
    r'.Later (State.showErase s) := by
  delta State.showErase
  repeat' first
    | with_reducible assumption
    | (extract_lets +onlyGivenNames t; refine via (?_ : State.Later r' t) (fun ht => ?_); subst t; rotate_left; clear_value t)
    | (extract_lets +onlyGivenNames t; clear_value t)
    | with_reducible apply State.setFld_later
    | simp -zeta only [State.later_mk]
    | with_reducible refine State.later_ite (fun _ => ?_) (fun _ => ?_)
    | split

theorem State.loadLife_later {r' : State} (s : State) (h' : r'.Later s) :
    r'.Later (State.loadLife s) := by
  delta State.loadLife
  repeat' first
    | with_reducible assumption
    | (extract_lets +onlyGivenNames t; refine via (?_ : State.Later r' t) (fun ht => ?_); subst t; rotate_left; clear_value t)
    | (extract_lets +onlyGivenNames t; have hf : State → State := t; clear hf; subst t; dsimp -zeta only)
    | (extract_lets +onlyGivenNames t; clear_value t)
    | simp -zeta only [State.later_mk]
    | with_reducible refine State.later_ite (fun _ => ?_) (fun _ => ?_)
    | split
    | (intro _ _; try dsimp -zeta only)

theorem State.runKat_later {r' : State} (s : State) (ok : Bool) (h' : r'.Later s) :
    r'.Later (State.runKat s ok) := by
  delta State.runKat
  repeat' first
    | with_reducible assumption
    | (extract_lets +onlyGivenNames t; refine via (?_ : State.Later r' t) (fun ht => ?_); subst t; rotate_left; clear_value t)
    | (extract_lets +onlyGivenNames t; clear_value t)
    | with_reducible (first | apply State.faultFull_later | apply State.setFlag_later)
    | simp -zeta only [State.later_mk]
    | with_reducible refine State.later_ite (fun _ => ?_) (fun _ => ?_)
    | split

theorem State.endStep6_later {r' : State} (s : State) (katOk : Bool) (h' : r'.Later s) :
    r'.Later (State.endStep6 s katOk) := by
  delta State.endStep6
  repeat' first
    | with_reducible assumption
    | (extract_lets +onlyGivenNames t; refine via (?_ : State.Later r' t) (fun ht => ?_); subst t; rotate_left; clear_value t)
    | (extract_lets +onlyGivenNames t; refine via (?_ : LaterSnd r' t) (fun ht => ?_); subst t; rotate_left; clear_value t)
    | (extract_lets +onlyGivenNames t; refine via (?_ : LaterFst r' t) (fun ht => ?_); subst t; rotate_left; clear_value t)
    | (extract_lets +onlyGivenNames t; clear_value t)
    | with_reducible (first | apply State.clearFails_later | apply State.finishDeletes_later | apply State.finishErase_later | apply State.loadBad_later | apply State.loadFormat_later | apply State.loadInsts_later | apply State.loadLife_later | apply State.mendState_later | apply State.noteArea_later | apply State.runKat_later | apply State.setFlag_later | apply State.setFld_later | apply State.unwrapKeys_later)
    | with_reducible refine State.later_foldl (fun _ _ _ => ?_) _ ?_
    | with_reducible refine laterSnd_foldl (fun _ _ _ => ?_) _ ?_
    | with_reducible refine laterFst_foldl (fun _ _ _ => ?_) _ ?_
    | simp -zeta only [State.later_mk]
    | with_reducible refine State.later_ite (fun _ => ?_) (fun _ => ?_)
    | split
    | with_reducible apply laterSnd_mk
    | with_reducible apply laterFst_mk
    | with_reducible refine State.later_of_snd ?_
    | with_reducible refine LaterSnd.here ?_ (by assumption)
    | with_reducible refine State.later_of_fst ?_
    | with_reducible refine LaterFst.here ?_ (by assumption)

theorem State.endStep7_later {r' : State} (s : State) (h' : r'.Later s) :
    r'.Later (State.endStep7 s) := by
  delta State.endStep7
  repeat' first
    | with_reducible assumption
    | (extract_lets +onlyGivenNames t; refine via (?_ : State.Later r' t) (fun ht => ?_); subst t; rotate_left; clear_value t)
    | (extract_lets +onlyGivenNames t; have hf : State → State := t; clear hf; subst t; dsimp -zeta only)
    | (extract_lets +onlyGivenNames t; clear_value t)
    | with_reducible (first | apply State.replay_later | apply State.setFld_later)
    | simp -zeta only [State.later_mk]
    | with_reducible refine State.later_ite (fun _ => ?_) (fun _ => ?_)
    | split
    | (intro _ _; try dsimp -zeta only)

theorem State.endStep8_later {r' : State} (s : State) (h' : r'.Later s) :
    r'.Later (State.endStep8 s) := by
  delta State.endStep8
  repeat' first
    | with_reducible assumption
    | (extract_lets +onlyGivenNames t; refine via (?_ : State.Later r' t) (fun ht => ?_); subst t; rotate_left; clear_value t)
    | (extract_lets +onlyGivenNames t; clear_value t)
    | with_reducible (first | apply State.noteArea_later | apply State.setFld_later | apply State.treeRootCheck_later)
    | simp -zeta only [State.later_mk]
    | with_reducible refine State.later_ite (fun _ => ?_) (fun _ => ?_)
    | split

theorem State.endStep9_later {r' : State} (s : State) (h' : r'.Later s) :
    r'.Later (State.endStep9 s) := by
  delta State.endStep9
  repeat' first
    | with_reducible assumption
    | (extract_lets +onlyGivenNames t; refine via (?_ : State.Later r' t) (fun ht => ?_); subst t; rotate_left; clear_value t)
    | (extract_lets +onlyGivenNames t; clear_value t)
    | with_reducible (first | apply State.mapResume_later | apply State.noteArea_later | apply State.recoverSegs_later | apply State.setFld_later)
    | simp -zeta only [State.later_mk]
    | with_reducible refine State.later_ite (fun _ => ?_) (fun _ => ?_)
    | split

theorem State.formatCard_later {r' : State} (s : State) (e : StepIn) (luns : List Nat) (h' : r'.Later s) :
    r'.Later (State.formatCard s e luns) := by
  delta State.formatCard
  repeat' first
    | with_reducible assumption
    | (extract_lets +onlyGivenNames t; refine via (?_ : State.Later r' t) (fun ht => ?_); subst t; rotate_left; clear_value t)
    | (extract_lets +onlyGivenNames t; clear_value t)
    | with_reducible (first | apply State.loadFormat_later | apply State.writeFormat_later)
    | simp -zeta only [State.later_mk]
    | with_reducible refine State.later_ite (fun _ => ?_) (fun _ => ?_)
    | split

theorem State.loadTables_later {r' : State} (s : State) (h' : r'.Later s) :
    r'.Later (State.loadTables s) := by
  delta State.loadTables
  repeat' first
    | with_reducible assumption
    | (extract_lets +onlyGivenNames t; refine via (?_ : State.Later r' t) (fun ht => ?_); subst t; rotate_left; clear_value t)
    | (extract_lets +onlyGivenNames t; refine via (?_ : LaterSnd r' t) (fun ht => ?_); subst t; rotate_left; clear_value t)
    | (extract_lets +onlyGivenNames t; refine via (?_ : LaterFst r' t) (fun ht => ?_); subst t; rotate_left; clear_value t)
    | (extract_lets +onlyGivenNames t; have hf : State → State := t; clear hf; subst t; dsimp -zeta only)
    | (extract_lets +onlyGivenNames t; clear_value t)
    | with_reducible (first | apply State.fault_later | apply State.putEntry_later | apply State.setEntryK_later)
    | with_reducible refine State.later_foldl (fun _ _ _ => ?_) _ ?_
    | with_reducible refine laterSnd_foldl (fun _ _ _ => ?_) _ ?_
    | with_reducible refine laterFst_foldl (fun _ _ _ => ?_) _ ?_
    | simp -zeta only [State.later_mk]
    | with_reducible refine State.later_ite (fun _ => ?_) (fun _ => ?_)
    | split
    | with_reducible apply laterSnd_mk
    | with_reducible apply laterFst_mk
    | with_reducible refine State.later_of_snd ?_
    | with_reducible refine LaterSnd.here ?_ (by assumption)
    | with_reducible refine State.later_of_fst ?_
    | with_reducible refine LaterFst.here ?_ (by assumption)
    | (intro _ _; try dsimp -zeta only)

theorem State.loadRetired_later {r' : State} (s : State) (dies : List Nat) (h' : r'.Later s) :
    r'.Later (State.loadRetired s dies) := by
  delta State.loadRetired
  repeat' first
    | with_reducible assumption
    | (extract_lets +onlyGivenNames t; refine via (?_ : State.Later r' t) (fun ht => ?_); subst t; rotate_left; clear_value t)
    | (extract_lets +onlyGivenNames t; have hf : State → State := t; clear hf; subst t; dsimp -zeta only)
    | (extract_lets +onlyGivenNames t; clear_value t)
    | with_reducible apply State.setFld_later
    | simp -zeta only [State.later_mk]
    | with_reducible refine State.later_ite (fun _ => ?_) (fun _ => ?_)
    | split
    | (intro _ _; try dsimp -zeta only)

theorem State.loadSbs_later {r' : State} (s : State) (h' : r'.Later s) :
    r'.Later (State.loadSbs s) := by
  delta State.loadSbs
  repeat' first
    | with_reducible assumption
    | (extract_lets +onlyGivenNames t; refine via (?_ : State.Later r' t) (fun ht => ?_); subst t; rotate_left; clear_value t)
    | (extract_lets +onlyGivenNames t; clear_value t)
    | simp -zeta only [State.later_mk]
    | with_reducible refine State.later_ite (fun _ => ?_) (fun _ => ?_)
    | split
    | (intro _ _; try dsimp -zeta only)

theorem State.lostSbs_later {r' : State} (s : State) (h' : r'.Later s) :
    r'.Later (State.lostSbs s) := by
  delta State.lostSbs
  repeat' first
    | with_reducible assumption
    | (extract_lets +onlyGivenNames t; refine via (?_ : State.Later r' t) (fun ht => ?_); subst t; rotate_left; clear_value t)
    | (extract_lets +onlyGivenNames t; refine via (?_ : LaterSnd r' t) (fun ht => ?_); subst t; rotate_left; clear_value t)
    | (extract_lets +onlyGivenNames t; refine via (?_ : LaterFst r' t) (fun ht => ?_); subst t; rotate_left; clear_value t)
    | (extract_lets +onlyGivenNames t; have hf : State → State := t; clear hf; subst t; dsimp -zeta only)
    | (extract_lets +onlyGivenNames t; clear_value t)
    | with_reducible (first | apply State.addSb_later | apply State.fault_later | apply State.writeSbRecord_later)
    | with_reducible refine State.later_foldl (fun _ _ _ => ?_) _ ?_
    | with_reducible refine laterSnd_foldl (fun _ _ _ => ?_) _ ?_
    | with_reducible refine laterFst_foldl (fun _ _ _ => ?_) _ ?_
    | simp -zeta only [State.later_mk]
    | with_reducible refine State.later_ite (fun _ => ?_) (fun _ => ?_)
    | split
    | with_reducible apply laterSnd_mk
    | with_reducible apply laterFst_mk
    | with_reducible refine State.later_of_snd ?_
    | with_reducible refine LaterSnd.here ?_ (by assumption)
    | with_reducible refine State.later_of_fst ?_
    | with_reducible refine LaterFst.here ?_ (by assumption)
    | (intro _ _; try dsimp -zeta only)

theorem State.loadScan_later {r' : State} (s : State) (h' : r'.Later s) :
    r'.Later (State.loadScan s) := by
  delta State.loadScan
  repeat' first
    | with_reducible assumption
    | (extract_lets +onlyGivenNames t; refine via (?_ : State.Later r' t) (fun ht => ?_); subst t; rotate_left; clear_value t)
    | (extract_lets +onlyGivenNames t; clear_value t)
    | simp -zeta only [State.later_mk]
    | with_reducible refine State.later_ite (fun _ => ?_) (fun _ => ?_)
    | split

theorem State.eraseAgain_later {r' : State} (s : State) (l block sb : Nat) (h' : r'.Later s) :
    r'.Later (State.eraseAgain s l block sb) := by
  delta State.eraseAgain
  repeat' first
    | with_reducible assumption
    | (extract_lets +onlyGivenNames t; refine via (?_ : State.Later r' t) (fun ht => ?_); subst t; rotate_left; clear_value t)
    | (extract_lets +onlyGivenNames t; clear_value t)
    | with_reducible apply State.pushOp_later
    | simp -zeta only [State.later_mk]
    | with_reducible refine State.later_ite (fun _ => ?_) (fun _ => ?_)
    | split
    | (intro _ _; try dsimp -zeta only)

theorem State.recoverLun_later {r' : State} (s : State) (l : Nat) (h' : r'.Later s) :
    LaterFst r' (State.recoverLun s l) := by
  delta State.recoverLun
  repeat' first
    | with_reducible assumption
    | (extract_lets +onlyGivenNames t; refine via (?_ : State.Later r' t) (fun ht => ?_); subst t; rotate_left; clear_value t)
    | (extract_lets +onlyGivenNames t; refine via (?_ : LaterSnd r' t) (fun ht => ?_); subst t; rotate_left; clear_value t)
    | (extract_lets +onlyGivenNames t; refine via (?_ : LaterFst r' t) (fun ht => ?_); subst t; rotate_left; clear_value t)
    | (extract_lets +onlyGivenNames t; have hf : State → State := t; clear hf; subst t; dsimp -zeta only)
    | (extract_lets +onlyGivenNames t; clear_value t)
    | with_reducible (first | apply State.eraseAgain_later | apply State.voidWordline_later | apply State.writeInflight_later)
    | with_reducible refine State.later_foldl (fun _ _ _ => ?_) _ ?_
    | with_reducible refine laterSnd_foldl (fun _ _ _ => ?_) _ ?_
    | with_reducible refine laterFst_foldl (fun _ _ _ => ?_) _ ?_
    | simp -zeta only [State.later_mk]
    | with_reducible refine State.later_ite (fun _ => ?_) (fun _ => ?_)
    | split
    | with_reducible apply laterSnd_mk
    | with_reducible apply laterFst_mk
    | with_reducible refine State.later_of_snd ?_
    | with_reducible refine LaterSnd.here ?_ (by assumption)
    | with_reducible refine State.later_of_fst ?_
    | with_reducible refine LaterFst.here ?_ (by assumption)
    | (intro _ _; try dsimp -zeta only)

theorem State.eraseOpen_later {r' : State} (s : State) (h' : r'.Later s) :
    r'.Later (State.eraseOpen s) := by
  delta State.eraseOpen
  repeat' first
    | with_reducible assumption
    | (extract_lets +onlyGivenNames t; refine via (?_ : State.Later r' t) (fun ht => ?_); subst t; rotate_left; clear_value t)
    | (extract_lets +onlyGivenNames t; refine via (?_ : LaterSnd r' t) (fun ht => ?_); subst t; rotate_left; clear_value t)
    | (extract_lets +onlyGivenNames t; refine via (?_ : LaterFst r' t) (fun ht => ?_); subst t; rotate_left; clear_value t)
    | (extract_lets +onlyGivenNames t; clear_value t)
    | with_reducible apply State.eraseAgain_later
    | with_reducible refine State.later_foldl (fun _ _ _ => ?_) _ ?_
    | with_reducible refine laterSnd_foldl (fun _ _ _ => ?_) _ ?_
    | with_reducible refine laterFst_foldl (fun _ _ _ => ?_) _ ?_
    | simp -zeta only [State.later_mk]
    | with_reducible refine State.later_ite (fun _ => ?_) (fun _ => ?_)
    | split
    | with_reducible apply laterSnd_mk
    | with_reducible apply laterFst_mk
    | with_reducible refine State.later_of_snd ?_
    | with_reducible refine LaterSnd.here ?_ (by assumption)
    | with_reducible refine State.later_of_fst ?_
    | with_reducible refine LaterFst.here ?_ (by assumption)
    | (intro _ _; try dsimp -zeta only)

theorem State.verifyWl_later {r' : State} (a : State × List Bool) (v : Nat × Nat × Nat × Bool) (h : LaterFst r' a) :
    LaterFst r' (State.verifyWl a v) := by
  unfold State.verifyWl
  split
  · exact h
  · dsimp only
    refine laterFst_mk ?_
    refine State.later_ite (fun _ => State.voidWordline_later _ _ _ _ ?_) (fun _ => ?_)
    · exact State.later_foldl (fun t e k => State.rebuildAt_later t _ _ _ k) _ h
    · exact State.later_foldl (fun t e k => State.rebuildAt_later t _ _ _ k) _ h

theorem State.shutChannels_later {r' : State} (s : State) (ns : List Nat) (h' : r'.Later s) :
    r'.Later (State.shutChannels s ns) := by
  delta State.shutChannels
  repeat' first
    | with_reducible assumption
    | (extract_lets +onlyGivenNames t; refine via (?_ : State.Later r' t) (fun ht => ?_); subst t; rotate_left; clear_value t)
    | (extract_lets +onlyGivenNames t; refine via (?_ : LaterSnd r' t) (fun ht => ?_); subst t; rotate_left; clear_value t)
    | (extract_lets +onlyGivenNames t; refine via (?_ : LaterFst r' t) (fun ht => ?_); subst t; rotate_left; clear_value t)
    | (extract_lets +onlyGivenNames t; clear_value t)
    | with_reducible apply State.setFlag_later
    | with_reducible refine State.later_foldl (fun _ _ _ => ?_) _ ?_
    | with_reducible refine laterSnd_foldl (fun _ _ _ => ?_) _ ?_
    | with_reducible refine laterFst_foldl (fun _ _ _ => ?_) _ ?_
    | simp -zeta only [State.later_mk]
    | with_reducible refine State.later_ite (fun _ => ?_) (fun _ => ?_)
    | split
    | with_reducible apply laterSnd_mk
    | with_reducible apply laterFst_mk
    | with_reducible refine State.later_of_snd ?_
    | with_reducible refine LaterSnd.here ?_ (by assumption)
    | with_reducible refine State.later_of_fst ?_
    | with_reducible refine LaterFst.here ?_ (by assumption)
    | (intro _ _; try dsimp -zeta only)

theorem State.trainChannel_later {r' : State} (s : State) (n rates : Nat) (taps : Nat × Nat) (h' : r'.Later s) :
    r'.Later (State.trainChannel s n rates taps) := by
  delta State.trainChannel
  repeat' first
    | with_reducible assumption
    | (extract_lets +onlyGivenNames t; refine via (?_ : State.Later r' t) (fun ht => ?_); subst t; rotate_left; clear_value t)
    | (extract_lets +onlyGivenNames t; have hf : State → State := t; clear hf; subst t; dsimp -zeta only)
    | (extract_lets +onlyGivenNames t; clear_value t)
    | with_reducible (first | apply State.setFlag_later | apply State.setFld_later)
    | simp -zeta only [State.later_mk]
    | with_reducible refine State.later_ite (fun _ => ?_) (fun _ => ?_)
    | split
    | (intro _ _; try dsimp -zeta only)

theorem State.identify_later {r' : State} (s : State) (e : StepIn) (h' : r'.Later s) :
    r'.Later (State.identify s e) := by
  delta State.identify
  repeat' first
    | with_reducible assumption
    | (extract_lets +onlyGivenNames t; refine via (?_ : State.Later r' t) (fun ht => ?_); subst t; rotate_left; clear_value t)
    | (extract_lets +onlyGivenNames t; refine via (?_ : LaterSnd r' t) (fun ht => ?_); subst t; rotate_left; clear_value t)
    | (extract_lets +onlyGivenNames t; refine via (?_ : LaterFst r' t) (fun ht => ?_); subst t; rotate_left; clear_value t)
    | (extract_lets +onlyGivenNames t; have hf : State → State := t; clear hf; subst t; dsimp -zeta only)
    | (extract_lets +onlyGivenNames t; clear_value t)
    | with_reducible (first | apply State.faultFull_later | apply State.setFlag_later | apply State.shutChannels_later | apply State.trainChannel_later)
    | with_reducible refine State.later_foldl (fun _ _ _ => ?_) _ ?_
    | with_reducible refine laterSnd_foldl (fun _ _ _ => ?_) _ ?_
    | with_reducible refine laterFst_foldl (fun _ _ _ => ?_) _ ?_
    | simp -zeta only [State.later_mk]
    | with_reducible refine State.later_ite (fun _ => ?_) (fun _ => ?_)
    | split
    | with_reducible apply laterSnd_mk
    | with_reducible apply laterFst_mk
    | with_reducible refine State.later_of_snd ?_
    | with_reducible refine LaterSnd.here ?_ (by assumption)
    | with_reducible refine State.later_of_fst ?_
    | with_reducible refine LaterFst.here ?_ (by assumption)
    | (intro _ _; try dsimp -zeta only)

theorem State.recoverAll_later {r' : State} (s : State) (h' : r'.Later s) : LaterFst r' s.recoverAll := by
  unfold State.recoverAll
  generalize s.media.luns = l
  refine laterFst_foldl (fun a x h => ?_) l (laterFst_mk h')
  exact State.recoverLun_later (r' := r') a.1 x h

theorem State.recoverMedia_later {r' : State} (s : State) (pages : List Bool) (h' : r'.Later s) :
    r'.Later (State.recoverMedia s pages) := by
  have h : r'.Later s.recoverAll.1 := State.recoverAll_later s h'
  have k : LaterFst r' (s.recoverAll.2.foldl State.verifyWl
      (s.recoverAll.1.eraseOpen.readTreeIn.readMapIn, pages)) :=
    laterFst_foldl (fun a v k => State.verifyWl_later a v k) _
      (laterFst_mk (State.readMapIn_later _ (State.readTreeIn_later _ (State.eraseOpen_later _ h))))
  exact State.flashGoOn_later _ k

theorem State.showSpare_later {r' : State} (s : State) (h' : r'.Later s) :
    r'.Later (State.showSpare s) := by
  delta State.showSpare
  repeat' first
    | with_reducible assumption
    | (extract_lets +onlyGivenNames t; refine via (?_ : State.Later r' t) (fun ht => ?_); subst t; rotate_left; clear_value t)
    | (extract_lets +onlyGivenNames t; clear_value t)
    | with_reducible apply State.setFlag_later
    | simp -zeta only [State.later_mk]
    | with_reducible refine State.later_ite (fun _ => ?_) (fun _ => ?_)
    | split

theorem State.attachMedia_later {r' : State} (s : State) (e : StepIn) (h' : r'.Later s) :
    r'.Later (State.attachMedia s e) := by
  delta State.attachMedia
  repeat' first
    | with_reducible assumption
    | (extract_lets +onlyGivenNames t; refine via (?_ : State.Later r' t) (fun ht => ?_); subst t; rotate_left; clear_value t)
    | (extract_lets +onlyGivenNames t; have hf : State → State := t; clear hf; subst t; dsimp -zeta only)
    | (extract_lets +onlyGivenNames t; clear_value t)
    | with_reducible (first | apply State.formatCard_later | apply State.identify_later | apply State.loadRetired_later | apply State.loadSbs_later | apply State.loadScan_later | apply State.loadTables_later | apply State.lostSbs_later | apply State.noteArea_later | apply State.recoverMedia_later | apply State.showSpare_later)
    | simp -zeta only [State.later_mk]
    | with_reducible refine State.later_ite (fun _ => ?_) (fun _ => ?_)
    | split
    | (intro _ _; try dsimp -zeta only)

theorem State.portInsert_later {r' : State} (s : State) (p : Nat) (h' : r'.Later s) :
    r'.Later (State.portInsert s p) := by
  delta State.portInsert
  repeat' first
    | with_reducible assumption
    | (extract_lets +onlyGivenNames t; refine via (?_ : State.Later r' t) (fun ht => ?_); subst t; rotate_left; clear_value t)
    | (extract_lets +onlyGivenNames t; clear_value t)
    | with_reducible (first | apply State.fire_later | apply State.setFlag_later | apply State.startLinkup_later)
    | simp -zeta only [State.later_mk]
    | with_reducible refine State.later_ite (fun _ => ?_) (fun _ => ?_)
    | split

theorem State.startPorts_later {r' : State} (s : State) (h' : r'.Later s) :
    r'.Later (State.startPorts s) := by
  delta State.startPorts
  repeat' first
    | with_reducible assumption
    | (extract_lets +onlyGivenNames t; refine via (?_ : State.Later r' t) (fun ht => ?_); subst t; rotate_left; clear_value t)
    | (extract_lets +onlyGivenNames t; refine via (?_ : LaterSnd r' t) (fun ht => ?_); subst t; rotate_left; clear_value t)
    | (extract_lets +onlyGivenNames t; refine via (?_ : LaterFst r' t) (fun ht => ?_); subst t; rotate_left; clear_value t)
    | (extract_lets +onlyGivenNames t; clear_value t)
    | with_reducible (first | apply State.loadMode_later | apply State.portInsert_later | apply State.readTracks_later)
    | with_reducible refine State.later_foldl (fun _ _ _ => ?_) _ ?_
    | with_reducible refine laterSnd_foldl (fun _ _ _ => ?_) _ ?_
    | with_reducible refine laterFst_foldl (fun _ _ _ => ?_) _ ?_
    | simp -zeta only [State.later_mk]
    | with_reducible refine State.later_ite (fun _ => ?_) (fun _ => ?_)
    | split
    | with_reducible apply laterSnd_mk
    | with_reducible apply laterFst_mk
    | with_reducible refine State.later_of_snd ?_
    | with_reducible refine LaterSnd.here ?_ (by assumption)
    | with_reducible refine State.later_of_fst ?_
    | with_reducible refine LaterFst.here ?_ (by assumption)
    | (intro _ _; try dsimp -zeta only)

theorem State.reachReady_later {r' : State} (s : State) (h' : r'.Later s) :
    r'.Later (State.reachReady s) := by
  delta State.reachReady
  repeat' first
    | with_reducible assumption
    | (extract_lets +onlyGivenNames t; refine via (?_ : State.Later r' t) (fun ht => ?_); subst t; rotate_left; clear_value t)
    | (extract_lets +onlyGivenNames t; clear_value t)
    | with_reducible (first | apply State.fire_later | apply State.forceLocks_later | apply State.mustOpen_later | apply State.releaseHeld_later | apply State.replaySegs_later | apply State.setFlag_later | apply State.setFld_later | apply State.showErase_later | apply State.startScan_later)
    | simp -zeta only [State.later_mk]
    | with_reducible refine State.later_ite (fun _ => ?_) (fun _ => ?_)
    | split

theorem State.endStep_later {r' : State} (s : State) (e : StepIn) (h' : r'.Later s) :
    r'.Later (State.endStep s e) := by
  delta State.endStep
  repeat' first
    | with_reducible assumption
    | (extract_lets +onlyGivenNames t; refine via (?_ : State.Later r' t) (fun ht => ?_); subst t; rotate_left; clear_value t)
    | (extract_lets +onlyGivenNames t; clear_value t)
    | with_reducible (first | apply State.attachMedia_later | apply State.endStep2_later | apply State.endStep3_later | apply State.endStep6_later | apply State.endStep7_later | apply State.endStep8_later | apply State.endStep9_later | apply State.mpRestart_later | apply State.reachReady_later | apply State.setFld_later | apply State.startPorts_later | apply State.tamperStep5_later)
    | simp -zeta only [State.later_mk]
    | with_reducible refine State.later_ite (fun _ => ?_) (fun _ => ?_)
    | split

theorem State.dropStores_later {r' : State} (s : State) (h' : r'.Later s) :
    r'.Later (State.dropStores s) := by
  delta State.dropStores
  repeat' first
    | with_reducible assumption
    | (extract_lets +onlyGivenNames t; refine via (?_ : State.Later r' t) (fun ht => ?_); subst t; rotate_left; clear_value t)
    | (extract_lets +onlyGivenNames t; clear_value t)
    | with_reducible apply State.dropVolatile_later
    | simp -zeta only [State.later_mk]
    | with_reducible refine State.later_ite (fun _ => ?_) (fun _ => ?_)
    | split

theorem State.clearTamper_later {r' : State} (s : State) (h' : r'.Later s) :
    r'.Later (State.clearTamper s) := by
  delta State.clearTamper
  repeat' first
    | with_reducible assumption
    | (extract_lets +onlyGivenNames t; refine via (?_ : State.Later r' t) (fun ht => ?_); subst t; rotate_left; clear_value t)
    | (extract_lets +onlyGivenNames t; clear_value t)
    | with_reducible (first | apply State.bump_later | apply State.clearOutcome_later | apply State.dropStores_later | apply State.fire_later | apply State.setFlag_later | apply State.setFld_later)
    | simp -zeta only [State.later_mk]
    | with_reducible refine State.later_ite (fun _ => ?_) (fun _ => ?_)
    | split

theorem State.tmpCtrl_later {r' : State} (s : State) (w : Nat) (switchLow : Bool) (h' : r'.Later s) :
    r'.Later (State.tmpCtrl s w switchLow) := by
  delta State.tmpCtrl
  repeat' first
    | with_reducible assumption
    | (extract_lets +onlyGivenNames t; refine via (?_ : State.Later r' t) (fun ht => ?_); subst t; rotate_left; clear_value t)
    | (extract_lets +onlyGivenNames t; clear_value t)
    | with_reducible (first | apply State.clearTamper_later | apply State.setSwitch_later)
    | simp -zeta only [State.later_mk]
    | with_reducible refine State.later_ite (fun _ => ?_) (fun _ => ?_)
    | split

theorem State.cutBlock_later {r' : State} (s : State) (x : CutBlock) (h' : r'.Later s) :
    r'.Later (State.cutBlock s x) := by
  delta State.cutBlock
  repeat' first
    | with_reducible assumption
    | (extract_lets +onlyGivenNames t; refine via (?_ : State.Later r' t) (fun ht => ?_); subst t; rotate_left; clear_value t)
    | (extract_lets +onlyGivenNames t; have hf : State → State := t; clear hf; subst t; dsimp -zeta only)
    | (extract_lets +onlyGivenNames t; clear_value t)
    | simp -zeta only [State.later_mk]
    | with_reducible refine State.later_ite (fun _ => ?_) (fun _ => ?_)
    | split
    | (intro _ _; try dsimp -zeta only)

theorem execSupplyLoss_later (served : List Nat) (torn : Option TornLine) (hurt : List CutBlock) (s : State) :
    Goes s (execSupplyLoss served torn hurt s) := by
  have h : ∀ t : State, s.Later t → s.Later (hurt.foldl State.cutBlock t).dropVolatile := fun t ht =>
    State.dropVolatile_later _ (State.later_foldl (fun t x h => State.cutBlock_later t x h) _ ht)
  unfold execSupplyLoss
  exact goes_next (State.later_regs (h _ (State.mramStop_later _ _ _ (State.Later.refl s))) (fun _ => rfl))

theorem execPowerOnClearRelease_later (s : State) :
    Goes s (execPowerOnClearRelease s) := by
  delta execPowerOnClearRelease
  repeat' first
    | with_reducible assumption
    | with_reducible exact State.Later.refl _
    | (extract_lets +onlyGivenNames t; refine via (?_ : State.Later s t) (fun ht => ?_); subst t; rotate_left; clear_value t)
    | (extract_lets +onlyGivenNames t; clear_value t)
    | with_reducible apply goes_next
    | with_reducible (first | apply State.askAtr_later | apply State.holdChip_later | apply State.startChip_later)
    | simp -zeta only [State.later_mk]
    | with_reducible refine goes_ite (fun _ => ?_) (fun _ => ?_)
    | with_reducible refine State.later_ite (fun _ => ?_) (fun _ => ?_)
    | split

theorem execRstNLow_later (ns : Nat) (served : List Nat) (pulse : Bool) (s : State) :
    Goes s (execRstNLow ns served pulse s) := by
  delta execRstNLow
  repeat' first
    | with_reducible assumption
    | with_reducible exact State.Later.refl _
    | (extract_lets +onlyGivenNames t; refine via (?_ : State.Later s t) (fun ht => ?_); subst t; rotate_left; clear_value t)
    | (extract_lets +onlyGivenNames t; clear_value t)
    | with_reducible apply goes_next
    | with_reducible (first | apply State.askReset_later | apply State.mramStop_later | apply State.spend_later)
    | simp -zeta only [State.later_mk]
    | with_reducible refine goes_ite (fun _ => ?_) (fun _ => ?_)
    | with_reducible refine State.later_ite (fun _ => ?_) (fun _ => ?_)
    | split

theorem execRstNRelease_later (s : State) :
    Goes s (execRstNRelease s) := by
  delta execRstNRelease
  repeat' first
    | with_reducible assumption
    | with_reducible exact State.Later.refl _
    | (extract_lets +onlyGivenNames t; refine via (?_ : State.Later s t) (fun ht => ?_); subst t; rotate_left; clear_value t)
    | (extract_lets +onlyGivenNames t; clear_value t)
    | with_reducible apply goes_next
    | with_reducible (first | apply State.askAtr_later | apply State.startChip_later)
    | simp -zeta only [State.later_mk]
    | with_reducible refine goes_ite (fun _ => ?_) (fun _ => ?_)
    | with_reducible refine State.later_ite (fun _ => ?_) (fun _ => ?_)
    | split

theorem execRoleSelChange_later (level : Bool) (s : State) :
    Goes s (execRoleSelChange level s) := by
  delta execRoleSelChange
  repeat' first
    | with_reducible assumption
    | with_reducible exact State.Later.refl _
    | (extract_lets +onlyGivenNames t; refine via (?_ : State.Later s t) (fun ht => ?_); subst t; rotate_left; clear_value t)
    | (extract_lets +onlyGivenNames t; clear_value t)
    | with_reducible apply goes_next
    | with_reducible apply State.fire_later
    | simp -zeta only [State.later_mk]
    | with_reducible refine goes_ite (fun _ => ?_) (fun _ => ?_)
    | with_reducible refine State.later_ite (fun _ => ?_) (fun _ => ?_)
    | split

theorem execBringupStepDone_later (e : StepIn) (s : State) :
    Goes s (execBringupStepDone e s) := by
  delta execBringupStepDone
  repeat' first
    | with_reducible assumption
    | with_reducible exact State.Later.refl _
    | (extract_lets +onlyGivenNames t; refine via (?_ : State.Later s t) (fun ht => ?_); subst t; rotate_left; clear_value t)
    | (extract_lets +onlyGivenNames t; clear_value t)
    | with_reducible apply goes_next
    | with_reducible apply State.endStep_later
    | simp -zeta only [State.later_mk]
    | with_reducible refine goes_ite (fun _ => ?_) (fun _ => ?_)
    | with_reducible refine State.later_ite (fun _ => ?_) (fun _ => ?_)
    | split

theorem State.chipReset_later {r' : State} (s : State) (key : Nat) (pulse : Bool) (h' : r'.Later s) :
    r'.Later (State.chipReset s key pulse) := by
  delta State.chipReset
  repeat' first
    | with_reducible assumption
    | (extract_lets +onlyGivenNames t; refine via (?_ : State.Later r' t) (fun ht => ?_); subst t; rotate_left; clear_value t)
    | (extract_lets +onlyGivenNames t; clear_value t)
    | with_reducible apply State.askReset_later
    | simp -zeta only [State.later_mk]
    | with_reducible refine State.later_ite (fun _ => ?_) (fun _ => ?_)
    | split

theorem execChipRst_later (key : Nat) (served : List Nat) (pulse : Bool) (s : State) :
    Goes s (execChipRst key served pulse s) := by
  delta execChipRst
  repeat' first
    | with_reducible assumption
    | with_reducible exact State.Later.refl _
    | (extract_lets +onlyGivenNames t; refine via (?_ : State.Later s t) (fun ht => ?_); subst t; rotate_left; clear_value t)
    | (extract_lets +onlyGivenNames t; clear_value t)
    | with_reducible apply goes_next
    | with_reducible (first | apply State.chipReset_later | apply State.mramStop_later)
    | simp -zeta only [State.later_mk]
    | with_reducible refine goes_ite (fun _ => ?_) (fun _ => ?_)
    | with_reducible refine State.later_ite (fun _ => ?_) (fun _ => ?_)
    | split

theorem execMpWatchdogExpiry_later (served : List Nat) (pulse : Bool) (s : State) :
    Goes s (execMpWatchdogExpiry served pulse s) := by
  delta execMpWatchdogExpiry
  repeat' first
    | with_reducible assumption
    | with_reducible exact State.Later.refl _
    | (extract_lets +onlyGivenNames t; refine via (?_ : State.Later s t) (fun ht => ?_); subst t; rotate_left; clear_value t)
    | (extract_lets +onlyGivenNames t; clear_value t)
    | with_reducible apply goes_next
    | with_reducible (first | apply State.askReset_later | apply State.mramStop_later)
    | simp -zeta only [State.later_mk]
    | with_reducible refine goes_ite (fun _ => ?_) (fun _ => ?_)
    | with_reducible refine State.later_ite (fun _ => ?_) (fun _ => ?_)
    | split

theorem execFloorBurn_later (s : State) :
    Goes s (execFloorBurn s) := by
  delta execFloorBurn
  repeat' first
    | with_reducible assumption
    | with_reducible exact State.Later.refl _
    | (extract_lets +onlyGivenNames t; refine via (?_ : State.Later s t) (fun ht => ?_); subst t; rotate_left; clear_value t)
    | (extract_lets +onlyGivenNames t; clear_value t)
    | with_reducible apply goes_next
    | simp -zeta only [State.later_mk]
    | with_reducible refine goes_ite (fun _ => ?_) (fun _ => ?_)
    | with_reducible refine State.later_ite (fun _ => ?_) (fun _ => ?_)
    | split
    | (intro _ _; try dsimp -zeta only)

theorem execFuseBurnDone_later (s : State) :
    Goes s (execFuseBurnDone s) := by
  delta execFuseBurnDone
  repeat' first
    | with_reducible assumption
    | with_reducible exact State.Later.refl _
    | (extract_lets +onlyGivenNames t; refine via (?_ : State.Later s t) (fun ht => ?_); subst t; rotate_left; clear_value t)
    | (extract_lets +onlyGivenNames t; clear_value t)
    | with_reducible apply goes_next
    | with_reducible apply State.endBurn_later
    | simp -zeta only [State.later_mk]
    | with_reducible refine goes_ite (fun _ => ?_) (fun _ => ?_)
    | with_reducible refine State.later_ite (fun _ => ?_) (fun _ => ?_)
    | split

theorem execTmpCtrlClear_later (word : Nat) (switchLow : Bool) (s : State) :
    Goes s (execTmpCtrlClear word switchLow s) := by
  delta execTmpCtrlClear
  repeat' first
    | with_reducible assumption
    | with_reducible exact State.Later.refl _
    | (extract_lets +onlyGivenNames t; refine via (?_ : State.Later s t) (fun ht => ?_); subst t; rotate_left; clear_value t)
    | (extract_lets +onlyGivenNames t; clear_value t)
    | with_reducible apply goes_next
    | with_reducible apply State.tmpCtrl_later
    | simp -zeta only [State.later_mk]
    | with_reducible refine goes_ite (fun _ => ?_) (fun _ => ?_)
    | with_reducible refine State.later_ite (fun _ => ?_) (fun _ => ?_)
    | split

end Sys2Proof.Machine
end

