-- ==== Sys2Proof/Laws/RegReadLaws.lean ====
section
/-! SUPPORT. What the operations of Machine/RegRead.lean never do: each gives a state after its own (State.Later). -/

namespace Sys2Proof.Machine

open Sys2Proof.Crypto

theorem State.regRead_later {r' : State} (s : State) (off : Nat) (h' : r'.Later s) :
    LaterSnd r' (State.regRead s off) := by
  delta State.regRead
  repeat' first
    | with_reducible assumption
    | (extract_lets +onlyGivenNames t; refine via (?_ : State.Later r' t) (fun ht => ?_); subst t; rotate_left; clear_value t)
    | (extract_lets +onlyGivenNames t; have hf : State → State := t; clear hf; subst t; dsimp -zeta only)
    | (extract_lets +onlyGivenNames t; clear_value t)
    | simp -zeta only [State.later_mk]
    | with_reducible refine State.later_ite (fun _ => ?_) (fun _ => ?_)
    | split
    | with_reducible apply laterSnd_mk
    | (intro _ _; try dsimp -zeta only)

end Sys2Proof.Machine
end

