-- ==== Sys2Proof/Laws/DockCnLaws.lean ====
section
/-! SUPPORT. What the operations of Machine/DockCn.lean never do: each gives a state after its own (State.Later). -/

namespace Sys2Proof.Machine

open Sys2Proof.Crypto

theorem State.mailboxGo_later {r' : State} (s : State) (p op len : Nat) (h' : r'.Later s) :
    r'.Later (State.mailboxGo s p op len) := by
  delta State.mailboxGo
  repeat' first
    | with_reducible assumption
    | (extract_lets +onlyGivenNames t; refine via (?_ : State.Later r' t) (fun ht => ?_); subst t; rotate_left; clear_value t)
    | (extract_lets +onlyGivenNames t; clear_value t)
    | with_reducible (first | apply State.cnGo_later | apply State.endMailbox_later | apply State.setCn_later | apply State.setFlag_later | apply State.setFld_later)
    | simp -zeta only [State.later_mk]
    | with_reducible refine State.later_ite (fun _ => ?_) (fun _ => ?_)
    | split

theorem State.mailboxRx_later {r' : State} (s : State) (p : Nat) (payload : List Byte) (h' : r'.Later s) :
    r'.Later (State.mailboxRx s p payload) := by
  delta State.mailboxRx
  repeat' first
    | with_reducible assumption
    | (extract_lets +onlyGivenNames t; refine via (?_ : State.Later r' t) (fun ht => ?_); subst t; rotate_left; clear_value t)
    | (extract_lets +onlyGivenNames t; refine via (?_ : LaterSnd r' t) (fun ht => ?_); subst t; rotate_left; clear_value t)
    | (extract_lets +onlyGivenNames t; refine via (?_ : LaterFst r' t) (fun ht => ?_); subst t; rotate_left; clear_value t)
    | (extract_lets +onlyGivenNames t; clear_value t)
    | with_reducible apply State.setReg_later
    | with_reducible refine State.later_foldl (fun _ _ _ => ?_) _ ?_
    | with_reducible refine laterSnd_foldl (fun _ _ _ => ?_) _ ?_
    | with_reducible refine laterFst_foldl (fun _ _ _ => ?_) _ ?_
    | simp -zeta only [State.later_mk]
    | with_reducible refine State.later_ite (fun _ => ?_) (fun _ => ?_)
    | split
    | with_reducible apply laterSnd_mk
    | with_reducible apply laterFst_mk
    | with_reducible refine State.later_of_snd ?_
    | with_reducible refine LaterSnd.here ?_ (by assumption)
    | with_reducible refine State.later_of_fst ?_
    | with_reducible refine LaterFst.here ?_ (by assumption)
    | (intro _ _; try dsimp -zeta only)

theorem State.mailboxAnswer_later {r' : State} (s : State) (p op seq : Nat) (payload : List Byte) (h' : r'.Later s) :
    r'.Later (State.mailboxAnswer s p op seq payload) := by
  delta State.mailboxAnswer
  repeat' first
    | with_reducible assumption
    | (extract_lets +onlyGivenNames t; refine via (?_ : State.Later r' t) (fun ht => ?_); subst t; rotate_left; clear_value t)
    | (extract_lets +onlyGivenNames t; clear_value t)
    | with_reducible (first | apply State.cnGo_later | apply State.cnRest_later | apply State.endMailbox_later | apply State.mailboxRx_later | apply State.setFld_later)
    | simp -zeta only [State.later_mk]
    | with_reducible refine State.later_ite (fun _ => ?_) (fun _ => ?_)
    | split

theorem State.mailboxTimeout_later {r' : State} (s : State) (p : Nat) (h' : r'.Later s) :
    r'.Later (State.mailboxTimeout s p) := by
  delta State.mailboxTimeout
  repeat' first
    | with_reducible assumption
    | (extract_lets +onlyGivenNames t; refine via (?_ : State.Later r' t) (fun ht => ?_); subst t; rotate_left; clear_value t)
    | (extract_lets +onlyGivenNames t; clear_value t)
    | with_reducible (first | apply State.cnGo_later | apply State.emit_later | apply State.endMailbox_later | apply State.setCn_later)
    | simp -zeta only [State.later_mk]
    | with_reducible refine State.later_ite (fun _ => ?_) (fun _ => ?_)
    | split

theorem State.releaseCrst_later {r' : State} (s : State) (p : Nat) (h' : r'.Later s) :
    r'.Later (State.releaseCrst s p) := by
  delta State.releaseCrst
  repeat' first
    | with_reducible assumption
    | (extract_lets +onlyGivenNames t; refine via (?_ : State.Later r' t) (fun ht => ?_); subst t; rotate_left; clear_value t)
    | (extract_lets +onlyGivenNames t; clear_value t)
    | with_reducible (first | apply State.emit_later | apply State.setCn_later | apply State.setFld_later)
    | simp -zeta only [State.later_mk]
    | with_reducible refine State.later_ite (fun _ => ?_) (fun _ => ?_)
    | split

theorem State.atrFails_later {r' : State} (s : State) (p : Nat) (h' : r'.Later s) :
    r'.Later (State.atrFails s p) := by
  delta State.atrFails
  repeat' first
    | with_reducible assumption
    | (extract_lets +onlyGivenNames t; refine via (?_ : State.Later r' t) (fun ht => ?_); subst t; rotate_left; clear_value t)
    | (extract_lets +onlyGivenNames t; have hf : State → State := t; clear hf; subst t; dsimp -zeta only)
    | (extract_lets +onlyGivenNames t; clear_value t)
    | with_reducible (first | apply State.cnLow_later | apply State.cnReset_later | apply State.endWaiting_later | apply State.frameError_later | apply State.setCn_later | apply State.setFld_later | apply State.toLink_later)
    | simp -zeta only [State.later_mk]
    | with_reducible refine State.later_ite (fun _ => ?_) (fun _ => ?_)
    | split
    | (intro _ _; try dsimp -zeta only)

theorem State.atrTaken_later {r' : State} (s : State) (p : Nat) (b : List Byte) (h' : r'.Later s) :
    r'.Later (State.atrTaken s p b) := by
  delta State.atrTaken
  repeat' first
    | with_reducible assumption
    | (extract_lets +onlyGivenNames t; refine via (?_ : State.Later r' t) (fun ht => ?_); subst t; rotate_left; clear_value t)
    | (extract_lets +onlyGivenNames t; refine via (?_ : LaterSnd r' t) (fun ht => ?_); subst t; rotate_left; clear_value t)
    | (extract_lets +onlyGivenNames t; refine via (?_ : LaterFst r' t) (fun ht => ?_); subst t; rotate_left; clear_value t)
    | (extract_lets +onlyGivenNames t; have hf : State → State := t; clear hf; subst t; dsimp -zeta only)
    | (extract_lets +onlyGivenNames t; clear_value t)
    | with_reducible (first | apply State.emit_later | apply State.fire_later | apply State.setCn_later | apply State.setFlag_later | apply State.setFld_later | apply State.setReg_later)
    | with_reducible refine State.later_foldl (fun _ _ _ => ?_) _ ?_
    | with_reducible refine laterSnd_foldl (fun _ _ _ => ?_) _ ?_
    | with_reducible refine laterFst_foldl (fun _ _ _ => ?_) _ ?_
    | simp -zeta only [State.later_mk]
    | with_reducible refine State.later_ite (fun _ => ?_) (fun _ => ?_)
    | split
    | with_reducible apply laterSnd_mk
    | with_reducible apply laterFst_mk
    | with_reducible refine State.later_of_snd ?_
    | with_reducible refine LaterSnd.here ?_ (by assumption)
    | with_reducible refine State.later_of_fst ?_
    | with_reducible refine LaterFst.here ?_ (by assumption)
    | (intro _ _; try dsimp -zeta only)

theorem State.ppsOver_later {r' : State} (s : State) (p : Nat) (h' : r'.Later s) :
    r'.Later (State.ppsOver s p) := by
  delta State.ppsOver
  repeat' first
    | with_reducible assumption
    | (extract_lets +onlyGivenNames t; refine via (?_ : State.Later r' t) (fun ht => ?_); subst t; rotate_left; clear_value t)
    | (extract_lets +onlyGivenNames t; clear_value t)
    | with_reducible (first | apply State.askPair_later | apply State.cnRest_later | apply State.linkupFails_later | apply State.setCn_later | apply State.setFld_later)
    | simp -zeta only [State.later_mk]
    | with_reducible refine State.later_ite (fun _ => ?_) (fun _ => ?_)
    | split

theorem State.ppsAnswer_later {r' : State} (s : State) (p pps0 : Nat) (rest : List Byte) (h' : r'.Later s) :
    r'.Later (State.ppsAnswer s p pps0 rest) := by
  delta State.ppsAnswer
  repeat' first
    | with_reducible assumption
    | (extract_lets +onlyGivenNames t; refine via (?_ : State.Later r' t) (fun ht => ?_); subst t; rotate_left; clear_value t)
    | (extract_lets +onlyGivenNames t; clear_value t)
    | with_reducible (first | apply State.fire_later | apply State.frameError_later | apply State.ppsOver_later | apply State.setFld_later)
    | simp -zeta only [State.later_mk]
    | with_reducible refine State.later_ite (fun _ => ?_) (fun _ => ?_)
    | split

theorem State.dockPaired_later {r' : State} (s : State) (p slot : Nat) (h' : r'.Later s) :
    r'.Later (State.dockPaired s p slot) := by
  delta State.dockPaired
  repeat' first
    | with_reducible assumption
    | (extract_lets +onlyGivenNames t; refine via (?_ : State.Later r' t) (fun ht => ?_); subst t; rotate_left; clear_value t)
    | (extract_lets +onlyGivenNames t; clear_value t)
    | with_reducible (first | apply State.cnGo_later | apply State.dropPort_later | apply State.linkCmd_later | apply State.openSession_later | apply State.setCn_later | apply State.setFlag_later | apply State.setFld_later | apply State.setLink_later | apply State.setSp_later)
    | simp -zeta only [State.later_mk]
    | with_reducible refine State.later_ite (fun _ => ?_) (fun _ => ?_)
    | split

theorem State.pairAnswer_later {r' : State} (s : State) (p : Nat) (payload : List Byte) (h' : r'.Later s) :
    r'.Later (State.pairAnswer s p payload) := by
  delta State.pairAnswer
  repeat' first
    | with_reducible assumption
    | (extract_lets +onlyGivenNames t; refine via (?_ : State.Later r' t) (fun ht => ?_); subst t; rotate_left; clear_value t)
    | (extract_lets +onlyGivenNames t; clear_value t)
    | with_reducible (first | apply State.cnRequest_later | apply State.dockPaired_later | apply State.enrolEnds_later | apply State.fireD_later | apply State.linkupFails_later | apply State.setCn_later)
    | simp -zeta only [State.later_mk]
    | with_reducible refine State.later_ite (fun _ => ?_) (fun _ => ?_)
    | split

theorem State.startEnrol_later {r' : State} (s : State) (p slot : Nat) (h' : r'.Later s) :
    r'.Later (State.startEnrol s p slot) := by
  delta State.startEnrol
  repeat' first
    | with_reducible assumption
    | (extract_lets +onlyGivenNames t; refine via (?_ : State.Later r' t) (fun ht => ?_); subst t; rotate_left; clear_value t)
    | (extract_lets +onlyGivenNames t; clear_value t)
    | with_reducible (first | apply State.cnGo_later | apply State.setCn_later | apply State.setFlag_later | apply State.setFld_later)
    | simp -zeta only [State.later_mk]
    | with_reducible refine State.later_ite (fun _ => ?_) (fun _ => ?_)
    | split

theorem State.cnRestart_later {r' : State} (s : State) (p : Nat) (h' : r'.Later s) :
    r'.Later (State.cnRestart s p) := by
  delta State.cnRestart
  repeat' first
    | with_reducible assumption
    | (extract_lets +onlyGivenNames t; refine via (?_ : State.Later r' t) (fun ht => ?_); subst t; rotate_left; clear_value t)
    | (extract_lets +onlyGivenNames t; clear_value t)
    | with_reducible (first | apply State.cnReset_later | apply State.startLinkup_later)
    | simp -zeta only [State.later_mk]
    | with_reducible refine State.later_ite (fun _ => ?_) (fun _ => ?_)
    | split

theorem State.holdReset_later {r' : State} (s : State) (p : Nat) (on : Bool) (h' : r'.Later s) :
    r'.Later (State.holdReset s p on) := by
  delta State.holdReset
  repeat' first
    | with_reducible assumption
    | (extract_lets +onlyGivenNames t; refine via (?_ : State.Later r' t) (fun ht => ?_); subst t; rotate_left; clear_value t)
    | (extract_lets +onlyGivenNames t; clear_value t)
    | with_reducible (first | apply State.cnReset_later | apply State.setFlag_later | apply State.startLinkup_later)
    | simp -zeta only [State.later_mk]
    | with_reducible refine State.later_ite (fun _ => ?_) (fun _ => ?_)
    | split

theorem State.dockCtrlWrite_later {r' : State} (s : State) (p w : Nat) (h' : r'.Later s) :
    r'.Later (State.dockCtrlWrite s p w) := by
  delta State.dockCtrlWrite
  repeat' first
    | with_reducible assumption
    | (extract_lets +onlyGivenNames t; refine via (?_ : State.Later r' t) (fun ht => ?_); subst t; rotate_left; clear_value t)
    | (extract_lets +onlyGivenNames t; clear_value t)
    | with_reducible (first | apply State.cnRestart_later | apply State.holdReset_later | apply State.setFld_later | apply State.startEnrol_later)
    | simp -zeta only [State.later_mk]
    | with_reducible refine State.later_ite (fun _ => ?_) (fun _ => ?_)
    | split

theorem State.cdChange_later {r' : State} (s : State) (h' : r'.Later s) :
    r'.Later (State.cdChange s) := by
  delta State.cdChange
  repeat' first
    | with_reducible assumption
    | (extract_lets +onlyGivenNames t; refine via (?_ : State.Later r' t) (fun ht => ?_); subst t; rotate_left; clear_value t)
    | (extract_lets +onlyGivenNames t; clear_value t)
    | with_reducible apply State.wake_later
    | simp -zeta only [State.later_mk]
    | with_reducible refine State.later_ite (fun _ => ?_) (fun _ => ?_)
    | split

theorem execCardInsertion_later (port : Nat) (s : State) :
    Goes s (execCardInsertion port s) := by
  delta execCardInsertion
  repeat' first
    | with_reducible assumption
    | with_reducible exact State.Later.refl _
    | (extract_lets +onlyGivenNames t; refine via (?_ : State.Later s t) (fun ht => ?_); subst t; rotate_left; clear_value t)
    | (extract_lets +onlyGivenNames t; clear_value t)
    | with_reducible apply goes_next
    | with_reducible (first | apply State.cdChange_later | apply State.portInsert_later | apply State.setCn_later | apply State.setSp_later)
    | simp -zeta only [State.later_mk]
    | with_reducible refine goes_ite (fun _ => ?_) (fun _ => ?_)
    | with_reducible refine State.later_ite (fun _ => ?_) (fun _ => ?_)
    | split

theorem execInsDelayExpiry_later (port : Nat) (s : State) :
    Goes s (execInsDelayExpiry port s) := by
  delta execInsDelayExpiry
  repeat' first
    | with_reducible assumption
    | with_reducible exact State.Later.refl _
    | (extract_lets +onlyGivenNames t; refine via (?_ : State.Later s t) (fun ht => ?_); subst t; rotate_left; clear_value t)
    | (extract_lets +onlyGivenNames t; clear_value t)
    | with_reducible apply goes_next
    | with_reducible apply State.releaseCrst_later
    | simp -zeta only [State.later_mk]
    | with_reducible refine goes_ite (fun _ => ?_) (fun _ => ?_)
    | with_reducible refine State.later_ite (fun _ => ?_) (fun _ => ?_)
    | split

theorem execAtrReceived_later (port : Nat) (bytes : List Byte) (s : State) :
    Goes s (execAtrReceived port bytes s) := by
  delta execAtrReceived
  repeat' first
    | with_reducible assumption
    | with_reducible exact State.Later.refl _
    | (extract_lets +onlyGivenNames t; refine via (?_ : State.Later s t) (fun ht => ?_); subst t; rotate_left; clear_value t)
    | (extract_lets +onlyGivenNames t; refine via (?_ : LaterSnd s t) (fun ht => ?_); subst t; rotate_left; clear_value t)
    | (extract_lets +onlyGivenNames t; clear_value t)
    | with_reducible apply goes_next
    | with_reducible (first | apply State.atrFails_later | apply State.atrTaken_later | apply State.cnChars_later)
    | simp -zeta only [State.later_mk]
    | with_reducible refine goes_ite (fun _ => ?_) (fun _ => ?_)
    | with_reducible refine State.later_ite (fun _ => ?_) (fun _ => ?_)
    | split
    | with_reducible apply laterSnd_mk
    | with_reducible refine State.later_of_snd ?_
    | with_reducible refine LaterSnd.here ?_ (by assumption)

theorem execAtrTimeout_later (port : Nat) (s : State) :
    Goes s (execAtrTimeout port s) := by
  delta execAtrTimeout
  repeat' first
    | with_reducible assumption
    | with_reducible exact State.Later.refl _
    | (extract_lets +onlyGivenNames t; refine via (?_ : State.Later s t) (fun ht => ?_); subst t; rotate_left; clear_value t)
    | (extract_lets +onlyGivenNames t; clear_value t)
    | with_reducible apply goes_next
    | with_reducible apply State.atrFails_later
    | simp -zeta only [State.later_mk]
    | with_reducible refine goes_ite (fun _ => ?_) (fun _ => ?_)
    | with_reducible refine State.later_ite (fun _ => ?_) (fun _ => ?_)
    | split

theorem execLinkupRetryExpiry_later (port : Nat) (s : State) :
    Goes s (execLinkupRetryExpiry port s) := by
  delta execLinkupRetryExpiry
  repeat' first
    | with_reducible assumption
    | with_reducible exact State.Later.refl _
    | (extract_lets +onlyGivenNames t; refine via (?_ : State.Later s t) (fun ht => ?_); subst t; rotate_left; clear_value t)
    | (extract_lets +onlyGivenNames t; clear_value t)
    | with_reducible apply goes_next
    | with_reducible apply State.releaseCrst_later
    | simp -zeta only [State.later_mk]
    | with_reducible refine goes_ite (fun _ => ?_) (fun _ => ?_)
    | with_reducible refine State.later_ite (fun _ => ?_) (fun _ => ?_)
    | split

theorem execRelinkExpiry_later (port : Nat) (s : State) :
    Goes s (execRelinkExpiry port s) := by
  delta execRelinkExpiry
  repeat' first
    | with_reducible assumption
    | with_reducible exact State.Later.refl _
    | (extract_lets +onlyGivenNames t; refine via (?_ : State.Later s t) (fun ht => ?_); subst t; rotate_left; clear_value t)
    | (extract_lets +onlyGivenNames t; clear_value t)
    | with_reducible apply goes_next
    | with_reducible (first | apply State.releaseCrst_later | apply State.startLinkup_later)
    | simp -zeta only [State.later_mk]
    | with_reducible refine goes_ite (fun _ => ?_) (fun _ => ?_)
    | with_reducible refine State.later_ite (fun _ => ?_) (fun _ => ?_)
    | split

theorem State.ownAnswer_later {r' : State} (s : State) (p op seq : Nat) (payload : List Byte) (h' : r'.Later s) :
    r'.Later (State.ownAnswer s p op seq payload) := by
  delta State.ownAnswer
  repeat' first
    | with_reducible assumption
    | (extract_lets +onlyGivenNames t; refine via (?_ : State.Later r' t) (fun ht => ?_); subst t; rotate_left; clear_value t)
    | (extract_lets +onlyGivenNames t; clear_value t)
    | with_reducible (first | apply State.cnRest_later | apply State.pairAnswer_later | apply State.ppsAnswer_later)
    | simp -zeta only [State.later_mk]
    | with_reducible refine State.later_ite (fun _ => ?_) (fun _ => ?_)
    | split

theorem State.cnFrom_later {r' : State} (s : State) (p op : Nat) (f : State → State) (h' : r'.Later s)
    (k : ∀ t, r'.Later t → r'.Later (f t)) : r'.Later (State.cnFrom s p op f) := by
  have hc : LaterSnd r' (s.cnReceive p op) := State.cnReceive_later _ _ _ h'
  unfold State.cnFrom
  dsimp only
  split
  · exact h'
  · split
    · exact k _ hc
    · exact hc

theorem execDockCounletResponse_later (port op seq : Nat) (payload : List Byte) (s : State) :
    Goes s (execDockCounletResponse port op seq payload s) := by
  delta execDockCounletResponse
  repeat' first
    | with_reducible assumption
    | with_reducible exact State.Later.refl _
    | (extract_lets +onlyGivenNames t; refine via (?_ : State.Later s t) (fun ht => ?_); subst t; rotate_left; clear_value t)
    | (extract_lets +onlyGivenNames t; clear_value t)
    | with_reducible apply goes_next
    | with_reducible (first | apply State.cnFrom_later | apply State.ownAnswer_later)
    | simp -zeta only [State.later_mk]
    | with_reducible refine goes_ite (fun _ => ?_) (fun _ => ?_)
    | with_reducible refine State.later_ite (fun _ => ?_) (fun _ => ?_)
    | split
    | (intro _ _; try dsimp -zeta only)

theorem execMbxGo_later (port op len : Nat) (s : State) :
    Goes s (execMbxGo port op len s) := by
  delta execMbxGo
  repeat' first
    | with_reducible assumption
    | with_reducible exact State.Later.refl _
    | (extract_lets +onlyGivenNames t; refine via (?_ : State.Later s t) (fun ht => ?_); subst t; rotate_left; clear_value t)
    | (extract_lets +onlyGivenNames t; clear_value t)
    | with_reducible apply goes_next
    | with_reducible (first | apply State.mailboxGo_later | apply State.touchPage_later)
    | simp -zeta only [State.later_mk]
    | with_reducible refine goes_ite (fun _ => ?_) (fun _ => ?_)
    | with_reducible refine State.later_ite (fun _ => ?_) (fun _ => ?_)
    | split

theorem execMbxResponse_later (port op seq : Nat) (payload : List Byte) (s : State) :
    Goes s (execMbxResponse port op seq payload s) := by
  delta execMbxResponse
  repeat' first
    | with_reducible assumption
    | with_reducible exact State.Later.refl _
    | (extract_lets +onlyGivenNames t; refine via (?_ : State.Later s t) (fun ht => ?_); subst t; rotate_left; clear_value t)
    | (extract_lets +onlyGivenNames t; clear_value t)
    | with_reducible apply goes_next
    | with_reducible (first | apply State.cnFrom_later | apply State.mailboxAnswer_later)
    | simp -zeta only [State.later_mk]
    | with_reducible refine goes_ite (fun _ => ?_) (fun _ => ?_)
    | with_reducible refine State.later_ite (fun _ => ?_) (fun _ => ?_)
    | split
    | (intro _ _; try dsimp -zeta only)

theorem execMbxRespTimeout_later (port : Nat) (s : State) :
    Goes s (execMbxRespTimeout port s) := by
  delta execMbxRespTimeout
  repeat' first
    | with_reducible assumption
    | with_reducible exact State.Later.refl _
    | (extract_lets +onlyGivenNames t; refine via (?_ : State.Later s t) (fun ht => ?_); subst t; rotate_left; clear_value t)
    | (extract_lets +onlyGivenNames t; clear_value t)
    | with_reducible apply goes_next
    | with_reducible apply State.mailboxTimeout_later
    | simp -zeta only [State.later_mk]
    | with_reducible refine goes_ite (fun _ => ?_) (fun _ => ?_)
    | with_reducible refine State.later_ite (fun _ => ?_) (fun _ => ?_)
    | split

theorem execCnRestart_later (port : Nat) (s : State) :
    Goes s (execCnRestart port s) := by
  delta execCnRestart
  repeat' first
    | with_reducible assumption
    | with_reducible exact State.Later.refl _
    | (extract_lets +onlyGivenNames t; refine via (?_ : State.Later s t) (fun ht => ?_); subst t; rotate_left; clear_value t)
    | (extract_lets +onlyGivenNames t; clear_value t)
    | with_reducible apply goes_next
    | with_reducible (first | apply State.cnRestart_later | apply State.touchPage_later)
    | simp -zeta only [State.later_mk]
    | with_reducible refine goes_ite (fun _ => ?_) (fun _ => ?_)
    | with_reducible refine State.later_ite (fun _ => ?_) (fun _ => ?_)
    | split

theorem execEnrolReq_later (port slot : Nat) (s : State) :
    Goes s (execEnrolReq port slot s) := by
  delta execEnrolReq
  repeat' first
    | with_reducible assumption
    | with_reducible exact State.Later.refl _
    | (extract_lets +onlyGivenNames t; refine via (?_ : State.Later s t) (fun ht => ?_); subst t; rotate_left; clear_value t)
    | (extract_lets +onlyGivenNames t; clear_value t)
    | with_reducible apply goes_next
    | with_reducible (first | apply State.startEnrol_later | apply State.touchPage_later)
    | simp -zeta only [State.later_mk]
    | with_reducible refine goes_ite (fun _ => ?_) (fun _ => ?_)
    | with_reducible refine State.later_ite (fun _ => ?_) (fun _ => ?_)
    | split

theorem execHoldReset_later (port : Nat) (on : Bool) (s : State) :
    Goes s (execHoldReset port on s) := by
  delta execHoldReset
  repeat' first
    | with_reducible assumption
    | with_reducible exact State.Later.refl _
    | (extract_lets +onlyGivenNames t; refine via (?_ : State.Later s t) (fun ht => ?_); subst t; rotate_left; clear_value t)
    | (extract_lets +onlyGivenNames t; clear_value t)
    | with_reducible apply goes_next
    | with_reducible (first | apply State.holdReset_later | apply State.touchPage_later)
    | simp -zeta only [State.later_mk]
    | with_reducible refine goes_ite (fun _ => ?_) (fun _ => ?_)
    | with_reducible refine State.later_ite (fun _ => ?_) (fun _ => ?_)
    | split

theorem execCardRemoval_later (port highUs : Nat) (s : State) :
    Goes s (execCardRemoval port highUs s) := by
  delta execCardRemoval
  repeat' first
    | with_reducible assumption
    | with_reducible exact State.Later.refl _
    | (extract_lets +onlyGivenNames t; refine via (?_ : State.Later s t) (fun ht => ?_); subst t; rotate_left; clear_value t)
    | (extract_lets +onlyGivenNames t; clear_value t)
    | with_reducible apply goes_next
    | with_reducible (first | apply State.cdChange_later | apply State.pump_later | apply State.removePort_later | apply State.setCn_later | apply State.setFlag_later | apply State.spend_later)
    | simp -zeta only [State.later_mk]
    | with_reducible refine goes_ite (fun _ => ?_) (fun _ => ?_)
    | with_reducible refine State.later_ite (fun _ => ?_) (fun _ => ?_)
    | split

end Sys2Proof.Machine
end

