-- ==== Sys2Proof/Laws/RegWriteLaws.lean ====
section
/-! SUPPORT. What the operations of Machine/RegWrite.lean never do: each gives a state after its own (State.Later). -/

namespace Sys2Proof.Machine

open Sys2Proof.Crypto

theorem State.headerWrite_later {r' : State} (s : State) (p o w : Nat) (h' : r'.Later s) :
    r'.Later (State.headerWrite s p o w) := by
  delta State.headerWrite
  repeat' first
    | with_reducible assumption
    | (extract_lets +onlyGivenNames t; refine via (?_ : State.Later r' t) (fun ht => ?_); subst t; rotate_left; clear_value t)
    | (extract_lets +onlyGivenNames t; clear_value t)
    | with_reducible (first | apply State.armInject_later | apply State.evtTest_later | apply State.injWrite_later | apply State.lockPage_later | apply State.maskWrite_later | apply State.pendClear_later | apply State.pgCtrlWrite_later | apply State.touchPage_later)
    | simp -zeta only [State.later_mk]
    | with_reducible refine State.later_ite (fun _ => ?_) (fun _ => ?_)
    | split

theorem State.plainWrite_later {r' : State} (s : State) (p o w : Nat) (h' : r'.Later s) :
    r'.Later (State.plainWrite s p o w) := by
  delta State.plainWrite
  repeat' first
    | with_reducible assumption
    | (extract_lets +onlyGivenNames t; refine via (?_ : State.Later r' t) (fun ht => ?_); subst t; rotate_left; clear_value t)
    | (extract_lets +onlyGivenNames t; clear_value t)
    | with_reducible apply State.setReg_later
    | simp -zeta only [State.later_mk]
    | with_reducible refine State.later_ite (fun _ => ?_) (fun _ => ?_)
    | split

theorem State.mbxCtrlWrite_later {r' : State} (s : State) (p w : Nat) (h' : r'.Later s) :
    r'.Later (State.mbxCtrlWrite s p w) := by
  delta State.mbxCtrlWrite
  repeat' first
    | with_reducible assumption
    | (extract_lets +onlyGivenNames t; refine via (?_ : State.Later r' t) (fun ht => ?_); subst t; rotate_left; clear_value t)
    | (extract_lets +onlyGivenNames t; clear_value t)
    | with_reducible (first | apply State.mailboxGo_later | apply State.setFld_later)
    | simp -zeta only [State.later_mk]
    | with_reducible refine State.later_ite (fun _ => ?_) (fun _ => ?_)
    | split

theorem State.bodyWrite_later {r' : State} (s : State) (p o w : Nat) (h' : r'.Later s) :
    r'.Later (State.bodyWrite s p o w) := by
  delta State.bodyWrite
  repeat' first
    | with_reducible assumption
    | (extract_lets +onlyGivenNames t; refine via (?_ : State.Later r' t) (fun ht => ?_); subst t; rotate_left; clear_value t)
    | (extract_lets +onlyGivenNames t; clear_value t)
    | with_reducible (first | apply State.brgCtrl_later | apply State.chipReset_later | apply State.dfwAddr_later | apply State.dfwCtrl_later | apply State.dfwData_later | apply State.dockCtrlWrite_later | apply State.fltClear_later | apply State.importWrite_later | apply State.insWrite_later | apply State.invalWrite_later | apply State.keyCtrl_later | apply State.lckCtrl_later | apply State.lseCtrl_later | apply State.mbxCtrlWrite_later | apply State.medCtrl_later | apply State.plainWrite_later | apply State.pwrCtrl_later | apply State.qosWrite_later | apply State.ringClear_later | apply State.ringTailWrite_later | apply State.spCtrl_later | apply State.tmpCtrl_later | apply State.treCtrl_later)
    | simp -zeta only [State.later_mk]
    | with_reducible refine State.later_ite (fun _ => ?_) (fun _ => ?_)
    | split

theorem State.regWrite_later {r' : State} (s : State) (off v be : Nat) (h' : r'.Later s) :
    r'.Later (State.regWrite s off v be) := by
  delta State.regWrite
  repeat' first
    | with_reducible assumption
    | (extract_lets +onlyGivenNames t; refine via (?_ : State.Later r' t) (fun ht => ?_); subst t; rotate_left; clear_value t)
    | (extract_lets +onlyGivenNames t; clear_value t)
    | with_reducible (first | apply State.bodyWrite_later | apply State.headerWrite_later | apply State.touchPage_later)
    | simp -zeta only [State.later_mk]
    | with_reducible refine State.later_ite (fun _ => ?_) (fun _ => ?_)
    | split

theorem State.pathRead_later {r' : State} (s : State) (path : Path) (off : Nat) (h' : r'.Later s) :
    LaterSnd r' (State.pathRead s path off) := by
  delta State.pathRead
  repeat' first
    | with_reducible assumption
    | (extract_lets +onlyGivenNames t; refine via (?_ : State.Later r' t) (fun ht => ?_); subst t; rotate_left; clear_value t)
    | (extract_lets +onlyGivenNames t; refine via (?_ : LaterSnd r' t) (fun ht => ?_); subst t; rotate_left; clear_value t)
    | (extract_lets +onlyGivenNames t; clear_value t)
    | with_reducible apply State.regRead_later
    | simp -zeta only [State.later_mk]
    | with_reducible refine State.later_ite (fun _ => ?_) (fun _ => ?_)
    | split
    | with_reducible apply laterSnd_mk
    | with_reducible refine State.later_of_snd ?_
    | with_reducible refine LaterSnd.here ?_ (by assumption)

theorem State.hostRead_later {r' : State} (s : State) (path : Path) (off bytes : Nat) (h' : r'.Later s) :
    r'.Later (State.hostRead s path off bytes) := by
  delta State.hostRead
  repeat' first
    | with_reducible assumption
    | (extract_lets +onlyGivenNames t; refine via (?_ : State.Later r' t) (fun ht => ?_); subst t; rotate_left; clear_value t)
    | (extract_lets +onlyGivenNames t; refine via (?_ : LaterSnd r' t) (fun ht => ?_); subst t; rotate_left; clear_value t)
    | (extract_lets +onlyGivenNames t; clear_value t)
    | with_reducible (first | apply State.emit_later | apply State.pathRead_later)
    | simp -zeta only [State.later_mk]
    | with_reducible refine State.later_ite (fun _ => ?_) (fun _ => ?_)
    | split
    | with_reducible apply laterSnd_mk
    | with_reducible refine State.later_of_snd ?_
    | with_reducible refine LaterSnd.here ?_ (by assumption)

theorem State.pathWrite_later {r' : State} (s : State) (path : Path) (off w be : Nat) (h' : r'.Later s) :
    r'.Later (State.pathWrite s path off w be) := by
  delta State.pathWrite
  repeat' first
    | with_reducible assumption
    | (extract_lets +onlyGivenNames t; refine via (?_ : State.Later r' t) (fun ht => ?_); subst t; rotate_left; clear_value t)
    | (extract_lets +onlyGivenNames t; clear_value t)
    | with_reducible (first | apply State.barWrite_later | apply State.cfgWrite_later | apply State.regWrite_later)
    | simp -zeta only [State.later_mk]
    | with_reducible refine State.later_ite (fun _ => ?_) (fun _ => ?_)
    | split

theorem State.hostWrite_later {r' : State} (s : State) (path : Path) (off v be : Nat) (h' : r'.Later s) :
    r'.Later (State.hostWrite s path off v be) := by
  delta State.hostWrite
  repeat' first
    | with_reducible assumption
    | (extract_lets +onlyGivenNames t; refine via (?_ : State.Later r' t) (fun ht => ?_); subst t; rotate_left; clear_value t)
    | (extract_lets +onlyGivenNames t; clear_value t)
    | with_reducible apply State.pathWrite_later
    | simp -zeta only [State.later_mk]
    | with_reducible refine State.later_ite (fun _ => ?_) (fun _ => ?_)
    | split

end Sys2Proof.Machine
end

