-- ==== Sys2Proof/Laws/CardRunLaws.lean ====
section
/-! SUPPORT. What the operations of Machine/CardRun.lean never do: each gives a state after its own (State.Later). -/

namespace Sys2Proof.Machine

open Sys2Proof.Crypto

theorem State.sendAll_later {r' : State} (s : State) (o : Outst) (units : List (List Byte)) (st info : Nat) (h' : r'.Later s) :
    r'.Later (State.sendAll s o units st info) := by
  delta State.sendAll
  repeat' first
    | with_reducible assumption
    | (extract_lets +onlyGivenNames t; refine via (?_ : State.Later r' t) (fun ht => ?_); subst t; rotate_left; clear_value t)
    | (extract_lets +onlyGivenNames t; clear_value t)
    | with_reducible (first | apply State.done_later | apply State.updOut_later)
    | simp -zeta only [State.later_mk]
    | with_reducible refine State.later_ite (fun _ => ?_) (fun _ => ?_)
    | split
    | (intro _ _; try dsimp -zeta only)

theorem State.readbackFails_later {r' : State} (s : State) (o : Outst) (r : JRec) (inj : Bool) (h' : r'.Later s) :
    r'.Later (State.readbackFails s o r inj) := by
  delta State.readbackFails
  repeat' first
    | with_reducible assumption
    | (extract_lets +onlyGivenNames t; refine via (?_ : State.Later r' t) (fun ht => ?_); subst t; rotate_left; clear_value t)
    | (extract_lets +onlyGivenNames t; clear_value t)
    | with_reducible (first | apply State.done_later | apply State.readbackLost_later)
    | simp -zeta only [State.later_mk]
    | with_reducible refine State.later_ite (fun _ => ?_) (fun _ => ?_)
    | split

theorem State.noteLat_later {r' : State} (s : State) (lat : Nat) (h' : r'.Later s) :
    r'.Later (State.noteLat s lat) := by
  delta State.noteLat
  repeat' first
    | with_reducible assumption
    | (extract_lets +onlyGivenNames t; refine via (?_ : State.Later r' t) (fun ht => ?_); subst t; rotate_left; clear_value t)
    | (extract_lets +onlyGivenNames t; clear_value t)
    | with_reducible (first | apply State.raiseTo_later | apply State.setFld_later)
    | simp -zeta only [State.later_mk]
    | with_reducible refine State.later_ite (fun _ => ?_) (fun _ => ?_)
    | split

theorem State.segJoin_later {r' : State} (s : State) (seq : Nat) (h' : r'.Later s) :
    r'.Later (State.segJoin s seq) := by
  delta State.segJoin
  repeat' first
    | with_reducible assumption
    | (extract_lets +onlyGivenNames t; refine via (?_ : State.Later r' t) (fun ht => ?_); subst t; rotate_left; clear_value t)
    | (extract_lets +onlyGivenNames t; clear_value t)
    | with_reducible apply State.segTake_later
    | simp -zeta only [State.later_mk]
    | with_reducible refine State.later_ite (fun _ => ?_) (fun _ => ?_)
    | split

theorem State.countWritten_later {r' : State} (s : State) (h' : r'.Later s) :
    r'.Later (State.countWritten s) := by
  delta State.countWritten
  repeat' first
    | with_reducible assumption
    | (extract_lets +onlyGivenNames t; refine via (?_ : State.Later r' t) (fun ht => ?_); subst t; rotate_left; clear_value t)
    | (extract_lets +onlyGivenNames t; clear_value t)
    | simp -zeta only [State.later_mk]
    | with_reducible refine State.later_ite (fun _ => ?_) (fun _ => ?_)
    | split

theorem State.commitUnits_later {r' : State} (fc fuel : Nat) :
    ∀ s : State, r'.Later s → r'.Later (State.commitUnits fc fuel s) := by
  induction fuel with
  | zero => exact fun _ h => h
  | succ n ih =>
    intro s h
    unfold State.commitUnits
    split
    · exact h
    · rename_i o _
      dsimp only
      split
      · rename_i u rest r _ _
        have hc : r'.Later ((s.commitRec r u).injUsed pLND 1) := State.injUsed_later _ _ _ (State.commitRec_later _ _ _ h)
        generalize (s.commitRec r u).injUsed pLND 1 = t at hc ⊢
        split
        · exact State.readbackFails_later _ _ _ _ hc
        · have hu : ∀ o' : Outst, r'.Later (((t.segJoin r.seq).countWritten).updOut fc (fun _ => o')) :=
            fun o' => State.updOut_later _ _ _ (State.countWritten_later _ (State.segJoin_later _ _ hc))
          split
          · exact State.done_later _ _ _ _ (State.noteLat_later _ _ (hu _))
          · split
            · exact State.done_later _ _ _ _ (hu _)
            · exact ih _ (hu _)
      · exact h

theorem State.startWrite_later {r' : State} (s : State) (o : Outst) (h' : r'.Later s) :
    r'.Later (State.startWrite s o) := by
  delta State.startWrite
  repeat' first
    | with_reducible assumption
    | (extract_lets +onlyGivenNames t; refine via (?_ : State.Later r' t) (fun ht => ?_); subst t; rotate_left; clear_value t)
    | (extract_lets +onlyGivenNames t; have hf : State → State := t; clear hf; subst t; dsimp -zeta only)
    | (extract_lets +onlyGivenNames t; clear_value t)
    | with_reducible (first | apply State.allocWrites_later | apply State.commitUnits_later | apply State.done_later | apply State.noteFull_later | apply State.noteHigh_later | apply State.updOut_later)
    | simp -zeta only [State.later_mk]
    | with_reducible refine State.later_ite (fun _ => ?_) (fun _ => ?_)
    | split
    | (intro _ _; try dsimp -zeta only)

theorem State.startDiscard_later {r' : State} (s : State) (o : Outst) (h' : r'.Later s) :
    r'.Later (State.startDiscard s o) := by
  delta State.startDiscard
  repeat' first
    | with_reducible assumption
    | (extract_lets +onlyGivenNames t; refine via (?_ : State.Later r' t) (fun ht => ?_); subst t; rotate_left; clear_value t)
    | (extract_lets +onlyGivenNames t; clear_value t)
    | with_reducible (first | apply State.allocRecord_later | apply State.commitRec_later | apply State.done_later | apply State.injUsed_later | apply State.noteFull_later | apply State.noteHigh_later | apply State.readbackFails_later | apply State.segJoin_later)
    | simp -zeta only [State.later_mk]
    | with_reducible refine State.later_ite (fun _ => ?_) (fun _ => ?_)
    | split

theorem State.startRead_later {r' : State} (s : State) (o : Outst) (h' : r'.Later s) :
    r'.Later (State.startRead s o) := by
  delta State.startRead
  repeat' first
    | with_reducible assumption
    | (extract_lets +onlyGivenNames t; refine via (?_ : State.Later r' t) (fun ht => ?_); subst t; rotate_left; clear_value t)
    | (extract_lets +onlyGivenNames t; refine via (?_ : LaterFourth r' t) (fun ht => ?_); subst t; rotate_left; clear_value t)
    | (extract_lets +onlyGivenNames t; clear_value t)
    | with_reducible (first | apply State.readUnits_later | apply State.sendAll_later)
    | simp -zeta only [State.later_mk]
    | with_reducible refine State.later_ite (fun _ => ?_) (fun _ => ?_)
    | split
    | with_reducible apply laterFourth_mk
    | with_reducible refine State.later_of_fourth ?_
    | with_reducible refine LaterFourth.here ?_ (by assumption)

theorem State.startBarrier_later {r' : State} (s : State) (o : Outst) (h' : r'.Later s) :
    r'.Later (State.startBarrier s o) := by
  delta State.startBarrier
  repeat' first
    | with_reducible assumption
    | (extract_lets +onlyGivenNames t; refine via (?_ : State.Later r' t) (fun ht => ?_); subst t; rotate_left; clear_value t)
    | (extract_lets +onlyGivenNames t; clear_value t)
    | with_reducible (first | apply State.done_later | apply State.fireI_later)
    | simp -zeta only [State.later_mk]
    | with_reducible refine State.later_ite (fun _ => ?_) (fun _ => ?_)
    | split

theorem State.startSettle_later {r' : State} (s : State) (o : Outst) (h' : r'.Later s) :
    r'.Later (State.startSettle s o) := by
  delta State.startSettle
  repeat' first
    | with_reducible assumption
    | (extract_lets +onlyGivenNames t; refine via (?_ : State.Later r' t) (fun ht => ?_); subst t; rotate_left; clear_value t)
    | (extract_lets +onlyGivenNames t; have hf : State → State := t; clear hf; subst t; dsimp -zeta only)
    | (extract_lets +onlyGivenNames t; clear_value t)
    | with_reducible (first | apply State.padHalf_later | apply State.updOut_later)
    | simp -zeta only [State.later_mk]
    | with_reducible refine State.later_ite (fun _ => ?_) (fun _ => ?_)
    | split
    | (intro _ _; try dsimp -zeta only)

theorem State.startSegOpen_later {r' : State} (s : State) (o : Outst) (h' : r'.Later s) :
    r'.Later (State.startSegOpen s o) := by
  delta State.startSegOpen
  repeat' first
    | with_reducible assumption
    | (extract_lets +onlyGivenNames t; refine via (?_ : State.Later r' t) (fun ht => ?_); subst t; rotate_left; clear_value t)
    | (extract_lets +onlyGivenNames t; clear_value t)
    | with_reducible (first | apply State.done_later | apply State.openSegment_later)
    | simp -zeta only [State.later_mk]
    | with_reducible refine State.later_ite (fun _ => ?_) (fun _ => ?_)
    | split

theorem State.startSegClose_later {r' : State} (s : State) (o : Outst) (h' : r'.Later s) :
    r'.Later (State.startSegClose s o) := by
  delta State.startSegClose
  repeat' first
    | with_reducible assumption
    | (extract_lets +onlyGivenNames t; refine via (?_ : State.Later r' t) (fun ht => ?_); subst t; rotate_left; clear_value t)
    | (extract_lets +onlyGivenNames t; refine via (?_ : LaterThird r' t) (fun ht => ?_); subst t; rotate_left; clear_value t)
    | (extract_lets +onlyGivenNames t; have hf : State → State := t; clear hf; subst t; dsimp -zeta only)
    | (extract_lets +onlyGivenNames t; clear_value t)
    | with_reducible (first | apply State.closeSegment_later | apply State.done_later | apply State.sendAll_later | apply State.updOut_later)
    | simp -zeta only [State.later_mk]
    | with_reducible refine State.later_ite (fun _ => ?_) (fun _ => ?_)
    | split
    | with_reducible apply laterThird_mk
    | with_reducible refine State.later_of_third ?_
    | with_reducible refine LaterThird.here ?_ (by assumption)
    | (intro _ _; try dsimp -zeta only)

theorem State.verifyFails_later {r' : State} (s : State) (o : Outst) (st info : Nat) (h' : r'.Later s) :
    r'.Later (State.verifyFails s o st info) := by
  delta State.verifyFails
  repeat' first
    | with_reducible assumption
    | (extract_lets +onlyGivenNames t; refine via (?_ : State.Later r' t) (fun ht => ?_); subst t; rotate_left; clear_value t)
    | (extract_lets +onlyGivenNames t; clear_value t)
    | with_reducible (first | apply State.bump_later | apply State.done_later | apply State.fireI_later)
    | simp -zeta only [State.later_mk]
    | with_reducible refine State.later_ite (fun _ => ?_) (fun _ => ?_)
    | split

theorem State.startSegVerify_later {r' : State} (s : State) (o : Outst) (h' : r'.Later s) :
    r'.Later (State.startSegVerify s o) := by
  delta State.startSegVerify
  repeat' first
    | with_reducible assumption
    | (extract_lets +onlyGivenNames t; refine via (?_ : State.Later r' t) (fun ht => ?_); subst t; rotate_left; clear_value t)
    | (extract_lets +onlyGivenNames t; refine via (?_ : LaterThird r' t) (fun ht => ?_); subst t; rotate_left; clear_value t)
    | (extract_lets +onlyGivenNames t; clear_value t)
    | with_reducible (first | apply State.done_later | apply State.verifyFails_later | apply State.verifyRange_later)
    | simp -zeta only [State.later_mk]
    | with_reducible refine State.later_ite (fun _ => ?_) (fun _ => ?_)
    | split
    | with_reducible apply laterThird_mk
    | with_reducible refine State.later_of_third ?_
    | with_reducible refine LaterThird.here ?_ (by assumption)

theorem State.readRegs_later {r' : State} (n : Nat) :
    ∀ (s : State) (off : Nat), r'.Later s → LaterSnd r' (s.readRegs off n) := by
  induction n with
  | zero => exact fun _ _ h => h
  | succ n ih => exact fun s off h => ih _ _ (State.regRead_later _ _ h)

theorem State.startRegRd_later {r' : State} (s : State) (o : Outst) (h' : r'.Later s) :
    r'.Later (State.startRegRd s o) := by
  delta State.startRegRd
  repeat' first
    | with_reducible assumption
    | (extract_lets +onlyGivenNames t; refine via (?_ : State.Later r' t) (fun ht => ?_); subst t; rotate_left; clear_value t)
    | (extract_lets +onlyGivenNames t; refine via (?_ : LaterSnd r' t) (fun ht => ?_); subst t; rotate_left; clear_value t)
    | (extract_lets +onlyGivenNames t; clear_value t)
    | with_reducible (first | apply State.readRegs_later | apply State.sendAll_later)
    | simp -zeta only [State.later_mk]
    | with_reducible refine State.later_ite (fun _ => ?_) (fun _ => ?_)
    | split
    | with_reducible apply laterSnd_mk
    | with_reducible refine State.later_of_snd ?_
    | with_reducible refine LaterSnd.here ?_ (by assumption)

theorem State.writeRegs_later {r' : State} (ws : List (List Byte)) :
    ∀ (s : State) (off : Nat), r'.Later s → r'.Later (s.writeRegs off ws) := by
  induction ws with
  | nil => exact fun _ _ h => h
  | cons w ws ih =>
    intro s off h
    unfold State.writeRegs
    refine ih _ _ ?_
    split
    · exact h
    · exact State.regWrite_later _ _ _ _ h

theorem State.startRegWr_later {r' : State} (s : State) (o : Outst) (h' : r'.Later s) :
    r'.Later (State.startRegWr s o) := by
  delta State.startRegWr
  repeat' first
    | with_reducible assumption
    | (extract_lets +onlyGivenNames t; refine via (?_ : State.Later r' t) (fun ht => ?_); subst t; rotate_left; clear_value t)
    | (extract_lets +onlyGivenNames t; clear_value t)
    | with_reducible (first | apply State.done_later | apply State.regWrite_later | apply State.writeRegs_later)
    | simp -zeta only [State.later_mk]
    | with_reducible refine State.later_ite (fun _ => ?_) (fun _ => ?_)
    | split

theorem State.startTuneRd_later {r' : State} (s : State) (o : Outst) (h' : r'.Later s) :
    r'.Later (State.startTuneRd s o) := by
  delta State.startTuneRd
  repeat' first
    | with_reducible assumption
    | (extract_lets +onlyGivenNames t; refine via (?_ : State.Later r' t) (fun ht => ?_); subst t; rotate_left; clear_value t)
    | (extract_lets +onlyGivenNames t; clear_value t)
    | with_reducible (first | apply State.done_later | apply State.emit_later)
    | simp -zeta only [State.later_mk]
    | with_reducible refine State.later_ite (fun _ => ?_) (fun _ => ?_)
    | split

theorem State.tuneOver_later {r' : State} (s : State) (h' : r'.Later s) :
    r'.Later (State.tuneOver s) := by
  delta State.tuneOver
  repeat' first
    | with_reducible assumption
    | (extract_lets +onlyGivenNames t; refine via (?_ : State.Later r' t) (fun ht => ?_); subst t; rotate_left; clear_value t)
    | (extract_lets +onlyGivenNames t; clear_value t)
    | with_reducible apply State.fire_later
    | simp -zeta only [State.later_mk]
    | with_reducible refine State.later_ite (fun _ => ?_) (fun _ => ?_)
    | split

theorem State.noteTuneWr_later {r' : State} (s : State) (lines : Nat) (h' : r'.Later s) :
    r'.Later (State.noteTuneWr s lines) := by
  delta State.noteTuneWr
  repeat' first
    | with_reducible assumption
    | (extract_lets +onlyGivenNames t; refine via (?_ : State.Later r' t) (fun ht => ?_); subst t; rotate_left; clear_value t)
    | (extract_lets +onlyGivenNames t; clear_value t)
    | with_reducible apply State.tuneOver_later
    | simp -zeta only [State.later_mk]
    | with_reducible refine State.later_ite (fun _ => ?_) (fun _ => ?_)
    | split

theorem State.runTuneWr_later {r' : State} (s : State) (o : Outst) (lines : Nat) (h' : r'.Later s) :
    r'.Later (State.runTuneWr s o lines) := by
  delta State.runTuneWr
  repeat' first
    | with_reducible assumption
    | (extract_lets +onlyGivenNames t; refine via (?_ : State.Later r' t) (fun ht => ?_); subst t; rotate_left; clear_value t)
    | (extract_lets +onlyGivenNames t; have hf : State → State := t; clear hf; subst t; dsimp -zeta only)
    | (extract_lets +onlyGivenNames t; clear_value t)
    | with_reducible (first | apply State.done_later | apply State.finish_later | apply State.noteTuneWr_later | apply State.setFlag_later | apply State.setTaps_later | apply State.tunePassed_later)
    | simp -zeta only [State.later_mk]
    | with_reducible refine State.later_ite (fun _ => ?_) (fun _ => ?_)
    | split
    | (intro _ _; try dsimp -zeta only)

theorem State.startTuneWr_later {r' : State} (s : State) (o : Outst) (h' : r'.Later s) :
    r'.Later (State.startTuneWr s o) := by
  delta State.startTuneWr
  repeat' first
    | with_reducible assumption
    | (extract_lets +onlyGivenNames t; refine via (?_ : State.Later r' t) (fun ht => ?_); subst t; rotate_left; clear_value t)
    | (extract_lets +onlyGivenNames t; clear_value t)
    | with_reducible apply State.runTuneWr_later
    | simp -zeta only [State.later_mk]
    | with_reducible refine State.later_ite (fun _ => ?_) (fun _ => ?_)
    | split

theorem State.startSpeed_later {r' : State} (s : State) (o : Outst) (h' : r'.Later s) :
    r'.Later (State.startSpeed s o) := by
  delta State.startSpeed
  repeat' first
    | with_reducible assumption
    | (extract_lets +onlyGivenNames t; refine via (?_ : State.Later r' t) (fun ht => ?_); subst t; rotate_left; clear_value t)
    | (extract_lets +onlyGivenNames t; clear_value t)
    | with_reducible (first | apply State.bump_later | apply State.done_later | apply State.switchMode_later | apply State.tuneOver_later)
    | simp -zeta only [State.later_mk]
    | with_reducible refine State.later_ite (fun _ => ?_) (fun _ => ?_)
    | split

theorem State.startLinkKey_later {r' : State} (s : State) (o : Outst) (h' : r'.Later s) :
    r'.Later (State.startLinkKey s o) := by
  delta State.startLinkKey
  repeat' first
    | with_reducible assumption
    | (extract_lets +onlyGivenNames t; refine via (?_ : State.Later r' t) (fun ht => ?_); subst t; rotate_left; clear_value t)
    | (extract_lets +onlyGivenNames t; clear_value t)
    | with_reducible (first | apply State.done_later | apply State.openRekey_later | apply State.spend_later)
    | simp -zeta only [State.later_mk]
    | with_reducible refine State.later_ite (fun _ => ?_) (fun _ => ?_)
    | split

theorem State.startDozeCmd_later {r' : State} (s : State) (o : Outst) (h' : r'.Later s) :
    r'.Later (State.startDozeCmd s o) := by
  delta State.startDozeCmd
  repeat' first
    | with_reducible assumption
    | (extract_lets +onlyGivenNames t; refine via (?_ : State.Later r' t) (fun ht => ?_); subst t; rotate_left; clear_value t)
    | (extract_lets +onlyGivenNames t; clear_value t)
    | with_reducible (first | apply State.done_later | apply State.refuseDoze_later | apply State.startDoze_later)
    | simp -zeta only [State.later_mk]
    | with_reducible refine State.later_ite (fun _ => ?_) (fun _ => ?_)
    | split

theorem State.reclaimInst_later {r' : State} (s : State) (own n : Nat) (h' : r'.Later s) :
    r'.Later (State.reclaimInst s own n) := by
  delta State.reclaimInst
  repeat' first
    | with_reducible assumption
    | (extract_lets +onlyGivenNames t; refine via (?_ : State.Later r' t) (fun ht => ?_); subst t; rotate_left; clear_value t)
    | (extract_lets +onlyGivenNames t; refine via (?_ : LaterSnd r' t) (fun ht => ?_); subst t; rotate_left; clear_value t)
    | (extract_lets +onlyGivenNames t; refine via (?_ : LaterFst r' t) (fun ht => ?_); subst t; rotate_left; clear_value t)
    | (extract_lets +onlyGivenNames t; have hf : State → State := t; clear hf; subst t; dsimp -zeta only)
    | (extract_lets +onlyGivenNames t; clear_value t)
    | with_reducible (first | apply State.done_later | apply State.emptyWindow_later | apply State.fireI_later)
    | with_reducible refine State.later_foldl (fun _ _ _ => ?_) _ ?_
    | with_reducible refine laterSnd_foldl (fun _ _ _ => ?_) _ ?_
    | with_reducible refine laterFst_foldl (fun _ _ _ => ?_) _ ?_
    | simp -zeta only [State.later_mk]
    | with_reducible refine State.later_ite (fun _ => ?_) (fun _ => ?_)
    | split
    | with_reducible apply laterSnd_mk
    | with_reducible apply laterFst_mk
    | with_reducible refine State.later_of_snd ?_
    | with_reducible refine LaterSnd.here ?_ (by assumption)
    | with_reducible refine State.later_of_fst ?_
    | with_reducible refine LaterFst.here ?_ (by assumption)
    | (intro _ _; try dsimp -zeta only)

theorem State.startDelete_later {r' : State} (s : State) (o : Outst) (n : Nat) (h' : r'.Later s) :
    r'.Later (State.startDelete s o n) := by
  delta State.startDelete
  repeat' first
    | with_reducible assumption
    | (extract_lets +onlyGivenNames t; refine via (?_ : State.Later r' t) (fun ht => ?_); subst t; rotate_left; clear_value t)
    | (extract_lets +onlyGivenNames t; clear_value t)
    | with_reducible (first | apply State.commitStep_later | apply State.deleteSteps_later | apply State.done_later | apply State.fireI_later)
    | simp -zeta only [State.later_mk]
    | with_reducible refine State.later_ite (fun _ => ?_) (fun _ => ?_)
    | split

theorem State.startInstCfg_later {r' : State} (s : State) (o : Outst) (h' : r'.Later s) :
    r'.Later (State.startInstCfg s o) := by
  delta State.startInstCfg
  repeat' first
    | with_reducible assumption
    | (extract_lets +onlyGivenNames t; refine via (?_ : State.Later r' t) (fun ht => ?_); subst t; rotate_left; clear_value t)
    | (extract_lets +onlyGivenNames t; refine via (?_ : LaterSnd r' t) (fun ht => ?_); subst t; rotate_left; clear_value t)
    | (extract_lets +onlyGivenNames t; clear_value t)
    | with_reducible (first | apply State.createInst_later | apply State.done_later | apply State.reclaimInst_later | apply State.resizeInst_later | apply State.schedInst_later | apply State.startDelete_later)
    | simp -zeta only [State.later_mk]
    | with_reducible refine State.later_ite (fun _ => ?_) (fun _ => ?_)
    | split
    | with_reducible apply laterSnd_mk
    | with_reducible refine State.later_of_snd ?_
    | with_reducible refine LaterSnd.here ?_ (by assumption)

theorem State.startHealth_later {r' : State} (s : State) (o : Outst) (h' : r'.Later s) :
    r'.Later (State.startHealth s o) := by
  delta State.startHealth
  repeat' first
    | with_reducible assumption
    | (extract_lets +onlyGivenNames t; refine via (?_ : State.Later r' t) (fun ht => ?_); subst t; rotate_left; clear_value t)
    | (extract_lets +onlyGivenNames t; clear_value t)
    | with_reducible apply State.sendAll_later
    | simp -zeta only [State.later_mk]
    | with_reducible refine State.later_ite (fun _ => ?_) (fun _ => ?_)
    | split

theorem State.startLogRead_later {r' : State} (s : State) (o : Outst) (h' : r'.Later s) :
    r'.Later (State.startLogRead s o) := by
  delta State.startLogRead
  repeat' first
    | with_reducible assumption
    | (extract_lets +onlyGivenNames t; refine via (?_ : State.Later r' t) (fun ht => ?_); subst t; rotate_left; clear_value t)
    | (extract_lets +onlyGivenNames t; have hf : State → State := t; clear hf; subst t; dsimp -zeta only)
    | (extract_lets +onlyGivenNames t; clear_value t)
    | with_reducible (first | apply State.sendAll_later | apply State.updOut_later)
    | simp -zeta only [State.later_mk]
    | with_reducible refine State.later_ite (fun _ => ?_) (fun _ => ?_)
    | split
    | (intro _ _; try dsimp -zeta only)

theorem State.stageUnits_later {r' : State} (fc fuel : Nat) :
    ∀ s : State, r'.Later s → r'.Later (State.stageUnits fc fuel s) := by
  induction fuel with
  | zero => exact fun _ h => h
  | succ n ih =>
    intro s h
    unfold State.stageUnits
    split
    · exact h
    · dsimp only
      split
      · exact h
      · split
        · exact State.done_later _ _ _ _ (State.updOut_later _ _ _ (State.stageBytes_later _ _ _ _ _ h))
        · split
          · exact State.done_later _ _ _ _ (State.updOut_later _ _ _ (State.stageBytes_later _ _ _ _ _ h))
          · exact ih _ (State.updOut_later _ _ _ (State.stageBytes_later _ _ _ _ _ h))

theorem State.startStage_later {r' : State} (s : State) (o : Outst) (h' : r'.Later s) :
    r'.Later (State.startStage s o) := by
  delta State.startStage
  repeat' first
    | with_reducible assumption
    | (extract_lets +onlyGivenNames t; refine via (?_ : State.Later r' t) (fun ht => ?_); subst t; rotate_left; clear_value t)
    | (extract_lets +onlyGivenNames t; have hf : State → State := t; clear hf; subst t; dsimp -zeta only)
    | (extract_lets +onlyGivenNames t; clear_value t)
    | with_reducible (first | apply State.done_later | apply State.stageUnits_later | apply State.updOut_later)
    | simp -zeta only [State.later_mk]
    | with_reducible refine State.later_ite (fun _ => ?_) (fun _ => ?_)
    | split
    | (intro _ _; try dsimp -zeta only)

theorem State.startActivate_later {r' : State} (s : State) (o : Outst) (h' : r'.Later s) :
    r'.Later (State.startActivate s o) := by
  delta State.startActivate
  repeat' first
    | with_reducible assumption
    | (extract_lets +onlyGivenNames t; refine via (?_ : State.Later r' t) (fun ht => ?_); subst t; rotate_left; clear_value t)
    | (extract_lets +onlyGivenNames t; clear_value t)
    | with_reducible (first | apply State.done_later | apply State.updOut_later)
    | simp -zeta only [State.later_mk]
    | with_reducible refine State.later_ite (fun _ => ?_) (fun _ => ?_)
    | split
    | (intro _ _; try dsimp -zeta only)

theorem State.startLockCtl_later {r' : State} (s : State) (o : Outst) (h' : r'.Later s) :
    r'.Later (State.startLockCtl s o) := by
  delta State.startLockCtl
  repeat' first
    | with_reducible assumption
    | (extract_lets +onlyGivenNames t; refine via (?_ : State.Later r' t) (fun ht => ?_); subst t; rotate_left; clear_value t)
    | (extract_lets +onlyGivenNames t; refine via (?_ : LaterThird r' t) (fun ht => ?_); subst t; rotate_left; clear_value t)
    | (extract_lets +onlyGivenNames t; have hf : State → State := t; clear hf; subst t; dsimp -zeta only)
    | (extract_lets +onlyGivenNames t; clear_value t)
    | with_reducible (first | apply State.done_later | apply State.runLockSet_later | apply State.runUnlock_later)
    | simp -zeta only [State.later_mk]
    | with_reducible refine State.later_ite (fun _ => ?_) (fun _ => ?_)
    | split
    | with_reducible apply laterThird_mk
    | with_reducible refine State.later_of_third ?_
    | with_reducible refine LaterThird.here ?_ (by assumption)
    | (intro _ _; try dsimp -zeta only)

theorem State.armErase_later {r' : State} (s : State) (spantoen : Bool) (h' : r'.Later s) :
    r'.Later (State.armErase s spantoen) := by
  delta State.armErase
  repeat' first
    | with_reducible assumption
    | (extract_lets +onlyGivenNames t; refine via (?_ : State.Later r' t) (fun ht => ?_); subst t; rotate_left; clear_value t)
    | (extract_lets +onlyGivenNames t; clear_value t)
    | with_reducible (first | apply State.fireErase_later | apply State.setFlag_later | apply State.setFld_later)
    | simp -zeta only [State.later_mk]
    | with_reducible refine State.later_ite (fun _ => ?_) (fun _ => ?_)
    | split

theorem State.runErase_later {r' : State} (s : State) (answer : State → State) (h' : r'.Later s)
    (k : ∀ t, r'.Later t → r'.Later (answer t)) : r'.Later (s.runErase answer) :=
  State.eraseSteps_later _ (State.later_foldl (fun _ _ h => State.done_later _ _ _ _ h) _
    (k _ (State.eraseIntent_later _ (State.disarm_later _ h'))))

theorem State.startErase_later {r' : State} (s : State) (o : Outst) (h' : r'.Later s) :
    r'.Later (State.startErase s o) := by
  delta State.startErase
  repeat' first
    | with_reducible assumption
    | (extract_lets +onlyGivenNames t; refine via (?_ : State.Later r' t) (fun ht => ?_); subst t; rotate_left; clear_value t)
    | (extract_lets +onlyGivenNames t; have hf : State → State := t; clear hf; subst t; dsimp -zeta only)
    | (extract_lets +onlyGivenNames t; clear_value t)
    | with_reducible (first | apply State.armErase_later | apply State.disarm_later | apply State.done_later | apply State.runErase_later | apply State.spend_later)
    | simp -zeta only [State.later_mk]
    | with_reducible refine State.later_ite (fun _ => ?_) (fun _ => ?_)
    | split
    | (intro _ _; try dsimp -zeta only)

theorem State.startOne_later {r' : State} (s : State) (o : Outst) (h' : r'.Later s) :
    r'.Later (State.startOne s o) := by
  delta State.startOne
  repeat' first
    | with_reducible assumption
    | (extract_lets +onlyGivenNames t; refine via (?_ : State.Later r' t) (fun ht => ?_); subst t; rotate_left; clear_value t)
    | (extract_lets +onlyGivenNames t; clear_value t)
    | with_reducible (first | apply State.done_later | apply State.sendAll_later | apply State.startActivate_later | apply State.startBarrier_later | apply State.startDiscard_later | apply State.startDozeCmd_later | apply State.startErase_later | apply State.startHealth_later | apply State.startInstCfg_later | apply State.startLinkKey_later | apply State.startLockCtl_later | apply State.startLogRead_later | apply State.startRead_later | apply State.startRegRd_later | apply State.startRegWr_later | apply State.startSegClose_later | apply State.startSegOpen_later | apply State.startSegVerify_later | apply State.startSettle_later | apply State.startSpeed_later | apply State.startStage_later | apply State.startTuneRd_later | apply State.startTuneWr_later | apply State.startWrite_later)
    | simp -zeta only [State.later_mk]
    | with_reducible refine State.later_ite (fun _ => ?_) (fun _ => ?_)
    | split

theorem State.startAll_later {r' : State} (fuel : Nat) : ∀ s : State, r'.Later s → r'.Later (State.startAll fuel s) := by
  induction fuel with
  | zero => exact fun _ h => h
  | succ n ih =>
    intro s h
    unfold State.startAll
    split
    · exact ih _ (State.startOne_later _ _ h)
    · exact h

theorem State.fenceHurt_later {r' : State} (s : State) (h' : r'.Later s) :
    r'.Later (State.fenceHurt s) := by
  delta State.fenceHurt
  repeat' first
    | with_reducible assumption
    | (extract_lets +onlyGivenNames t; refine via (?_ : State.Later r' t) (fun ht => ?_); subst t; rotate_left; clear_value t)
    | (extract_lets +onlyGivenNames t; refine via (?_ : LaterSnd r' t) (fun ht => ?_); subst t; rotate_left; clear_value t)
    | (extract_lets +onlyGivenNames t; refine via (?_ : LaterFst r' t) (fun ht => ?_); subst t; rotate_left; clear_value t)
    | (extract_lets +onlyGivenNames t; clear_value t)
    | with_reducible apply State.fenceInst_later
    | with_reducible refine State.later_foldl (fun _ _ _ => ?_) _ ?_
    | with_reducible refine laterSnd_foldl (fun _ _ _ => ?_) _ ?_
    | with_reducible refine laterFst_foldl (fun _ _ _ => ?_) _ ?_
    | simp -zeta only [State.later_mk]
    | with_reducible refine State.later_ite (fun _ => ?_) (fun _ => ?_)
    | split
    | with_reducible apply laterSnd_mk
    | with_reducible apply laterFst_mk
    | with_reducible refine State.later_of_snd ?_
    | with_reducible refine LaterSnd.here ?_ (by assumption)
    | with_reducible refine State.later_of_fst ?_
    | with_reducible refine LaterFst.here ?_ (by assumption)

theorem State.cardPump_later {r' : State} (s : State) (h' : r'.Later s) :
    r'.Later (State.cardPump s) := by
  delta State.cardPump
  repeat' first
    | with_reducible assumption
    | (extract_lets +onlyGivenNames t; refine via (?_ : State.Later r' t) (fun ht => ?_); subst t; rotate_left; clear_value t)
    | (extract_lets +onlyGivenNames t; clear_value t)
    | with_reducible (first | apply State.fenceHurt_later | apply State.sendNext_later | apply State.startAll_later)
    | simp -zeta only [State.later_mk]
    | with_reducible refine State.later_ite (fun _ => ?_) (fun _ => ?_)
    | split

theorem State.unitsOn_later {r' : State} (s : State) (h' : r'.Later s) :
    r'.Later (State.unitsOn s) := by
  delta State.unitsOn
  repeat' first
    | with_reducible assumption
    | (extract_lets +onlyGivenNames t; refine via (?_ : State.Later r' t) (fun ht => ?_); subst t; rotate_left; clear_value t)
    | (extract_lets +onlyGivenNames t; refine via (?_ : LaterSnd r' t) (fun ht => ?_); subst t; rotate_left; clear_value t)
    | (extract_lets +onlyGivenNames t; refine via (?_ : LaterFst r' t) (fun ht => ?_); subst t; rotate_left; clear_value t)
    | (extract_lets +onlyGivenNames t; clear_value t)
    | with_reducible (first | apply State.commitUnits_later | apply State.stageUnits_later)
    | with_reducible refine State.later_foldl (fun _ _ _ => ?_) _ ?_
    | with_reducible refine laterSnd_foldl (fun _ _ _ => ?_) _ ?_
    | with_reducible refine laterFst_foldl (fun _ _ _ => ?_) _ ?_
    | simp -zeta only [State.later_mk]
    | with_reducible refine State.later_ite (fun _ => ?_) (fun _ => ?_)
    | split
    | with_reducible apply laterSnd_mk
    | with_reducible apply laterFst_mk
    | with_reducible refine State.later_of_snd ?_
    | with_reducible refine LaterSnd.here ?_ (by assumption)
    | with_reducible refine State.later_of_fst ?_
    | with_reducible refine LaterFst.here ?_ (by assumption)
    | (intro _ _; try dsimp -zeta only)

theorem State.unitArrives_later {r' : State} (s : State) (u : UnitIn) (readback : Bool) (lat : Nat) (env : List MediaRead) (h' : r'.Later s) :
    r'.Later (State.unitArrives s u readback lat env) := by
  delta State.unitArrives
  repeat' first
    | with_reducible assumption
    | (extract_lets +onlyGivenNames t; refine via (?_ : State.Later r' t) (fun ht => ?_); subst t; rotate_left; clear_value t)
    | (extract_lets +onlyGivenNames t; clear_value t)
    | with_reducible (first | apply State.cardPump_later | apply State.cardUnit_later | apply State.unitsOn_later)
    | simp -zeta only [State.later_mk]
    | with_reducible refine State.later_ite (fun _ => ?_) (fun _ => ?_)
    | split

end Sys2Proof.Machine
end

