-- ==== Sys2Proof/Laws/CryptoLaws.lean ====
section
/-! SUPPORT. How long what AES and counter mode give is, and that counter mode undoes itself. -/

namespace Sys2Proof.Crypto

theorem length_xorBytes (a b : List Byte) : (xorBytes a b).length = min a.length b.length := by simp [xorBytes]

theorem length_padTo (n : Nat) (bs : List Byte) : (padTo n bs).length = n := by simp [padTo]; omega

/-- Whole chunks: as many as asked, each whole. -/
theorem chunks_whole (n : Nat) (hn : 0 < n) : ∀ (k : Nat) (bs : List Byte), bs.length = n * k →
    (chunks n k bs).length = k ∧ ∀ c ∈ chunks n k bs, c.length = n := by
  intro k
  induction k with
  | zero => intro bs _; exact ⟨rfl, fun c h => absurd h List.not_mem_nil⟩
  | succ k ih =>
    intro bs h
    rw [Nat.mul_succ] at h
    have ne : bs.isEmpty = false := by cases bs with
      | nil => simp at h; omega
      | cons => rfl
    obtain ⟨p, q⟩ := ih (bs.drop n) (by rw [List.length_drop]; omega)
    unfold chunks
    rw [ne, if_neg Bool.false_ne_true]
    refine ⟨by rw [List.length_cons, p], fun c m => ?_⟩
    rcases List.mem_cons.1 m with m | m
    · rw [m, List.length_take]; omega
    · exact q c m

/-- The key schedule makes `n` words more, every one of four bytes. -/
theorem keyExpand_words : ∀ (n i : Nat) (rc : Byte) (w : List (List Byte)), 8 ≤ w.length → (∀ c ∈ w, c.length = 4) →
    (keyExpand n i rc w).length = w.length + n ∧ ∀ c ∈ keyExpand n i rc w, c.length = 4 := by
  intro n
  induction n with
  | zero => intro i rc w _ h; exact ⟨rfl, h⟩
  | succ n ih =>
    intro i rc w l h
    have g : ∀ k, k < 8 → (w.getD k []).length = 4 := by
      intro k hk
      rw [List.getD_eq_getElem?_getD, List.getElem?_eq_getElem (by omega), Option.getD_some]
      exact h _ (List.getElem_mem _)
    unfold keyExpand
    dsimp only
    have t : (xorBytes (w.getD 7 []) (if i % 8 = 0 then
        xorBytes (((w.getD 0 []).drop 1 ++ (w.getD 0 []).take 1).map subByte) [rc, 0, 0, 0]
        else if i % 8 = 4 then (w.getD 0 []).map subByte else w.getD 0 [])).length = 4 := by
      have a := g 0 (by omega)
      have b := g 7 (by omega)
      split
      · simp only [length_xorBytes, List.length_map, List.length_append, List.length_drop, List.length_take, a, b]
        rfl
      · split
        · simp only [length_xorBytes, List.length_map, a, b]; rfl
        · simp only [length_xorBytes, a, b]; rfl
    generalize xorBytes (w.getD 7 []) _ = v at t ⊢
    obtain ⟨p, q⟩ := ih (i + 1) (if i % 8 = 0 then xtime rc else rc) (v :: w) (by rw [List.length_cons]; omega)
      (fun c m => (List.mem_cons.1 m).elim (fun e => by rw [e]; exact t) (h c))
    exact ⟨by rw [p, List.length_cons]; omega, q⟩

/-- The round keys: fifteen of sixteen bytes. -/
theorem roundKeys_length (key : List Byte) : (roundKeys key).length = 15 ∧ ∀ k ∈ roundKeys key, k.length = 16 := by
  unfold roundKeys
  obtain ⟨a, b⟩ := chunks_whole 4 (by decide) 8 (padTo 32 key) (by rw [length_padTo])
  obtain ⟨c, d⟩ := keyExpand_words 52 8 1 (chunks 4 8 (padTo 32 key)).reverse (Nat.le_of_eq (by rw [List.length_reverse, a]))
    (fun x m => b x (List.mem_reverse.1 m))
  rw [List.length_reverse, a] at c
  refine ⟨by simp, fun k m => ?_⟩
  obtain ⟨r, hr, e⟩ := List.mem_map.1 m
  have hr : r < 15 := List.mem_range.1 hr
  rw [← e]
  generalize (keyExpand 52 8 1 (chunks 4 8 (padTo 32 key)).reverse) = w at c d ⊢
  have l : ((w.reverse.drop (4 * r)).take 4).length = 4 := by
    rw [List.length_take, List.length_drop, List.length_reverse]; omega
  have f : ∀ x ∈ (w.reverse.drop (4 * r)).take 4, x.length = 4 := fun x m =>
    d x (List.mem_reverse.1 (List.mem_of_mem_drop (List.mem_of_mem_take m)))
  generalize (w.reverse.drop (4 * r)).take 4 = v at l f
  match v, l, f with
  | [p, q, s, t], _, f =>
    simp [f p (by simp), f q (by simp), f s (by simp), f t (by simp)]

theorem aesRounds_length : ∀ (ks : List (List Byte)) (s : List Byte), ks ≠ [] → (∀ k ∈ ks, k.length = 16) →
    (aesRounds ks s).length = 16 := by
  intro ks
  induction ks with
  | nil => intro s h _; exact absurd rfl h
  | cons k ks ih =>
    intro s _ h
    cases ks with
    | nil => unfold aesRounds; rw [length_xorBytes, h k (by simp)]; simp [shiftRows]
    | cons j ks => unfold aesRounds; exact ih _ (by simp) (fun x m => h x (List.mem_cons_of_mem _ m))

/-- AES gives sixteen bytes. -/
theorem aes256_length (key block : List Byte) : (aes256 key block).length = 16 := by
  obtain ⟨a, b⟩ := roundKeys_length key
  unfold aes256
  generalize roundKeys key = ks at a b
  cases ks with
  | nil => cases a
  | cons k ks =>
    refine aesRounds_length ks _ (fun e => ?_) (fun x m => b x (List.mem_cons_of_mem _ m))
    rw [e] at a
    cases a

/-- `n` counter blocks. -/
theorem ctrFrom_length (key : List Byte) : ∀ (n block : Nat), (ctrFrom key block n).length = 16 * n := by
  intro n
  induction n with
  | zero => intro b; rfl
  | succ n ih => intro b; unfold ctrFrom; rw [List.length_append, aes256_length, ih]; omega

theorem xorBytes_twice (k : List Byte) : ∀ (a : List Byte), a.length ≤ k.length → xorBytes (xorBytes a k) k = a := by
  induction k with
  | nil => intro a h; cases a with
    | nil => rfl
    | cons => simp at h
  | cons y k ih =>
    intro a h
    cases a with
    | nil => rfl
    | cons x a =>
      have := ih a (by simpa using h)
      unfold xorBytes at this ⊢
      rw [List.zipWith_cons_cons, List.zipWith_cons_cons, this, BitVec.xor_assoc, BitVec.xor_self, BitVec.xor_zero]

/-- Counter mode keeps the length. -/
theorem ctrCrypt_length (key block data : List Byte) : (ctrCrypt key block data).length = data.length := by
  unfold ctrCrypt
  rw [length_xorBytes, ctrFrom_length]
  omega

/-- Counter mode undoes itself. -/
theorem ctrCrypt_twice (key block data : List Byte) : ctrCrypt key block (ctrCrypt key block data) = data := by
  have h := ctrCrypt_length key block data
  rw [ctrCrypt, h]
  unfold ctrCrypt
  exact xorBytes_twice _ _ (by rw [ctrFrom_length]; omega)

theorem ctrStream_length (key iv : List Byte) : ∀ (n c : Nat), (ctrStream key iv c n).length = 16 * n := by
  intro n
  induction n with
  | zero => intro c; rfl
  | succ n ih => intro c; unfold ctrStream; rw [List.length_append, aes256_length, ih]; omega

/-- GCM keeps the length. -/
theorem gcmCrypt_length (key iv data : List Byte) : (gcmCrypt key iv data).length = data.length := by
  unfold gcmCrypt
  rw [length_xorBytes, ctrStream_length]
  omega

/-- GCM undoes itself. -/
theorem gcmCrypt_twice (key iv data : List Byte) : gcmCrypt key iv (gcmCrypt key iv data) = data := by
  have h := gcmCrypt_length key iv data
  rw [gcmCrypt, h]
  unfold gcmCrypt
  exact xorBytes_twice _ _ (by rw [ctrStream_length]; omega)

/-- A GCM tag has 16 bytes. -/
theorem gcmTag_length (key iv aad ct : List Byte) : (gcmTag key iv aad ct).length = 16 := by
  unfold gcmTag
  rw [length_xorBytes, aes256_length]
  simp [bytesBE]

end Sys2Proof.Crypto
end

