-- ==== Sys2Proof/Laws/State.lean ====
section
/-! SUPPORT. The small laws of the state: what each named update leaves of every field, and what a register, a field of
a register and a byte of the MRAM read after a write. -/

namespace Sys2Proof.Machine

/-! `State.setReg` changes regs. -/

@[simp] theorem State.role_setReg (s : State) (off : Nat) (v : Word) : (s.setReg off v).role = s.role := rfl
@[simp] theorem State.pins_setReg (s : State) (off : Nat) (v : Word) : (s.setReg off v).pins = s.pins := rfl
@[simp] theorem State.uptime_setReg (s : State) (off : Nat) (v : Word) : (s.setReg off v).uptime = s.uptime := rfl
@[simp] theorem State.hiLatch_setReg (s : State) (off : Nat) (v : Word) : (s.setReg off v).hiLatch = s.hiLatch := rfl
@[simp] theorem State.injArmed_setReg (s : State) (off : Nat) (v : Word) : (s.setReg off v).injArmed = s.injArmed := rfl
@[simp] theorem State.boot_setReg (s : State) (off : Nat) (v : Word) : (s.setReg off v).boot = s.boot := rfl
@[simp] theorem State.held_setReg (s : State) (off : Nat) (v : Word) : (s.setReg off v).held = s.held := rfl
@[simp] theorem State.ringDrop_setReg (s : State) (off : Nat) (v : Word) : (s.setReg off v).ringDrop = s.ringDrop := rfl
@[simp] theorem State.fnRegs_setReg (s : State) (off : Nat) (v : Word) : (s.setReg off v).fnRegs = s.fnRegs := rfl
@[simp] theorem State.flt_setReg (s : State) (off : Nat) (v : Word) : (s.setReg off v).flt = s.flt := rfl
@[simp] theorem State.mq_setReg (s : State) (off : Nat) (v : Word) : (s.setReg off v).mq = s.mq := rfl
@[simp] theorem State.tamper_setReg (s : State) (off : Nat) (v : Word) : (s.setReg off v).tamper = s.tamper := rfl
@[simp] theorem State.ths_setReg (s : State) (off : Nat) (v : Word) : (s.setReg off v).ths = s.ths := rfl
@[simp] theorem State.cnA_setReg (s : State) (off : Nat) (v : Word) : (s.setReg off v).cnA = s.cnA := rfl
@[simp] theorem State.cnB_setReg (s : State) (off : Nat) (v : Word) : (s.setReg off v).cnB = s.cnB := rfl
@[simp] theorem State.spA_setReg (s : State) (off : Nat) (v : Word) : (s.setReg off v).spA = s.spA := rfl
@[simp] theorem State.spB_setReg (s : State) (off : Nat) (v : Word) : (s.setReg off v).spB = s.spB := rfl
@[simp] theorem State.keys_setReg (s : State) (off : Nat) (v : Word) : (s.setReg off v).keys = s.keys := rfl
@[simp] theorem State.otp_setReg (s : State) (off : Nat) (v : Word) : (s.setReg off v).otp = s.otp := rfl
@[simp] theorem State.shadow_setReg (s : State) (off : Nat) (v : Word) : (s.setReg off v).shadow = s.shadow := rfl
@[simp] theorem State.mram_setReg (s : State) (off : Nat) (v : Word) : (s.setReg off v).mram = s.mram := rfl
@[simp] theorem State.ecc_setReg (s : State) (off : Nat) (v : Word) : (s.setReg off v).ecc = s.ecc := rfl
@[simp] theorem State.lnd_setReg (s : State) (off : Nat) (v : Word) : (s.setReg off v).lnd = s.lnd := rfl
@[simp] theorem State.mapS_setReg (s : State) (off : Nat) (v : Word) : (s.setReg off v).mapS = s.mapS := rfl
@[simp] theorem State.tree_setReg (s : State) (off : Nat) (v : Word) : (s.setReg off v).tree = s.tree := rfl
@[simp] theorem State.media_setReg (s : State) (off : Nat) (v : Word) : (s.setReg off v).media = s.media := rfl
@[simp] theorem State.segs_setReg (s : State) (off : Nat) (v : Word) : (s.setReg off v).segs = s.segs := rfl
@[simp] theorem State.host_setReg (s : State) (off : Nat) (v : Word) : (s.setReg off v).host = s.host := rfl
@[simp] theorem State.brg_setReg (s : State) (off : Nat) (v : Word) : (s.setReg off v).brg = s.brg := rfl
@[simp] theorem State.firm_setReg (s : State) (off : Nat) (v : Word) : (s.setReg off v).firm = s.firm := rfl
@[simp] theorem State.life_setReg (s : State) (off : Nat) (v : Word) : (s.setReg off v).life = s.life := rfl
@[simp] theorem State.summary_setReg (s : State) (off : Nat) (v : Word) : (s.setReg off v).summary = s.summary := rfl
@[simp] theorem State.freeCtr_setReg (s : State) (off : Nat) (v : Word) : (s.setReg off v).freeCtr = s.freeCtr := rfl
@[simp] theorem State.out_setReg (s : State) (off : Nat) (v : Word) : (s.setReg off v).out = s.out := rfl
@[simp] theorem State.pending_setReg (s : State) (off : Nat) (v : Word) : (s.setReg off v).pending = s.pending := rfl

/-! `State.setFld` changes regs. -/

@[simp] theorem State.role_setFld (s : State) (f : Fld) (v : Nat) : (s.setFld f v).role = s.role := rfl
@[simp] theorem State.pins_setFld (s : State) (f : Fld) (v : Nat) : (s.setFld f v).pins = s.pins := rfl
@[simp] theorem State.uptime_setFld (s : State) (f : Fld) (v : Nat) : (s.setFld f v).uptime = s.uptime := rfl
@[simp] theorem State.hiLatch_setFld (s : State) (f : Fld) (v : Nat) : (s.setFld f v).hiLatch = s.hiLatch := rfl
@[simp] theorem State.injArmed_setFld (s : State) (f : Fld) (v : Nat) : (s.setFld f v).injArmed = s.injArmed := rfl
@[simp] theorem State.boot_setFld (s : State) (f : Fld) (v : Nat) : (s.setFld f v).boot = s.boot := rfl
@[simp] theorem State.held_setFld (s : State) (f : Fld) (v : Nat) : (s.setFld f v).held = s.held := rfl
@[simp] theorem State.ringDrop_setFld (s : State) (f : Fld) (v : Nat) : (s.setFld f v).ringDrop = s.ringDrop := rfl
@[simp] theorem State.fnRegs_setFld (s : State) (f : Fld) (v : Nat) : (s.setFld f v).fnRegs = s.fnRegs := rfl
@[simp] theorem State.flt_setFld (s : State) (f : Fld) (v : Nat) : (s.setFld f v).flt = s.flt := rfl
@[simp] theorem State.mq_setFld (s : State) (f : Fld) (v : Nat) : (s.setFld f v).mq = s.mq := rfl
@[simp] theorem State.tamper_setFld (s : State) (f : Fld) (v : Nat) : (s.setFld f v).tamper = s.tamper := rfl
@[simp] theorem State.ths_setFld (s : State) (f : Fld) (v : Nat) : (s.setFld f v).ths = s.ths := rfl
@[simp] theorem State.cnA_setFld (s : State) (f : Fld) (v : Nat) : (s.setFld f v).cnA = s.cnA := rfl
@[simp] theorem State.cnB_setFld (s : State) (f : Fld) (v : Nat) : (s.setFld f v).cnB = s.cnB := rfl
@[simp] theorem State.spA_setFld (s : State) (f : Fld) (v : Nat) : (s.setFld f v).spA = s.spA := rfl
@[simp] theorem State.spB_setFld (s : State) (f : Fld) (v : Nat) : (s.setFld f v).spB = s.spB := rfl
@[simp] theorem State.keys_setFld (s : State) (f : Fld) (v : Nat) : (s.setFld f v).keys = s.keys := rfl
@[simp] theorem State.otp_setFld (s : State) (f : Fld) (v : Nat) : (s.setFld f v).otp = s.otp := rfl
@[simp] theorem State.shadow_setFld (s : State) (f : Fld) (v : Nat) : (s.setFld f v).shadow = s.shadow := rfl
@[simp] theorem State.mram_setFld (s : State) (f : Fld) (v : Nat) : (s.setFld f v).mram = s.mram := rfl
@[simp] theorem State.ecc_setFld (s : State) (f : Fld) (v : Nat) : (s.setFld f v).ecc = s.ecc := rfl
@[simp] theorem State.lnd_setFld (s : State) (f : Fld) (v : Nat) : (s.setFld f v).lnd = s.lnd := rfl
@[simp] theorem State.mapS_setFld (s : State) (f : Fld) (v : Nat) : (s.setFld f v).mapS = s.mapS := rfl
@[simp] theorem State.tree_setFld (s : State) (f : Fld) (v : Nat) : (s.setFld f v).tree = s.tree := rfl
@[simp] theorem State.media_setFld (s : State) (f : Fld) (v : Nat) : (s.setFld f v).media = s.media := rfl
@[simp] theorem State.segs_setFld (s : State) (f : Fld) (v : Nat) : (s.setFld f v).segs = s.segs := rfl
@[simp] theorem State.host_setFld (s : State) (f : Fld) (v : Nat) : (s.setFld f v).host = s.host := rfl
@[simp] theorem State.brg_setFld (s : State) (f : Fld) (v : Nat) : (s.setFld f v).brg = s.brg := rfl
@[simp] theorem State.firm_setFld (s : State) (f : Fld) (v : Nat) : (s.setFld f v).firm = s.firm := rfl
@[simp] theorem State.life_setFld (s : State) (f : Fld) (v : Nat) : (s.setFld f v).life = s.life := rfl
@[simp] theorem State.summary_setFld (s : State) (f : Fld) (v : Nat) : (s.setFld f v).summary = s.summary := rfl
@[simp] theorem State.freeCtr_setFld (s : State) (f : Fld) (v : Nat) : (s.setFld f v).freeCtr = s.freeCtr := rfl
@[simp] theorem State.out_setFld (s : State) (f : Fld) (v : Nat) : (s.setFld f v).out = s.out := rfl
@[simp] theorem State.pending_setFld (s : State) (f : Fld) (v : Nat) : (s.setFld f v).pending = s.pending := rfl

/-! `State.setFlag` changes regs. -/

@[simp] theorem State.role_setFlag (s : State) (f : Fld) (b : Bool) : (s.setFlag f b).role = s.role := rfl
@[simp] theorem State.pins_setFlag (s : State) (f : Fld) (b : Bool) : (s.setFlag f b).pins = s.pins := rfl
@[simp] theorem State.uptime_setFlag (s : State) (f : Fld) (b : Bool) : (s.setFlag f b).uptime = s.uptime := rfl
@[simp] theorem State.hiLatch_setFlag (s : State) (f : Fld) (b : Bool) : (s.setFlag f b).hiLatch = s.hiLatch := rfl
@[simp] theorem State.injArmed_setFlag (s : State) (f : Fld) (b : Bool) : (s.setFlag f b).injArmed = s.injArmed := rfl
@[simp] theorem State.boot_setFlag (s : State) (f : Fld) (b : Bool) : (s.setFlag f b).boot = s.boot := rfl
@[simp] theorem State.held_setFlag (s : State) (f : Fld) (b : Bool) : (s.setFlag f b).held = s.held := rfl
@[simp] theorem State.ringDrop_setFlag (s : State) (f : Fld) (b : Bool) : (s.setFlag f b).ringDrop = s.ringDrop := rfl
@[simp] theorem State.fnRegs_setFlag (s : State) (f : Fld) (b : Bool) : (s.setFlag f b).fnRegs = s.fnRegs := rfl
@[simp] theorem State.flt_setFlag (s : State) (f : Fld) (b : Bool) : (s.setFlag f b).flt = s.flt := rfl
@[simp] theorem State.mq_setFlag (s : State) (f : Fld) (b : Bool) : (s.setFlag f b).mq = s.mq := rfl
@[simp] theorem State.tamper_setFlag (s : State) (f : Fld) (b : Bool) : (s.setFlag f b).tamper = s.tamper := rfl
@[simp] theorem State.ths_setFlag (s : State) (f : Fld) (b : Bool) : (s.setFlag f b).ths = s.ths := rfl
@[simp] theorem State.cnA_setFlag (s : State) (f : Fld) (b : Bool) : (s.setFlag f b).cnA = s.cnA := rfl
@[simp] theorem State.cnB_setFlag (s : State) (f : Fld) (b : Bool) : (s.setFlag f b).cnB = s.cnB := rfl
@[simp] theorem State.spA_setFlag (s : State) (f : Fld) (b : Bool) : (s.setFlag f b).spA = s.spA := rfl
@[simp] theorem State.spB_setFlag (s : State) (f : Fld) (b : Bool) : (s.setFlag f b).spB = s.spB := rfl
@[simp] theorem State.keys_setFlag (s : State) (f : Fld) (b : Bool) : (s.setFlag f b).keys = s.keys := rfl
@[simp] theorem State.otp_setFlag (s : State) (f : Fld) (b : Bool) : (s.setFlag f b).otp = s.otp := rfl
@[simp] theorem State.shadow_setFlag (s : State) (f : Fld) (b : Bool) : (s.setFlag f b).shadow = s.shadow := rfl
@[simp] theorem State.mram_setFlag (s : State) (f : Fld) (b : Bool) : (s.setFlag f b).mram = s.mram := rfl
@[simp] theorem State.ecc_setFlag (s : State) (f : Fld) (b : Bool) : (s.setFlag f b).ecc = s.ecc := rfl
@[simp] theorem State.lnd_setFlag (s : State) (f : Fld) (b : Bool) : (s.setFlag f b).lnd = s.lnd := rfl
@[simp] theorem State.mapS_setFlag (s : State) (f : Fld) (b : Bool) : (s.setFlag f b).mapS = s.mapS := rfl
@[simp] theorem State.tree_setFlag (s : State) (f : Fld) (b : Bool) : (s.setFlag f b).tree = s.tree := rfl
@[simp] theorem State.media_setFlag (s : State) (f : Fld) (b : Bool) : (s.setFlag f b).media = s.media := rfl
@[simp] theorem State.segs_setFlag (s : State) (f : Fld) (b : Bool) : (s.setFlag f b).segs = s.segs := rfl
@[simp] theorem State.host_setFlag (s : State) (f : Fld) (b : Bool) : (s.setFlag f b).host = s.host := rfl
@[simp] theorem State.brg_setFlag (s : State) (f : Fld) (b : Bool) : (s.setFlag f b).brg = s.brg := rfl
@[simp] theorem State.firm_setFlag (s : State) (f : Fld) (b : Bool) : (s.setFlag f b).firm = s.firm := rfl
@[simp] theorem State.life_setFlag (s : State) (f : Fld) (b : Bool) : (s.setFlag f b).life = s.life := rfl
@[simp] theorem State.summary_setFlag (s : State) (f : Fld) (b : Bool) : (s.setFlag f b).summary = s.summary := rfl
@[simp] theorem State.freeCtr_setFlag (s : State) (f : Fld) (b : Bool) : (s.setFlag f b).freeCtr = s.freeCtr := rfl
@[simp] theorem State.out_setFlag (s : State) (f : Fld) (b : Bool) : (s.setFlag f b).out = s.out := rfl
@[simp] theorem State.pending_setFlag (s : State) (f : Fld) (b : Bool) : (s.setFlag f b).pending = s.pending := rfl

/-! `State.bump` changes regs. -/

@[simp] theorem State.role_bump (s : State) (f : Fld) : (s.bump f).role = s.role := rfl
@[simp] theorem State.pins_bump (s : State) (f : Fld) : (s.bump f).pins = s.pins := rfl
@[simp] theorem State.uptime_bump (s : State) (f : Fld) : (s.bump f).uptime = s.uptime := rfl
@[simp] theorem State.hiLatch_bump (s : State) (f : Fld) : (s.bump f).hiLatch = s.hiLatch := rfl
@[simp] theorem State.injArmed_bump (s : State) (f : Fld) : (s.bump f).injArmed = s.injArmed := rfl
@[simp] theorem State.boot_bump (s : State) (f : Fld) : (s.bump f).boot = s.boot := rfl
@[simp] theorem State.held_bump (s : State) (f : Fld) : (s.bump f).held = s.held := rfl
@[simp] theorem State.ringDrop_bump (s : State) (f : Fld) : (s.bump f).ringDrop = s.ringDrop := rfl
@[simp] theorem State.fnRegs_bump (s : State) (f : Fld) : (s.bump f).fnRegs = s.fnRegs := rfl
@[simp] theorem State.flt_bump (s : State) (f : Fld) : (s.bump f).flt = s.flt := rfl
@[simp] theorem State.mq_bump (s : State) (f : Fld) : (s.bump f).mq = s.mq := rfl
@[simp] theorem State.tamper_bump (s : State) (f : Fld) : (s.bump f).tamper = s.tamper := rfl
@[simp] theorem State.ths_bump (s : State) (f : Fld) : (s.bump f).ths = s.ths := rfl
@[simp] theorem State.cnA_bump (s : State) (f : Fld) : (s.bump f).cnA = s.cnA := rfl
@[simp] theorem State.cnB_bump (s : State) (f : Fld) : (s.bump f).cnB = s.cnB := rfl
@[simp] theorem State.spA_bump (s : State) (f : Fld) : (s.bump f).spA = s.spA := rfl
@[simp] theorem State.spB_bump (s : State) (f : Fld) : (s.bump f).spB = s.spB := rfl
@[simp] theorem State.keys_bump (s : State) (f : Fld) : (s.bump f).keys = s.keys := rfl
@[simp] theorem State.otp_bump (s : State) (f : Fld) : (s.bump f).otp = s.otp := rfl
@[simp] theorem State.shadow_bump (s : State) (f : Fld) : (s.bump f).shadow = s.shadow := rfl
@[simp] theorem State.mram_bump (s : State) (f : Fld) : (s.bump f).mram = s.mram := rfl
@[simp] theorem State.ecc_bump (s : State) (f : Fld) : (s.bump f).ecc = s.ecc := rfl
@[simp] theorem State.lnd_bump (s : State) (f : Fld) : (s.bump f).lnd = s.lnd := rfl
@[simp] theorem State.mapS_bump (s : State) (f : Fld) : (s.bump f).mapS = s.mapS := rfl
@[simp] theorem State.tree_bump (s : State) (f : Fld) : (s.bump f).tree = s.tree := rfl
@[simp] theorem State.media_bump (s : State) (f : Fld) : (s.bump f).media = s.media := rfl
@[simp] theorem State.segs_bump (s : State) (f : Fld) : (s.bump f).segs = s.segs := rfl
@[simp] theorem State.host_bump (s : State) (f : Fld) : (s.bump f).host = s.host := rfl
@[simp] theorem State.brg_bump (s : State) (f : Fld) : (s.bump f).brg = s.brg := rfl
@[simp] theorem State.firm_bump (s : State) (f : Fld) : (s.bump f).firm = s.firm := rfl
@[simp] theorem State.life_bump (s : State) (f : Fld) : (s.bump f).life = s.life := rfl
@[simp] theorem State.summary_bump (s : State) (f : Fld) : (s.bump f).summary = s.summary := rfl
@[simp] theorem State.freeCtr_bump (s : State) (f : Fld) : (s.bump f).freeCtr = s.freeCtr := rfl
@[simp] theorem State.out_bump (s : State) (f : Fld) : (s.bump f).out = s.out := rfl
@[simp] theorem State.pending_bump (s : State) (f : Fld) : (s.bump f).pending = s.pending := rfl

/-! `State.bumpBy` changes regs. -/

@[simp] theorem State.role_bumpBy (s : State) (f : Fld) (k : Nat) : (s.bumpBy f k).role = s.role := rfl
@[simp] theorem State.pins_bumpBy (s : State) (f : Fld) (k : Nat) : (s.bumpBy f k).pins = s.pins := rfl
@[simp] theorem State.uptime_bumpBy (s : State) (f : Fld) (k : Nat) : (s.bumpBy f k).uptime = s.uptime := rfl
@[simp] theorem State.hiLatch_bumpBy (s : State) (f : Fld) (k : Nat) : (s.bumpBy f k).hiLatch = s.hiLatch := rfl
@[simp] theorem State.injArmed_bumpBy (s : State) (f : Fld) (k : Nat) : (s.bumpBy f k).injArmed = s.injArmed := rfl
@[simp] theorem State.boot_bumpBy (s : State) (f : Fld) (k : Nat) : (s.bumpBy f k).boot = s.boot := rfl
@[simp] theorem State.held_bumpBy (s : State) (f : Fld) (k : Nat) : (s.bumpBy f k).held = s.held := rfl
@[simp] theorem State.ringDrop_bumpBy (s : State) (f : Fld) (k : Nat) : (s.bumpBy f k).ringDrop = s.ringDrop := rfl
@[simp] theorem State.fnRegs_bumpBy (s : State) (f : Fld) (k : Nat) : (s.bumpBy f k).fnRegs = s.fnRegs := rfl
@[simp] theorem State.flt_bumpBy (s : State) (f : Fld) (k : Nat) : (s.bumpBy f k).flt = s.flt := rfl
@[simp] theorem State.mq_bumpBy (s : State) (f : Fld) (k : Nat) : (s.bumpBy f k).mq = s.mq := rfl
@[simp] theorem State.tamper_bumpBy (s : State) (f : Fld) (k : Nat) : (s.bumpBy f k).tamper = s.tamper := rfl
@[simp] theorem State.ths_bumpBy (s : State) (f : Fld) (k : Nat) : (s.bumpBy f k).ths = s.ths := rfl
@[simp] theorem State.cnA_bumpBy (s : State) (f : Fld) (k : Nat) : (s.bumpBy f k).cnA = s.cnA := rfl
@[simp] theorem State.cnB_bumpBy (s : State) (f : Fld) (k : Nat) : (s.bumpBy f k).cnB = s.cnB := rfl
@[simp] theorem State.spA_bumpBy (s : State) (f : Fld) (k : Nat) : (s.bumpBy f k).spA = s.spA := rfl
@[simp] theorem State.spB_bumpBy (s : State) (f : Fld) (k : Nat) : (s.bumpBy f k).spB = s.spB := rfl
@[simp] theorem State.keys_bumpBy (s : State) (f : Fld) (k : Nat) : (s.bumpBy f k).keys = s.keys := rfl
@[simp] theorem State.otp_bumpBy (s : State) (f : Fld) (k : Nat) : (s.bumpBy f k).otp = s.otp := rfl
@[simp] theorem State.shadow_bumpBy (s : State) (f : Fld) (k : Nat) : (s.bumpBy f k).shadow = s.shadow := rfl
@[simp] theorem State.mram_bumpBy (s : State) (f : Fld) (k : Nat) : (s.bumpBy f k).mram = s.mram := rfl
@[simp] theorem State.ecc_bumpBy (s : State) (f : Fld) (k : Nat) : (s.bumpBy f k).ecc = s.ecc := rfl
@[simp] theorem State.lnd_bumpBy (s : State) (f : Fld) (k : Nat) : (s.bumpBy f k).lnd = s.lnd := rfl
@[simp] theorem State.mapS_bumpBy (s : State) (f : Fld) (k : Nat) : (s.bumpBy f k).mapS = s.mapS := rfl
@[simp] theorem State.tree_bumpBy (s : State) (f : Fld) (k : Nat) : (s.bumpBy f k).tree = s.tree := rfl
@[simp] theorem State.media_bumpBy (s : State) (f : Fld) (k : Nat) : (s.bumpBy f k).media = s.media := rfl
@[simp] theorem State.segs_bumpBy (s : State) (f : Fld) (k : Nat) : (s.bumpBy f k).segs = s.segs := rfl
@[simp] theorem State.host_bumpBy (s : State) (f : Fld) (k : Nat) : (s.bumpBy f k).host = s.host := rfl
@[simp] theorem State.brg_bumpBy (s : State) (f : Fld) (k : Nat) : (s.bumpBy f k).brg = s.brg := rfl
@[simp] theorem State.firm_bumpBy (s : State) (f : Fld) (k : Nat) : (s.bumpBy f k).firm = s.firm := rfl
@[simp] theorem State.life_bumpBy (s : State) (f : Fld) (k : Nat) : (s.bumpBy f k).life = s.life := rfl
@[simp] theorem State.summary_bumpBy (s : State) (f : Fld) (k : Nat) : (s.bumpBy f k).summary = s.summary := rfl
@[simp] theorem State.freeCtr_bumpBy (s : State) (f : Fld) (k : Nat) : (s.bumpBy f k).freeCtr = s.freeCtr := rfl
@[simp] theorem State.out_bumpBy (s : State) (f : Fld) (k : Nat) : (s.bumpBy f k).out = s.out := rfl
@[simp] theorem State.pending_bumpBy (s : State) (f : Fld) (k : Nat) : (s.bumpBy f k).pending = s.pending := rfl

/-! `State.emit` changes out. -/

@[simp] theorem State.role_emit (s : State) (o : Out) : (s.emit o).role = s.role := rfl
@[simp] theorem State.pins_emit (s : State) (o : Out) : (s.emit o).pins = s.pins := rfl
@[simp] theorem State.uptime_emit (s : State) (o : Out) : (s.emit o).uptime = s.uptime := rfl
@[simp] theorem State.regs_emit (s : State) (o : Out) : (s.emit o).regs = s.regs := rfl
@[simp] theorem State.hiLatch_emit (s : State) (o : Out) : (s.emit o).hiLatch = s.hiLatch := rfl
@[simp] theorem State.injArmed_emit (s : State) (o : Out) : (s.emit o).injArmed = s.injArmed := rfl
@[simp] theorem State.boot_emit (s : State) (o : Out) : (s.emit o).boot = s.boot := rfl
@[simp] theorem State.held_emit (s : State) (o : Out) : (s.emit o).held = s.held := rfl
@[simp] theorem State.ringDrop_emit (s : State) (o : Out) : (s.emit o).ringDrop = s.ringDrop := rfl
@[simp] theorem State.fnRegs_emit (s : State) (o : Out) : (s.emit o).fnRegs = s.fnRegs := rfl
@[simp] theorem State.flt_emit (s : State) (o : Out) : (s.emit o).flt = s.flt := rfl
@[simp] theorem State.mq_emit (s : State) (o : Out) : (s.emit o).mq = {} := rfl
@[simp] theorem State.tamper_emit (s : State) (o : Out) : (s.emit o).tamper = s.tamper := rfl
@[simp] theorem State.ths_emit (s : State) (o : Out) : (s.emit o).ths = s.ths := rfl
@[simp] theorem State.cnA_emit (s : State) (o : Out) : (s.emit o).cnA = s.cnA := rfl
@[simp] theorem State.cnB_emit (s : State) (o : Out) : (s.emit o).cnB = s.cnB := rfl
@[simp] theorem State.spA_emit (s : State) (o : Out) : (s.emit o).spA = s.spA := rfl
@[simp] theorem State.spB_emit (s : State) (o : Out) : (s.emit o).spB = s.spB := rfl
@[simp] theorem State.keys_emit (s : State) (o : Out) : (s.emit o).keys = s.keys := rfl
@[simp] theorem State.otp_emit (s : State) (o : Out) : (s.emit o).otp = s.otp := rfl
@[simp] theorem State.shadow_emit (s : State) (o : Out) : (s.emit o).shadow = s.shadow := rfl
@[simp] theorem State.mram_emit (s : State) (o : Out) : (s.emit o).mram = s.mram := rfl
@[simp] theorem State.ecc_emit (s : State) (o : Out) : (s.emit o).ecc = s.ecc := rfl
@[simp] theorem State.lnd_emit (s : State) (o : Out) : (s.emit o).lnd = s.lnd := rfl
@[simp] theorem State.mapS_emit (s : State) (o : Out) : (s.emit o).mapS = s.mapS := rfl
@[simp] theorem State.tree_emit (s : State) (o : Out) : (s.emit o).tree = s.tree := rfl
@[simp] theorem State.media_emit (s : State) (o : Out) : (s.emit o).media = s.media := rfl
@[simp] theorem State.segs_emit (s : State) (o : Out) : (s.emit o).segs = s.segs := rfl
@[simp] theorem State.host_emit (s : State) (o : Out) : (s.emit o).host = s.host := rfl
@[simp] theorem State.brg_emit (s : State) (o : Out) : (s.emit o).brg = s.brg := rfl
@[simp] theorem State.firm_emit (s : State) (o : Out) : (s.emit o).firm = s.firm := rfl
@[simp] theorem State.life_emit (s : State) (o : Out) : (s.emit o).life = s.life := rfl
@[simp] theorem State.summary_emit (s : State) (o : Out) : (s.emit o).summary = s.summary := rfl
@[simp] theorem State.freeCtr_emit (s : State) (o : Out) : (s.emit o).freeCtr = s.freeCtr := rfl
@[simp] theorem State.pending_emit (s : State) (o : Out) : (s.emit o).pending = s.pending := rfl

/-! `State.spend` changes freeCtr. -/

@[simp] theorem State.role_spend (s : State) : (s.spend).role = s.role := rfl
@[simp] theorem State.pins_spend (s : State) : (s.spend).pins = s.pins := rfl
@[simp] theorem State.uptime_spend (s : State) : (s.spend).uptime = s.uptime := rfl
@[simp] theorem State.regs_spend (s : State) : (s.spend).regs = s.regs := rfl
@[simp] theorem State.hiLatch_spend (s : State) : (s.spend).hiLatch = s.hiLatch := rfl
@[simp] theorem State.injArmed_spend (s : State) : (s.spend).injArmed = s.injArmed := rfl
@[simp] theorem State.boot_spend (s : State) : (s.spend).boot = s.boot := rfl
@[simp] theorem State.held_spend (s : State) : (s.spend).held = s.held := rfl
@[simp] theorem State.ringDrop_spend (s : State) : (s.spend).ringDrop = s.ringDrop := rfl
@[simp] theorem State.fnRegs_spend (s : State) : (s.spend).fnRegs = s.fnRegs := rfl
@[simp] theorem State.flt_spend (s : State) : (s.spend).flt = s.flt := rfl
@[simp] theorem State.mq_spend (s : State) : (s.spend).mq = s.mq := rfl
@[simp] theorem State.tamper_spend (s : State) : (s.spend).tamper = s.tamper := rfl
@[simp] theorem State.ths_spend (s : State) : (s.spend).ths = s.ths := rfl
@[simp] theorem State.cnA_spend (s : State) : (s.spend).cnA = s.cnA := rfl
@[simp] theorem State.cnB_spend (s : State) : (s.spend).cnB = s.cnB := rfl
@[simp] theorem State.spA_spend (s : State) : (s.spend).spA = s.spA := rfl
@[simp] theorem State.spB_spend (s : State) : (s.spend).spB = s.spB := rfl
@[simp] theorem State.keys_spend (s : State) : (s.spend).keys = s.keys := rfl
@[simp] theorem State.otp_spend (s : State) : (s.spend).otp = s.otp := rfl
@[simp] theorem State.shadow_spend (s : State) : (s.spend).shadow = s.shadow := rfl
@[simp] theorem State.mram_spend (s : State) : (s.spend).mram = s.mram := rfl
@[simp] theorem State.ecc_spend (s : State) : (s.spend).ecc = s.ecc := rfl
@[simp] theorem State.lnd_spend (s : State) : (s.spend).lnd = s.lnd := rfl
@[simp] theorem State.mapS_spend (s : State) : (s.spend).mapS = s.mapS := rfl
@[simp] theorem State.tree_spend (s : State) : (s.spend).tree = s.tree := rfl
@[simp] theorem State.media_spend (s : State) : (s.spend).media = s.media := rfl
@[simp] theorem State.segs_spend (s : State) : (s.spend).segs = s.segs := rfl
@[simp] theorem State.host_spend (s : State) : (s.spend).host = s.host := rfl
@[simp] theorem State.brg_spend (s : State) : (s.spend).brg = s.brg := rfl
@[simp] theorem State.firm_spend (s : State) : (s.spend).firm = s.firm := rfl
@[simp] theorem State.life_spend (s : State) : (s.spend).life = s.life := rfl
@[simp] theorem State.summary_spend (s : State) : (s.spend).summary = s.summary := rfl
@[simp] theorem State.out_spend (s : State) : (s.spend).out = s.out := rfl
@[simp] theorem State.pending_spend (s : State) : (s.spend).pending = s.pending := rfl

/-! `State.storeWord` changes mram and ecc. -/

@[simp] theorem State.role_storeWord (s : State) (rank a v : Nat) : (s.storeWord rank a v).role = s.role := rfl
@[simp] theorem State.pins_storeWord (s : State) (rank a v : Nat) : (s.storeWord rank a v).pins = s.pins := rfl
@[simp] theorem State.uptime_storeWord (s : State) (rank a v : Nat) : (s.storeWord rank a v).uptime = s.uptime := rfl
@[simp] theorem State.regs_storeWord (s : State) (rank a v : Nat) : (s.storeWord rank a v).regs = s.regs := rfl
@[simp] theorem State.hiLatch_storeWord (s : State) (rank a v : Nat) : (s.storeWord rank a v).hiLatch = s.hiLatch := rfl
@[simp] theorem State.injArmed_storeWord (s : State) (rank a v : Nat) : (s.storeWord rank a v).injArmed = s.injArmed := rfl
@[simp] theorem State.boot_storeWord (s : State) (rank a v : Nat) : (s.storeWord rank a v).boot = s.boot := rfl
@[simp] theorem State.held_storeWord (s : State) (rank a v : Nat) : (s.storeWord rank a v).held = s.held := rfl
@[simp] theorem State.ringDrop_storeWord (s : State) (rank a v : Nat) : (s.storeWord rank a v).ringDrop = s.ringDrop := rfl
@[simp] theorem State.fnRegs_storeWord (s : State) (rank a v : Nat) : (s.storeWord rank a v).fnRegs = s.fnRegs := rfl
@[simp] theorem State.flt_storeWord (s : State) (rank a v : Nat) : (s.storeWord rank a v).flt = s.flt := rfl
@[simp] theorem State.tamper_storeWord (s : State) (rank a v : Nat) : (s.storeWord rank a v).tamper = s.tamper := rfl
@[simp] theorem State.ths_storeWord (s : State) (rank a v : Nat) : (s.storeWord rank a v).ths = s.ths := rfl
@[simp] theorem State.cnA_storeWord (s : State) (rank a v : Nat) : (s.storeWord rank a v).cnA = s.cnA := rfl
@[simp] theorem State.cnB_storeWord (s : State) (rank a v : Nat) : (s.storeWord rank a v).cnB = s.cnB := rfl
@[simp] theorem State.spA_storeWord (s : State) (rank a v : Nat) : (s.storeWord rank a v).spA = s.spA := rfl
@[simp] theorem State.spB_storeWord (s : State) (rank a v : Nat) : (s.storeWord rank a v).spB = s.spB := rfl
@[simp] theorem State.keys_storeWord (s : State) (rank a v : Nat) : (s.storeWord rank a v).keys = s.keys := rfl
@[simp] theorem State.otp_storeWord (s : State) (rank a v : Nat) : (s.storeWord rank a v).otp = s.otp := rfl
@[simp] theorem State.shadow_storeWord (s : State) (rank a v : Nat) : (s.storeWord rank a v).shadow = s.shadow := rfl
@[simp] theorem State.lnd_storeWord (s : State) (rank a v : Nat) : (s.storeWord rank a v).lnd = s.lnd := rfl
@[simp] theorem State.mapS_storeWord (s : State) (rank a v : Nat) : (s.storeWord rank a v).mapS = s.mapS := rfl
@[simp] theorem State.tree_storeWord (s : State) (rank a v : Nat) : (s.storeWord rank a v).tree = s.tree := rfl
@[simp] theorem State.media_storeWord (s : State) (rank a v : Nat) : (s.storeWord rank a v).media = s.media := rfl
@[simp] theorem State.segs_storeWord (s : State) (rank a v : Nat) : (s.storeWord rank a v).segs = s.segs := rfl
@[simp] theorem State.host_storeWord (s : State) (rank a v : Nat) : (s.storeWord rank a v).host = s.host := rfl
@[simp] theorem State.brg_storeWord (s : State) (rank a v : Nat) : (s.storeWord rank a v).brg = s.brg := rfl
@[simp] theorem State.firm_storeWord (s : State) (rank a v : Nat) : (s.storeWord rank a v).firm = s.firm := rfl
@[simp] theorem State.life_storeWord (s : State) (rank a v : Nat) : (s.storeWord rank a v).life = s.life := rfl
@[simp] theorem State.summary_storeWord (s : State) (rank a v : Nat) : (s.storeWord rank a v).summary = s.summary := rfl
@[simp] theorem State.freeCtr_storeWord (s : State) (rank a v : Nat) : (s.storeWord rank a v).freeCtr = s.freeCtr := rfl
@[simp] theorem State.out_storeWord (s : State) (rank a v : Nat) : (s.storeWord rank a v).out = s.out := rfl
@[simp] theorem State.pending_storeWord (s : State) (rank a v : Nat) : (s.storeWord rank a v).pending = s.pending := rfl

@[simp] theorem State.out_emit (s : State) (o : Out) : (s.emit o).out = s.out ++ [o] := rfl
@[simp] theorem State.freeCtr_spend (s : State) : s.spend.freeCtr = s.freeCtr + 1 := rfl

/-- A register after a register is written. -/
theorem State.reg_setReg (s : State) (off j : Nat) (v : Word) (h : Sparse.wf regReset s.regs = true) :
    (s.setReg off v).reg j = if off = j then v else s.reg j := Sparse.get_set _ _ _ _ _ h

/-- A register after a field is written. -/
theorem State.reg_setFld (s : State) (f : Fld) (j v : Nat) (h : Sparse.wf regReset s.regs = true) :
    (s.setFld f v).reg j = if f.off = j then insBits (s.reg f.off) f.lo f.w v else s.reg j := Sparse.get_set _ _ _ _ _ h

/-- Another register keeps its word. -/
theorem State.reg_setFld_other (s : State) (f : Fld) (j v : Nat) (h : Sparse.wf regReset s.regs = true)
    (hj : f.off ≠ j) : (s.setFld f v).reg j = s.reg j := by rw [State.reg_setFld s f j v h, if_neg hj]

@[simp] theorem State.wf_setReg (s : State) (off : Nat) (v : Word) (h : Sparse.wf regReset s.regs = true) :
    Sparse.wf regReset (s.setReg off v).regs = true := Sparse.wf_set _ _ _ _ h

@[simp] theorem State.wf_setFld (s : State) (f : Fld) (v : Nat) (h : Sparse.wf regReset s.regs = true) :
    Sparse.wf regReset (s.setFld f v).regs = true := Sparse.wf_set _ _ _ _ h

@[simp] theorem State.reg_emit (s : State) (o : Out) (j : Nat) : (s.emit o).reg j = s.reg j := rfl
@[simp] theorem State.fld_emit (s : State) (o : Out) (f : Fld) : (s.emit o).fld f = s.fld f := rfl
@[simp] theorem State.reg_spend (s : State) (j : Nat) : s.spend.reg j = s.reg j := rfl
@[simp] theorem State.fld_spend (s : State) (f : Fld) : s.spend.fld f = s.fld f := rfl

@[simp] theorem State.sp_setSp (s : State) (p : Nat) (x : Port) : (s.setSp p x).sp p = x := by
  unfold State.sp State.setSp; split <;> rfl

@[simp] theorem State.cn_setCn (s : State) (p : Nat) (x : Counlet) : (s.setCn p x).cn p = x := by
  unfold State.cn State.setCn; split <;> rfl

@[simp] theorem State.role_setSp (s : State) (p : Nat) (x : Port) : (s.setSp p x).role = s.role := by
  unfold State.setSp; split <;> rfl
@[simp] theorem State.pins_setSp (s : State) (p : Nat) (x : Port) : (s.setSp p x).pins = s.pins := by
  unfold State.setSp; split <;> rfl
@[simp] theorem State.uptime_setSp (s : State) (p : Nat) (x : Port) : (s.setSp p x).uptime = s.uptime := by
  unfold State.setSp; split <;> rfl
@[simp] theorem State.regs_setSp (s : State) (p : Nat) (x : Port) : (s.setSp p x).regs = s.regs := by
  unfold State.setSp; split <;> rfl
@[simp] theorem State.hiLatch_setSp (s : State) (p : Nat) (x : Port) : (s.setSp p x).hiLatch = s.hiLatch := by
  unfold State.setSp; split <;> rfl
@[simp] theorem State.injArmed_setSp (s : State) (p : Nat) (x : Port) : (s.setSp p x).injArmed = s.injArmed := by
  unfold State.setSp; split <;> rfl
@[simp] theorem State.boot_setSp (s : State) (p : Nat) (x : Port) : (s.setSp p x).boot = s.boot := by
  unfold State.setSp; split <;> rfl
@[simp] theorem State.held_setSp (s : State) (p : Nat) (x : Port) : (s.setSp p x).held = s.held := by
  unfold State.setSp; split <;> rfl
@[simp] theorem State.ringDrop_setSp (s : State) (p : Nat) (x : Port) : (s.setSp p x).ringDrop = s.ringDrop := by
  unfold State.setSp; split <;> rfl
@[simp] theorem State.fnRegs_setSp (s : State) (p : Nat) (x : Port) : (s.setSp p x).fnRegs = s.fnRegs := by
  unfold State.setSp; split <;> rfl
@[simp] theorem State.flt_setSp (s : State) (p : Nat) (x : Port) : (s.setSp p x).flt = s.flt := by
  unfold State.setSp; split <;> rfl
@[simp] theorem State.mq_setSp (s : State) (p : Nat) (x : Port) : (s.setSp p x).mq = s.mq := by
  unfold State.setSp; split <;> rfl
@[simp] theorem State.tamper_setSp (s : State) (p : Nat) (x : Port) : (s.setSp p x).tamper = s.tamper := by
  unfold State.setSp; split <;> rfl
@[simp] theorem State.ths_setSp (s : State) (p : Nat) (x : Port) : (s.setSp p x).ths = s.ths := by
  unfold State.setSp; split <;> rfl
@[simp] theorem State.cnA_setSp (s : State) (p : Nat) (x : Port) : (s.setSp p x).cnA = s.cnA := by
  unfold State.setSp; split <;> rfl
@[simp] theorem State.cnB_setSp (s : State) (p : Nat) (x : Port) : (s.setSp p x).cnB = s.cnB := by
  unfold State.setSp; split <;> rfl
@[simp] theorem State.keys_setSp (s : State) (p : Nat) (x : Port) : (s.setSp p x).keys = s.keys := by
  unfold State.setSp; split <;> rfl
@[simp] theorem State.otp_setSp (s : State) (p : Nat) (x : Port) : (s.setSp p x).otp = s.otp := by
  unfold State.setSp; split <;> rfl
@[simp] theorem State.shadow_setSp (s : State) (p : Nat) (x : Port) : (s.setSp p x).shadow = s.shadow := by
  unfold State.setSp; split <;> rfl
@[simp] theorem State.mram_setSp (s : State) (p : Nat) (x : Port) : (s.setSp p x).mram = s.mram := by
  unfold State.setSp; split <;> rfl
@[simp] theorem State.ecc_setSp (s : State) (p : Nat) (x : Port) : (s.setSp p x).ecc = s.ecc := by
  unfold State.setSp; split <;> rfl
@[simp] theorem State.lnd_setSp (s : State) (p : Nat) (x : Port) : (s.setSp p x).lnd = s.lnd := by
  unfold State.setSp; split <;> rfl
@[simp] theorem State.mapS_setSp (s : State) (p : Nat) (x : Port) : (s.setSp p x).mapS = s.mapS := by
  unfold State.setSp; split <;> rfl
@[simp] theorem State.tree_setSp (s : State) (p : Nat) (x : Port) : (s.setSp p x).tree = s.tree := by
  unfold State.setSp; split <;> rfl
@[simp] theorem State.media_setSp (s : State) (p : Nat) (x : Port) : (s.setSp p x).media = s.media := by
  unfold State.setSp; split <;> rfl
@[simp] theorem State.segs_setSp (s : State) (p : Nat) (x : Port) : (s.setSp p x).segs = s.segs := by
  unfold State.setSp; split <;> rfl
@[simp] theorem State.host_setSp (s : State) (p : Nat) (x : Port) : (s.setSp p x).host = s.host := by
  unfold State.setSp; split <;> rfl
@[simp] theorem State.brg_setSp (s : State) (p : Nat) (x : Port) : (s.setSp p x).brg = s.brg := by
  unfold State.setSp; split <;> rfl
@[simp] theorem State.firm_setSp (s : State) (p : Nat) (x : Port) : (s.setSp p x).firm = s.firm := by
  unfold State.setSp; split <;> rfl
@[simp] theorem State.life_setSp (s : State) (p : Nat) (x : Port) : (s.setSp p x).life = s.life := by
  unfold State.setSp; split <;> rfl
@[simp] theorem State.summary_setSp (s : State) (p : Nat) (x : Port) : (s.setSp p x).summary = s.summary := by
  unfold State.setSp; split <;> rfl
@[simp] theorem State.freeCtr_setSp (s : State) (p : Nat) (x : Port) : (s.setSp p x).freeCtr = s.freeCtr := by
  unfold State.setSp; split <;> rfl
@[simp] theorem State.out_setSp (s : State) (p : Nat) (x : Port) : (s.setSp p x).out = s.out := by
  unfold State.setSp; split <;> rfl
@[simp] theorem State.pending_setSp (s : State) (p : Nat) (x : Port) : (s.setSp p x).pending = s.pending := by
  unfold State.setSp; split <;> rfl
@[simp] theorem State.role_setCn (s : State) (p : Nat) (x : Counlet) : (s.setCn p x).role = s.role := by
  unfold State.setCn; split <;> rfl
@[simp] theorem State.pins_setCn (s : State) (p : Nat) (x : Counlet) : (s.setCn p x).pins = s.pins := by
  unfold State.setCn; split <;> rfl
@[simp] theorem State.uptime_setCn (s : State) (p : Nat) (x : Counlet) : (s.setCn p x).uptime = s.uptime := by
  unfold State.setCn; split <;> rfl
@[simp] theorem State.regs_setCn (s : State) (p : Nat) (x : Counlet) : (s.setCn p x).regs = s.regs := by
  unfold State.setCn; split <;> rfl
@[simp] theorem State.hiLatch_setCn (s : State) (p : Nat) (x : Counlet) : (s.setCn p x).hiLatch = s.hiLatch := by
  unfold State.setCn; split <;> rfl
@[simp] theorem State.injArmed_setCn (s : State) (p : Nat) (x : Counlet) : (s.setCn p x).injArmed = s.injArmed := by
  unfold State.setCn; split <;> rfl
@[simp] theorem State.boot_setCn (s : State) (p : Nat) (x : Counlet) : (s.setCn p x).boot = s.boot := by
  unfold State.setCn; split <;> rfl
@[simp] theorem State.held_setCn (s : State) (p : Nat) (x : Counlet) : (s.setCn p x).held = s.held := by
  unfold State.setCn; split <;> rfl
@[simp] theorem State.ringDrop_setCn (s : State) (p : Nat) (x : Counlet) : (s.setCn p x).ringDrop = s.ringDrop := by
  unfold State.setCn; split <;> rfl
@[simp] theorem State.fnRegs_setCn (s : State) (p : Nat) (x : Counlet) : (s.setCn p x).fnRegs = s.fnRegs := by
  unfold State.setCn; split <;> rfl
@[simp] theorem State.flt_setCn (s : State) (p : Nat) (x : Counlet) : (s.setCn p x).flt = s.flt := by
  unfold State.setCn; split <;> rfl
@[simp] theorem State.mq_setCn (s : State) (p : Nat) (x : Counlet) : (s.setCn p x).mq = s.mq := by
  unfold State.setCn; split <;> rfl
@[simp] theorem State.tamper_setCn (s : State) (p : Nat) (x : Counlet) : (s.setCn p x).tamper = s.tamper := by
  unfold State.setCn; split <;> rfl
@[simp] theorem State.ths_setCn (s : State) (p : Nat) (x : Counlet) : (s.setCn p x).ths = s.ths := by
  unfold State.setCn; split <;> rfl
@[simp] theorem State.spA_setCn (s : State) (p : Nat) (x : Counlet) : (s.setCn p x).spA = s.spA := by
  unfold State.setCn; split <;> rfl
@[simp] theorem State.spB_setCn (s : State) (p : Nat) (x : Counlet) : (s.setCn p x).spB = s.spB := by
  unfold State.setCn; split <;> rfl
@[simp] theorem State.keys_setCn (s : State) (p : Nat) (x : Counlet) : (s.setCn p x).keys = s.keys := by
  unfold State.setCn; split <;> rfl
@[simp] theorem State.otp_setCn (s : State) (p : Nat) (x : Counlet) : (s.setCn p x).otp = s.otp := by
  unfold State.setCn; split <;> rfl
@[simp] theorem State.shadow_setCn (s : State) (p : Nat) (x : Counlet) : (s.setCn p x).shadow = s.shadow := by
  unfold State.setCn; split <;> rfl
@[simp] theorem State.mram_setCn (s : State) (p : Nat) (x : Counlet) : (s.setCn p x).mram = s.mram := by
  unfold State.setCn; split <;> rfl
@[simp] theorem State.ecc_setCn (s : State) (p : Nat) (x : Counlet) : (s.setCn p x).ecc = s.ecc := by
  unfold State.setCn; split <;> rfl
@[simp] theorem State.lnd_setCn (s : State) (p : Nat) (x : Counlet) : (s.setCn p x).lnd = s.lnd := by
  unfold State.setCn; split <;> rfl
@[simp] theorem State.mapS_setCn (s : State) (p : Nat) (x : Counlet) : (s.setCn p x).mapS = s.mapS := by
  unfold State.setCn; split <;> rfl
@[simp] theorem State.tree_setCn (s : State) (p : Nat) (x : Counlet) : (s.setCn p x).tree = s.tree := by
  unfold State.setCn; split <;> rfl
@[simp] theorem State.media_setCn (s : State) (p : Nat) (x : Counlet) : (s.setCn p x).media = s.media := by
  unfold State.setCn; split <;> rfl
@[simp] theorem State.segs_setCn (s : State) (p : Nat) (x : Counlet) : (s.setCn p x).segs = s.segs := by
  unfold State.setCn; split <;> rfl
@[simp] theorem State.host_setCn (s : State) (p : Nat) (x : Counlet) : (s.setCn p x).host = s.host := by
  unfold State.setCn; split <;> rfl
@[simp] theorem State.brg_setCn (s : State) (p : Nat) (x : Counlet) : (s.setCn p x).brg = s.brg := by
  unfold State.setCn; split <;> rfl
@[simp] theorem State.firm_setCn (s : State) (p : Nat) (x : Counlet) : (s.setCn p x).firm = s.firm := by
  unfold State.setCn; split <;> rfl
@[simp] theorem State.life_setCn (s : State) (p : Nat) (x : Counlet) : (s.setCn p x).life = s.life := by
  unfold State.setCn; split <;> rfl
@[simp] theorem State.summary_setCn (s : State) (p : Nat) (x : Counlet) : (s.setCn p x).summary = s.summary := by
  unfold State.setCn; split <;> rfl
@[simp] theorem State.freeCtr_setCn (s : State) (p : Nat) (x : Counlet) : (s.setCn p x).freeCtr = s.freeCtr := by
  unfold State.setCn; split <;> rfl
@[simp] theorem State.out_setCn (s : State) (p : Nat) (x : Counlet) : (s.setCn p x).out = s.out := by
  unfold State.setCn; split <;> rfl
@[simp] theorem State.pending_setCn (s : State) (p : Nat) (x : Counlet) : (s.setCn p x).pending = s.pending := by
  unfold State.setCn; split <;> rfl

/-- Bit `i` of a mask of `w` ones from `lo`. -/
theorem fieldMask_bit (lo w i : Nat) (h : lo + w ≤ 32) :
    (fieldMask lo w).getLsbD i = (decide (lo ≤ i) && decide (i < lo + w)) := by
  simp only [fieldMask, BitVec.getLsbD_shiftLeft, BitVec.getLsbD_ofNat, Nat.testBit_two_pow_sub_one]
  by_cases h1 : lo ≤ i <;> by_cases h2 : i < lo + w <;> simp [h1, h2] <;> omega

/-- Bit `i` of a word with a field replaced. -/
theorem insBits_bit (x : Word) (lo w v i : Nat) (h : lo + w ≤ 32) : (insBits x lo w v).getLsbD i =
    if lo ≤ i ∧ i < lo + w then v.testBit (i - lo) else x.getLsbD i := by
  simp only [insBits, BitVec.getLsbD_or, BitVec.getLsbD_and, BitVec.getLsbD_not, fieldMask_bit _ _ _ h,
    BitVec.getLsbD_shiftLeft, BitVec.getLsbD_ofNat]
  by_cases h1 : lo ≤ i <;> by_cases h2 : i < lo + w <;> simp [h1, h2]
  · have : i < 32 := by omega
    have : i - lo < 32 := by omega
    simp [*]
  all_goals exact fun hx => BitVec.lt_of_getLsbD hx

/-- Bit `i` of a field of a number. -/
theorem bitsOf_bit (x lo w i : Nat) : (bitsOf x lo w).testBit i = (decide (i < w) && x.testBit (lo + i)) := by
  rw [bitsOf, Nat.testBit_mod_two_pow, Nat.testBit_div_two_pow, Nat.add_comm lo i]

/-- A field that is written reads back what fits of the value. -/
theorem bitsOf_insBits (x : Word) (lo w v : Nat) (h : lo + w ≤ 32) :
    bitsOf (insBits x lo w v).toNat lo w = v % 2 ^ w := by
  refine Nat.eq_of_testBit_eq fun i => ?_
  rw [bitsOf_bit, ← BitVec.getLsbD, insBits_bit _ _ _ _ _ h, Nat.testBit_mod_two_pow]
  by_cases hi : i < w
  · have : lo ≤ lo + i ∧ lo + i < lo + w := by omega
    simp [hi, this]
  · simp [hi]

/-- Another field of the same register keeps its value. -/
theorem bitsOf_insBits_other (x : Word) (lo w v lo' w' : Nat) (h : lo + w ≤ 32)
    (d : lo' + w' ≤ lo ∨ lo + w ≤ lo') : bitsOf (insBits x lo w v).toNat lo' w' = bitsOf x.toNat lo' w' := by
  refine Nat.eq_of_testBit_eq fun i => ?_
  rw [bitsOf_bit, bitsOf_bit, ← BitVec.getLsbD, ← BitVec.getLsbD, insBits_bit _ _ _ _ _ h]
  by_cases hi : i < w'
  · have : ¬(lo ≤ lo' + i ∧ lo' + i < lo + w) := by omega
    simp [hi, this]
  · simp [hi]

/-- A field that is written reads back what fits of the value. -/
theorem State.fld_setFld (s : State) (f : Fld) (v : Nat) (h : Sparse.wf regReset s.regs = true)
    (b : f.lo + f.w ≤ 32) : (s.setFld f v).fld f = v % 2 ^ f.w := by
  rw [State.fld, State.reg_setFld s f _ v h, if_pos rfl, bitsOf_insBits _ _ _ _ b]

/-- A field of another register, or beside the one written, keeps its value. -/
theorem State.fld_setFld_other (s : State) (f g : Fld) (v : Nat) (h : Sparse.wf regReset s.regs = true)
    (b : f.lo + f.w ≤ 32) (d : f.off ≠ g.off ∨ g.lo + g.w ≤ f.lo ∨ f.lo + f.w ≤ g.lo) :
    (s.setFld f v).fld g = s.fld g := by
  rw [State.fld, State.fld, State.reg_setFld s f _ v h]
  split
  · rename_i e
    rcases d with d | d
    · exact absurd e d
    · rw [bitsOf_insBits_other _ _ _ _ _ _ b d, e]
  · rfl

end Sys2Proof.Machine
end

