-- ==== Sys2Proof/Laws/EventFrame.lean ====
section
/-! SUPPORT. What firing an event leaves alone: everything but the registers, the events held back, the mark of a dropped
record, the pending bits of MSI-X, the requests of the landing store that wait, and what is sent. -/

namespace Sys2Proof.Machine

/-- `t` differs from `s` in registers, events held back, the mark of a dropped record, pending bits of MSI-X, requests of
the landing store that wait, and what was sent at most. -/
def State.Fired (s t : State) : Prop :=
  t = { s with regs := t.regs, held := t.held, ringDrop := t.ringDrop, fnRegs := t.fnRegs, mq := t.mq, out := t.out }

theorem State.Fired.refl (s : State) : s.Fired s := rfl

theorem State.Fired.trans {s t u : State} (h : s.Fired t) (k : t.Fired u) : s.Fired u := by
  unfold State.Fired at *
  rw [k, h]

theorem State.fired_setReg {s t : State} (h : s.Fired t) (off : Nat) (v : Word) : s.Fired (t.setReg off v) :=
  h.trans rfl

theorem State.fired_setFld {s t : State} (h : s.Fired t) (f : Fld) (v : Nat) : s.Fired (t.setFld f v) := h.trans rfl

theorem State.fired_setFlag {s t : State} (h : s.Fired t) (f : Fld) (b : Bool) : s.Fired (t.setFlag f b) := h.trans rfl

theorem State.fired_bump {s t : State} (h : s.Fired t) (f : Fld) : s.Fired (t.bump f) := h.trans rfl

theorem State.fired_emit {s t : State} (h : s.Fired t) (o : Out) : s.Fired (t.emit o) := h.trans rfl

theorem State.fired_putRecord {s t : State} (h : s.Fired t) (off w0 dA dB : Nat) (ts : Time) :
    s.Fired (t.putRecord off w0 dA dB ts) :=
  State.fired_setReg (State.fired_setReg (State.fired_setReg (State.fired_setReg h _ _) _ _) _ _) _ _

theorem State.fired_drop {s t : State} (h : s.Fired t) (b : Bool) : s.Fired { t with ringDrop := b } := h.trans rfl

theorem State.fired_hold {s t : State} (h : s.Fired t) (l : List HeldEvent) : s.Fired { t with held := l } := h.trans rfl

theorem State.fired_fnReg {s t : State} (h : s.Fired t) (fn i v : Nat) : s.Fired (t.setFnReg fn i v) := h.trans rfl

theorem State.fired_signal {s t : State} (h : s.Fired t) (fn v : Nat) : s.Fired (t.signal fn v) := by
  unfold State.signal
  split
  · exact h
  · split
    · exact State.fired_fnReg h _ _ _
    · exact State.fired_emit h _

theorem State.fired_hide {s t : State} (h : s.Fired t) (e : Ev) (inst : Option Nat) (dA dB : Nat) (test : Bool)
    (ts : Time) (id : Nat) : s.Fired (t.hide e inst dA dB test ts id) := State.fired_hold h _

theorem State.fired_raisePend {s t : State} (h : s.Fired t) (e : Ev) : s.Fired (t.raisePend e) := by
  unfold State.raisePend
  dsimp only
  split
  · exact State.fired_signal (State.fired_setFlag h _ _) _ _
  · exact State.fired_setFlag h _ _

theorem State.fired_ringWrite {s t : State} (h : s.Fired t) (e : Ev) (inst : Option Nat) (dA dB : Nat) (test : Bool)
    (ts : Time) : s.Fired (t.ringWrite e inst dA dB test ts) := by
  unfold State.ringWrite
  split
  · exact h
  · split
    · exact State.fired_drop (State.fired_bump (State.fired_setFld h _ _) _) _
    · exact State.fired_drop (State.fired_bump (State.fired_setFld (State.fired_putRecord
        (State.fired_setFld h _ _) _ _ _ _ _) _ _) _) _

theorem State.fired_fireOverflow {s t : State} (h : s.Fired t) : s.Fired t.fireOverflow := by
  simp only [State.fireOverflow]
  split
  · exact State.fired_ringWrite (State.fired_raisePend (State.fired_setFlag h _ _) _) _ _ _ _ _ _
  · exact State.fired_setFlag h _ _

theorem State.fired_ringWriteOv {s t : State} (h : s.Fired t) (e : Ev) (inst : Option Nat) (dA dB : Nat) (test : Bool)
    (ts : Time) : s.Fired (t.ringWriteOv e inst dA dB test ts) := by
  unfold State.ringWriteOv
  dsimp only
  split
  · exact State.fired_fireOverflow (State.fired_ringWrite h _ _ _ _ _ _)
  · exact State.fired_ringWrite h _ _ _ _ _ _

theorem State.fired_fireHigh {s t : State} (h : s.Fired t) : s.Fired t.fireHigh := by
  simp only [State.fireHigh]
  split
  · exact State.fired_ringWriteOv (State.fired_raisePend (State.fired_setFlag h _ _) _) _ _ _ _ _ _
  · exact State.fired_setFlag h _ _

theorem State.fired_record {s t : State} (h : s.Fired t) (e : Ev) (inst : Option Nat) (dA dB : Nat) (test : Bool)
    (ts : Time) : s.Fired (t.record e inst dA dB test ts) := by
  unfold State.record
  dsimp only
  split
  · exact State.fired_fireHigh (State.fired_ringWriteOv h _ _ _ _ _ _)
  · exact State.fired_ringWriteOv h _ _ _ _ _ _

theorem State.fired_instDeliver {s t : State} (h : s.Fired t) (n id dA dB : Nat) (test : Bool) (ts : Time) :
    s.Fired (t.instDeliver n id dA dB test ts) := by
  unfold State.instDeliver
  extract_lets pend u seq v i w
  have hu : s.Fired u := by
    simp only [u]
    split
    · exact h
    · exact State.fired_signal (State.fired_setFlag h _ _) _ _
  have hv : s.Fired v := State.fired_setFld hu _ _
  split
  · exact State.fired_bump hv _
  · exact State.fired_setFld (State.fired_setFld (State.fired_putRecord hv _ _ _ _ _) _ _) _ _

theorem State.fired_instFire {s t : State} (h : s.Fired t) (n id dA dB : Nat) (test : Bool) (ts : Time) :
    s.Fired (t.instFire n id dA dB test ts) := by
  have k : s.Fired (t.setFlag (bitFld (rEVT_RAW (pINS n)).off 0) true) := State.fired_setFlag h _ _
  unfold State.instFire
  dsimp only
  split
  · exact State.fired_instDeliver k _ _ _ _ _ _
  · exact State.fired_hide k _ _ _ _ _ _ _

theorem State.fired_instCopy {s t : State} (h : s.Fired t) (n : Nat) (e : Ev) (dA dB : Nat) (test : Bool) (ts : Time) :
    s.Fired (t.instCopy n e dA dB test ts) := by
  unfold State.instCopy
  split
  · exact State.fired_instFire h _ _ _ _ _ _
  · exact h

theorem State.fired_page {s t : State} (h : s.Fired t) (e : Ev) (inst : Option Nat) (dA dB : Nat) (test : Bool)
    (ts : Time) : s.Fired (if t.flag (bitFld (rEVT_MASK e.1).off e.2) then (t.raisePend e).record e inst dA dB test ts
      else t.hide e inst dA dB test ts (evtBase e.1 + e.2)) := by
  split
  · exact State.fired_record (State.fired_raisePend h _) _ _ _ _ _ _
  · exact State.fired_hide h _ _ _ _ _ _ _

theorem State.fired_deliver {s t : State} (h : s.Fired t) (e : Ev) (inst : Option Nat) (dA dB : Nat) (test : Bool)
    (ts : Time) : s.Fired (t.deliver e inst dA dB test ts) := by
  have k := State.fired_page h e inst dA dB test ts
  unfold State.deliver
  cases inst with
  | none => exact k
  | some n => exact State.fired_instCopy k _ _ _ _ _ _

/-- An event that fires leaves everything else alone. -/
theorem State.fired_fireFull {s t : State} (h : s.Fired t) (e : Ev) (inst : Option Nat) (dA dB : Nat) (test : Bool) :
    s.Fired (t.fireFull e inst dA dB test) := by
  unfold State.fireFull
  split
  · exact h
  · split
    · exact State.fired_deliver (State.fired_setFlag h _ _) _ _ _ _ _ _
    · exact State.fired_hold (State.fired_setFlag h _ _) _

theorem State.fired_fireD {s t : State} (h : s.Fired t) (e : Ev) (dA dB : Nat) : s.Fired (t.fireD e dA dB) :=
  State.fired_fireFull h _ _ _ _ _

theorem State.fired_fire {s t : State} (h : s.Fired t) (e : Ev) : s.Fired (t.fire e) := State.fired_fireD h _ _ _

theorem State.fired_fireI {s t : State} (h : s.Fired t) (e : Ev) (inst dA dB : Nat) : s.Fired (t.fireI e inst dA dB) :=
  State.fired_fireFull h _ _ _ _ _

theorem State.fired_injUsed {s t : State} (h : s.Fired t) (p k : Nat) : s.Fired (t.injUsed p k) := by
  unfold State.injUsed
  split
  · exact State.fired_fire (State.fired_setFlag h _ _) _
  · exact h

/-! ## Which registers an event that fires touches -/

/-- `t` keeps of `s` every register at an offset that is not `touched`, and every event that EVT_RAW shows. -/
structure State.Keeps (touched : Nat → Prop) (s t : State) : Prop where
  wf : Sparse.wf regReset t.regs = true
  reg : ∀ j, ¬touched j → t.reg j = s.reg j
  raw : ∀ p k, k < 32 → s.flag (bitFld (rEVT_RAW p).off k) = true → t.flag (bitFld (rEVT_RAW p).off k) = true

variable {touched : Nat → Prop} {s t : State}

theorem State.Keeps.refl (h : Sparse.wf regReset s.regs = true) : State.Keeps touched s s :=
  ⟨h, fun _ _ => rfl, fun _ _ _ h => h⟩

theorem State.keeps_mk {t u : State} (h : State.Keeps touched s t) (e : u.regs = t.regs) : State.Keeps touched s u := by
  have r : ∀ j, u.reg j = t.reg j := fun j => by unfold State.reg; rw [e]
  refine ⟨by rw [e]; exact h.wf, fun j n => (r j).trans (h.reg j n), fun p k b f => ?_⟩
  have := h.raw p k b f
  unfold State.flag State.fld at this ⊢
  rw [r]
  exact this

theorem State.keeps_setReg (h : State.Keeps touched s t) (off : Nat) (v : Word) (m : touched off) (n : off % 4096 ≠ 16) :
    State.Keeps touched s (t.setReg off v) := by
  refine ⟨State.wf_setReg t off v h.wf, fun j x => ?_, fun p k b f => ?_⟩
  · rw [State.reg_setReg t off j v h.wf, if_neg (fun e => x (by rw [← e]; exact m))]
    exact h.reg j x
  · have g := h.raw p k b f
    unfold State.flag State.fld at g ⊢
    have e : ¬off = 4096 * p + 16 := by omega
    rw [State.reg_setReg t off _ v h.wf, if_neg e]
    exact g

theorem State.keeps_setFld (h : State.Keeps touched s t) (f : Fld) (v : Nat) (m : touched f.off) (n : f.off % 4096 ≠ 16) :
    State.Keeps touched s (t.setFld f v) := State.keeps_setReg h _ _ m n

theorem State.keeps_bump (h : State.Keeps touched s t) (f : Fld) (m : touched f.off) (n : f.off % 4096 ≠ 16) :
    State.Keeps touched s (t.bump f) := State.keeps_setReg h _ _ m n

theorem State.keeps_setFlag (h : State.Keeps touched s t) (f : Fld) (b : Bool) (m : touched f.off) (n : f.off % 4096 ≠ 16) :
    State.Keeps touched s (t.setFlag f b) := State.keeps_setReg h _ _ m n

/-- A RAW bit that is set reads set. -/
theorem State.flag_raw_set (t : State) (p k : Nat) (b : k < 32) (h : Sparse.wf regReset t.regs = true) :
    (t.setFlag (bitFld (rEVT_RAW p).off k) true).flag (bitFld (rEVT_RAW p).off k) = true := by
  unfold State.flag State.setFlag
  rw [State.fld_setFld t _ _ h (show k + 1 ≤ 32 from b)]
  rfl

/-- Setting a RAW bit keeps every other one. -/
theorem State.keeps_raw (h : State.Keeps touched s t) (p k : Nat) (b : k < 32) (m : touched (rEVT_RAW p).off) :
    State.Keeps touched s (t.setFlag (bitFld (rEVT_RAW p).off k) true) := by
  refine ⟨State.wf_setReg t _ _ h.wf, fun j x => ?_, fun q i c f => ?_⟩
  · unfold State.setFlag State.setFld
    rw [State.reg_setReg t _ j _ h.wf, if_neg (fun e => x (by rw [← e]; exact m))]
    exact h.reg j x
  · have g := h.raw q i c f
    by_cases e : q = p ∧ i = k
    · rw [e.1, e.2]
      exact State.flag_raw_set t p k b h.wf
    · unfold State.flag at g ⊢
      unfold State.setFlag
      rw [State.fld_setFld_other t _ _ _ h.wf (show k + 1 ≤ 32 from b)]
      · exact g
      · dsimp only [pageOff]
        omega

theorem State.keeps_emit (h : State.Keeps touched s t) (o : Out) : State.Keeps touched s (t.emit o) :=
  State.keeps_mk h rfl

theorem State.keeps_signal (h : State.Keeps touched s t) (fn v : Nat) : State.Keeps touched s (t.signal fn v) := by
  unfold State.signal
  split
  · exact h
  · split
    · exact State.keeps_mk h rfl
    · exact State.keeps_emit h _

theorem State.keeps_raisePend (h : State.Keeps touched s t) (e : Ev) (m : touched (rEVT_PEND e.1).off) :
    State.Keeps touched s (t.raisePend e) := by
  have k : State.Keeps touched s (t.setFlag (bitFld (rEVT_PEND e.1).off e.2) true) :=
    State.keeps_setFlag h _ _ m (by dsimp only [pINS, pageOff]; omega)
  unfold State.raisePend
  dsimp only
  split
  · exact State.keeps_signal k _ _
  · exact k

/-- Four words of a record are touched. -/
theorem State.keeps_putRecord (h : State.Keeps touched s t) (off w0 dA dB : Nat) (ts : Time)
    (m : ∀ i, i < 4 → touched (off + 4 * i)) (n : ∀ i, i < 4 → (off + 4 * i) % 4096 ≠ 16) :
    State.Keeps touched s (t.putRecord off w0 dA dB ts) :=
  State.keeps_setReg (State.keeps_setReg (State.keeps_setReg (State.keeps_setReg h _ _ (m 0 (by decide)) (n 0 (by decide)))
    _ _ (m 1 (by decide)) (n 1 (by decide))) _ _ (m 2 (by decide)) (n 2 (by decide))) _ _ (m 3 (by decide)) (n 3 (by decide))

/-- A field is less than two to its width. -/
theorem State.fld_lt (s : State) (f : Fld) : s.fld f < 2 ^ f.w := Nat.mod_lt _ (Nat.two_pow_pos _)

theorem State.keeps_drop (h : State.Keeps touched s t) (b : Bool) : State.Keeps touched s { t with ringDrop := b } :=
  State.keeps_mk h rfl

theorem State.keeps_hold (h : State.Keeps touched s t) (l : List HeldEvent) : State.Keeps touched s { t with held := l } :=
  State.keeps_mk h rfl

theorem State.keeps_hide (h : State.Keeps touched s t) (e : Ev) (inst : Option Nat) (dA dB : Nat) (test : Bool) (ts : Time)
    (id : Nat) : State.Keeps touched s (t.hide e inst dA dB test ts id) := State.keeps_hold h _

theorem State.keeps_ringWrite (h : State.Keeps touched s t) (e : Ev) (inst : Option Nat) (dA dB : Nat) (test : Bool)
    (ts : Time) (m : ∀ j, j / 4096 = pEVT → touched j) : State.Keeps touched s (t.ringWrite e inst dA dB test ts) := by
  have d : State.Keeps touched s (t.setFld EVT_RING_HEAD_NEXT_SEQ (t.fld EVT_RING_HEAD_NEXT_SEQ + 1)) :=
    State.keeps_setFld h _ _ (m _ rfl) (by decide)
  have i := State.fld_lt t EVT_RING_HEAD_INDEX
  have w : State.Keeps touched s ((t.setFld EVT_RING_HEAD_NEXT_SEQ (t.fld EVT_RING_HEAD_NEXT_SEQ + 1)).putRecord
      ((rEVT_RING 0).off + 16 * t.fld EVT_RING_HEAD_INDEX)
      (recordWord0 (evtBase e.1 + e.2) inst test (t.fld EVT_RING_HEAD_NEXT_SEQ)) dA dB ts) := by
    refine State.keeps_putRecord d _ _ _ _ _ (fun j hj => m _ ?_) (fun j hj => ?_) <;> dsimp only [pINS, pEVT, pageOff] at i ⊢ <;> omega
  unfold State.ringWrite
  split
  · exact h
  · dsimp only
    split
    · exact State.keeps_drop (State.keeps_bump d EVT_RING_STAT_DROPPED (m _ rfl) (by decide)) _
    · exact State.keeps_drop (State.keeps_bump (State.keeps_setFld w EVT_RING_HEAD_INDEX _ (m _ rfl) (by decide))
        EVT_RING_STAT_COUNT (m _ rfl) (by decide)) _

theorem State.keeps_fireOverflow (h : State.Keeps touched s t) (m : ∀ j, j / 4096 = pEVT → touched j) :
    State.Keeps touched s t.fireOverflow := by
  have k := State.keeps_raw h pEVT 1 (by decide) (m _ rfl)
  simp only [State.fireOverflow]
  split
  · exact State.keeps_ringWrite (State.keeps_raisePend k _ (m _ rfl)) _ _ _ _ _ _ m
  · exact k

theorem State.keeps_ringWriteOv (h : State.Keeps touched s t) (e : Ev) (inst : Option Nat) (dA dB : Nat) (test : Bool)
    (ts : Time) (m : ∀ j, j / 4096 = pEVT → touched j) : State.Keeps touched s (t.ringWriteOv e inst dA dB test ts) := by
  unfold State.ringWriteOv
  dsimp only
  split
  · exact State.keeps_fireOverflow (State.keeps_ringWrite h _ _ _ _ _ _ m) m
  · exact State.keeps_ringWrite h _ _ _ _ _ _ m

theorem State.keeps_fireHigh (h : State.Keeps touched s t) (m : ∀ j, j / 4096 = pEVT → touched j) :
    State.Keeps touched s t.fireHigh := by
  have k := State.keeps_raw h pEVT 0 (by decide) (m _ rfl)
  simp only [State.fireHigh]
  split
  · exact State.keeps_ringWriteOv (State.keeps_raisePend k _ (m _ rfl)) _ _ _ _ _ _ m
  · exact k

theorem State.keeps_record (h : State.Keeps touched s t) (e : Ev) (inst : Option Nat) (dA dB : Nat) (test : Bool)
    (ts : Time) (m : ∀ j, j / 4096 = pEVT → touched j) : State.Keeps touched s (t.record e inst dA dB test ts) := by
  unfold State.record
  dsimp only
  split
  · exact State.keeps_fireHigh (State.keeps_ringWriteOv h _ _ _ _ _ _ m) m
  · exact State.keeps_ringWriteOv h _ _ _ _ _ _ m

theorem State.keeps_instDeliver (h : State.Keeps touched s t) (n id dA dB : Nat) (test : Bool) (ts : Time)
    (m : ∀ j, j / 4096 = pINS n → touched j) : State.Keeps touched s (t.instDeliver n id dA dB test ts) := by
  unfold State.instDeliver
  extract_lets pend u seq v i w
  have hu : State.Keeps touched s u := by
    simp only [u]
    split
    · exact h
    · exact State.keeps_signal (State.keeps_setFlag h _ _ (m _ (by dsimp only [pend, pINS, pageOff]; omega))
        (by dsimp only [pend, pINS, pageOff]; omega)) _ _
  have hv : State.Keeps touched s v := State.keeps_setFld hu _ _ (m _ (by dsimp only [pINS, pageOff]; omega))
    (by dsimp only [pINS, pageOff]; omega)
  have hi := State.fld_lt u (INS_RING_HEAD_INDEX n)
  split
  · exact State.keeps_bump hv _ (m _ (by dsimp only [pINS, pageOff]; omega)) (by dsimp only [pINS, pageOff]; omega)
  · refine State.keeps_setFld (State.keeps_setFld (State.keeps_putRecord hv _ _ _ _ _ (fun j hj => m _ ?_)
      (fun j hj => ?_)) _ _ (m _ ?_) ?_) _ _ (m _ ?_) ?_ <;> dsimp only [i, pINS, pEVT, pageOff] at hi ⊢ <;> omega

theorem State.keeps_instFire (h : State.Keeps touched s t) (n id dA dB : Nat) (test : Bool) (ts : Time)
    (m : ∀ j, j / 4096 = pINS n → touched j) : State.Keeps touched s (t.instFire n id dA dB test ts) := by
  have k := State.keeps_raw h (pINS n) 0 (by decide) (m _ (by dsimp only [pINS, pageOff]; omega))
  unfold State.instFire
  dsimp only
  split
  · exact State.keeps_instDeliver k _ _ _ _ _ _ m
  · exact State.keeps_hide k _ _ _ _ _ _ _

theorem State.keeps_instCopy (h : State.Keeps touched s t) (n : Nat) (e : Ev) (dA dB : Nat) (test : Bool) (ts : Time)
    (m : ∀ j, j / 4096 = pINS n → touched j) : State.Keeps touched s (t.instCopy n e dA dB test ts) := by
  unfold State.instCopy
  split
  · exact State.keeps_instFire h _ _ _ _ _ _ m
  · exact h

theorem State.keeps_page (h : State.Keeps touched s t) (e : Ev) (inst : Option Nat) (dA dB : Nat) (test : Bool)
    (ts : Time) (p : touched (rEVT_PEND e.1).off) (m : ∀ j, j / 4096 = pEVT → touched j) :
    State.Keeps touched s (if t.flag (bitFld (rEVT_MASK e.1).off e.2) then (t.raisePend e).record e inst dA dB test ts
      else t.hide e inst dA dB test ts (evtBase e.1 + e.2)) := by
  split
  · exact State.keeps_record (State.keeps_raisePend h e p) _ _ _ _ _ _ m
  · exact State.keeps_hide h _ _ _ _ _ _ _

/-- What an event that fires may touch: RAW and PEND of its page, the page EVT, and the page of its instance. -/
def evTouched (e : Ev) (inst : Option Nat) (j : Nat) : Prop :=
  j = (rEVT_RAW e.1).off ∨ j = (rEVT_PEND e.1).off ∨ j / 4096 = pEVT ∨ ∃ n, inst = some n ∧ j / 4096 = pINS n

theorem State.keeps_fireFull (s : State) (e : Ev) (inst : Option Nat) (dA dB : Nat) (test : Bool) (b : e.2 < 32)
    (h : Sparse.wf regReset s.regs = true) : State.Keeps (evTouched e inst) s (s.fireFull e inst dA dB test) := by
  have m : ∀ j, j / 4096 = pEVT → evTouched e inst j := fun j x => .inr (.inr (.inl x))
  have k := State.keeps_raw (State.Keeps.refl (touched := evTouched e inst) h) e.1 e.2 b (.inl rfl)
  unfold State.fireFull
  split
  · exact State.Keeps.refl h
  · split
    · unfold State.deliver
      have r := State.keeps_page k e inst dA dB test s.uptime (.inr (.inl rfl)) m
      cases inst with
      | none => exact r
      | some n => exact State.keeps_instCopy r n _ _ _ _ _ (fun j x => .inr (.inr (.inr ⟨n, rfl, x⟩)))
    · exact State.keeps_hold k _

/-- An event of the role that fires shows in EVT_RAW. -/
theorem State.raw_fireFull (s : State) (e : Ev) (inst : Option Nat) (dA dB : Nat) (test : Bool) (b : e.2 < 32)
    (h : Sparse.wf regReset s.regs = true) (r : evtInRole s.role e.1 e.2 = true) :
    (s.fireFull e inst dA dB test).flag (bitFld (rEVT_RAW e.1).off e.2) = true := by
  have w : Sparse.wf regReset (s.setFlag (bitFld (rEVT_RAW e.1).off e.2) true).regs = true := State.wf_setReg s _ _ h
  have f := State.flag_raw_set s e.1 e.2 b h
  have k : State.Keeps (fun _ => True) (s.setFlag (bitFld (rEVT_RAW e.1).off e.2) true)
      (s.setFlag (bitFld (rEVT_RAW e.1).off e.2) true) := State.Keeps.refl w
  unfold State.fireFull
  rw [r]
  dsimp only [Bool.not_true]
  rw [if_neg (by decide)]
  split
  · unfold State.deliver
    have q := State.keeps_page k e inst dA dB test s.uptime trivial (fun _ _ => trivial)
    cases inst with
    | none => exact q.raw e.1 e.2 b f
    | some n => exact (State.keeps_instCopy q n _ _ _ _ _ (fun _ _ => trivial)).raw e.1 e.2 b f
  · exact (State.keeps_hold k _).raw e.1 e.2 b f

end Sys2Proof.Machine
end

