-- ==== Sys2Proof/Laws/ExecLaws.lean ====
section
/-! SUPPORT. Every command answers a next state that comes after the one it acts on (State.Later). -/

namespace Sys2Proof.Machine

/-- No command stops, and none undoes what is never undone. -/
theorem exec_later (i : Instr) (s : State) : Goes s (exec i s) := by
  cases i with
  | supplyLoss served torn hurt => exact execSupplyLoss_later served torn hurt s
  | powerOnClearRelease => exact execPowerOnClearRelease_later s
  | rstNLow ns served pulse => exact execRstNLow_later ns served pulse s
  | rstNRelease => exact execRstNRelease_later s
  | resetDeferEnd tenNs => exact execResetDeferEnd_later tenNs s
  | roleSelChange level => exact execRoleSelChange_later level s
  | bringupStepDone e => exact execBringupStepDone_later e s
  | chipRst key served pulse => exact execChipRst_later key served pulse s
  | bridgeTimeout waiting far => exact execBridgeTimeout_later waiting far s
  | islandResetDone isl => exact execIslandResetDone_later isl s
  | islandIdleGate isl gate => exact execIslandIdleGate_later isl gate s
  | pllLockLoss => exact execPllLockLoss_later s
  | pllRelockResult locked => exact execPllRelockResult_later locked s
  | oscMeasure aonKhz flt100Khz xin => exact execOscMeasure_later aonKhz flt100Khz xin s
  | blkRstReq page => exact execBlkRstReq_later page s
  | blockResetDone page => exact execBlockResetDone_later page s
  | pgCtrlEnable page on => exact execPgCtrlEnable_later page on s
  | quiesceReq page on => exact execQuiesceReq_later page on s
  | blockQuiesced page => exact execBlockQuiesced_later page s
  | fenceReq page on => exact execFenceReq_later page on s
  | pgLock page => exact execPgLock_later page s
  | evtPendClear page mask => exact execEvtPendClear_later page mask s
  | evtMaskWrite page mask => exact execEvtMaskWrite_later page mask s
  | evtSet page mask => exact execEvtSet_later page mask s
  | injArm page key => exact execInjArm_later page key s
  | injArmExpiry page => exact execInjArmExpiry_later page s
  | injCtrl page word => exact execInjCtrl_later page word s
  | ringTail index => exact execRingTail_later index s
  | ringClr key => exact execRingClr_later key s
  | uptimeLoRead path off bytes => exact execUptimeLoRead_later path off bytes s
  | uptimeWrap => exact execUptimeWrap_later s
  | gpioEdge levels => exact execGpioEdge_later levels s
  | registerWrite path off value be => exact execRegisterWrite_later path off value be s
  | i2cWrite bytes => exact execI2cWrite_later bytes s
  | i2cRead n => exact execI2cRead_later n s
  | jtagInstruction code scan => exact execJtagInstruction_later code scan s
  | leaseExpiry n us => exact execLeaseExpiry_later n us s
  | standbyHeartbeatMiss => exact execStandbyHeartbeatMiss_later s
  | mpSelfCheckDone mp pass slotOk => exact execMpSelfCheckDone_later mp pass slotOk s
  | mpWatchdogExpiry served pulse => exact execMpWatchdogExpiry_later served pulse s
  | faultDetected src x syn injected => exact execFaultDetected_later src x syn injected s
  | fenceActionDone src holds => exact execFenceActionDone_later src holds s
  | lullExpiry src => exact execLullExpiry_later src s
  | fltClearSource key src => exact execFltClearSource_later key src s
  | fltClearAll key => exact execFltClearAll_later key s
  | tamperLoopWord halves served => exact execTamperLoopWord_later halves served s
  | tamperSwitchOpen served => exact execTamperSwitchOpen_later served s
  | tamperAck seq pw switchLow => exact execTamperAck_later seq pw switchLow s
  | tmpCtrlClear word switchLow => exact execTmpCtrlClear_later word switchLow s
  | thsSample t0 t1 t2 t3 => exact execThsSample_later t0 t1 t2 t3 s
  | spDoze c => exact execSpDoze_later c s
  | pwrCtrlDoze word => exact execPwrCtrlDoze_later word s
  | dozeEntryDone ms => exact execDozeEntryDone_later ms s
  | dozeWake cause => exact execDozeWake_later cause s
  | dozeWakeDone us => exact execDozeWakeDone_later us s
  | crstNLow ns pulse => exact execCrstNLow_later ns pulse s
  | crstNRelease => exact execCrstNRelease_later s
  | answerToReset => exact execAnswerToReset_later s
  | ppsRequest pps0 pps1 pck => exact execPpsRequest_later pps0 pps1 pck s
  | charWaitTimeout port op index => exact execCharWaitTimeout_later port op index s
  | counletBadFrame port refused parity op index bytes => exact execCounletBadFrame_later port refused parity op index bytes s
  | counletRepeatedRequest op seq => exact execCounletRepeatedRequest_later op seq s
  | counletIdent seq => exact execCounletIdent_later seq s
  | counletStatus seq => exact execCounletStatus_later seq s
  | counletHealth seq => exact execCounletHealth_later seq s
  | histRead seq start count => exact execHistRead_later seq start count s
  | counletLockSet seq scope action old new => exact execCounletLockSet_later seq scope action old new s
  | counletUnlock seq scope pw => exact execCounletUnlock_later seq scope pw s
  | forceEraseArm seq serial => exact execForceEraseArm_later seq serial s
  | forceEraseConfirm seq token serial => exact execForceEraseConfirm_later seq token serial s
  | eraseArmExpiry => exact execEraseArmExpiry_later s
  | forceEraseBackground blocks => exact execForceEraseBackground_later blocks s
  | pairBeginProve seq stepping nonce => exact execPairBeginProve_later seq stepping nonce s
  | pairBeginEnrol seq slot stepping nonce => exact execPairBeginEnrol_later seq slot stepping nonce s
  | pairProofProve seq proof => exact execPairProofProve_later seq proof s
  | pairProofEnrol seq key => exact execPairProofEnrol_later seq key s
  | pairDrop seq slot => exact execPairDrop_later seq slot s
  | counletRegRd seq off => exact execCounletRegRd_later seq off s
  | fwSlotWrite seq control off data => exact execFwSlotWrite_later seq control off data s
  | counletLinkReset seq => exact execCounletLinkReset_later seq s
  | cardInsertion port => exact execCardInsertion_later port s
  | insDelayExpiry port => exact execInsDelayExpiry_later port s
  | atrReceived port bytes => exact execAtrReceived_later port bytes s
  | atrTimeout port => exact execAtrTimeout_later port s
  | linkupRetryExpiry port => exact execLinkupRetryExpiry_later port s
  | dockCounletResponse port op seq payload => exact execDockCounletResponse_later port op seq payload s
  | mbxGo port op len => exact execMbxGo_later port op len s
  | mbxResponse port op seq payload => exact execMbxResponse_later port op seq payload s
  | mbxRespTimeout port => exact execMbxRespTimeout_later port s
  | cnRestart port => exact execCnRestart_later port s
  | enrolReq port slot => exact execEnrolReq_later port slot s
  | holdReset port on => exact execHoldReset_later port on s
  | cardRemoval port highUs => exact execCardRemoval_later port highUs s
  | relinkExpiry port => exact execRelinkExpiry_later port s
  | linkResetDetect port pulse => exact execLinkResetDetect_later port pulse s
  | spantoenBadFrame port => exact execSpantoenBadFrame_later port s
  | spantoenUnknownOp op c => exact execSpantoenUnknownOp_later op c s
  | duplicateFc op c => exact execDuplicateFc_later op c s
  | spPing c => exact execSpPing_later c s
  | spIdentify c => exact execSpIdentify_later c s
  | spRead c env => exact execSpRead_later c env s
  | spWrite c => exact execSpWrite_later c s
  | hostUnitReceived u readback lat env => exact execHostUnitReceived_later u readback lat env s
  | spDiscard c readback => exact execSpDiscard_later c readback s
  | spBarrier c => exact execSpBarrier_later c s
  | spSettle c => exact execSpSettle_later c s
  | settleComplete tag => exact execSettleComplete_later tag s
  | segOpen c => exact execSegOpen_later c s
  | segClose c => exact execSegClose_later c s
  | segVerify c u env => exact execSegVerify_later c u env s
  | regRd c => exact execRegRd_later c s
  | regWr c u => exact execRegWr_later c u s
  | tuneRd c => exact execTuneRd_later c s
  | tuneWr c frames => exact execTuneWr_later c frames s
  | speedSet c => exact execSpeedSet_later c s
  | linkKey c => exact execLinkKey_later c s
  | instCfgCreate c u => exact execInstCfgCreate_later c u s
  | instCfgResize c u => exact execInstCfgResize_later c u s
  | instCfgSched c u => exact execInstCfgSched_later c u s
  | instCfgDelete c u => exact execInstCfgDelete_later c u s
  | instCfgReclaim c u => exact execInstCfgReclaim_later c u s
  | spHealth c => exact execSpHealth_later c s
  | logRead c => exact execLogRead_later c s
  | fwStage c => exact execFwStage_later c s
  | fwActivate c => exact execFwActivate_later c s
  | activationSelfCheckDone pass leaseKept => exact execActivationSelfCheckDone_later pass leaseKept s
  | floorBurn => exact execFloorBurn_later s
  | fuseBurnDone => exact execFuseBurnDone_later s
  | lockCtlLockSet c u => exact execLockCtlLockSet_later c u s
  | lockCtlUnlock c u => exact execLockCtlUnlock_later c u s
  | spantoenForceEraseArm c => exact execSpantoenForceEraseArm_later c s
  | spantoenForceEraseConfirm c => exact execSpantoenForceEraseConfirm_later c s
  | statusFrameReceived port good token ntoken => exact execStatusFrameReceived_later port good token ntoken s
  | tokenWaitExpiry port => exact execTokenWaitExpiry_later port s
  | dockRetrain port sweep => exact execDockRetrain_later port sweep s
  | responseReceived port r => exact execResponseReceived_later port r s
  | cardUnitReceived port tag index u => exact execCardUnitReceived_later port tag index u s
  | pingInterval port => exact execPingInterval_later port s
  | responseTimeout port => exact execResponseTimeout_later port s
  | sclkStop port => exact execSclkStop_later port s
  | cardClkStopDetect => exact execCardClkStopDetect_later s
  | autoRetune port sweep => exact execAutoRetune_later port sweep s
  | tunePort port mode sweep => exact execTunePort_later port mode sweep s
  | autoRekey port => exact execAutoRekey_later port s
  | retrain port => exact execRetrain_later port s
  | linkReset port => exact execLinkReset_later port s
  | retune port => exact execRetune_later port s
  | rekey port => exact execRekey_later port s
  | endSession port => exact execEndSession_later port s
  | perstNFall pulse => exact execPerstNFall_later pulse s
  | perstNRise => exact execPerstNRise_later s
  | pcieLinkChange speed width up ltssm => exact execPcieLinkChange_later speed width up ltssm s
  | pceFlr fn => exact execPceFlr_later fn s
  | vfEnable on num ari => exact execVfEnable_later on num ari s
  | sqDoorbell fn sq value => exact execSqDoorbell_later fn sq value s
  | cqDoorbell fn cq value => exact execCqDoorbell_later fn cq value s
  | sqFetch inst sq => exact execSqFetch_later inst sq s
  | qosGrant => exact execQosGrant_later s
  | dockWrite inst sq cid => exact execDockWrite_later inst sq cid s
  | dockRead inst sq cid => exact execDockRead_later inst sq cid s
  | dockForwardCommand inst sq cid => exact execDockForwardCommand_later inst sq cid s
  | dockPing inst sq cid => exact execDockPing_later inst sq cid s
  | dockBarrier inst sq cid => exact execDockBarrier_later inst sq cid s
  | dockOpcodeRefused inst sq cid => exact execDockOpcodeRefused_later inst sq cid s
  | cqCoalesceTimer inst cq => exact execCqCoalesceTimer_later inst cq s
  | bridgeBusyResend port => exact execBridgeBusyResend_later port s
  | brgMode sq cid => exact execBrgMode_later sq cid s
  | portDrain sq cid => exact execPortDrain_later sq cid s
  | portDrainResume sq cid => exact execPortDrainResume_later sq cid s
  | instQuiesceQuiesce sq cid => exact execInstQuiesceQuiesce_later sq cid s
  | instQuiesceResume sq cid => exact execInstQuiesceResume_later sq cid s
  | instQuiesceReclaim sq cid => exact execInstQuiesceReclaim_later sq cid s
  | instanceQuiesced inst => exact execInstanceQuiesced_later inst s
  | invalGo word => exact execInvalGo_later word s
  | invalidationDone => exact execInvalidationDone_later s
  | qosSchedWrite inst word => exact execQosSchedWrite_later inst word s
  | brgSwitch key => exact execBrgSwitch_later key s
  | resumeCarry key => exact execResumeCarry_later key s
  | dropBlocked key => exact execDropBlocked_later key s
  | dropTrack key t => exact execDropTrack_later key t s
  | resyncChunk t => exact execResyncChunk_later t s
  | bridgeReplayDelivery port => exact execBridgeReplayDelivery_later port s
  | dfwBegin key slot => exact execDfwBegin_later key slot s
  | dfwData word => exact execDfwData_later word s
  | dfwEnd key => exact execDfwEnd_later key s
  | dfwActivate key slot => exact execDfwActivate_later key slot s
  | pairGen key => exact execPairGen_later key s
  | pairImport key => exact execPairImport_later key s
  | importTimeout => exact execImportTimeout_later s
  | relock key scope => exact execRelock_later key scope s
  | retireGo lun => exact execRetireGo_later lun s
  | scanNow => exact execScanNow_later s
  | ckptNow => exact execCkptNow_later s
  | recordPlacement seq loc => exact execRecordPlacement_later seq loc s
  | flashChannelGrant ch waiting => exact execFlashChannelGrant_later ch waiting s
  | flashOpComplete lun ok => exact execFlashOpComplete_later lun ok s
  | recordRelease seq => exact execRecordRelease_later seq s
  | anchorRewrite => exact execAnchorRewrite_later s
  | deltaLineWrite => exact execDeltaLineWrite_later s
  | mapWriteback page => exact execMapWriteback_later page s
  | checkpoint => exact execCheckpoint_later s
  | pagePadTimer half => exact execPagePadTimer_later half s
  | superblockVerify k => exact execSuperblockVerify_later k s
  | wearMove => exact execWearMove_later s
  | medReclaim half => exact execMedReclaim_later half s
  | readRefresh k => exact execReadRefresh_later k s
  | retentionScan reads => exact execRetentionScan_later reads s
  | readCountFlush => exact execReadCountFlush_later s
  | dieTimeout lun ready busHeld read => exact execDieTimeout_later lun ready busHeld read s
  | lndScrub => exact execLndScrub_later s
  | lifeRecordRewrite => exact execLifeRecordRewrite_later s
  | lullWindowEnd src => exact execLullWindowEnd_later src s
  | keyQuiesceHoldExpiry => exact execKeyQuiesceHoldExpiry_later s
  | clkstopAll => exact execClkstopAll_later s
  | pcieReadCompletion id r => exact execPcieReadCompletion_later id r s
  | completionTimeout id => exact execCompletionTimeout_later id s
  | flrDone fn => exact execFlrDone_later fn s
  | qosBucketRefill => exact execQosBucketRefill_later s

end Sys2Proof.Machine
end

