-- ==== Sys2Proof/Laws/FaultRecords.lean ====
section
/-! SUPPORT. What a fault that is recorded writes: its history entry, the head of the history, and its SRC_STAT. -/

namespace Sys2Proof.Machine

/-- `t` is in order, keeps of `s` every register but those of `m`, and the fields beside the registers that matter here. -/
def State.KeepsRest (m : Nat → Prop) (s t : State) : Prop :=
  Sparse.wf regReset t.regs = true ∧ (∀ j, ¬m j → t.reg j = s.reg j) ∧ t.flt = s.flt ∧ t.role = s.role

theorem State.fld_congr {x y : State} {f : Fld} (h : x.reg f.off = y.reg f.off) : x.fld f = y.fld f := by unfold State.fld; rw [h]

theorem State.keepsRest_fire (s : State) (e : Ev) (dA dB : Nat) (b : e.2 < 32) (h : Sparse.wf regReset s.regs = true) :
    State.KeepsRest (evTouched e none) s (s.fireD e dA dB) := by
  have k := State.keeps_fireFull s e none dA dB false b h
  have f : State.Fired s (s.fireFull e none dA dB false) := State.fired_fireFull (State.Fired.refl s) e none dA dB false
  refine ⟨k.wf, k.reg, ?_, ?_⟩
  · show (s.fireFull e none dA dB false).flt = s.flt; rw [f]
  · show (s.fireFull e none dA dB false).role = s.role; rw [f]

/-- The four words of the entry, and the head moved on. -/
def State.histEntry (s : State) (src : Nat) (u : FenceUnit) (syn : Nat) (inj : Bool) : State :=
  let i := s.fld FLT_HIST_HEAD_INDEX
  (((s.setReg (histOff i) (BitVec.ofNat 32 s.uptime.toNat)).setReg (histOff i + 4)
    (BitVec.ofNat 32 (s.uptime.toNat / 2 ^ 32 + 256 * src + 32768 * inj.toNat +
      65536 * u.code))).setReg (histOff i + 8) (BitVec.ofNat 32 syn)).setReg (histOff i + 12)
    (BitVec.ofNat 32 (256 * 0 + 65536 * s.fld FLT_HIST_HEAD_NEXT_SEQ))

def State.histMoved (s : State) (src : Nat) (u : FenceUnit) (syn : Nat) (inj : Bool) : State :=
  ((State.histEntry s src u syn inj).setFld FLT_HIST_HEAD_INDEX (s.fld FLT_HIST_HEAD_INDEX + 1)).setFld FLT_HIST_HEAD_NEXT_SEQ
    (s.fld FLT_HIST_HEAD_NEXT_SEQ + 1)

theorem State.histWrite_eq (s : State) (src : Nat) (u : FenceUnit) (syn : Nat) (inj : Bool) : s.histWrite src u syn inj 0 =
    if s.fld FLT_HIST_HEAD_INDEX = 0 ∧ s.fld FLT_HIST_HEAD_NEXT_SEQ ≠ 0 ∧ !s.flag FLT_HIST_HEAD_WRAPPED then
      ((State.histMoved s src u syn inj).setFlag FLT_HIST_HEAD_WRAPPED true).fire EV_FLT_HISTORY_WRAP else State.histMoved s src u syn inj := by
  unfold State.histWrite State.histMoved State.histEntry
  rfl

theorem State.wf_histEntry (s : State) (src : Nat) (u : FenceUnit) (syn : Nat) (inj : Bool) (h : Sparse.wf regReset s.regs = true) :
    Sparse.wf regReset (State.histEntry s src u syn inj).regs = true := by
  unfold State.histEntry
  exact State.wf_setReg _ _ _ (State.wf_setReg _ _ _ (State.wf_setReg _ _ _ (State.wf_setReg _ _ _ h)))

theorem State.reg_histEntry (s : State) (src : Nat) (u : FenceUnit) (syn : Nat) (inj : Bool) (h : Sparse.wf regReset s.regs = true) (j : Nat) :
    (State.histEntry s src u syn inj).reg j = if histOff (s.fld FLT_HIST_HEAD_INDEX) + 12 = j then BitVec.ofNat 32 (65536 * s.fld FLT_HIST_HEAD_NEXT_SEQ)
      else if histOff (s.fld FLT_HIST_HEAD_INDEX) + 8 = j then BitVec.ofNat 32 syn else if histOff (s.fld FLT_HIST_HEAD_INDEX) + 4 = j then BitVec.ofNat 32 (s.uptime.toNat / 2 ^ 32 + 256 * src + 32768 * inj.toNat +
      65536 * u.code) else if histOff (s.fld FLT_HIST_HEAD_INDEX) = j then BitVec.ofNat 32 s.uptime.toNat else s.reg j := by
  unfold State.histEntry
  have w1 := State.wf_setReg s (histOff (s.fld FLT_HIST_HEAD_INDEX)) (BitVec.ofNat 32 s.uptime.toNat) h
  have w2 := State.wf_setReg _ (histOff (s.fld FLT_HIST_HEAD_INDEX) + 4) (BitVec.ofNat 32 (s.uptime.toNat / 2 ^ 32 + 256 * src + 32768 * inj.toNat +
      65536 * u.code)) w1
  have w3 := State.wf_setReg _ (histOff (s.fld FLT_HIST_HEAD_INDEX) + 8) (BitVec.ofNat 32 syn) w2
  rw [State.reg_setReg _ _ _ _ w3, State.reg_setReg _ _ _ _ w2, State.reg_setReg _ _ _ _ w1, State.reg_setReg _ _ _ _ h]
  simp only [Nat.mul_zero, Nat.zero_add]

theorem State.fields_histEntry (s : State) (src : Nat) (u : FenceUnit) (syn : Nat) (inj : Bool) :
    (State.histEntry s src u syn inj).flt = s.flt ∧ (State.histEntry s src u syn inj).role = s.role := ⟨rfl, rfl⟩

/-- What the head and another register hold once the head has moved on. -/
theorem State.head_moved (e : State) (x y : Nat) (h : Sparse.wf regReset e.regs = true) :
    let b := (e.setFld FLT_HIST_HEAD_INDEX x).setFld FLT_HIST_HEAD_NEXT_SEQ y
    Sparse.wf regReset b.regs = true ∧ b.flt = e.flt ∧ b.role = e.role ∧ (∀ j, j ≠ 20596 → b.reg j = e.reg j) ∧
    b.fld FLT_HIST_HEAD_INDEX = x % 16 ∧ b.fld FLT_HIST_HEAD_NEXT_SEQ = y % 65536 := by
  have w5 := State.wf_setFld e FLT_HIST_HEAD_INDEX x h
  refine ⟨State.wf_setFld _ _ _ w5, rfl, rfl, fun j n => ?_, ?_, State.fld_setFld _ FLT_HIST_HEAD_NEXT_SEQ _ w5 (by decide)⟩
  · rw [State.reg_setFld_other _ FLT_HIST_HEAD_NEXT_SEQ j _ w5 (fun e => n e.symm),
      State.reg_setFld_other _ FLT_HIST_HEAD_INDEX j _ h (fun e => n e.symm)]
  · rw [State.fld_setFld_other _ _ FLT_HIST_HEAD_INDEX _ w5 (by decide) (by decide)]
    exact State.fld_setFld _ FLT_HIST_HEAD_INDEX _ h (by decide)

/-- The mark of a wrap, and its event. -/
theorem State.head_wrapped (b : State) (h : Sparse.wf regReset b.regs = true) :
    let c := (b.setFlag FLT_HIST_HEAD_WRAPPED true).fire EV_FLT_HISTORY_WRAP
    Sparse.wf regReset c.regs = true ∧ c.flt = b.flt ∧ c.role = b.role ∧
    (∀ j, j / 4096 ≠ pEVT → j ≠ 0x5010 → j ≠ 0x5014 → j ≠ 20596 → c.reg j = b.reg j) ∧
    c.fld FLT_HIST_HEAD_INDEX = b.fld FLT_HIST_HEAD_INDEX ∧ c.fld FLT_HIST_HEAD_NEXT_SEQ = b.fld FLT_HIST_HEAD_NEXT_SEQ := by
  have w7 : Sparse.wf regReset (b.setFlag FLT_HIST_HEAD_WRAPPED true).regs = true := State.wf_setFld b FLT_HIST_HEAD_WRAPPED 1 h
  have f1 : (b.setFlag FLT_HIST_HEAD_WRAPPED true).fld FLT_HIST_HEAD_INDEX = b.fld FLT_HIST_HEAD_INDEX :=
    State.fld_setFld_other b FLT_HIST_HEAD_WRAPPED _ _ h (by decide) (by decide)
  have f2 : (b.setFlag FLT_HIST_HEAD_WRAPPED true).fld FLT_HIST_HEAD_NEXT_SEQ = b.fld FLT_HIST_HEAD_NEXT_SEQ :=
    State.fld_setFld_other b FLT_HIST_HEAD_WRAPPED _ _ h (by decide) (by decide)
  have rc : ∀ j, j ≠ 20596 → (b.setFlag FLT_HIST_HEAD_WRAPPED true).reg j = b.reg j :=
    fun j n => State.reg_setFld_other b FLT_HIST_HEAD_WRAPPED j _ h (fun e => n e.symm)
  have bf : (b.setFlag FLT_HIST_HEAD_WRAPPED true).flt = b.flt := rfl
  have br : (b.setFlag FLT_HIST_HEAD_WRAPPED true).role = b.role := rfl
  generalize b.setFlag FLT_HIST_HEAD_WRAPPED true = c at *
  have hc := State.keepsRest_fire c EV_FLT_HISTORY_WRAP 0 0 (by decide) w7
  have ne : ∀ j, j / 4096 ≠ pEVT → j ≠ 0x5010 → j ≠ 0x5014 → ¬evTouched EV_FLT_HISTORY_WRAP none j := by
    intro j x y z
    rintro (e | e | e | ⟨n, e, _⟩)
    · exact y e
    · exact z e
    · exact x e
    · cases e
  refine ⟨hc.1, hc.2.2.1.trans bf, hc.2.2.2.trans br, fun j x y z v => (hc.2.1 j (ne j x y z)).trans (rc j v), ?_, ?_⟩
  · exact (State.fld_congr (f := FLT_HIST_HEAD_INDEX) (hc.2.1 20596 (ne _ (by decide) (by decide) (by decide)))).trans f1
  · exact (State.fld_congr (f := FLT_HIST_HEAD_NEXT_SEQ) (hc.2.1 20596 (ne _ (by decide) (by decide) (by decide)))).trans f2

theorem State.histWrite_holds (s : State) (src : Nat) (u : FenceUnit) (syn : Nat) (inj : Bool) (h : Sparse.wf regReset s.regs = true) :
    let t := s.histWrite src u syn inj 0
    Sparse.wf regReset t.regs = true ∧ t.flt = s.flt ∧ t.role = s.role ∧
    (∀ j, j / 4096 ≠ pEVT → j ≠ 0x5010 → j ≠ 0x5014 → j ≠ 20596 → t.reg j = (State.histEntry s src u syn inj).reg j) ∧
    t.fld FLT_HIST_HEAD_INDEX = (s.fld FLT_HIST_HEAD_INDEX + 1) % 16 ∧
    t.fld FLT_HIST_HEAD_NEXT_SEQ = (s.fld FLT_HIST_HEAD_NEXT_SEQ + 1) % 65536 := by
  have b1 := State.head_moved (State.histEntry s src u syn inj) (s.fld FLT_HIST_HEAD_INDEX + 1) (s.fld FLT_HIST_HEAD_NEXT_SEQ + 1) (State.wf_histEntry s src u syn inj h)
  have e1 := State.fields_histEntry s src u syn inj
  have c1 := State.head_wrapped (State.histMoved s src u syn inj) b1.1
  unfold State.histMoved at c1
  rw [State.histWrite_eq]
  unfold State.histMoved
  dsimp only at b1 c1 ⊢
  split
  · exact ⟨c1.1, c1.2.1.trans (b1.2.1.trans e1.1), c1.2.2.1.trans (b1.2.2.1.trans e1.2),
      fun j x y z v => (c1.2.2.2.1 j x y z v).trans (b1.2.2.2.1 j v), c1.2.2.2.2.1.trans b1.2.2.2.2.1, c1.2.2.2.2.2.trans b1.2.2.2.2.2⟩
  · exact ⟨b1.1, b1.2.1.trans e1.1, b1.2.2.1.trans e1.2, fun j _ _ _ v => b1.2.2.2.1 j v, b1.2.2.2.2.1, b1.2.2.2.2.2⟩

/-- STATUS, the count, ASSERTED and FENCING of a source. -/
theorem State.srcStat_holds (a : State) (src : Nat) (l : src < 124) (h : Sparse.wf regReset a.regs = true) :
    let d := ((((a.setFlag (FLT_SRC_STAT_STATUS src) true).bump FLT_COUNT_RAISED).setFlag (FLT_SRC_STAT_ASSERTED src) true).setFlag
      (FLT_SRC_STAT_FENCING src) true)
    Sparse.wf regReset d.regs = true ∧ d.flt = a.flt ∧ d.role = a.role ∧
    (∀ j, j ≠ 22016 + 4 * src → j ≠ 20604 → d.reg j = a.reg j) ∧ d.flag (FLT_SRC_STAT_STATUS src) = true ∧
    d.flag (FLT_SRC_STAT_ASSERTED src) = true ∧ d.flag (FLT_SRC_STAT_FENCING src) = true := by
  have w1 := State.wf_setFld a (FLT_SRC_STAT_STATUS src) (Bool.toNat true) h
  have w2 := State.wf_setFld _ FLT_COUNT_RAISED (satInc 16 ((a.setFlag (FLT_SRC_STAT_STATUS src) true).fld FLT_COUNT_RAISED)) w1
  have w3 := State.wf_setFld _ (FLT_SRC_STAT_ASSERTED src) (Bool.toNat true) w2
  have w4 := State.wf_setFld _ (FLT_SRC_STAT_FENCING src) (Bool.toNat true) w3
  refine ⟨w4, rfl, rfl, fun j x y => ?_, ?_, ?_, ?_⟩
  · refine (State.reg_setFld_other _ (FLT_SRC_STAT_FENCING src) j _ w3 (fun e => x e.symm)).trans ?_
    refine (State.reg_setFld_other _ (FLT_SRC_STAT_ASSERTED src) j _ w2 (fun e => x e.symm)).trans ?_
    refine (State.reg_setFld_other _ FLT_COUNT_RAISED j _ w1 (fun e => y e.symm)).trans ?_
    exact State.reg_setFld_other _ (FLT_SRC_STAT_STATUS src) j _ h (fun e => x e.symm)
  · have q : State.fld _ (FLT_SRC_STAT_STATUS src) = 1 :=
      (State.fld_setFld_other _ (FLT_SRC_STAT_FENCING src) (FLT_SRC_STAT_STATUS src) (Bool.toNat true) w3 (by dsimp only; omega) (by dsimp only; omega)).trans
      ((State.fld_setFld_other _ (FLT_SRC_STAT_ASSERTED src) (FLT_SRC_STAT_STATUS src) (Bool.toNat true) w2 (by dsimp only; omega) (by dsimp only; omega)).trans
      ((State.fld_setFld_other _ FLT_COUNT_RAISED (FLT_SRC_STAT_STATUS src) _ w1 (by dsimp only; omega) (.inl (by dsimp only; omega))).trans
      (State.fld_setFld a (FLT_SRC_STAT_STATUS src) (Bool.toNat true) h (by dsimp only; omega))))
    show (State.fld _ (FLT_SRC_STAT_STATUS src) != 0) = true
    exact (congrArg (· != 0) q)
  · have q : State.fld _ (FLT_SRC_STAT_ASSERTED src) = 1 :=
      (State.fld_setFld_other _ (FLT_SRC_STAT_FENCING src) (FLT_SRC_STAT_ASSERTED src) (Bool.toNat true) w3 (by dsimp only; omega) (by dsimp only; omega)).trans
      (State.fld_setFld _ (FLT_SRC_STAT_ASSERTED src) (Bool.toNat true) w2 (by dsimp only; omega))
    exact (congrArg (· != 0) q)
  · have q : State.fld _ (FLT_SRC_STAT_FENCING src) = 1 := State.fld_setFld _ (FLT_SRC_STAT_FENCING src) (Bool.toNat true) w3 (by dsimp only; omega)
    exact (congrArg (· != 0) q)

end Sys2Proof.Machine
end

