-- ==== Sys2Proof/Laws/LinesLaws.lean ====
section
/-! SUPPORT. A unit spread over the eight lines arrives as it was sent. -/

namespace Sys2Proof

/-- All eight lines of a unit sent pass. -/
theorem mask_unitLines (unit : List Byte) : (UnitIn.mk (unitLines unit)).mask 0 = 0xFF := by
  have h : ∀ n, (LineIn.passes 0 (lineFrame (lineBytes unit n))) = true := by
    intro n
    simp [LineIn.passes, lineFrame, lineBytes]
  have e : ∀ n, n < 8 → ((UnitIn.mk (unitLines unit)).lines[n]?).any (LineIn.passes 0) = true := by
    intro n hn
    have : (unitLines unit)[n]? = some (lineFrame (lineBytes unit n)) := by
      simp [unitLines, List.getElem?_map, List.getElem?_range hn]
    rw [this, Option.any_some, h]
  have m : (List.range 8).map (fun n => if ((UnitIn.mk (unitLines unit)).lines[n]?).any (LineIn.passes 0) then 2 ^ n else 0) =
      (List.range 8).map (fun n => 2 ^ n) := by
    refine List.map_congr_left (fun n hn => ?_)
    rw [e n (List.mem_range.mp hn), if_pos rfl]
  unfold UnitIn.mask
  rw [m]
  rfl

/-- The lines of a unit sent carry its bytes. -/
theorem body_unitLines (unit : List Byte) (h : unit.length = 4112) : (UnitIn.mk (unitLines unit)).body = unit := by
  refine List.ext_getElem (by simp [UnitIn.body, h]) (fun k h1 h2 => ?_)
  have hk : k < 4112 := h ▸ h2
  have e : (unitLines unit)[k % 8]? = some (lineFrame (lineBytes unit (k % 8))) := by
    simp [unitLines, List.getElem?_map, List.getElem?_range (Nat.mod_lt k (by decide : 0 < 8))]
  have b : (lineFrame (lineBytes unit (k % 8))).bytes.getD (k / 8) 0 = unit[k] := by
    have q : k / 8 < 514 := by omega
    have r : 8 * (k / 8) + k % 8 = k := by omega
    simp [lineFrame, lineBytes, List.getD_eq_getElem?_getD, List.getElem?_map, List.getElem?_range q, r,
      List.getElem?_eq_getElem h2]
  simpa [UnitIn.body, e] using b

/-- Ciphertext and tag of a unit sent. -/
theorem ct_unitLines (ct tag : List Byte) (h : ct.length = 4096) (k : tag.length = 16) :
    (UnitIn.mk (unitLines (ct ++ tag))).ct = ct ∧ (UnitIn.mk (unitLines (ct ++ tag))).tag = tag := by
  have b := body_unitLines (ct ++ tag) (by simp [h, k])
  simp [UnitIn.ct, UnitIn.tag, b, ← h]

end Sys2Proof
end

