-- ==== Sys2Proof/Laws/MramReads.lean ====
section
/-! SUPPORT. What the landing store reads back after a write: full words, single-line records and the two slots of a
record, and that every other byte and word state stays as it is. -/

namespace Sys2Proof.Machine

theorem natBE_append (l : List Byte) (a : Nat) :
    l.foldl (fun a b => a * 256 + b.toNat) a = a * 256 ^ l.length + natBE l := by
  induction l generalizing a with
  | nil => simp [natBE]
  | cons b l ih =>
    unfold natBE
    rw [List.foldl_cons, List.foldl_cons, ih, ih (0 * 256 + b.toNat), List.length_cons, Nat.pow_succ, Nat.add_mul,
      Nat.zero_mul, Nat.zero_add, Nat.mul_assoc, Nat.mul_comm 256 (256 ^ l.length), Nat.add_assoc]

/-- A number spelled in bytes reads back what fits. -/
theorem natBE_bytesBE (n x : Nat) : natBE (bytesBE n x) = x % 256 ^ n := by
  have len : ∀ n, (bytesBE n x).length = n := by
    intro n
    induction n with
    | zero => rfl
    | succ n ih => simp [bytesBE, ih]
  induction n with
  | zero => simp [bytesBE, natBE, Nat.mod_one]
  | succ n ih =>
    have e : 2 ^ (8 * n) = 256 ^ n := by rw [Nat.pow_mul]
    unfold natBE bytesBE
    rw [List.foldl_cons, natBE_append, ih, len, Nat.zero_mul, Nat.zero_add, BitVec.toNat_ofNat, e, Nat.pow_succ 256,
      Nat.mod_mul, Nat.add_comm, Nat.mul_comm (256 ^ n)]

theorem length_bytesBE (n x : Nat) : (bytesBE n x).length = n := by
  induction n with
  | zero => rfl
  | succ n ih => simp [bytesBE, ih]

/-! ## Full words -/

/-- The stores that a word's write goes through stand in their canonical form, and no injection meets the check bits. -/
def State.Ok' (s : State) : Prop :=
  Sparse.wf regReset s.regs = true ∧ Sparse.wf mramBlank s.mram = true ∧ Sparse.wf eccClean s.ecc = true ∧
  s.injects pLND 0 = false

theorem State.injUsed_none {s : State} {p k : Nat} (h : s.injects p k = false) : s.injUsed p k = s := by
  unfold State.injUsed; rw [h]; rfl

theorem State.freshEcc_none {s : State} (h : s.injects pLND 0 = false) : s.freshEcc = 0 := by
  
  have e : s.injBits pLND 0 = 0 := by unfold State.injBits; rw [h]; rfl
  unfold State.freshEcc; rw [e]; decide

/-- What full words written may touch beside the store: registers of LND but INJ_CTRL, and those of EVT, through the
event. -/
def lndTouched (j : Nat) : Prop := (j / 4096 = pLND ∧ j ≠ (INJ_CTRL_ACTIVE pLND).off) ∨ j / 4096 = pEVT

/-- What leaves INJ_CTRL of LND leaves the injection. -/
theorem State.injects_keeps {s t : State} (h : State.Keeps lndTouched s t) : t.injects pLND 0 = s.injects pLND 0 := by
  have r := h.reg (INJ_CTRL_ACTIVE pLND).off (by
    rintro (x | x)
    · exact x.2 rfl
    · exact absurd x (by decide))
  unfold State.injects State.flag State.fld
  rw [r]

/-- Storing one word. -/
theorem State.storeWord_read (s : State) (r a v : Nat) (al : a % 8 = 0) (h : s.Ok') :
    (s.storeWord r a v).Ok' ∧ (∀ j, (s.storeWord r a v).mramByte j =
      if a ≤ j ∧ j < a + 8 then (bytesBE 8 v).getD (j - a) (s.mramByte j) else s.mramByte j) ∧
    (∀ w, (s.storeWord r a v).eccOf w = if a / 8 = w then 0 else s.eccOf w) := by
  have e : 8 * (a / 8) = a := by omega
  have c : Sparse.wf eccClean (s.storeWord r a v).ecc = true := by
    show Sparse.wf eccClean (Sparse.set eccClean s.ecc (a / 8) s.freshEcc) = true
    exact Sparse.wf_set _ _ _ _ h.2.2.1
  refine ⟨⟨h.1, Sparse.wf_setRun _ _ _ _ h.2.1, c, h.2.2.2⟩, fun j => ?_, fun w => ?_⟩
  · unfold State.storeWord State.cellWord State.request State.mramByte
    dsimp only
    rw [Sparse.get_setRun _ _ _ _ _ h.2.1, length_bytesBE, e]
  · unfold State.storeWord State.cellWord State.request State.eccOf
    dsimp only
    rw [Sparse.get_set _ _ _ _ _ h.2.2.1, State.freshEcc_none h.2.2.2]

theorem State.fired_fields {s t : State} (h : s.Fired t) : t.mram = s.mram ∧ t.ecc = s.ecc ∧ t.otp = s.otp := by
  unfold State.Fired at h
  rw [h]
  exact ⟨rfl, rfl, rfl⟩

/-- Writing one word is storing it, and at most an event. -/
theorem State.writeWord_fired (s : State) (a v : Nat) :
    (s.storeWord (mramRank s.role a) a v).Fired (s.writeWord a v) := by
  unfold State.writeWord State.writeRanked
  dsimp only
  split
  · exact State.fired_fireD (State.fired_bump (State.fired_injUsed (State.Fired.refl _) _ _) _) _ _ _
  · exact State.fired_injUsed (State.Fired.refl _) _ _

theorem State.keeps_writeWord (s : State) (a v : Nat) (h : s.Ok') : State.Keeps lndTouched s (s.writeWord a v) := by
  have r : State.Keeps lndTouched s (s.storeWord (mramRank s.role a) a v) := State.keeps_mk (State.Keeps.refl h.1) rfl
  have i : (s.storeWord (mramRank s.role a) a v).injUsed pLND 0 = s.storeWord (mramRank s.role a) a v :=
    State.injUsed_none h.2.2.2
  unfold State.writeWord State.writeRanked
  dsimp only
  rw [i]
  split
  · have b := State.keeps_bump r LND_POISON_CNT_CLEARED (.inl ⟨rfl, by decide⟩) (by decide)
    have f := State.keeps_fireFull ((s.storeWord (mramRank s.role a) a v).bump LND_POISON_CNT_CLEARED) EV_LND_POISON_CLEARED none
      (mramRegion s.role a) (a / 8) false (by decide) b.wf
    refine ⟨f.wf, fun j n => (f.reg j ?_).trans (b.reg j n), fun p k x y => f.raw p k x (b.raw p k x y)⟩
    rintro (x | x | x | ⟨n, x, _⟩)
    · exact n (.inl (by rw [x]; decide))
    · exact n (.inl (by rw [x]; decide))
    · exact n (.inr x)
    · cases x
  · exact r

theorem State.writeWord_read (s : State) (a v : Nat) (al : a % 8 = 0) (h : s.Ok') :
    (s.writeWord a v).Ok' ∧ (∀ j, (s.writeWord a v).mramByte j =
      if a ≤ j ∧ j < a + 8 then (bytesBE 8 v).getD (j - a) (s.mramByte j) else s.mramByte j) ∧
    (∀ w, (s.writeWord a v).eccOf w = if a / 8 = w then 0 else s.eccOf w) := by
  obtain ⟨m, e, _⟩ := State.fired_fields (State.writeWord_fired s a v)
  obtain ⟨o, b, c⟩ := State.storeWord_read s (mramRank s.role a) a v al h
  refine ⟨⟨(State.keeps_writeWord s a v h).wf, by rw [m]; exact o.2.1, by rw [e]; exact o.2.2.1,
    (State.injects_keeps (State.keeps_writeWord s a v h)).trans h.2.2.2⟩, fun j => ?_, fun w => ?_⟩
  · rw [← b j]; unfold State.mramByte; rw [m]
  · rw [← c w]; unfold State.eccOf; rw [e]

/-- Writing full words: each reads back, their states are clean, and every other byte and state stays. -/
theorem State.writeWords_read (ws : List Nat) : ∀ (s : State) (a : Nat), a % 8 = 0 → s.Ok' →
    (s.writeWords a ws).Ok' ∧
    (∀ j, j < a ∨ a + 8 * ws.length ≤ j → (s.writeWords a ws).mramByte j = s.mramByte j) ∧
    (∀ i, i < ws.length → (s.writeWords a ws).mramWord (a + 8 * i) = ws.getD i 0 % 2 ^ 64) ∧
    (∀ w, w < a / 8 ∨ a / 8 + ws.length ≤ w → (s.writeWords a ws).eccOf w = s.eccOf w) ∧
    (∀ i, i < ws.length → (s.writeWords a ws).eccOf (a / 8 + i) = 0) := by
  induction ws with
  | nil => intro s a _ h; exact ⟨h, fun _ _ => rfl, fun i hi => absurd hi (Nat.not_lt_zero i), fun _ _ => rfl, fun i hi => absurd hi (Nat.not_lt_zero i)⟩
  | cons v ws ih =>
    intro s a al h
    obtain ⟨o, b, c⟩ := State.writeWord_read s a v al h
    obtain ⟨p1, p2, p3, p4, p5⟩ := ih (s.writeWord a v) (a + 8) (by omega) o
    have e : (a + 8) / 8 = a / 8 + 1 := by omega
    refine ⟨p1, fun j hj => ?_, fun i hi => ?_, fun w hw => ?_, fun i hi => ?_⟩
    · rw [List.length_cons] at hj
      refine (p2 j (by omega)).trans ?_
      rw [b j, if_neg (by omega)]
    · cases i with
      | zero =>
        show natBE ((List.range 8).map (fun k => ((s.writeWord a v).writeWords (a + 8) ws).mramByte (a + 8 * 0 + k))) = v % 2 ^ 64
        have q : (List.range 8).map (fun k => ((s.writeWord a v).writeWords (a + 8) ws).mramByte (a + 8 * 0 + k)) = bytesBE 8 v := by
          refine List.ext_getElem (by simp [length_bytesBE]) fun k h1 h2 => ?_
          have hk : k < 8 := by simpa using h1
          rw [List.getElem_map, List.getElem_range, p2 _ (by omega), b, if_pos (by omega)]
          have : a + 8 * 0 + k - a = k := by omega
          rw [this, List.getD_eq_getElem?_getD, List.getElem?_eq_getElem h2]
          rfl
        (rw [q, natBE_bytesBE]) <;> rfl
      | succ i =>
        rw [List.length_cons] at hi
        have := p3 i (by omega)
        have r : a + 8 * (i + 1) = a + 8 + 8 * i := by omega
        rw [r, List.getD_cons_succ]
        exact this
    · rw [List.length_cons] at hw
      refine (p4 w (by omega)).trans ?_
      rw [c w, if_neg (by omega)]
    · cases i with
      | zero =>
        refine (p4 _ (by omega)).trans ?_
        rw [c, if_pos (by omega)]
      | succ i =>
        rw [List.length_cons] at hi
        have := p5 i (by omega)
        rw [e] at this
        rw [show a / 8 + (i + 1) = a / 8 + 1 + i by omega]
        exact this

/-- `t` differs from `s` in the MRAM, the states of its words and what an event touches at most. -/
def State.Wrote (s t : State) : Prop :=
  t = { s with mram := t.mram, ecc := t.ecc, regs := t.regs, held := t.held, ringDrop := t.ringDrop, fnRegs := t.fnRegs, mq := t.mq, out := t.out }

theorem State.Wrote.trans {s t u : State} (h : s.Wrote t) (k : t.Wrote u) : s.Wrote u := by
  unfold State.Wrote at *
  rw [k, h]

theorem State.wrote_fired {s t : State} (h : s.Fired t) : s.Wrote t := by
  unfold State.Fired at h
  unfold State.Wrote
  rw [h]

theorem State.wrote_writeWords (ws : List Nat) : ∀ (s : State) (a : Nat), s.Wrote (s.writeWords a ws) := by
  induction ws with
  | nil => intro s a; rfl
  | cons v ws ih =>
    intro s a
    have h : s.Wrote (s.storeWord (mramRank s.role a) a v) := rfl
    exact (h.trans (State.wrote_fired (State.writeWord_fired s a v))).trans (ih (s.writeWord a v) (a + 8))

theorem State.keeps_writeWords (ws : List Nat) : ∀ (s : State) (a : Nat), a % 8 = 0 → s.Ok' →
    State.Keeps lndTouched s (s.writeWords a ws) := by
  induction ws with
  | nil => intro s a _ h; exact State.Keeps.refl h.1
  | cons v ws ih =>
    intro s a al h
    have f := State.keeps_writeWord s a v h
    have g := ih (s.writeWord a v) (a + 8) (by omega) (State.writeWord_read s a v al h).1
    exact ⟨g.wf, fun j n => (g.reg j n).trans (f.reg j n), fun p k x y => g.raw p k x (f.raw p k x y)⟩

/-! ## Single-line records -/

theorem length_bytesOfWords (ws : List Nat) : (bytesOfWords ws).length = 8 * ws.length := by
  induction ws with
  | nil => rfl
  | cons w ws ih => simp [bytesOfWords, length_bytesBE] at ih ⊢; omega

theorem Crypto.crcStep_lt (w poly r : Nat) (b : Bool) (hp : poly < 2 ^ w) : Crypto.crcStep w poly r b < 2 ^ w := by
  unfold Crypto.crcStep
  dsimp only
  split
  · exact Nat.xor_lt_two_pow (Nat.mod_lt _ (Nat.two_pow_pos _)) hp
  · exact Nat.mod_lt _ (Nat.two_pow_pos _)

theorem Crypto.crc_lt (w poly : Nat) (hp : poly < 2 ^ w) (bits : List Bool) : ∀ init, init < 2 ^ w →
    Crypto.crc w poly init bits < 2 ^ w := by
  unfold Crypto.crc
  induction bits with
  | nil => intro i h; exact h
  | cons b l ih => intro i _; exact ih _ (Crypto.crcStep_lt w poly i b hp)

theorem Crypto.crc32_lt (bs : List Byte) : Crypto.crc32 bs < 2 ^ 32 := Crypto.crc_lt 32 _ (by decide) _ _ (by decide)

/-- What the words of a line read, when it was written as words. -/
theorem State.words_writeWords (s : State) (a : Nat) (ws : List Nat) (al : a % 8 = 0) (h : s.Ok')
    (b : ∀ w ∈ ws, w < 2 ^ 64) :
    (List.range ws.length).map (fun i => (s.writeWords a ws).mramWord (a + 8 * i)) = ws := by
  refine List.ext_getElem (by simp) fun k h1 h2 => ?_
  rw [List.getElem_map, List.getElem_range, (State.writeWords_read ws s a al h).2.2.1 k h2, List.getD_eq_getElem?_getD,
    List.getElem?_eq_getElem h2]
  exact Nat.mod_eq_of_lt (b _ (List.getElem_mem h2))

/-- The six words of a record. -/
def sixWords (ws : List Nat) : List Nat := (ws ++ List.replicate 6 0).take 6

/-- A single-line record reads back: its middle bits, its generation and its six words. -/
theorem State.readSlr_writeSlr (s : State) (a mid gen : Nat) (ws : List Nat) (al : a % 64 = 0) (h : s.Ok')
    (hm : mid < 2 ^ 24) (hg : gen < 2 ^ 32) (hw : ∀ w ∈ ws, w < 2 ^ 64) :
    (s.writeSlr a mid gen ws).readSlr a = some (mid, gen, sixWords ws) := by
  have len : (slrLine mid gen ws).length = 8 := by simp [slrLine]
  have e0 : (0x4D * 2 ^ 56 + mid % 2 ^ 24 * 2 ^ 32 + gen % 2 ^ 32) < 2 ^ 64 := by omega
  have six : ∀ w ∈ (ws ++ List.replicate 6 0).take 6, w < 2 ^ 64 := by
    intro w hx
    rcases List.mem_append.1 (List.mem_of_mem_take hx) with x | x
    · exact hw w x
    · rw [List.eq_of_mem_replicate x]; decide
  have b : ∀ w ∈ slrLine mid gen ws, w < 2 ^ 64 := by
    intro w hx
    unfold slrLine at hx
    dsimp only at hx
    rcases List.mem_append.1 hx with x | x
    · rcases List.mem_cons.1 x with x | x
      · rw [x]; exact e0
      · exact six w x
    · rw [List.mem_singleton.1 x]
      exact Nat.lt_trans (Crypto.crc32_lt _) (by decide)
  have q := State.words_writeWords s a (slrLine mid gen ws) (by omega) h b
  have z := (State.writeWords_read (slrLine mid gen ws) s a (by omega) h).2.2.2.2
  rw [len] at q z
  have bad : (s.writeSlr a mid gen ws).bytesBad a 64 = false := by
    unfold State.bytesBad State.writeSlr
    rw [show (a + 64 + 7) / 8 - a / 8 = 8 by omega, List.any_eq_false]
    intro i hi
    have := z i (by simpa using hi)
    simp [State.wordBad, this]
  have t7 : (slrLine mid gen ws).take 7 = (0x4D * 2 ^ 56 + mid % 2 ^ 24 * 2 ^ 32 + gen % 2 ^ 32) :: (ws ++ List.replicate 6 0).take 6 := by
    unfold slrLine
    dsimp only
    rw [List.take_left' (by simp)]
  have g7 : (slrLine mid gen ws).getD 7 0 = Crypto.crc32 (bytesOfWords ((slrLine mid gen ws).take 7)) := by
    rw [t7]
    unfold slrLine
    dsimp only
    rw [List.getD_eq_getElem?_getD, List.getElem?_append_right (by simp)]
    simp
  have hd : (slrLine mid gen ws).headD 0 = 0x4D * 2 ^ 56 + mid % 2 ^ 24 * 2 ^ 32 + gen % 2 ^ 32 := rfl
  have d6 : ((slrLine mid gen ws).drop 1).take 6 = sixWords ws := by
    unfold slrLine sixWords
    dsimp only
    rw [List.cons_append, List.drop_succ_cons, List.drop_zero, List.take_left' (by simp)]
  unfold State.readSlr
  dsimp only
  rw [bad]
  unfold State.writeSlr
  rw [q, hd, g7, d6, Nat.mod_eq_of_lt (Crypto.crc32_lt _)]
  have c1 : (0x4D * 2 ^ 56 + mid % 2 ^ 24 * 2 ^ 32 + gen % 2 ^ 32) / 2 ^ 56 = 0x4D := by omega
  have c2 : bitsOf (0x4D * 2 ^ 56 + mid % 2 ^ 24 * 2 ^ 32 + gen % 2 ^ 32) 32 24 = mid := by unfold bitsOf; omega
  have c3 : (0x4D * 2 ^ 56 + mid % 2 ^ 24 * 2 ^ 32 + gen % 2 ^ 32) % 2 ^ 32 = gen := by omega
  rw [c1, c2, c3]
  simp

/-- A line that keeps its bytes and the states of its words reads as before. -/
theorem State.readSlr_congr (s t : State) (a : Nat) (al : a % 64 = 0) (hb : ∀ j, a ≤ j → j < a + 64 → t.mramByte j = s.mramByte j)
    (he : ∀ w, a / 8 ≤ w → w < a / 8 + 8 → t.eccOf w = s.eccOf w) : t.readSlr a = s.readSlr a := by
  have q : (List.range 8).map (fun i => t.mramWord (a + 8 * i)) = (List.range 8).map (fun i => s.mramWord (a + 8 * i)) := by
    refine List.map_congr_left fun i hi => ?_
    have hi : i < 8 := List.mem_range.1 hi
    unfold State.mramWord State.mramBytes
    congr 1
    refine List.map_congr_left fun k hk => ?_
    have hk : k < 8 := List.mem_range.1 hk
    exact hb _ (by omega) (by omega)
  have z : t.bytesBad a 64 = s.bytesBad a 64 := by
    unfold State.bytesBad
    rw [show (a + 64 + 7) / 8 - a / 8 = 8 by omega]
    refine Bool.eq_iff_iff.2 ?_
    rw [List.any_eq_true, List.any_eq_true]
    constructor <;> rintro ⟨i, hi, x⟩ <;> refine ⟨i, hi, ?_⟩ <;> have hi : i < 8 := List.mem_range.1 hi <;>
      unfold State.wordBad at x ⊢
    · rw [he _ (by omega) (by omega)] at x
      exact x
    · rw [he _ (by omega) (by omega)]
      exact x
  unfold State.readSlr
  rw [q, z]

theorem slrLine_length (mid gen : Nat) (ws : List Nat) : (slrLine mid gen ws).length = 8 := by simp [slrLine]

/-- A single-line record leaves every other byte and word state. -/
theorem State.writeSlr_frame (s : State) (a mid gen : Nat) (ws : List Nat) (al : a % 64 = 0) (h : s.Ok') :
    (∀ j, j < a ∨ a + 64 ≤ j → (s.writeSlr a mid gen ws).mramByte j = s.mramByte j) ∧
    (∀ w, w < a / 8 ∨ a / 8 + 8 ≤ w → (s.writeSlr a mid gen ws).eccOf w = s.eccOf w) := by
  have r := State.writeWords_read (slrLine mid gen ws) s a (by omega) h
  rw [slrLine_length] at r
  exact ⟨r.2.1, r.2.2.2.1⟩

/-- The other line reads as before. -/
theorem State.readSlr_writeSlr_other (s : State) (a b mid gen : Nat) (ws : List Nat) (al : a % 64 = 0) (bl : b % 64 = 0)
    (ne : a ≠ b) (h : s.Ok') : (s.writeSlr a mid gen ws).readSlr b = s.readSlr b := by
  have f := State.writeSlr_frame s a mid gen ws al h
  exact State.readSlr_congr _ _ b bl (fun j x y => f.1 j (by omega)) (fun w x y => f.2 w (by omega))

/-- The generation the next record of two slots takes. -/
def State.nextGen (s : State) (a b : Nat) : Nat :=
  match s.readTwo a b with
  | some (_, g, _) => g + 1
  | none => 1

/-- The slot it goes into: the one that is invalid or older. -/
def State.nextSlot (s : State) (a b : Nat) : Nat :=
  match s.readTwo a b with
  | some (false, _, _) => b
  | _ => a

theorem State.writeTwo_eq (s : State) (a b : Nat) (ws : List Nat) :
    s.writeTwo a b ws = s.writeSlr (s.nextSlot a b) 0 (s.nextGen a b) ws := by
  unfold State.writeTwo State.nextSlot State.nextGen
  split <;> rename_i e <;> rw [e]

/-- The record in force of two slots is the one last written. -/
theorem State.readTwo_writeTwo (s : State) (a b : Nat) (ws : List Nat) (al : a % 64 = 0) (bl : b % 64 = 0) (ne : a ≠ b)
    (h : s.Ok') (g : s.nextGen a b < 2 ^ 32) (hw : ∀ w ∈ ws, w < 2 ^ 64) :
    (s.writeTwo a b ws).readTwo a b = some (s.nextSlot a b == b, s.nextGen a b, sixWords ws) := by
  have ra := fun n x => State.readSlr_writeSlr s a 0 n ws al h (by decide) x hw
  have rb := fun n x => State.readSlr_writeSlr s b 0 n ws bl h (by decide) x hw
  have oa := fun n => State.readSlr_writeSlr_other s a b 0 n ws al bl ne h
  have ob := fun n => State.readSlr_writeSlr_other s b a 0 n ws bl al ne.symm h
  rw [State.writeTwo_eq]
  have nab : (a == b) = false := beq_false_of_ne ne
  unfold State.nextGen at g ⊢
  unfold State.nextSlot
  cases hx : s.readSlr a with
  | none =>
    cases hy : s.readSlr b with
    | none =>
      have e : s.readTwo a b = none := by unfold State.readTwo; rw [hx, hy]
      rw [e] at g ⊢
      dsimp only at g ⊢
      unfold State.readTwo
      rw [ra 1 g, oa 1, hy, nab]
    | some y =>
      obtain ⟨m, k, vs⟩ := y
      have e : s.readTwo a b = some (true, k, vs) := by unfold State.readTwo; rw [hx, hy]
      rw [e] at g ⊢
      dsimp only at g ⊢
      unfold State.readTwo
      rw [ra (k + 1) g, oa (k + 1), hy, nab]
      dsimp only
      rw [if_neg (by omega)]
  | some x =>
    obtain ⟨m, k, vs⟩ := x
    cases hy : s.readSlr b with
    | none =>
      have e : s.readTwo a b = some (false, k, vs) := by unfold State.readTwo; rw [hx, hy]
      rw [e] at g ⊢
      dsimp only at g ⊢
      unfold State.readTwo
      rw [rb (k + 1) g, ob (k + 1), hx]
      dsimp only
      rw [if_pos (by omega)]
      simp
    | some y =>
      obtain ⟨n, l, us⟩ := y
      by_cases lt : k < l
      · have e : s.readTwo a b = some (true, l, us) := by unfold State.readTwo; rw [hx, hy]; dsimp only; rw [if_pos lt]
        rw [e] at g ⊢
        dsimp only at g ⊢
        unfold State.readTwo
        rw [ra (l + 1) g, oa (l + 1), hy, nab]
        dsimp only
        rw [if_neg (by omega)]
      · have e : s.readTwo a b = some (false, k, vs) := by unfold State.readTwo; rw [hx, hy]; dsimp only; rw [if_neg lt]
        rw [e] at g ⊢
        dsimp only at g ⊢
        unfold State.readTwo
        rw [rb (k + 1) g, ob (k + 1), hx]
        dsimp only
        rw [if_pos (by omega)]
        simp

/-- Writing a record of two slots leaves every byte and word state beside its slot, and all that words written leave. -/
theorem State.writeTwo_frame (s : State) (a b : Nat) (ws : List Nat) (al : a % 64 = 0) (bl : b % 64 = 0) (h : s.Ok') :
    (s.writeTwo a b ws).Ok' ∧
    (∀ j, j < s.nextSlot a b ∨ s.nextSlot a b + 64 ≤ j → (s.writeTwo a b ws).mramByte j = s.mramByte j) ∧
    (∀ w, w < s.nextSlot a b / 8 ∨ s.nextSlot a b / 8 + 8 ≤ w → (s.writeTwo a b ws).eccOf w = s.eccOf w) ∧
    s.Wrote (s.writeTwo a b ws) ∧ State.Keeps lndTouched s (s.writeTwo a b ws) := by
  have n : s.nextSlot a b % 64 = 0 := by
    unfold State.nextSlot
    split <;> assumption
  rw [State.writeTwo_eq]
  have f := State.writeSlr_frame s (s.nextSlot a b) 0 (s.nextGen a b) ws n h
  exact ⟨(State.writeWords_read _ s _ (by omega) h).1, f.1, f.2, State.wrote_writeWords _ _ _, State.keeps_writeWords _ _ _ (by omega) h⟩

end Sys2Proof.Machine
end

