-- ==== Sys2Proof/Laws/PageFrames.lean ====
section
/-! SUPPORT. Changes that stay on some register pages, and on the event ring: fields set, counters counted, events
fired. -/

namespace Sys2Proof.Machine

/-- `t` differs from `s` in registers of the pages of `m` and in what an event changes at most. -/
def State.OnPages (m : Nat → Prop) (s t : State) : Prop :=
  s.Fired t ∧ State.Keeps (fun j => m (j / 4096) ∨ j / 4096 = pEVT) s t

theorem State.OnPages.refl {m : Nat → Prop} {s : State} (h : Sparse.wf regReset s.regs = true) : State.OnPages m s s := ⟨State.Fired.refl s, State.Keeps.refl h⟩

theorem State.onPages_setFld {m : Nat → Prop} {s t : State} (h : State.OnPages m s t) (f : Fld) (v : Nat) (a : m (f.off / 4096)) (b : f.off % 4096 ≠ 16) :
    State.OnPages m s (t.setFld f v) := ⟨State.fired_setFld h.1 f v, State.keeps_setFld h.2 f v (.inl a) b⟩

theorem State.onPages_setFlag {m : Nat → Prop} {s t : State} (h : State.OnPages m s t) (f : Fld) (v : Bool) (a : m (f.off / 4096)) (b : f.off % 4096 ≠ 16) :
    State.OnPages m s (t.setFlag f v) := ⟨State.fired_setFlag h.1 f v, State.keeps_setFlag h.2 f v (.inl a) b⟩

theorem State.onPages_bump {m : Nat → Prop} {s t : State} (h : State.OnPages m s t) (f : Fld) (a : m (f.off / 4096)) (b : f.off % 4096 ≠ 16) :
    State.OnPages m s (t.bump f) := ⟨State.fired_bump h.1 f, State.keeps_bump h.2 f (.inl a) b⟩

theorem State.onPages_fireFull {m : Nat → Prop} {s t : State} (h : State.OnPages m s t) (e : Ev) (inst : Option Nat) (dA dB : Nat) (test : Bool) (b : e.2 < 32)
    (a : m e.1) (c : ∀ n, inst = some n → m (pINS n)) : State.OnPages m s (t.fireFull e inst dA dB test) := by
  have f := State.keeps_fireFull t e inst dA dB test b h.2.wf
  have q : ∀ o, o < 4096 → (4096 * e.1 + o) / 4096 = e.1 := fun o ho => by omega
  refine ⟨State.fired_fireFull h.1 e inst dA dB test, f.wf, fun j n => (f.reg j ?_).trans (h.2.reg j n), fun p k x y => f.raw p k x (h.2.raw p k x y)⟩
  rintro (x | x | x | ⟨i, y, x⟩)
  · exact n (.inl (by rw [x]; show m ((4096 * e.1 + 16) / 4096); rw [q 16 (by decide)]; exact a))
  · exact n (.inl (by rw [x]; show m ((4096 * e.1 + 20) / 4096); rw [q 20 (by decide)]; exact a))
  · exact n (.inr x)
  · exact n (.inl (by rw [x]; exact c i y))

theorem State.onPages_fire {m : Nat → Prop} {s t : State} (h : State.OnPages m s t) (e : Ev) (b : e.2 < 32) (a : m e.1) : State.OnPages m s (t.fire e) :=
  State.onPages_fireFull h e none 0 0 false b a (fun _ x => by cases x)

theorem State.onPages_frame {s t : State} {p : Nat} (h : State.OnPages (· = p) s t) : (∀ j, j / 4096 ≠ p → j / 4096 ≠ pEVT → t.reg j = s.reg j) ∧
    t = { s with regs := t.regs, held := t.held, ringDrop := t.ringDrop, fnRegs := t.fnRegs, mq := t.mq, out := t.out } :=
  ⟨fun j a b => h.2.reg j (fun x => x.elim a b), h.1⟩

theorem State.onPages_ite {m : Nat → Prop} {s t u : State} (c : Prop) [Decidable c] (h : c → State.OnPages m s t) (k : ¬c → State.OnPages m s u) :
    State.OnPages m s (if c then t else u) := by
  split
  · exact h ‹_›
  · exact k ‹_›

theorem State.onPages_fireIf {s t : State} {p : Nat} (h : State.OnPages (· = p) s t) (e : Ev) (b : e.2 < 32) (a : e.1 = p) (c : Prop) [Decidable c] :
    State.OnPages (· = p) s (if c then t.fire e else t) := State.onPages_ite c (fun _ => State.onPages_fire h e b a) (fun _ => h)

theorem State.onPages_pins {s t : State} {p : Nat} {q : Pins} (h : State.OnPages (· = p) { s with pins := q } t) :
    (∀ j, j / 4096 ≠ p → j / 4096 ≠ pEVT → t.reg j = s.reg j) ∧
    t = { s with regs := t.regs, held := t.held, ringDrop := t.ringDrop, fnRegs := t.fnRegs, mq := t.mq, out := t.out, pins := q } :=
  ⟨fun j a b => h.2.reg j (fun x => x.elim a b), h.1⟩

end Sys2Proof.Machine
end

