-- ==== Sys2Proof/Laws/Requests.lean ====
section
/-! SUPPORT. What a request and a command frame do where nothing turns them away: a Counlet request runs on the card it
finds, and a Spantoen command that starts at once runs on the card that has accepted it. -/

namespace Sys2Proof.Machine

/-! ## Counlet -/

/-- A request that is served runs. -/
theorem State.cnIn_serves (s : State) (op seq : Nat) (i : Instr) (run : State → State)
    (h : s.cnServes op seq = true) : s.cnIn op seq true i run = run (s.cnHeard op) := by
  simp only [State.cnServes, Bool.and_eq_true, Bool.not_eq_true', Option.isNone_iff_eq_none] at h
  obtain ⟨⟨⟨⟨⟨a, b⟩, c⟩, d⟩, e⟩, f⟩ := h
  simp only [State.cnArrived, State.cnHeard] at b c d e f
  simp only [State.cnIn, State.cnNew, a, b, c, d, e, f, State.cnArrived, State.cnHeard, Bool.not_true,
    Bool.false_eq_true, if_false]

/-! ## Frames -/

theorem State.injUsed_spA (s : State) (p k : Nat) : (s.injUsed p k).spA = s.spA := by
  unfold State.injUsed
  split
  · have h := State.fired_fire (State.fired_setFlag (State.Fired.refl s) (INJ_CTRL_ACTIVE p) false) EV_FLT_INJECT_DONE
    rw [State.Fired] at h
    rw [h]
  · rfl

theorem State.unitHeard_spA (s : State) : s.unitHeard.spA = s.spA := by
  unfold State.unitHeard
  rw [State.injUsed_spA, State.injUsed_spA]

/-- A frame that verifies: a repetition is answered again, one that is refused with its status, and any other accepted. -/
theorem State.cardFrame_verifies (s : State) (op : Nat) (c : Cmd) (fc : Nat) (env : List MediaRead) (aux : Nat)
    (h : s.Verifies op c fc) :
    s.cardFrame op (cutCmd c) env aux = (let t := s.frameHeard
      if t.spA.accepted.contains fc then t.answerAgain op (cutCmd c) fc
      else
        let u := t.takesToken op (cutCmd c)
        match u.refusal op (cutCmd c) with
        | some (st, info) => u.refuseCmd op (cutCmd c) st info
        | none => u.accept op (cutCmd c) fc env aux t.spA.eraseToken) := by
  obtain ⟨a, b, d, key, e, f, g⟩ := h
  have hp : (s.isCard && s.powerState == 3) = false := by
    have : s.powerState < 3 := by
      simp only [State.cardLink, Bool.and_eq_true, decide_eq_true_eq] at a
      exact a.1.1.1.1.1.1.1.1.1.2
    rw [Bool.and_eq_false_iff]
    exact .inr (by simp; omega)
  simp only [State.linkHeard, State.linkArrived] at b d e f g
  simp only [State.cardFrame, hp, a, b, State.frameHeard, State.linkHeard, State.linkArrived, d, e, f, Bool.not_true,
    Bool.false_eq_true, if_false, Option.filter, g, beq_self_eq_true, if_true]
  rfl

/-- A frame that is accepted. -/
theorem State.cardFrame_accepts (s : State) (op : Nat) (c : Cmd) (fc : Nat) (env : List MediaRead) (aux : Nat)
    (h : s.Accepts op c fc) : s.cardFrame op (cutCmd c) env aux = s.taken op c fc env aux := by
  obtain ⟨v, i, j⟩ := h
  rw [State.cardFrame_verifies s op c fc env aux v]
  simp only [i, j, Bool.false_eq_true, if_false, State.taken]

/-! ## Going on -/

theorem State.fenceHurt_none (s : State) (h : s.mapS.hurt = []) : s.fenceHurt = s := by
  have e : ({ s.mapS with hurt := [] } : MapSt) = s.mapS := by cases hm : s.mapS; rw [hm] at h; subst h; rfl
  unfold State.fenceHurt
  rw [h, List.foldl_nil, e]

/-- Nothing is read out while the only command is held. -/
theorem State.sendNext_held (s : State) (o : Outst) (h : s.spA.outst = [o]) (k : o.held = true) : s.sendNext = s := by
  unfold State.sendNext
  split
  · rfl
  · have hr : ∀ n, (s.syncRings.cmdArbiter).eligible n = false := by
      intro n
      have hs : ∀ (l : List Nat) (t : State), (l.foldl (fun (t : State) n =>
          if (t.ringOf (t.fld (INS_SCHED_CLASS n))).contains n then t else t.toRing n (t.fld (INS_SCHED_CLASS n)))
          t).spA = t.spA := by
        intro l
        induction l with
        | nil => intro t; rfl
        | cons x l ih => intro t; rw [List.foldl, ih]; split <;> rfl
      simp only [State.cmdArbiter, State.unitWaits, State.syncRings, hs, h, List.any_cons, List.any_nil, k,
        Bool.not_true, Bool.and_false, Bool.false_and, Bool.or_false]
    have hn : (List.range 4).find? (fun cl => (s.syncRings.ringOf cl).any (s.syncRings.cmdArbiter).eligible) = none := by
      rw [List.find?_eq_none]
      intro x _
      simp [hr]
    simp only [State.decideGrant, hn]

theorem State.cardOn_free (s : State) (h : s.keys.heldReq = []) : s.cardOn = s.cardPump := by
  simp [State.cardOn, h]

/-- The only command of the port starts, and the card goes on. -/
theorem State.cardPump_runs (s : State) (o : Outst) (h : s.MayRun o) : s.cardPump = (s.startOne o).goesOn := by
  obtain ⟨a, b, c, -⟩ := h
  simp [State.cardPump, State.goesOn, a, b, State.startAll, State.nextStart, c]

/-- The only command of the port is held: nothing happens. -/
theorem State.cardPump_held (s : State) (o : Outst) (b : s.spA.outst = [o]) (k : o.held = true)
    (c : s.mayStart o [] = false) (e : s.mapS.hurt = []) : s.cardPump = s := by
  unfold State.cardPump
  split
  · rw [b]
    simp only [List.length_cons, List.length_nil, State.startAll, b, State.nextStart, c, Bool.false_eq_true, if_false]
    rw [State.sendNext_held s o b k, State.fenceHurt_none s e]
  · rfl

/-- A command that starts is started. -/
theorem State.frameIn_starts (s : State) (op : Nat) (c : Cmd) (fc : Nat) (env : List MediaRead) (aux : Nat)
    (o : Outst) (b : op < 64) (h : s.Starts op c fc env aux o) :
    s.frameIn op c env aux = ((s.taken op c fc env aux).startOne o).goesOn := by
  rw [State.frameIn, Nat.mod_eq_of_lt b, State.cardFrame_accepts s op c fc env aux h.1,
    State.cardOn_free _ h.2.2.2.2.2.1, State.cardPump_runs _ o h.2]

/-- An accepted frame whose command is started or waits, as the card goes on. -/
theorem State.frameIn_accepts (s : State) (op : Nat) (c : Cmd) (fc : Nat) (env : List MediaRead) (aux : Nat)
    (b : op < 64) (h : s.Accepts op c fc) : s.frameIn op c env aux = (s.taken op c fc env aux).cardOn := by
  rw [State.frameIn, Nat.mod_eq_of_lt b, State.cardFrame_accepts s op c fc env aux h]

/-- The last command of the port is the one accepted, and it is held. -/
theorem State.taken_last (s : State) (op : Nat) (c : Cmd) (fc : Nat) (env : List MediaRead) (aux : Nat) (o : Outst)
    (b : op ≠ 0) (h : (s.taken op c fc env aux).spA.outst = [o]) :
    ∃ x f, o = { outOf op (cutCmd c) fc env x with failAt := f } := by
  simp only [State.taken, State.accept, b, if_false] at h
  have := congrArg List.getLast? h
  simp only [List.getLast?_append, List.getLast?_singleton, Option.some_or, Option.some.injEq] at this
  split at this
  · exact ⟨_, _, this.symm⟩
  · exact ⟨_, none, this.symm⟩

theorem mapIf_one {α : Type} (p : α → Bool) (f : α → α) (x : α) (h : p x = true) : mapIf p f [x] = [f x] := by
  simp [mapIf, h]

/-- The commands with one unit from the host. -/
def oneUnit (op : Nat) : Prop := op = 0x0A ∨ op = 0x0D ∨ op = 0x14 ∨ op = 0x1A

/-- A one-unit command whose frame and unit are accepted starts. -/
theorem State.frameUnit_starts (s : State) (op : Nat) (c : Cmd) (fc : Nat) (u : UnitIn) (env : List MediaRead)
    (o q : Outst) (b : oneUnit op) (h : s.StartsWithUnit op c fc u env o q) :
    s.frameUnit op c u env = (((s.withUnit op c fc u env o).startOne q).goesOn).cardOn := by
  obtain ⟨a, ic, d, k, hq, hh, pl, sp, run, kq⟩ := h
  have b0 : op ≠ 0 := by unfold oneUnit at b; omega
  have b1 : op < 64 := by unfold oneUnit at b; omega
  obtain ⟨x, f, ho⟩ := State.taken_last s op c fc env 0 o b0 d
  have hn : h2cUnits o.op o.arg = 1 := by
    subst ho; rcases b with b | b | b | b <;> subst b <;> simp [outOf, h2cUnits]
  have hx : o.next = 0 := by subst ho; rfl
  have hcut : o.cut = none := by subst ho; rfl
  have hop : o.op = op := by subst ho; rfl
  have hl : o.lacksUnit = true := by
    rcases b with b | b | b | b <;> simp [Outst.lacksUnit, hx, hop, b, h2cUnits]
  have hm : (s.taken op c fc env 0).mayStart o [] = false := by simp [State.mayStart, hl]
  have hf : s.frameIn op c env 0 = s.taken op c fc env 0 := by
    rw [State.frameIn_accepts s op c fc env 0 b1 a, State.cardOn_free _ hq, State.cardPump_held _ o d k hm hh]
  have hw : (s.taken op c fc env 0).owing = some o := by simp [State.owing, d, hn, hx, hcut]
  have hw' : (s.taken op c fc env 0).unitHeard.owing = some o := by
    simp [State.owing, State.unitHeard_spA, d, hn, hx, hcut]
  have hdue : (s.taken op c fc env 0).unitDue op c = true := by
    simp only [State.unitDue, hw]
    subst ho
    simp [outOf, cutCmd]
  have hcu : (s.taken op c fc env 0).cardUnit u true 0 env = s.withUnit op c fc u env o := by
    obtain ⟨y, hy⟩ := Option.isSome_iff_exists.1 pl
    have hy' := hy
    simp only [State.unitPlain] at hy'
    split at hy'
    · next lns =>
      simp only [State.unitHeard] at hw' sp hy'
      simp only [State.cardUnit, State.wholeUnit, lns, if_true, hw', hy', sp, State.withUnit, hy, Option.getD_some,
        Bool.false_eq_true, if_false, State.unitHeard]
    · cases hy'
  have hu : (s.withUnit op c fc u env o).unitsOn = s.withUnit op c fc u env o := by
    simp [State.unitsOn, run.2.1, kq]
  simp only [State.frameUnit, hf, hdue, if_true, State.unitArrives, hcu, hu]
  rw [State.cardPump_runs _ q run]

/-! ## What a command that starts is -/

/-- A command that starts stands as its frame gave it. -/
theorem State.starts_out (s : State) (op : Nat) (c : Cmd) (fc : Nat) (env : List MediaRead) (aux : Nat) (o : Outst) (b : op ≠ 0)
    (h : s.Starts op c fc env aux o) : ∃ x f, o = { outOf op (cutCmd c) fc env x with failAt := f } :=
  State.taken_last s op c fc env aux o b h.2.2.1

/-- A command that starts is of its operation, and nothing bars its data. -/
theorem State.starts_op (s : State) (op : Nat) (c : Cmd) (fc : Nat) (env : List MediaRead) (aux : Nat) (o : Outst) (b : op ≠ 0)
    (h : s.Starts op c fc env aux o) : o.op = op ∧ (if dataOp o.op then (s.taken op c fc env aux).dataBars o else none) = none := by
  obtain ⟨x, f, e⟩ := State.starts_out s op c fc env aux o b h
  refine ⟨by rw [e]; rfl, ?_⟩
  split
  · exact h.2.2.2.2.1 ‹_›
  · rfl

/-- TUNE_WR starts with the lines that passed. -/
theorem State.starts_bound (s : State) (c : Cmd) (fc : Nat) (lines : Nat) (o : Outst)
    (h : s.Starts 0x11 c fc [] lines o) : o.bound = lines % 256 := by
  have h2 := h.2.2.1
  simp only [State.taken, State.accept, Nat.reduceEqDiff, if_false, false_and] at h2
  have := congrArg List.getLast? h2
  simp only [List.getLast?_append, List.getLast?_singleton, Option.some_or, Option.some.injEq] at this
  rw [← this]; rfl

/-- A command that starts with its one unit is of its operation, and nothing bars its data. -/
theorem State.startsWithUnit_op (s : State) (op : Nat) (c : Cmd) (fc : Nat) (u : UnitIn) (env : List MediaRead) (o q : Outst)
    (b : oneUnit op) (h : s.StartsWithUnit op c fc u env o q) :
    q.op = op ∧ (if dataOp q.op then (s.withUnit op c fc u env o).dataBars q else none) = none := by
  obtain ⟨a, ic, d, k, hq, hh, pl, sp, run, kq⟩ := h
  obtain ⟨x, f, ho⟩ := State.taken_last s op c fc env 0 o (by unfold oneUnit at b; omega) d
  have hq := run.2.1
  simp only [State.withUnit, State.unitStored] at hq
  have hc : ∀ (t : State) (e : Nat), (t.countUnit 0 e).spA.outst = t.spA.outst := by
    intro t e
    have hf : ∀ (x : State) (e : Ev), (x.fire e).spA = x.spA := by
      intro x e; have := State.fired_fire (State.Fired.refl x) e; rw [State.Fired] at this; rw [this]
    simp only [State.countUnit, State.sp, State.setSp, if_true]
    repeat' split
    all_goals first | rfl | (rw [hf]; rfl) | rw [hf]
  have hn : h2cUnits o.op o.arg = 1 := by
    subst ho; rcases b with b | b | b | b <;> subst b <;> simp [outOf, h2cUnits]
  have hx : o.next = 0 := by subst ho; rfl
  simp only [hn, hx, Nat.zero_add, Nat.lt_irrefl, if_false, State.updOut, hc, State.unitHeard_spA, d] at hq
  refine ⟨?_, ?_⟩
  · simp [mapIf] at hq; rw [← hq, ho]; rfl
  · split
    · exact run.2.2.2.1 ‹_›
    · rfl

end Sys2Proof.Machine
end

