-- ==== Sys2Proof/Laws/Steps.lean ====
section
/-! SUPPORT. What a step can do, from what a command and a tick can do. -/

namespace Sys2Proof.Machine

/-- A step goes on from the state with the front command taken off. -/
theorem step_goes (s : State) : Goes { s with pending := s.pending.tail } (step s) := by
  unfold step
  split
  · rename_i h
    have e : ({ s with pending := s.pending.tail } : State) = s := by
      rw [h]; show ({ s with pending := [] } : State) = s; rw [← h]
    rw [e]
    exact ⟨_, rfl, State.tick_later _ (State.Later.refl _)⟩
  · rename_i c l h
    rw [h]
    exact exec_later c _

theorem Goes.later {s : State} {o : Host.Outcome State Fault Refusal} (h : Goes s o) {t : State} (e : o = .next t) : s.Later t := by
  obtain ⟨u, h1, h2⟩ := h
  rw [e] at h1
  cases h1
  exact h2

end Sys2Proof.Machine
end

