-- ==== Sys2Proof/Laws/StoreRecords.lean ====
section
/-! SUPPORT. What rewriting a two-slot record leaves in force, and that it leaves all else. -/

namespace Sys2Proof.Machine

theorem State.nextSlot_older (s : State) (a b : Nat) : s.nextSlot a b = s.olderSlot a b ∧ s.nextGen a b = s.newGen a b := by
  unfold State.nextSlot State.olderSlot State.nextGen State.newGen
  cases s.readTwo a b with
  | none => exact ⟨rfl, rfl⟩
  | some x => obtain ⟨c, g, w⟩ := x; cases c <;> exact ⟨rfl, rfl⟩

theorem State.Ok.ok {s : State} (h : s.Ok) (n : s.injects pLND 0 = false) : s.Ok' := ⟨h.1, h.2.1, h.2.2.1, n⟩

theorem State.rewrote_writeTwo (s : State) (a b : Nat) (ws : List Nat) (al : a % 64 = 0) (bl : b % 64 = 0) (ne : a ≠ b) (h : s.Ok')
    (g : s.newGen a b < 2 ^ 32) (w : ∀ w ∈ ws, w < 2 ^ 64) : s.Rewrote (s.writeTwo a b ws) a b ws := by
  obtain ⟨e, f⟩ := State.nextSlot_older s a b
  have r := State.readTwo_writeTwo s a b ws al bl ne h (by rw [f]; exact g) w
  have k := State.writeTwo_frame s a b ws al bl h
  rw [e, f] at r
  rw [e] at k
  exact ⟨r, k.2.1, k.2.2.1⟩

theorem State.reg_keepsLnd {s t : State} (h : State.Keeps lndTouched s t) (j : Nat) (a : j / 4096 ≠ pLND) (b : j / 4096 ≠ pEVT) :
    t.reg j = s.reg j := h.reg j (fun x => x.elim (fun y => a y.1) b)

theorem State.readTwo_congr {t u : State} (m : u.mram = t.mram) (e : u.ecc = t.ecc) (a b : Nat) (al : a % 64 = 0) (bl : b % 64 = 0) :
    u.readTwo a b = t.readTwo a b := by
  have hb : ∀ j, u.mramByte j = t.mramByte j := fun j => by unfold State.mramByte; rw [m]
  have he : ∀ j, u.eccOf j = t.eccOf j := fun j => by unfold State.eccOf; rw [e]
  unfold State.readTwo
  rw [State.readSlr_congr t u a al (fun j _ _ => hb j) (fun j _ _ => he j),
    State.readSlr_congr t u b bl (fun j _ _ => hb j) (fun j _ _ => he j)]

theorem State.rewrote_congr {s t u : State} {a b : Nat} {ws : List Nat} (h : s.Rewrote t a b ws) (m : u.mram = t.mram) (e : u.ecc = t.ecc)
    (al : a % 64 = 0) (bl : b % 64 = 0) : s.Rewrote u a b ws := by
  refine ⟨(State.readTwo_congr m e a b al bl).trans h.1, fun j x => ?_, fun w x => ?_⟩
  · rw [← h.2.1 j x]; unfold State.mramByte; rw [m]
  · rw [← h.2.2 w x]; unfold State.eccOf; rw [e]

/-- The older slot and the generation are those of a state with the same store. -/
theorem State.rewrote_from {s v t : State} {a b : Nat} {ws : List Nat} (h : v.Rewrote t a b ws) (m : v.mram = s.mram) (e : v.ecc = s.ecc)
    (al : a % 64 = 0) (bl : b % 64 = 0) : s.Rewrote t a b ws := by
  have r := State.readTwo_congr m e a b al bl
  unfold State.Rewrote State.olderSlot State.newGen at h ⊢
  rw [r] at h
  refine ⟨h.1, fun j x => ?_, fun w x => ?_⟩
  · rw [h.2.1 j x]; unfold State.mramByte; rw [m]
  · rw [h.2.2 w x]; unfold State.eccOf; rw [e]

theorem State.wrote_withLnd {s t : State} (h : s.Wrote t) (l : Landing) : { t with lnd := l } =
    { s with mram := t.mram, ecc := t.ecc, regs := t.regs, held := t.held, ringDrop := t.ringDrop, fnRegs := t.fnRegs, mq := t.mq, out := t.out, lnd := l } := by
  unfold State.Wrote at h
  cases t; cases s
  simp only [State.mk.injEq] at h ⊢
  simp only [h, and_self]

theorem State.wrote_withLife {s t : State} (h : s.Wrote t) (l : Life) : { t with life := l } =
    { s with mram := t.mram, ecc := t.ecc, regs := t.regs, held := t.held, ringDrop := t.ringDrop, fnRegs := t.fnRegs, mq := t.mq, out := t.out, life := l } := by
  unfold State.Wrote at h
  cases t; cases s
  simp only [State.mk.injEq] at h ⊢
  simp only [h, and_self]

theorem State.wrote_fields {s t : State} (h : s.Wrote t) : t.lnd = s.lnd ∧ t.life = s.life := by
  unfold State.Wrote at h
  cases t; cases s
  simp only [State.mk.injEq] at h ⊢
  simp only [h, and_self]

end Sys2Proof.Machine
end

