-- ==== Sys2Proof/Machine/Wire.lean ====
section
/-! DEFINITION. The frames of a Spantoen port, bit by bit, that the link layer's outputs stand for: command, response
and unit header on SCMD (R174–R177), status frames and line frames on SDAT (R152, R178, R179). -/

namespace Sys2Proof.Machine

open Sys2Proof.Crypto

/-- A frame: its length and its bits, the first bit highest. -/
structure Frame where
  len : Nat
  bits : Nat
  deriving DecidableEq, Repr

/-- The 52 bits of a card status frame (R178). -/
def cardStatusFrame (kind token rseq rmac : Nat) : Frame :=
  ⟨52, kind % 4 * 2 ^ 49 + token % 256 * 2 ^ 41 + (255 - token % 256) * 2 ^ 33 + rseq % 256 * 2 ^ 25 +
    rmac % 2 ^ 24 * 2 + 1⟩

/-- The 18 bits of a host status frame; the abandon code carries 0x00 twice (R179, R191). -/
def hostStatusFrame (good : Bool) (token : Nat) : Frame :=
  ⟨18, if good then token % 256 * 2 ^ 9 + (255 - token % 256) * 2 + 1 else 1⟩

/-- The 48 bits of a unit header: ST is 0xFF and INFO the index (R177). -/
def unitHeader (tag index flags : Nat) : Nat := respFrame tag 0xFF index flags

/-- The 4130 bits of a line frame (R152). -/
def lineWire (l : LineIn) : Frame :=
  ⟨4130, l.start.toNat * 2 ^ 4129 + natBE l.bytes * 2 ^ 17 + l.check * 2 + l.fin.toNat⟩

/-- The 258 bits of a tuning frame (R158). -/
def tuneWire (bits : Nat) : Frame := ⟨258, bits⟩

/-- What an output of the link layer puts on SCMD. -/
def Out.scmd (r : Role) : Out → List Frame
  | .resp tag st info flags _ _ _ _ => [⟨48, respFrame tag st info flags⟩]
  | .unit _ tag index flags _ _ _ => match r with
    | .card => [⟨48, unitHeader tag index flags⟩]
    | .dock => []
  | .cmd _ op inst tag arg epoch mac => [⟨102, cmdFrame op ⟨inst, tag, arg, epoch, mac⟩⟩]
  | _ => []

/-- What it puts on SDAT_n at SPD_1 to SPD_3. -/
def Out.sdat (r : Role) (n : Nat) : Out → List Frame
  | .resp _ _ _ _ kind token rseq rmac => if n = 0 then [cardStatusFrame kind token rseq rmac] else []
  | .unit _ _ _ _ _ ct tag => [lineWire (lineFrame (lineBytes (ct ++ tag) n))]
  | .status _ good token =>
    if n = 0 then [match r with
      | .card => cardStatusFrame 1 token 0 0
      | .dock => hostStatusFrame good token] else []
  | .tuneFrame _ frames => (frames[n]?).toList.map tuneWire
  | _ => []

/-- What it puts on SDAT_n in a mode: at SPD_0 every frame of data goes over SDAT_0, line 0 first (R153). -/
def Out.sdatAt (r : Role) (mode n : Nat) (o : Out) : List Frame :=
  if mode ≠ 0 then o.sdat r n
  else if n ≠ 0 then []
  else (List.range 8).flatMap (fun k => o.sdat r k)

end Sys2Proof.Machine
end

