-- ==== Sys2Proof/Tests/Slice0.lean ====
section
/-! SUPPORT. Checks of the model by the spec's own examples, and for every statement with hypotheses a state and operands
that meet them. -/

open Sys2Proof Sys2Proof.Machine

section

-- One theorem at a time: each evaluates in the kernel, and all at once would want a thread each.
set_option Elab.async false

/-! ## The states the witnesses start from -/

/-- A card in READY with blank stores. -/
def wCard : State := ({ State.reset with boot := { poc := false } } : State).setFld SYS_BRINGUP_STEP 11

/-- A dock in READY with blank stores. -/
def wDock : State := ({ State.reset with role := .dock, boot := { poc := false } } : State).setFld SYS_BRINGUP_STEP 11

/-- A card in READY with MP_A ACTIVE and its leases held, blank stores. -/
def wMpa : State :=
  ((({ wCard with pins := { crstHigh := true } } : State).setFld (mpState false) 3)).setFld MPC_LEASE_VALID_VALID (2 ^ 32 - 1)

/-- The same card with the management credential. -/
def wCred : State := wMpa.setFlag (CN_STAT_CRED 0) true

/-- A card in a session at epoch 0 with a zero key. -/
def wLink : State := { wMpa with spA := { key := List.replicate 32 0, sessionSeen := true } }.setFlag (LSE_STAT_SESSION 0) true

/-- A frame of instance 0 with the MAC that verifies. -/
def wFrame (s : State) (op tag arg : Nat) : Cmd :=
  { inst := 0, tag := tag, arg := arg, epoch := 0, mac := cmdMac s.spA.key op ⟨0, tag, arg, 0, 0⟩ tag }

theorem natBE_lt (l : List Byte) : natBE l < 256 ^ l.length := by
  suffices h : ∀ (l : List Byte) (a : Nat), l.foldl (fun a b => a * 256 + b.toNat) a < (a + 1) * 256 ^ l.length by
    have := h l 0; simpa [natBE] using this
  intro l
  induction l with
  | nil => intro a; simp
  | cons b l ih =>
    intro a
    refine Nat.lt_of_lt_of_le (ih _) ?_
    rw [List.length_cons, Nat.pow_succ, Nat.mul_comm (256 ^ l.length) 256, ← Nat.mul_assoc]
    refine Nat.mul_le_mul_right _ ?_
    have := b.isLt
    simp only
    omega

theorem cmdMac_lt (k : List Byte) (op : Nat) (c : Cmd) (fc : Nat) : cmdMac k op c fc < 2 ^ 24 := by
  refine Nat.lt_of_lt_of_le (natBE_lt _) ?_
  refine Nat.le_trans (Nat.pow_le_pow_right (by decide) (List.length_take_le 3 _)) (by decide)

/-- The frame verifies on a card with a session at epoch 0. -/
theorem wFrame_verifies (s : State) (op tag arg : Nat) (a : s.cardLink = true) (b : s.linkArrived.1 = true)
    (d : s.linkHeard.session 0 = true) (e : s.linkHeard.keyAt 0 0 = some s.spA.key)
    (f : fcNear (s.linkHeard.injUsed (pLSE 0) 0).spA.cmdFc tag = some tag) (i : s.linkHeard.injBits (pLSE 0) 0 = 0)
    (g : tag < 256) (h : arg < 2 ^ 48) : s.Verifies op (wFrame s op tag arg) tag := by
  refine ⟨a, b, d, s.spA.key, e, ?_, ?_⟩
  · simpa [wFrame, cutCmd, Nat.mod_eq_of_lt g] using f
  · rw [i, Nat.xor_zero]
    simp only [wFrame, cutCmd, Nat.mod_eq_of_lt g, Nat.mod_eq_of_lt h, Nat.mod_eq_of_lt (cmdMac_lt _ _ _ _)]
    rfl

theorem wLink_verifies (op arg : Nat) (h : arg < 2 ^ 48) : wLink.Verifies op (wFrame wLink op 1 arg) 1 :=
  wFrame_verifies _ op 1 arg (by decide) (by decide) (by decide) (by decide) (by decide) (by decide) (by decide) h

/-- The same card with instance 0 of four extents, its keys and the seal key in place. -/
def wReady : State := { wLink with keys := { wLink.keys with imk := List.replicate 16 [1], slk := [1] } }.setFld (INS_SIZE_EXTENTS 0) 4

theorem wReady_verifies (op arg : Nat) (h : arg < 2 ^ 48) : wReady.Verifies op (wFrame wReady op 1 arg) 1 :=
  wFrame_verifies _ op 1 arg (by decide) (by decide) (by decide) (by decide) (by decide) (by decide) (by decide) h

/-- What the card accepts as its only command. -/
def wOut (op arg : Nat) : Outst := outOf op (cutCmd (wFrame wReady op 1 arg)) 1 [] ((wReady.taken op (wFrame wReady op 1 arg) 1 [] 0).lnd.seq - 1)

/-- MP_B in STANDBY and a lease held. -/
def wMp : State := (wCard.setFld MPC_LEASE_VALID_VALID 1).setFld (mpState true) 2

/-- The unit that goes with a frame of `wReady`: the eight line frames of its ciphertext and tag. -/
def wUnit (data : List Byte) : UnitIn :=
  let ct := Crypto.gcmCrypt wReady.spA.key (linkIv 0 1 0 0 1 0 1) data
  { lines := unitLines (ct ++ Crypto.gcmTag wReady.spA.key (linkIv 0 1 0 0 1 0 1) [] ct) }

/-- The command with that unit taken. -/
def wTaken (op arg : Nat) (data : List Byte) : Outst := { wOut op arg with next := 1, units := [data] }

/-- A unit that the outside sends whole and with its tag is taken. -/
theorem wUnit_plain (s : State) (o : Outst) (data : List Byte) (h : data.length = 4096)
    (k : s.unitHeard.keyAt 0 0 = some wReady.spA.key) (i : s.injBits (pSP 0) 1 = 0)
    (j : (s.injUsed (pSP 0) 1).injBits (pLSE 0) 1 = 0) (e : (o.epoch, o.inst, o.tag, o.next, o.fc) = (0, 0, 1, 0, 1)) :
    s.unitPlain o (wUnit data) = some data := by
  have l := ct_unitLines (Crypto.gcmCrypt wReady.spA.key (linkIv 0 1 0 0 1 0 1) data)
    (Crypto.gcmTag wReady.spA.key (linkIv 0 1 0 0 1 0 1) [] (Crypto.gcmCrypt wReady.spA.key (linkIv 0 1 0 0 1 0 1) data))
    ((Crypto.gcmCrypt_length _ _ _).trans h) (Crypto.gcmTag_length _ _ _ _)
  have t : ∀ l : List Byte, l.length = 16 → l.take 15 ++ (l.drop 15).map (· ^^^ BitVec.ofNat 8 0) = l := by
    intro l _
    simp
  simp only [Prod.mk.injEq] at e
  obtain ⟨e1, e2, e3, e4, e5⟩ := e
  simp only [State.unitPlain, i, wUnit, mask_unitLines, State.hostUnit, e1, e2, e3, e4, e5, k, State.tagOf, j, l.1, l.2,
    t _ (Crypto.gcmTag_length _ _ _ _), Crypto.gcmCrypt_twice, if_true, beq_self_eq_true]

/-- A dock whose port A runs, with a session. -/
def wDockRun : State :=
  (((wDock.setSp 0 { wDock.sp 0 with sclk := true }).setFlag (LSE_STAT_SESSION 0) true).setLink 0 lnkRun).setFlag
    (SP_CLK_CFG_STOP_EN 0) true

/-! ## Every statement's hypotheses are met -/

theorem witness_StepRunsTheFrontCommand : State.reset.pending = [] := rfl

theorem witness_StepKeepsTheStoresInOrder : wReady.Ok := ⟨by decide, by decide, by decide, by decide⟩

theorem witness_EveryQueueRunsToItsEnd : ({ wReady with pending := [.deltaLineWrite, .scanNow] } : State).Ok :=
  ⟨by decide, by decide, by decide, by decide⟩

theorem witness_FusesOnlyBurn : wReady.Ok ∧ step { wReady with pending := [] } = .next ({ wReady with pending := [] } : State).tick :=
  ⟨⟨by decide, by decide, by decide, by decide⟩, rfl⟩

theorem witness_AbsentPagesReadAndIgnore : pageCode 0x20 = some (0x5043, 0) ∧ pagePresent wCard.role 0x20 = false ∧
    pageCode 0x0F = some (0x434D, 0) ∧ pagePresent wDock.role 0x0F = false := by decide

theorem witness_CounletRegRdAnswers : wCred.cnServes 0x30 1 = true := by decide

theorem witness_ReadingChangesOnlyTheLatch : lowWords.contains 0x58 = true ∧ pagePresent wCard.role 0 = true ∧
    wCard.pageSilent 0 = false ∧ regThere wCard.role 0 0x5C = true ∧ lowWords.contains 0x44 = false := by decide

theorem witness_FiringTouchesOnlyEventState : wCard.Ok ∧ State.reset.Ok ∧ evtInRole wCard.role pTMP 0 = true ∧ State.reset.up = false ∧
    evtInRole wCard.role pPCE 0 = false := by
  refine ⟨⟨by decide, by decide, by decide, by decide⟩, ⟨by decide, by decide, by decide, by decide⟩, by decide, by decide, by decide⟩

theorem witness_NewFaultIsRecorded : wCard.Ok ∧ srcPresent wCard.role 6 = true ∧ wCard.inBlockReset (srcUnit 6 0) = false ∧
    wCard.mergeInto (srcUnit 6 0) = none ∧ wCard.safe = false ∧ evtInRole wCard.role pFLT EV_FLT_FAULT_RAISED.2 = true ∧
    wCard.flt.holds.any (fun h => h.src == 6 && h.unit == srcUnit 6 0) = false := by
  refine ⟨⟨by decide, by decide, by decide, by decide⟩, by decide, by decide, by decide, by decide, by decide, by decide⟩

theorem witness_MapEntriesRoundTrip : 127 < 128 ∧ 383 < 384 ∧ 3 < 4 ∧ (21844 + 1) * (4 * 384) ≤ 2 ^ 25 ∧
    (21844 + 1) * (4 * 384) < 2 ^ 25 ∧ 0 < 384 ∧ 0xFFFFFFFF < 2 ^ 32 := by decide

def wMoved : State := { wCard with uptime := 20000000, lnd := { wCard.lnd with ancMoved := true, lastLine := 5 } }

def wScans (up : BitVec 40) : State := { wCard with uptime := up, media := { wCard.media with
  table := [(3, { wCard.entry 3 with state := 2 })], scanning := true, scanSecs := 1 } }

theorem witness_StoreRecordsAreRewritten_anchor : wMoved.Ok ∧ wMoved.injects pLND 0 = false ∧ wMoved.up = true ∧ wMoved.lnd.ancMoved = true ∧
    wMoved.lnd.ancTime.toNat + 100000 ≤ wMoved.uptime.toNat ∧ wMoved.newGen anchorA anchorB < 2 ^ 32 ∧
    wMoved.lnd.recs.head? = none ∧ wMoved.lnd.lastLine = 5 ∧ wMoved.lnd.floor < 2 ^ 64 := by
  refine ⟨⟨by decide, by decide, by decide, by decide⟩, by decide, by decide, by decide, by decide, by decide +kernel, by decide, by decide, by decide⟩

theorem witness_StoreRecordsAreRewritten_life : wMoved.injects pLND 0 = false ∧ wMoved.isCard = true ∧ wMoved.safe = false ∧
    wMoved.life.last.toNat + 10000000 ≤ wMoved.uptime.toNat ∧ wMoved.newGen 0x01C00100 0x01C00140 < 2 ^ 32 ∧
    (∀ w ∈ wMoved.life1, w < 2 ^ 64) ∧ (∀ w ∈ wMoved.life2, w < 2 ^ 64) := by
  refine ⟨by decide, by decide, by decide, by decide, by decide +kernel, by decide, by decide⟩

theorem witness_StoreRecordsAreRewritten_scan (up : BitVec 40) (h : up = 0 ∨ up = 100000) : (wScans up).Ok ∧ (wScans up).moving = true ∧
    (wScans up).flag MED_SCAN_CFG_EN = true ∧ (wScans up).media.scanning = true ∧ (wScans up).scanDue = true ∧
    (wScans up).dataSbs.find? (fun k => (wScans up).media.scanNext ≤ k) = some 3 := by
  rcases h with rfl | rfl <;>
    exact ⟨⟨by decide, by decide, by decide, by decide⟩, by decide, by decide, by decide, by decide, by decide⟩

theorem witness_StoreRecordsAreRewritten_scan_late : let u := (wScans 100000).scanSb 3 []
    100000 ≤ u.since u.media.scanTime ∧ u.injects pLND 0 = false ∧ u.newGen scanA scanB < 2 ^ 32 ∧ (∀ w ∈ [u.media.pass, 3 + 1, u.media.scanSecs], w < 2 ^ 64) ∧
    ((wScans 0).scanSb 3 []).since ((wScans 0).scanSb 3 []).media.scanTime < 100000 := by
  refine ⟨by decide +kernel, by decide +kernel, by decide +kernel, by decide +kernel, by decide +kernel⟩

theorem witness_EveryPageSaysB0 : (pageCode 0x00).isSome = true ∧ (pageCode 0x24).isSome = true ∧ (pageCode 0x4F).isSome = true := by
  decide

theorem witness_FrameCountersAreTheNearest : fcNear 0x1F0 0x05 = some 0x205 ∧ fcNear 5 0xF0 = none ∧ rspNear 0xFF 0x00 = 0x100 := by decide

theorem witness_JournalLaneUndoesItself : 0xFFFFFFFF < 2 ^ 32 ∧ natBE (laneIv 0xFFFFFFFF 0) = (0x4A * 2 ^ 88 + 0xFFFFFFFF * 2 ^ 56) * 2 ^ 32 + 1 := by decide

theorem witness_PinAndClockEventFrames : wCard.Ok ∧ wDock.Ok ∧ wCard.alive = true ∧
    (wCard.setFlag CLK_PLL_STAT_LOCKED true).Ok ∧ (wCard.setFlag CLK_PLL_STAT_LOCKED true).flag CLK_PLL_STAT_LOCKED = true ∧
    (wDock.setFld PCE_FLR_STAT_BUSY 2).Ok ∧ bitAt ((wDock.setFld PCE_FLR_STAT_BUSY 2).fld PCE_FLR_STAT_BUSY) 1 = true := by
  refine ⟨⟨by decide, by decide, by decide, by decide⟩, ⟨by decide, by decide, by decide, by decide⟩, by decide,
    ⟨by decide, by decide, by decide, by decide⟩, by decide, ⟨by decide, by decide, by decide, by decide⟩, by decide⟩

theorem witness_SupplyLossKeepsWhatLasts : Memory.wf State.reset.mram = true ∧ (0 < 64 * ((1 : Nat) % 524288) ∨ 128 ≤ 0) := by
  decide

theorem witness_ResetsStartBringUp_poc : State.reset.boot.poc = true := rfl

theorem witness_ResetsStartBringUp_low : (500 : Nat) ≤ 600 ∧ wCard.boot.poc = false ∧ wCard.boot.rstLow = false ∧
    wCard.boot.fuse = none ∧ (100 : Nat) < 200 := by decide

theorem witness_ResetsStartBringUp_release :
    ({ wCard with boot := { poc := false, rstLow := true } } : State).boot.rstLow = true ∧
    ({ wCard with boot := { poc := false, rstLow := true } } : State).boot.waiting = [] := by decide

theorem witness_ResetsStartBringUp_defer :
    ({ wCard with boot := { poc := false, waiting := [.rstN] } } : State).boot.waiting = [.rstN] ∧
    ({ wCard with boot := { poc := false, waiting := [.rstN] } } : State).boot.fuse = none ∧
    ({ wCard with boot := { poc := false, waiting := [.rstN] } } : State).fld RST_DEFER_MAX_LONGEST < min 1200 5 := by
  decide

theorem witness_ResetsStartBringUp_chip : wCard.alive = true ∧ wCard.safe = false ∧ wCard.boot.waiting = [] ∧
    wCard.boot.fuse = none ∧ (0xD1E5 : Nat) % 65536 = 0xD1E5 ∧ (7 : Nat) % 65536 ≠ 0xD1E5 := by decide

theorem witness_ResetsStartBringUp_wdog : wCard.up = true ∧ wCard.safe = false ∧
    ((wCard.setFlag MPC_WDOG_CFG_ENABLE true).setFld MPC_WDOG_STAT_COUNT_MS 20).flag MPC_WDOG_CFG_ENABLE = true ∧
    ((wCard.setFlag MPC_WDOG_CFG_ENABLE true).setFld MPC_WDOG_STAT_COUNT_MS 20).mpServes = false ∧
    max 4 (min 200 (((wCard.setFlag MPC_WDOG_CFG_ENABLE true).setFld MPC_WDOG_STAT_COUNT_MS 20).fld MPC_WDOG_CFG_PERIOD)) ≤
      ((wCard.setFlag MPC_WDOG_CFG_ENABLE true).setFld MPC_WDOG_STAT_COUNT_MS 20).fld MPC_WDOG_STAT_COUNT_MS := by decide

theorem witness_ResetsStartBringUp_narrow :
    ({ wDock with boot := { poc := false, waiting := [.perstN] } } : State).boot.waiting.find? ResetKind.chip = none ∧
    ({ wCard with boot := { poc := false, waiting := [.rstN] } } : State).boot.waiting.find? ResetKind.chip = some .rstN := by
  decide

theorem witness_BringUpStepsInOrder : ∀ n ∈ [1, 2, 3, 4, 5, 6, 7, 8, 9, 10],
    (wCard.setFld SYS_BRINGUP_STEP n).alive = true ∧ (wCard.setFld SYS_BRINGUP_STEP n).boot.stuck = false ∧
    (wCard.setFld SYS_BRINGUP_STEP n).boot.waiting = [] ∧ (wCard.setFld SYS_BRINGUP_STEP n).safe = false ∧
    (wCard.setFld SYS_BRINGUP_STEP n).bootStep = n ∧ (wCard.setFld SYS_BRINGUP_STEP n).lnd.recs = [] := by decide

theorem witness_BringUpStepsInOrder_in : ({} : StepIn).pllLocked = true ∧ ({ pllLocked := false } : StepIn).pllLocked = false ∧
    ({} : StepIn).fuseOk = true ∧ ({ fuseOk := false } : StepIn).fuseOk = false := by decide

theorem witness_BringUpStepsInOrder_journal :
    ({ wCard with lnd := { wCard.lnd with fenced := true } } : State).journalFenced = true := by decide

theorem witness_ClockCommands_gate : wCard.alive = true ∧ islandRuns wCard.role 13 = true ∧
    bitAt ((wCard.setReg rCLK_GATE_CFG.off 0x2000#32).reg rCLK_GATE_CFG.off).toNat 13 = true := by decide

theorem witness_ClockCommands_pll : (wCard.setFlag CLK_PLL_STAT_LOCKED true).flag CLK_PLL_STAT_LOCKED = true ∧
    (wCard.setFlag CLK_PLL_STAT_RELOCKING true).flag CLK_PLL_STAT_RELOCKING = true ∧
    (wCard.setFlag CLK_PLL_STAT_RELOCKING true).fld CLK_PLL_STAT_ATTEMPT < 2 ∧
    2 ≤ ((wCard.setFlag CLK_PLL_STAT_RELOCKING true).setFld CLK_PLL_STAT_ATTEMPT 2).fld CLK_PLL_STAT_ATTEMPT := by decide

theorem witness_ClockCommands_stop : wCard.up = true ∧ wCard.powerState = 0 ∧
    (wCard.setFlag (SP_STAT_CLK_STOPPED 0) true).allStopped = true := by decide

theorem witness_IslandFences : wCard.bootStep ≠ 0 ∧ islandRuns wCard.role islMP = true ∧ islandRuns wCard.role islFLT = true ∧
    islandRuns wCard.role islAON = true ∧ islandRuns wCard.role islLAND = true ∧ wCard.islandDown islLAND = false ∧
    islMP ≠ islFLT ∧ islLAND ≠ islAON ∧ islLAND ≠ islFLT ∧ islMP ≠ islLAND ∧ islMP ≠ islAON ∧ wCard.islandDown islMP = false ∧
    (wCard.setFlag (bitFld rCLK_BRIDGE_DISC.off 9) true).islandDown 9 = true ∧ wCard.safe = false ∧
    wCard.parked islMP = false ∧ wCard.parked islLAND = false ∧ wCard.injects pCLK islLAND = false ∧
    (wCard.setFld PWR_STAT_STATE 3).parked islLAND = true := by decide

theorem witness_PageHeaderCommands : wCard.pageTakes pMAP = true ∧ (wCard.written pMAP).up = true ∧
    (wCard.written pMAP).safe = false ∧ pageNoBlockReset pMAP = false ∧
    (wCard.setFlag (PG_STAT_QUIESCED pMAP) true).quiescedNow pMAP = true ∧ wCard.quiescedNow pMAP = false ∧
    pageFixed pMAP = false ∧ wCard.dockInst pMAP = false ∧ (wCard.written pMAP).flag (PG_CTRL_ENABLE pMAP) ≠ false ∧
    (wCard.written pMAP).flag (PG_CTRL_FENCE_REQ pMAP) = false ∧
    (wCard.written pMAP).pageFaultFenced pMAP = false := by decide

theorem witness_PageHeaderCommands_refused : ((wCard.setFld SYS_BRINGUP_STEP 5).written pMAP).up = false ∧
    (wCard.setFld SYS_BRINGUP_STEP 5).pageTakes pMAP = true ∧ pageNoBlockReset pKEY = false ∧
    pageNoBlockReset pEVT = true := by decide

theorem witness_PageHeaderCommands_more :
    ((wCard.setFlag (PG_CTRL_FENCE_REQ pMAP) true).written pMAP).flag (PG_CTRL_FENCE_REQ pMAP) = true ∧
    (wCard.setFlag (PG_STAT_RST_BUSY pMAP) true).flag (PG_STAT_RST_BUSY pMAP) = true ∧
    (wCard.setFlag (PG_STAT_RST_BUSY pMAP) true).pageSilent pMAP = false ∧
    quiesceHonoured pMAP = true ∧ pagePresent wCard.role pMAP = true ∧
    (wCard.setFlag (PG_CTRL_QUIESCE_REQ pMAP) true).quiesceAsked pMAP = true ∧
    (wCard.setFlag (PG_CTRL_QUIESCE_REQ pMAP) true).inFlight pMAP = false ∧
    (wCard.setFlag (PG_CTRL_QUIESCE_REQ pMAP) true).flag (PG_STAT_QUIESCED pMAP) = false := by decide

theorem witness_EventAndInjectionCommands : wCard.pageTakes pMAP = true ∧ wCard.pageTakes pEVT = true ∧ pMAP < 0x40 ∧
    ({ wCard with injArmed := [pMAP] } : State).pageTakes pMAP = true ∧
    ({ wCard with injArmed := [pMAP] } : State).injArmed.contains pMAP = true ∧
    ({ wCard with injArmed := [pMAP] } : State).flag (PG_LOCK_LOCK pMAP) = false ∧ noChecker pMAP = false ∧
    wCard.injArmed.contains pMAP = false ∧ 0x5A1D % 65536 = 0x5A1D ∧ 0xC1EA % 65536 = 0xC1EA ∧ 7 % 65536 ≠ 0x5A1D ∧
    7 % 65536 ≠ 0xC1EA := by decide

theorem witness_EventAndInjectionCommands_tail :
    (0 % 64 + 64 - (wCard.touchPage pEVT).fld EVT_RING_TAIL_INDEX) % 64 ≤ (wCard.touchPage pEVT).fld EVT_RING_STAT_COUNT ∧
    (wCard.touchPage pEVT).fld EVT_RING_STAT_COUNT < (1 % 64 + 64 - (wCard.touchPage pEVT).fld EVT_RING_TAIL_INDEX) % 64 := by
  decide

theorem witness_RegisterAndPinCommands : wCard.alive = true ∧ wCard.i2cAnswers = true ∧
    ({ wCard with uptime := 0xFFFFFFFFFF#40 } : State).uptime.toNat + 1 = 2 ^ 40 ∧
    wLink.pathAnswers .link = true ∧ wLink.pathAnswers .counlet = false ∧ wLink.pathOpen .counlet = false ∧ (15 : Nat) < 16 ∧
    State.reset.i2cAnswers = false ∧ State.reset.alive = false ∧ State.reset.pathAnswers .pf = false := by decide

/-- A dock in bring-up whose PCIe link is up. -/
def wEarly : State :=
  ({ wDock with pins := { wDock.pins with perstHigh := true } } : State).setFld SYS_BRINGUP_STEP 9

theorem witness_RegisterAndPinCommands_cfg : wEarly.alive = true ∧ wEarly.fnReached 0 = true ∧ wEarly.configUp = false := by
  decide

theorem witness_BallsFollowResetAndRole : State.reset.boot.poc = true ∧ State.reset.jtagActs ≠ 0 ∧ State.reset.jtagActs ≠ 4 ∧
    State.reset.jtagActs ≠ 5 ∧
    ({ wCard with boot := { poc := false, rstLow := true }, pins := { jtag := 5 } } : State).boot.rstLow = true ∧
    ({ wCard with boot := { poc := false, rstLow := true }, pins := { jtag := 5 } } : State).jtagActs = 5 ∧
    Ball.faultN.scanned = true ∧ (wCard.setFld SYS_BRINGUP_STEP 3).bootStep < 4 ∧ 4 ≤ wCard.bootStep ∧
    wCard.boot.poc = false ∧ wCard.boot.rstLow = false := by decide

theorem witness_ProcessorCommands : wMp.alive = true ∧ wMp.safe = false ∧
    wMp.flag (bitFld rMPC_LEASE_VALID.off 0) = true ∧ wMp.mpIs false ≠ 2 ∧ wMp.mpIs true = 2 ∧
    (wCard.setFld (mpState false) 2).safe = false ∧ (wCard.setFld (mpState false) 2).mpIs false = 2 := by decide

theorem witness_ProcessorCommands_check : 6 ≤ wMp.bootStep ∧ (wCard.setFld (mpState false) 1).safe = false ∧
    (wCard.setFld (mpState false) 1).mpIs false = 1 ∧ (wCard.setFld (mpState false) 1).mpActive = false ∧
    wCard.mpActive = false ∧ (wCard.setFld (mpState false) 1).loadImage 1 = some 0 ∧
    ((wCard.setFld (mpState false) 1).setFld (mpState true) 3).mpActive = true ∧
    ((wCard.setFld (mpState false) 1).setFld (mpState true) 3).loadImage 1 = some 0 := by decide

/-- Source 6 with STATUS set. -/
def wFlt : State := wCard.setFlag (FLT_SRC_STAT_STATUS 6) true

theorem witness_FaultCommands : wCard.bootStep ≠ 0 ∧
    (wCard.setFlag (INJ_CTRL_ACTIVE (srcPage 6)) true).flag (INJ_CTRL_ACTIVE (srcPage 6)) = true ∧
    (wFlt.setFlag (FLT_SRC_STAT_FENCING 6) true).flag (FLT_SRC_STAT_FENCING 6) = true ∧
    ({ wCard with flt := { wCard.flt with windows := [6] } } : State).flt.windows.contains 6 = true := by decide

theorem witness_FaultCommands_lull : wFlt.safe = false ∧ wFlt.up = true ∧ wFlt.flag (FLT_SRC_STAT_STATUS 6) = true ∧
    wFlt.flag (FLT_SRC_STAT_LATCHED 6) = false ∧ wFlt.flag (FLT_SRC_STAT_FENCING 6) = false ∧
    wFlt.flag (FLT_SRC_CFG_EXIT 6) = true ∧ wFlt.causeNow 6 = false ∧ 0 < wFlt.fld FLT_LULL_CFG_LIMIT ∧
    (wFlt.setFld FLT_LULL_CFG_LIMIT 0).fld FLT_LULL_CFG_LIMIT ≤ 0 ∧
    (wFlt.setFlag (FLT_SRC_STAT_FENCING 6) true).flag (FLT_SRC_STAT_STATUS 6) = true := by decide

/-- The tamper latched, with MISS good words since. -/
def wTmp (s : State) : State := { s with tamper := { s.tamper with goodRun := 8, switchHigh := true } }.setFlag TMP_STAT_LATCHED true

theorem witness_TamperCommands : 2 ≤ wCard.bootStep ∧ wCard.bootStep ≠ 5 ∧ ([] : List Byte).length ≤ 32 ∧
    (wTmp wDock).isDock = true ∧ ((wTmp wDock).setSwitch false).up = true ∧
    ((wTmp wDock).setSwitch false).tamperClearable true = true ∧ wCard.isCard = true := by decide

theorem witness_TamperCommands_ack : (wTmp wMpa).cnServes 0x28 1 = true ∧
    (((wTmp wMpa).cnHeard 0x28).setSwitch false).tamperClearable true = true ∧
    ((((wTmp wMpa).cnHeard 0x28).setSwitch false).tamperPw []).1 = true ∧
    ((((wTmp wMpa).cnHeard 0x28).setSwitch false).tamperPw [0]).1 = false ∧
    wMpa.cnServes 0x28 1 = true ∧
    ((wMpa.cnHeard 0x28).setSwitch false).tamperClearable true = false := by decide

theorem witness_TamperCommands_word (halves : Nat) : (wCard.loopWord halves).1 ≠ 0 ∨ (wCard.loopWord halves).1 = 0 := by
  omega

theorem witness_ThermalAndDozeCommands : wCard.alive = true ∧
    ((List.range 4).filter (fun i => !(sensorOff ([20, 20, 20, 20] : List Int)) i)).map
      (fun i => (([20, 20, 20, 20] : List (BitVec 16)).getD i 0).toNat) = 20 :: [20, 20, 20] ∧
    wDock.pageTakes pPWR = true ∧ (wDock.touchPage pPWR).isDock = true ∧ (wDock.touchPage pPWR).up = true ∧
    (wDock.touchPage pPWR).powerState < 2 ∧ (wDock.touchPage pPWR).dozeReady = true ∧
    ((wDock.setFlag (SP_STAT_CARD_PRESENT 0) true).touchPage pPWR).dozeReady = false := by decide

theorem witness_ThermalAndDozeCommands_doze : (wCard.setFld PWR_STAT_STATE 2).powerState = 2 ∧
    (wCard.setFld PWR_STAT_STATE 2).media.ops.any (·.issued) = false ∧ (wCard.setFld PWR_STAT_STATE 3).powerState = 3 ∧
    (wCard.setFld PWR_STAT_STATE 4).powerState = 4 ∧ wakeOf wCard.role 2 = true ∧ wakeOf wCard.role 4 = false := by decide

theorem witness_CounletCharacterCommands : wMpa.isCard = true ∧ wMpa.boot.poc = false ∧ wCard.pins.crstHigh = false ∧
    ({ wMpa with cnA := { atrDue := true } } : State).cardCn = true ∧ wMpa.cnListens = true ∧
    (({ wMpa with cnA := { ppsOpen := true } } : State).wake 2).cnA.ppsOpen = true ∧ fidiKnown 0x95 = true ∧
    wMpa.cnAlive 0 = true ∧ wDock.cnAlive 0 = true ∧ wDock.isDock = true ∧ wDock.fld (CN_CFG_REPEAT_MAX 0) < 9 ∧
    ([0, 0, 0] : List Byte).length ≠ (([0, 0, 0] : List Byte).getD 2 0).toNat + 5 := by decide

theorem witness_CounletCharacterCommands_more : wMpa.boot.waiting = [] ∧ wMpa.boot.fuse = none ∧ wMpa.boot.rstLow = false ∧
    (wMpa.wake 2).flag (INJ_CTRL_ACTIVE (pCN 0)) = false ∧ fidiKnown 0x97 = false ∧
    (({ wMpa with cnA := { last := some (1, 2, []) } } : State).cnArrived 1).1 = true ∧
    (({ wMpa with cnA := { last := some (1, 2, []) } } : State).cnArrived 1).2.cnA.last = some (1, 2, []) := by decide

theorem witness_CounletReportRequests : wMpa.cnServes 0x01 1 = true ∧ wMpa.cnServes 0x02 1 = true ∧
    wMpa.cnServes 0x03 1 = true ∧ wMpa.cnServes 0x04 1 = true ∧ wCred.cnServes 0x30 1 = true := by decide

theorem witness_CounletLockRequests : wCred.cnServes 0x10 1 = true ∧ wMpa.cnServes 0x11 1 = true ∧
    wMpa.cnServes 0x12 1 = true ∧ 0 = (wMpa.cnHeard 0x12).serial ∧ 1 ≠ (wMpa.cnHeard 0x12).serial ∧
    (wMpa.cnHeard 0x12).rngUp = true := by decide

theorem witness_CounletLockRequests_confirm : ({ wMpa with cnA := { token := some 7 } } : State).cnServes 0x13 1 = true ∧
    (({ wMpa with cnA := { token := some 7 } } : State).cnHeard 0x13).cnA.token = some 7 ∧
    (wMpa.cnHeard 0x13).ladderUp = true ∧ wMpa.cnServes 0x13 1 = true ∧
    (wMpa.cnHeard 0x13).cnA.token ≠ some 8 ∧ (wMpa.setFld LCK_ERASE_STAT_STATE 1).fld LCK_ERASE_STAT_STATE = 1 := by
  decide

/-- An erase in its background. -/
def wErase : State := { wMpa with media := { wMpa.media with erasing := true } }.setFld LCK_ERASE_STAT_STATE 3

theorem witness_CounletLockRequests_erase : wErase.isCard = true ∧ wErase.ready = true ∧ wErase.safe = false ∧
    wErase.coreRuns = true ∧ wErase.media.erasing = true := by decide

theorem witness_CounletPairingRequests : wMpa.cnServes 0x20 1 = true ∧ (wMpa.cnHeard 0x20).rngUp = true ∧
    wCred.cnServes 0x22 1 = true ∧ (wCred.cnHeard 0x22).lockForce 16 = false ∧
    (wCred.cnHeard 0x22).ladderUp = true := by decide

/-- PAIR_BEGIN has asked for a mode. -/
def wPair (m : PairMode) : State := { wCred with cnA := { pair := m } }

theorem witness_CounletPairingRequests_proof (m : PairMode) (h : m = .prove ∨ m = .enrol 1) :
    (wPair m).cnServes 0x21 1 = true ∧ ((wPair m).cnHeard 0x21).cnA.pair = m ∧
    ((wPair m).cnHeard 0x21).flag (CN_PAIR_STAT_REFUSED 0) = false ∧ ((wPair m).cnHeard 0x21).ladderUp = true ∧
    ((wPair m).cnHeard 0x21).proofValid 0 [] = false ∧ ((wPair m).cnHeard 0x21).proofValid 1 [] = false ∧
    ((wPair m).cnHeard 0x21).pairUsed 1 = false ∧ ((wPair m).cnHeard 0x21).lockForce 16 = false ∧
    ((wPair m).cnHeard 0x21).flag (CN_STAT_CRED 0) = true := by
  rcases h with h | h <;> subst h <;> decide

/-- A card whose slot P_0 holds a key accepts the proof made with it. -/
theorem witness_CounletPairingRequests_valid (s : State) (k : s.pairKey 0 ≠ []) : ∃ proof, s.proofValid 0 proof = true :=
  ⟨_, by simp only [State.proofValid, Bool.and_eq_true, bne_iff_ne, ne_eq, beq_iff_eq]; exact ⟨k, rfl⟩⟩

theorem witness_CounletServiceRequests : wCred.cnServes 0x38 1 = true ∧ bitsOf 0x80 1 6 = 0 ∧
    wMpa.cnServes 0x3F 1 = true := by decide

/-- KEY is asked to quiesce, and a PAIR_DROP waits, its engine reset since or not. -/
def wHeld (lost : Bool) : State :=
  { wMpa with keys := { wMpa.keys with heldReq := [{ req := .pairDrop 1 1, lost := lost }] } }.setFlag
    (PG_CTRL_QUIESCE_REQ pKEY) true

theorem witness_CounletServiceRequests_hold (lost : Bool) : (wHeld lost).isCard = true ∧ (wHeld lost).keyHolds = true ∧
    (wHeld lost).keys.heldReq.find? HeldCn.forKey = some { req := .pairDrop 1 1, lost := lost } := by
  cases lost <;> decide

/-- A dock whose port A stands in a phase of the link-up. -/
def wPhase (x : CnPhase) (link : Nat) : State :=
  (wDock.setCn 0 { wDock.cn 0 with phase := x, cdLow := true, last := some (0x20, 1, []) }).setLink 0 link

theorem witness_DockCardCommands : wDock.isDock = true ∧ (wDock.cn 0).cdLow = false ∧ (wDock.cdChange).up = true ∧
    wDock.cdChange.safe = false ∧ (wPhase .insDelay lnkLinkup).cnRuns 0 = true ∧
    ((wPhase .insDelay lnkLinkup).cn 0).phase = .insDelay ∧ ((wPhase .retryHold lnkLinkup).cn 0).phase = .retryHold ∧
    (wPhase .retryHold lnkLinkup).linkState 0 = lnkLinkup ∧ (wPhase .retryHold lnkRemoved).linkState 0 = lnkRemoved ∧
    (wPhase .retryHold lnkRemoved).cnRuns 0 = true ∧
    ((wPhase .retryHold lnkRemoved).cn 0).cdLow = true ∧
    (wPhase .retryHold lnkRemoved).flag (CN_CFG_AUTO_LINKUP 0) = true ∧ (wPhase .atr lnkLinkup).cnRuns 0 = true ∧
    atrGood [] = false ∧ (wPhase .begin lnkLinkup).cnOwn 0 = true ∧ (wPhase .begin lnkLinkup).cnRuns 0 = true ∧
    ((wPhase .begin lnkLinkup).cn 0).last = some (0xA0 % 128, 1, []) ∧ ((wPhase .begin lnkLinkup).cdChange).up = true := by
  decide

theorem witness_DockCardCommands_frames : ((wPhase .atr lnkLinkup).cnChars 0).1 = true ∧
    ((((wPhase .atr lnkLinkup).setFlag (INJ_CTRL_ACTIVE (pCN 0)) true).setFlag (INJ_CTRL_CONTINUOUS (pCN 0)) true).cnChars
      0).1 = false ∧
    ((wPhase .pps lnkLinkup).cnReceive 0 0xFF).1 = true ∧ (((wPhase .pps lnkLinkup).cnReceive 0 0xFF).2.cn 0).phase = .pps ∧
    (wPhase .pps lnkLinkup).cnOwn 0 = true ∧ ((wPhase .begin lnkLinkup).cnReceive 0 0xA0).1 = true ∧
    (((wPhase .begin lnkLinkup).cnReceive 0 0xA0).2.cn 0).last = some (0x20, 1, []) ∧ respOp 0x20 = 0xA0 := by decide

theorem witness_DockCardCommands_atr : atrGood ([0x3B, 0x9F, 0x96, 0x0E, 0x19, 0xB1, 0x5E, 0x11, 0x0C, 0x3A, 0x00, 0x00,
    0x1F, 0x27, 0x24, 0x3F, 0x4C, 0x0C, 0x02, 0xB7]) = true := by decide

/-- A dock whose port A has an open channel, with a mailbox request sent. -/
def wMbx (n : Nat) : State := (wDock.setFld (CN_STAT_STATE 0) 3).setCn 0 { mbx := some (0x02, 1, []), resends := n, phase := .done }

theorem witness_DockMailboxCommands_go : (let v := (wMbx 0).setCn 0 { (wMbx 0).cn 0 with mbx := some (2, 256, []) }
      (v.cnOpen 0, v.cnFree 0, (v.cn 0).wantPair, (v.cn 0).enrol.isNone)) = (true, true, false, true) ∧ (wPhase .begin lnkLinkup).cnFree 0 = false ∧ ((wMbx 0).cnReceive 0 0x82).1 = true ∧
    (((wMbx 0).cnReceive 0 0x82).2.cn 0).mbx = some (0x02, 1, []) ∧ respOp 0x02 = 0x82 := by decide

theorem witness_DockMailboxCommands : wDock.isDock = true ∧ wDock.pageTakes (pCN 0) = true ∧
    (wDock.touchPage (pCN 0)).flag (CN_MBX_STAT_BUSY 0) = false ∧ wDock.cnOpen 0 = false ∧ wDock.cnOwn 0 = false ∧
    (wMbx 0).cnOpen 0 = true ∧ (wMbx 0).cnRuns 0 = true ∧ ((wMbx 0).cn 0).mbx = some (0x82 % 128, 1, []) ∧
    ((wMbx 0).cn 0).resends < 2 ∧ 2 ≤ ((wMbx 2).cn 0).resends ∧ (wMbx 2).cnRuns 0 = true := by decide

/-- The same card with counter 5 accepted: its command outstanding (0), completed (1) or forgotten (2). -/
def wSeen (n : Nat) : State :=
  let o := outOf 2 (Cmd.mk 0 5 0 0 0) 5 [] 0
  let d : Done := { inst := 0, tag := 5, fc := 5, op := 0x06, st := 0, info := 0 }
  { wLink with spA := { wLink.spA with
    accepted := [5], cmdFc := 5, outst := (if n = 0 then [o] else []), dedup := (if n = 1 then [d] else []) } }

theorem wSeen_verifies (n op arg : Nat) (k : n = 0 ∨ n = 1 ∨ n = 2) (h : arg < 2 ^ 48) :
    (wSeen n).Verifies op (wFrame (wSeen n) op 5 arg) 5 := by
  rcases k with k | k | k <;> subst k <;>
    exact wFrame_verifies _ op 5 arg (by decide) (by decide) (by decide) (by decide) (by decide) (by decide) (by decide) h

theorem witness_FrameAnswers_ping : wLink.Accepts 0 (wFrame wLink 0 1 0) 1 := ⟨wLink_verifies 0 0 (by decide), rfl, rfl⟩

theorem witness_FrameAnswers_unknown : knownOp 0x04 = false ∧ wLink.Verifies 0x04 (wFrame wLink 0x04 1 0) 1 ∧
    wLink.frameHeard.spA.accepted.contains 1 = false :=
  ⟨by decide, wLink_verifies 0x04 0 (by decide), rfl⟩

theorem witness_FrameAnswers_again :
    (wSeen 0).frameHeard.hasOut 5 = true ∧
    (wSeen 1).frameHeard.hasOut 5 = false ∧
    (wSeen 1).frameHeard.spA.dedup.find? (fun x => x.fc == 5) =
      some { inst := 0, tag := 5, fc := 5, op := 0x06, st := 0, info := 0 } ∧ classN 0x06 = false ∧
    ((wSeen 2).frameHeard.spA.dedup.find? (fun x => x.fc == 5)).all (fun x => classN x.op) =
      true ∧ (wSeen 2).frameHeard.hasOut 5 = false ∧
    (wSeen 2).frameHeard.spA.accepted.contains 5 = true :=
  ⟨rfl, rfl, rfl, rfl, rfl, rfl, rfl⟩

theorem witness_DataCommandsStart (op : Nat) (h : op ∈ [0x02, 0x03, 0x05, 0x06, 0x07, 0x08, 0x09]) :
    wReady.Starts op (wFrame wReady op 1 0) 1 [] 0 (wOut op 0) := by
  simp only [List.mem_cons, List.not_mem_nil, or_false] at h
  rcases h with h | h | h | h | h | h | h <;> subst h <;>
    exact ⟨⟨wReady_verifies _ 0 (by decide), rfl, rfl⟩, rfl, rfl, rfl, fun _ => rfl, rfl, rfl⟩

theorem witness_DataCommandsStart_write : (wReady.taken 3 (wFrame wReady 3 1 0) 1 [] 0).writeFenced = false ∧
    (wReady.taken 3 (wFrame wReady 3 1 0) 1 [] 0).noRoom = false ∧
    (wReady.taken 3 (wFrame wReady 3 1 0) 1 [] 0).fits 1 1 = true ∧
    (wReady.taken 5 (wFrame wReady 5 1 0) 1 [] 0).fits 2 1 = true ∧
    (wReady.taken 8 (wFrame wReady 8 1 0) 1 [] 0).keys.slk ≠ [] ∧
    (wReady.taken 8 (wFrame wReady 8 1 0) 1 [] 0).segOf 0 = none :=
  ⟨rfl, rfl, rfl, rfl, List.cons_ne_nil _ _, rfl⟩

theorem witness_LinkCommandsStart (op arg : Nat) (h : (op, arg) ∈ [(0x01, 0), (0x0C, 0), (0x10, 0), (0x11, 0), (0x12, 0), (0x12, 1), (0x13, 1), (0x15, 0), (0x16, 0), (0x17, 0)]) :
    wReady.Starts op (wFrame wReady op 1 arg) 1 [] 0 (wOut op arg) := by
  simp only [List.mem_cons, List.not_mem_nil, or_false, Prod.mk.injEq] at h
  rcases h with h | h | h | h | h | h | h | h | h | h <;> obtain ⟨h, k⟩ := h <;> subst h <;> subst k <;>
    exact ⟨⟨wReady_verifies _ _ (by decide), rfl, rfl⟩, rfl, rfl, rfl, fun h => (by cases h), rfl, rfl⟩

/-- The same card with its port at SPD_1, tuned, and DOZE enabled. -/
def wFast : State := ((wReady.setFld (SP_STAT_MODE 0) 1).setFlag (SP_STAT_TUNED 0) true).setFlag PWR_CFG_DOZE_EN true

theorem wFast_verifies (op arg : Nat) (h : arg < 2 ^ 48) : wFast.Verifies op (wFrame wFast op 1 arg) 1 :=
  wFrame_verifies _ op 1 arg (by decide) (by decide) (by decide) (by decide) (by decide) (by decide) (by decide) h

theorem witness_LinkCommandsStart_tuned :
    (∃ o, wFast.Starts 0x10 (wFrame wFast 0x10 1 0) 1 [] 0 o) ∧ (∃ o, wFast.Starts 0x11 (wFrame wFast 0x11 1 0) 1 [] (tuneMask tuneFrames) o) ∧
    (∃ o, wFast.Starts 0x17 (wFrame wFast 0x17 1 0) 1 [] 0 o) ∧
    (wFast.taken 0x10 (wFrame wFast 0x10 1 0) 1 [] 0).fld (SP_STAT_MODE 0) ≠ 0 ∧
    (wFast.taken 0x17 (wFrame wFast 0x17 1 0) 1 [] 0).flag PWR_CFG_DOZE_EN = true :=
  ⟨⟨_, ⟨wFast_verifies _ 0 (by decide), rfl, rfl⟩, rfl, rfl, rfl, fun h => (by cases h), rfl, rfl⟩,
   ⟨_, ⟨wFast_verifies _ 0 (by decide), rfl, rfl⟩, rfl, rfl, rfl, fun h => (by cases h), rfl, rfl⟩,
   ⟨_, ⟨wFast_verifies _ 0 (by decide), rfl, rfl⟩, rfl, rfl, rfl, fun h => (by cases h), rfl, rfl⟩, by decide, rfl⟩

theorem witness_LinkCommandsStart_key : let t := wReady.taken 0x13 (wFrame wReady 0x13 1 1) 1 [] 0
    t.flag (LSE_STAT_NEXT_HELD 0) = false ∧ 1 % 4 = (t.fld (LSE_STAT_EPOCH 0) + 1) % 4 ∧ t.keyFenced = false ∧
    t.rngUp = true := ⟨rfl, rfl, rfl, rfl⟩

theorem witness_FirmwareAndEraseCommands (op arg : Nat) (h : (op, arg) ∈ [(0x18, 0x1000000), (0x19, 0), (0x19, 1), (0x1B, 2 ^ 46)]) :
    ∃ o, wReady.Starts op (wFrame wReady op 1 arg) 1 [] 0 o := by
  simp only [List.mem_cons, List.not_mem_nil, or_false, Prod.mk.injEq] at h
  rcases h with h | h | h | h <;> obtain ⟨h, k⟩ := h <;> subst h <;> subst k <;>
    exact ⟨_, ⟨wReady_verifies _ _ (by decide), rfl, rfl⟩, rfl, rfl, rfl, fun h => (by cases h), rfl, rfl⟩

theorem witness_FirmwareAndEraseCommands_arm : let t := wReady.taken 0x1B (wFrame wReady 0x1B 1 (2 ^ 46)) 1 [] 0
    2 ^ 46 % 2 ^ 24 = t.serial % 2 ^ 24 ∧ t.rngUp = true ∧ t.activateBad 0 = true ∧ wReady.frameHeard.spA.eraseToken ≠ some 0 := by decide

/-- The flash is attached. -/
def wStage : State := { wReady with media := { wReady.media with luns := [0], fw0 := [2, 3] } }

theorem witness_FirmwareAndEraseCommands_stage :
    ∃ o, wStage.Starts 0x18 (wFrame wStage 0x18 1 0x1000000) 1 [] 0 o ∧
    bitsOf o.arg 24 1 ≠ (wStage.taken 0x18 (wFrame wStage 0x18 1 0x1000000) 1 [] 0).runSlot ∧
    (wStage.taken 0x18 (wFrame wStage 0x18 1 0x1000000) 1 [] 0).slotPlaceable 1 = true :=
  ⟨_, ⟨⟨wFrame_verifies _ _ 1 _ (by decide) (by decide) (by decide) (by decide) (by decide) (by decide) (by decide) (by decide), rfl, rfl⟩, rfl, rfl, rfl, fun h => (by cases h), rfl, rfl⟩, by decide, rfl⟩

/-- The erase is armed over the link with token 7. -/
def wArmed : State := { wReady with spA := { wReady.spA with eraseToken := some 7 } }

theorem witness_FirmwareAndEraseCommands_confirm :
    ∃ o, wArmed.Starts 0x1B (wFrame wArmed 0x1B 1 (2 ^ 47 + 7 * 2 ^ 24)) 1 [] 0 o ∧ bitsOf o.arg 24 16 = 7 ∧
    wArmed.frameHeard.spA.eraseToken = some 7 ∧
    (wArmed.taken 0x1B (wFrame wArmed 0x1B 1 (2 ^ 47 + 7 * 2 ^ 24)) 1 [] 0).ladderUp = true :=
  ⟨_, ⟨⟨wFrame_verifies _ _ 1 _ (by decide) (by decide) (by decide) (by decide) (by decide) (by decide) (by decide) (by decide), rfl, rfl⟩, rfl, rfl, rfl, fun h => (by cases h), rfl, rfl⟩, rfl, rfl, rfl⟩

/-- A good slot 1 under activation, or a floor to reach. -/
def wFirm : State := { wMp with firm := { activating := some 1 }, boot := { wMp.boot with floorTo := some 1 } }

theorem witness_FirmwareAndEraseCommands_end : wFirm.firm.activating = some 1 ∧
    [false, true].find? (fun mp => wFirm.mpIs mp == 2) = some true ∧ wFirm.boot.floorTo = some 1 ∧ wFirm.fwFloor < 1 ∧
    wFirm.ready = true ∧ wFirm.boot.fuse = none ∧ wFirm.boot.waiting = [] ∧ wFirm.keyHolds = false ∧
    wFirm.ladderUp = true ∧ (List.range 128).find? (fun i => !wFirm.floorBits.testBit i) = some 0 ∧
    wFirm.endBurn.boot.floorTo = some 1 ∧ wFirm.endBurn.fwFloor < 1 ∧
    ({ wFirm with boot := { wFirm.boot with fuse := some 0 } } : State).endBurn.boot.floorTo = some 1 := by decide

theorem witness_FirmwareAndEraseCommands_burnt :
    1 ≤ ({ wFirm with boot := { wFirm.boot with fuse := some 0 } } : State).endBurn.fwFloor := by decide

/-- Slot 1 is valid, and MP_B stands by. -/
def wSlot : State := { wReady.setFld (mpState true) 2 with
  mram := [(32516608, 0x4b), (32516611, 0x15), (32516615, 0x01), (32516673, 0x02), (32516800, 0xc4), (32516803, 0x01),
    (32516804, 0x3d), (32516805, 0xf5), (32516806, 0x7c), (32516807, 0x3c)] }
set_option maxRecDepth 100000 in

theorem witness_FirmwareAndEraseCommands_activate :
    ∃ o, wSlot.Starts 0x19 (wFrame wSlot 0x19 1 1) 1 [] 0 o ∧
    (wSlot.taken 0x19 (wFrame wSlot 0x19 1 1) 1 [] 0).activateBad 1 = false :=
  ⟨_, ⟨⟨wFrame_verifies _ _ 1 _ (by decide +kernel) (by decide +kernel) (by decide +kernel) (by decide +kernel) (by decide +kernel) (by decide +kernel) (by decide +kernel) (by decide +kernel), by decide +kernel, by decide +kernel⟩, rfl, rfl, by decide +kernel, fun h => (by cases h), rfl, rfl⟩, by decide +kernel⟩

/-- A command whose unit is whole starts with it, where the command with its unit may run. -/
theorem wUnit_starts (op arg : Nat) (data : List Byte) (l : data.length = 4096)
    (a : wReady.Accepts op (wFrame wReady op 1 arg) 1)
    (b : let t := wReady.taken op (wFrame wReady op 1 arg) 1 [] 0
      t.isCard = true ∧ t.spA.outst = [wOut op arg] ∧ (wOut op arg).held = true ∧ t.keys.heldReq = [] ∧ t.mapS.hurt = [] ∧
      t.unitHeard.unitsSpent 0 (wOut op arg).epoch = false ∧ t.unitHeard.keyAt 0 0 = some wReady.spA.key ∧
      t.injBits (pSP 0) 1 = 0 ∧ (t.injUsed (pSP 0) 1).injBits (pLSE 0) 1 = 0 ∧
      ((wOut op arg).epoch, (wOut op arg).inst, (wOut op arg).tag, (wOut op arg).next, (wOut op arg).fc) = (0, 0, 1, 0, 1))
    (m : ((wReady.taken op (wFrame wReady op 1 arg) 1 [] 0).unitHeard.unitStored (wOut op arg) data true 0 []).MayRun
      (wTaken op arg data)) :
    wReady.StartsWithUnit op (wFrame wReady op 1 arg) 1 (wUnit data) [] (wOut op arg) (wTaken op arg data) := by
  obtain ⟨b1, b2, b3, b4, b5, b6, b7, b8, b9, b10⟩ := b
  have p := wUnit_plain _ _ data l b7 b8 b9 b10
  refine ⟨a, b1, b2, b3, b4, b5, ?_, b6, ?_, b3⟩
  · rw [p]; rfl
  · rw [State.withUnit, p]; exact m

theorem witness_UnitCommandsStart_any (op arg : Nat) (h : (op, arg) ∈ [(0x0D, 0), (0x1A, 0), (0x1A, 1)]) :
    wReady.StartsWithUnit op (wFrame wReady op 1 arg) 1 (wUnit (List.replicate 4096 0)) [] (wOut op arg)
      (wTaken op arg (List.replicate 4096 0)) := by
  simp only [List.mem_cons, List.not_mem_nil, or_false, Prod.mk.injEq] at h
  rcases h with h | h | h <;> obtain ⟨h, k⟩ := h <;> subst h <;> subst k <;>
    exact wUnit_starts _ _ _ List.length_replicate ⟨wReady_verifies _ _ (by decide), rfl, rfl⟩
      ⟨rfl, rfl, rfl, rfl, rfl, rfl, rfl, rfl, rfl, rfl⟩ ⟨rfl, rfl, by decide +kernel, fun h => (by cases h), rfl, rfl⟩

theorem witness_UnitCommandsStart_seal :
    wReady.StartsWithUnit 0x0A (wFrame wReady 0x0A 1 0) 1 (wUnit (List.replicate 4096 0)) [] (wOut 0x0A 0)
      (wTaken 0x0A 0 (List.replicate 4096 0)) :=
  wUnit_starts _ _ _ List.length_replicate ⟨wReady_verifies _ _ (by decide), rfl, rfl⟩
    ⟨rfl, rfl, rfl, rfl, rfl, rfl, rfl, rfl, rfl, rfl⟩ ⟨rfl, rfl, rfl, fun _ => (by decide +kernel), rfl, rfl⟩

/-- An INST_CFG record with an action, a target, class 0 and weight 1. -/
def wRecord (action target : Nat) : List Byte := [BitVec.ofNat 8 action, BitVec.ofNat 8 target, 0, 1] ++ List.replicate 4092 0

theorem witness_UnitCommandsStart_cfg (a n : Nat) (h : (a, n) ∈ [(1, 1), (2, 0), (3, 0), (4, 1), (5, 0)]) :
    wReady.StartsWithUnit 0x14 (wFrame wReady 0x14 1 0) 1 (wUnit (wRecord a n)) [] (wOut 0x14 0)
      (wTaken 0x14 0 (wRecord a n)) ∧ (wTaken 0x14 0 (wRecord a n)).action = a := by
  have l : (wRecord a n).length = 4096 := by rw [wRecord, List.length_append, List.length_replicate]; rfl
  simp only [List.mem_cons, List.not_mem_nil, or_false, Prod.mk.injEq] at h
  rcases h with h | h | h | h | h <;> obtain ⟨h, k⟩ := h <;> subst h <;> subst k <;>
    exact ⟨wUnit_starts _ _ _ l ⟨wReady_verifies _ _ (by decide), rfl, rfl⟩
      ⟨rfl, rfl, rfl, rfl, rfl, rfl, rfl, rfl, rfl, rfl⟩ ⟨rfl, rfl, rfl, fun h => (by cases h), rfl, rfl⟩, rfl⟩

theorem witness_UnitCommandsStart_record : recordClean ([1, 1, 0, 1] ++ List.replicate 40 0) = true ∧
    recordClean ([0, 1, 0, 1] ++ List.replicate 40 0) = false := by decide

/-- A card that waits for the unit of an INST_CFG, or sends the unit of a READ, or settles. -/
def wOwes : State := { wReady with spA := { wReady.spA with outst := [wOut 0x14 0] } }

def wSends : State := { wReady with spA := { wReady.spA with outst := [{ wOut 2 0 with held := false, sending := true }] } }

def wSettles : State := { wReady with spA := { wReady.spA with outst := [{ wOut 7 0 with held := false }] } }

theorem witness_LinkEventCommands : wOwes.cardLink = true ∧ wOwes.owing = some (wOut 0x14 0) ∧
    wOwes.unitHeard.unitsSpent 0 0 = false ∧ (UnitIn.mk []).mask (wOwes.injBits (pSP 0) 1) ≠ 0xFF ∧
    0 + 1 < (((wOwes.injUsed (pSP 0) 1).noteLines 0 0 1).updOut 1 (fun x => { x with fails := x.fails + 1 })).unitTries 0 :=
  ⟨by decide, rfl, rfl, by decide, by decide⟩

theorem witness_LinkEventCommands_good (data : List Byte) (l : data.length = 4096) :
    wOwes.unitPlain (wOut 0x14 0) (wUnit data) = some data := wUnit_plain _ _ _ l rfl rfl rfl rfl

/-- The same card, whose command is of an epoch it holds no key of, with a command of its own epoch completed. -/
def wForged : State := { wReady with spA := { wReady.spA with
  outst := [{ wOut 0x14 0 with epoch := 1 }],
  dedup := [{ inst := 0, tag := 1, fc := 1, op := 0x14, st := 0, info := 0 }] } }

theorem witness_LinkEventCommands_forged : wForged.cardLink = true ∧ wForged.owing = some { wOut 0x14 0 with epoch := 1 } ∧
    (∀ u, u.mask 0 = 0xFF → wForged.unitPlain { wOut 0x14 0 with epoch := 1 } u = none) ∧
    { wForged with spA := { wForged.spA with dedup := [] } }.unitHeard.unitKnown [] [] = false :=
  ⟨by decide, rfl, fun u h => (by simp only [State.unitPlain]; split <;> rfl), rfl⟩

theorem witness_LinkEventCommands_known (data : List Byte) (l : data.length = 4096) :
    (wUnit data).mask (wForged.injBits (pSP 0) 1) = 0xFF ∧ wForged.unitHeard.unitKnown (wUnit data).ct
      ((wForged.injUsed (pSP 0) 1).tagOf 0 (wUnit data)) = true := by
  have p := wUnit_plain wForged (wOut 0x14 0) data l rfl rfl rfl rfl
  have m : (wUnit data).mask (wForged.injBits (pSP 0) 1) = 0xFF := mask_unitLines _
  rw [State.unitPlain, if_pos m] at p
  refine ⟨m, ?_⟩
  have e : (wForged.unitHeard.hostUnit 0 0 1 0 1 (wUnit data).ct ((wForged.injUsed (pSP 0) 1).tagOf 0 (wUnit data))).isSome =
      true := by
    rw [show wForged.unitHeard.hostUnit 0 0 1 0 1 _ _ = some data from p]; rfl
  refine Bool.or_eq_true_iff.mpr (.inr (List.any_eq_true.mpr ⟨_, List.mem_cons_self, List.any_eq_true.mpr ⟨0, ?_, e⟩⟩))
  decide

theorem witness_LinkEventCommands_spent :
    ((((wOwes.setFld (SP_RETRY_CFG_MAX 0) 0).injUsed (pSP 0) 1).noteLines 0 0 1).updOut 1
      (fun x => { x with fails := x.fails + 1 })).unitTries 0 ≤ 0 + 1 := by decide

theorem witness_LinkEventCommands_status : wSends.linkUp 0 = true ∧ wSends.isCard = true ∧
    (wSends.spA.outst.find? (·.sending)).isSome = true ∧ wDockRun.linkUp 0 = true ∧ wDockRun.isCard = false ∧
    wReady.cardLink = true ∧ wReady.spA.outst = [] ∧ wReady.flag (SP_STAT_CLK_STOPPED 0) = false ∧
    wDockRun.dockEngine 0 = true ∧ wDockRun.portIdle 0 = true ∧ wDockRun.flag (SP_CLK_CFG_STOP_EN 0) = true ∧
    (wDockRun.sp 0).sclk = true ∧ wReady.boot.waiting = [] ∧ wReady.boot.fuse = none ∧ wReady.boot.poc = false ∧
    wReady.boot.rstLow = false ∧ wSends.injBits (pSP 0) 2 = 0 ∧ wDockRun.injBits (pSP 0) 2 = 0 :=
  ⟨by decide, rfl, rfl, by decide, rfl, by decide, rfl, by decide, by decide, by decide, by decide, by decide, rfl, rfl, rfl,
    rfl, by decide, by decide⟩

theorem witness_LinkEventCommands_settle : wSettles.isCard = true ∧
    (wSettles.spA.outst.find? (fun o => o.op == 7 && o.tag == 1 && !o.held)).isSome = true ∧
    wSettles.settled { wOut 7 0 with held := false } = true := ⟨rfl, rfl, rfl⟩

/-- A dock in a session whose port A has sent a READ, and one in RETRAIN. -/
def wSent (n : Nat) : State := { wDockRun with spA := { wDockRun.spA with dcmds := [{ op := n, inst := 0, arg := 0, origin := .link, sent := true, tag := 1, fc := 1 }] } }

theorem witness_DockLinkCommands : (wSent 2).dockLink 0 = true ∧ ((wSent 2).frameCheck 0).1 = true ∧
    (((wSent 2).frameCheck 0).2.findSent 0 1).isSome = true ∧ (((wSent 2).frameCheck 0).2.injUsed (pLSE 0) 0).session 0 = true ∧
    (wSent 2).portIdle 0 = false ∧ ((((wSent 2).frameCheck 0).2.injUsed (pSP 0) 1).findSent 0 1).isSome = true ∧
    (((wSent 2).frameCheck 0).2.findSent 0 1).map (fun d => (d.c2h, d.next)) = some (1, 0) := by decide

theorem witness_DockLinkCommands_unit : let v := ((wSent 2).frameCheck 0).2.injUsed (pSP 0) 1
    (UnitIn.mk []).mask (((wSent 2).frameCheck 0).2.injBits (pSP 0) 1) ≠ 0xFF ∧
    0 + 1 < ((v.noteLines 0 0 1).updD 0 0 (fun x => { x with fails := x.fails + 1 })).unitTries 0 :=
  ⟨by decide, by decide +kernel⟩

/-- A unit that the card sends whole and with its tag. -/
theorem witness_DockLinkCommands_whole (key iv ct : List Byte) (l : ct.length = 4096) :
    let v := ((wSent 2).frameCheck 0).2.injUsed (pSP 0) 1
    let u : UnitIn := { lines := unitLines (ct ++ Crypto.gcmTag key iv [] ct) }
    u.mask (((wSent 2).frameCheck 0).2.injBits (pSP 0) 1) = 0xFF ∧ v.tagOf 0 u = Crypto.gcmTag key iv [] u.ct := by
  have c := ct_unitLines ct (Crypto.gcmTag key iv [] ct) l (Crypto.gcmTag_length _ _ _ _)
  have i : (((wSent 2).frameCheck 0).2.injUsed (pSP 0) 1).injBits (pLSE 0) 1 = 0 := rfl
  refine ⟨mask_unitLines _, ?_⟩
  simp only [State.tagOf, i, c.1, c.2]
  simp

theorem witness_DockLinkCommands_rekey : let s := wDockRun.setSp 0 { wDockRun.sp 0 with wantRekey := true }
    s.mayTune 0 = true ∧ (s.sp 0).wantRekey = true ∧ s.flag (LSE_STAT_NEXT_HELD 0) = false ∧ s.keyHolds = false := by decide

/-- An answer whose RMAC is a given one, and so one that verifies and one that does not. -/
theorem witness_DockLinkCommands_good (mac : Nat) (d : DCmd) (st info : Nat) : ∃ r : RespIn, r.tag = d.tag ∧ r.st = st ∧
    r.info = info ∧ r.kind = 0 ∧ r.rseq = 0 ∧ r.rmac = mac :=
  ⟨{ tag := d.tag, st := st, info := info, flags := 0, kind := 0, token := 0, rseq := 0, rmac := mac }, rfl, rfl, rfl, rfl,
    rfl, rfl⟩

theorem witness_DockTuningCommands : let s := (wDockRun.setLink 0 lnkRetrain).setSp 0 { wDockRun.sp 0 with newMode := 1 }
    s.mayTune 0 = true ∧ s.tuneDue 0 = true ∧ s.linkState 0 = lnkRetrain ∧ (s.sp 0).newMode ≠ 0 := by decide

theorem witness_DockTuningCommands_run : let s := (wDockRun.setFld (SP_STAT_MODE 0) 1).setSp 0 { wDockRun.sp 0 with wantRetune := true, wantRetrain := true }
    s.mayTune 0 = true ∧ s.portRun 0 = true ∧ (s.sp 0).wantRetrain = true ∧ (s.sp 0).wantRetune = true ∧
    s.fld (SP_STAT_MODE 0) ≠ 0 := by decide

theorem witness_DockTuningCommands_ctrl : let s := wDockRun.setFlag (SP_STAT_CARD_PRESENT 0) true
    s.isPort 0 = true ∧ s.pageTakes (pSP 0) = true ∧ (s.touchPage (pSP 0)).portRun 0 = true ∧
    (s.touchPage (pSP 0)).isDock = true ∧ (s.touchPage (pSP 0)).up = true ∧
    (s.touchPage (pSP 0)).flag (SP_STAT_CARD_PRESENT 0) = true ∧ (s.touchPage (pSP 0)).absorbs (.link 0) = false ∧
    (s.touchPage (pSP 0)).boot.fuse = none ∧ s.pageTakes (pLSE 0) = true ∧
    (s.touchPage (pLSE 0)).session 0 = true ∧ wReady.isPort 0 = true ∧ wReady.pageTakes (pLSE 0) = true ∧
    (wReady.touchPage (pLSE 0)).session 0 = true ∧ (wReady.touchPage (pLSE 0)).isCard = true := by decide

/-- A dock in READY with PERST_N high and the PCIe link up. -/
def wPcie : State := ({ wDock with pins := { wDock.pins with perstHigh := true } } : State).setFlag PCE_LINK_STAT_DL_ACTIVE true

theorem witness_PcieLinkAndFunctions : wPcie.isDock = true ∧ wPcie.alive = true ∧ wPcie.pins.perstHigh = true ∧
    wPcie.absorbs .perstN = false ∧ wPcie.boot.fuse = none ∧ 1 ≤ wPcie.bootStep ∧ wPcie.boot.poc = false ∧
    wPcie.boot.rstLow = false ∧ wDock.pins.perstHigh = false ∧ wDock.alive = true ∧ 4 ≤ wDock.bootStep ∧ wPcie.islandDown islPCIE = false ∧
    wPcie.fenced (.engine pPCE 1) = false ∧ wPcie.fld PCE_LINK_STAT_LTSSM ≠ 5 ∧ wPcie.configUp = true ∧
    wPcie.fnEnabled 0 = true ∧ bitAt ((wPcie.setFld PCE_FLR_STAT_BUSY 2).fld PCE_FLR_STAT_BUSY) 1 = true ∧
    wPcie.flag PCE_FUNC_STAT_VF_ENABLE = false := by decide

theorem witness_PcieLinkAndFunctions_vf : let s := (wPcie.setFlag PCE_FUNC_STAT_VF_ENABLE true).setFld PCE_FUNC_STAT_ENABLED 7
    s.configUp = true ∧ s.flag PCE_FUNC_STAT_VF_ENABLE = true ∧ s.fnEnabled 2 = true := by decide

/-- That dock with SQ_0 and CQ_0 of the PF enabled, both of 16 slots. -/
def wQueue : State := ((wPcie.setFlag (INS_SQ_CFG_ENABLE 0 0) true).setFlag (INS_CQ_CFG_ENABLE 0 0) true).setFld (INS_CQ_CFG_COAL_TIME 0 0) 1

/-- The same with one entry visible. -/
def wBell : State := wQueue.ringSq 0 0 1

/-- The same with a read of one entry open, `len` bytes of it asked for under tag 7, and tag 9 out of use. -/
def wRead (len : Nat) : State := { wQueue with host := { wQueue.host with
  reads := [{ fn := 0, addr := 0, len := 64, page := 0, use := .sqe 0 0, asked := len, reqs := [⟨7, 0, len⟩] }],
  stale := [9] } }

theorem witness_QueueCommands_read (len : Nat) (h : len = 32 ∨ len = 64) : (wRead len).readTags.contains 7 = true ∧
    (wRead len).readTags.contains 9 = true ∧
    ((wRead len).host.reads.find? (fun r => r.reqs.any (fun q => q.tag == 7))).map (fun r =>
      (r.reqs.find? (fun q => q.tag == 7), r.reqs.filter (fun x => x.tag != 7), decide (r.asked = r.len))) =
      some (some ⟨7, 0, len⟩, [], decide (len = 64)) ∧
    (wRead len).host.reads.find? (fun r => r.reqs.any (fun q => q.tag == 9)) = none ∧ (wRead len).pciUp = true ∧
    bitAt ((wRead len).fnReg 0 36) 4 = false := by
  rcases h with rfl | rfl <;> decide

theorem witness_QueueCommands : wQueue.fnTakes 0 = true ∧ wQueue.flag (INS_SQ_CFG_ENABLE 0 0) = true ∧
    15 < wQueue.sqLen 0 0 ∧ wQueue.sqLen 0 0 ≤ 4095 ∧ wPcie.flag (INS_SQ_CFG_ENABLE 0 0) = false ∧
    wQueue.pciUp = true ∧ wQueue.fld (INS_CQ_CFG_COAL_TIME 0 0) ≠ 0 ∧
    assocGet ({ wQueue with host := { wQueue.host with coal := [(0, 1)] } } : State).host.coal 0 ≠ 0 := by decide

theorem witness_QueueCommands_fetch : wBell.sqServes 0 0 = true ∧
    min (min wBell.burst (wBell.sqVisible 0 0 - wBell.sqAhead 0 0)) (wBell.cqFree 0 (wBell.sqCq 0 0)) ≠ 0 := by decide

/-- The same with a command of one quantum waiting in SQ_0. -/
def wGrant : State := { wQueue with host := { wQueue.host with cmds := [{ inst := 0, sq := 0, cid := 0, op := 0x02, portSel := 0, arg := 0, dptr0 := 0, dptr1 := 0, ord := 0 }] } }

theorem witness_QosAndInvalidationCommands : wGrant.pciUp = true ∧ wGrant.up = true ∧ wGrant.powerState < 2 ∧
    wGrant.pageServes pQOS = true ∧ wQueue.dockPage pQOS = true ∧ wQueue.flag (PG_LOCK_LOCK pQOS) = false ∧
    wQueue.isDock = true ∧ wQueue.dockPage pITU = true ∧ (wQueue.touchPage pITU).host.inval = none := by decide

theorem witness_QosAndInvalidationCommands_grant :
    let t := (List.range 16).foldl (fun (t : State) n => t.noteHeld n) wGrant
    (State.decideGrant t.qosArbiter t).1 = some 0 ∧ (t.qosNext 0).isSome = true := by decide +kernel

theorem witness_QosAndInvalidationCommands_none :
    let t := (List.range 16).foldl (fun (t : State) n => t.noteHeld n) wQueue
    (State.decideGrant t.qosArbiter t).1 = none := by decide +kernel

theorem witness_QosAndInvalidationCommands_done : let s := wQueue.invalWrite 256
    s.host.inval.isSome = true ∧ s.host.reads = [] := by decide

/-- A dock in READY with MP_A ACTIVE, port A in RUN with a card, and one command of the host accepted. -/
def wHost (op arg : Nat) : State :=
  ((({ wDockRun with host := { wDockRun.host with cmds := [{ inst := 0, sq := 0, cid := 0, op := op, portSel := 0, arg := arg, dptr0 := 0, dptr1 := 0, ord := 0, grants := 1 }] } }.setFlag (SP_STAT_CARD_PRESENT 0) true).setFld
    (mpState false) 3)).setFld MPC_LEASE_VALID_VALID (2 ^ 32 - 1)

theorem witness_HostDataCommands (op : Nat) (h : op ∈ [2, 5, 7]) : ((wHost op 0).freshCmd 0 0 0).map (fun c => (c.loaded, c.op)) = some (true, op) ∧
    ((wHost op 0).freshCmd 0 0 0).map (fun c => (c.recs, c.fail.isSome, c.portSel)) = some ([], false, 0) ∧
    (wHost op 0).bridged = false ∧ (wHost op 0).portBar ((wHost op 0).portOf 0) = none ∧ (wHost op 0).portRun 0 = true ∧
    ((wHost op 0).freshCmd 0 0 0).map (fun c => ((wHost op 0).writeAhead c, (wHost op 0).onePort c)) = some (false, some 0) := by
  simp only [List.mem_cons, List.not_mem_nil, or_false] at h
  rcases h with rfl | rfl | rfl <;> decide

theorem witness_HostDataCommands_bar : (wHost 2 0).portBar 1 = some (0x50, 5) ∧ dockCompletes 7 = false ∧
    isWriteOp 5 = true ∧ [0, 1].filter (fun p => (wHost 7 0).portRun p && !((wHost 7 0).sp p).drained) = [0] ∧
    ((wHost 7 0).setFld BRG_MODE_MODE 1).brgMode = 1 ∧ ((wHost 2 0).setFld BRG_MODE_MODE 1).bridged = true := by decide

/-- The first command of a dock, with bridge records, or with a buffer that could not be read. -/
def wRecs (op : Nat) (recs : List Nat) (fail : Option (Nat × Nat × Nat)) : State :=
  { wHost op 0 with host := { (wHost op 0).host with cmds := (wHost op 0).host.cmds.map (fun c => { c with recs := recs, fail := fail }) } }

theorem witness_HostDataCommands_recs :
    ((wRecs 5 [1] none).freshCmd 0 0 0).map (fun c => (c.loaded, c.recs)) = some (true, [1]) ∧
    ((wRecs 5 [1] none).freshCmd 0 0 0).map (fun c => (wRecs 5 [1] none).writeAhead c) = some false ∧
    ((wRecs 7 [] (some (0, 0x51, 0))).freshCmd 0 0 0).map (fun c => (c.loaded, c.fail)) = some (true, some (0, 0x51, 0)) ∧
    (({ wHost 7 0 with brg := { (wHost 7 0).brg with } } : State).setFld BRG_MODE_MODE 2 |>.setFlag BRG_STAT_NO_ACTIVE true).brgMode = 2 := by decide

theorem witness_HostDataCommands_parity : let s := ((wRecs 5 [1] none).setFld BRG_MODE_MODE 1).fault 113 0 0 false
    s.modeParity = true ∧ s.bridged = true ∧ (s.freshCmd 0 0 0).map (fun c => (c.loaded, isWriteOp c.op, s.writeAhead c)) =
      some (true, true, false) := by decide

theorem witness_HostDockCommands : ((wHost 0 0).freshCmd 0 0 0).map (·.op) = some 0 ∧
    ((wHost 6 0).freshCmd 0 0 0).map (fun c => (c.op, (wHost 6 0).allEarlierDone c false)) = some (6, true) ∧
    (wHost 0x30 3).mpServes = true ∧ ((wHost 0x30 3).freshCmd 0 0 0).map (fun c => (c.op, (wHost 0x30 3).allEarlierDone c true)) = some (0x30, true) ∧
    ((wHost 0x31 0).freshCmd 0 0 0).map (·.op) = some 0x31 ∧ ((wHost 0x31 0).sp 0).drainCmd.isNone = true ∧
    ((wHost 0x31 4).freshCmd 0 0 0).map (fun c => bitAt c.arg 2) = some true := by decide

theorem witness_HostDockCommands_refused : (({ wDockRun with host := { wDockRun.host with cmds := [{ inst := 0, sq := 0, cid := 0, op := 0x7F, portSel := 0, arg := 0, dptr0 := 0, dptr1 := 0, ord := 0 }] } } : State).host.cmds.find? (fun c => c.inst == 0 && c.sq == 0 &&
      c.cid % 65536 == 0 % 65536 && c.opRefused && c.done.isNone)).isSome = true := by decide

theorem witness_InstanceQuiesceCommands :
    ((wHost 0x32 0).quiesceCmd 0 0 0).map (·.badQuiesce) = some true ∧
    ((wHost 0x32 (0x30 + 1)).quiesceCmd 0 0 1).map (·.badQuiesce) = some true ∧
    ((wHost 0x32 0x21).quiesceCmd 0 0 2).map (·.badQuiesce) = some false ∧
    ((wHost 0x32 0x01).quiesceCmd 0 0 0).map (·.badQuiesce) = some false ∧
    ((wHost 0x32 0x11).quiesceCmd 0 0 1).map (·.badQuiesce) = some false ∧
    (wHost 0x32 0x11).fld (INS_STATE_STATE 1) ≠ 2 ∧
    ((wHost 0x32 0x11).setFld (INS_STATE_STATE 1) 2).fld (INS_STATE_STATE 1) = 2 := by decide

theorem witness_InstanceQuiesceCommands_done : let s := wDockRun.setFld (INS_STATE_STATE 1) 1
    let r := wDockRun.setFld (INS_STATE_STATE 1) 3
    s.isDock = true ∧ s.instIdle 1 = true ∧ s.fld (INS_STATE_STATE 1) = 1 ∧ r.instIdle 1 = true ∧
    r.fld (INS_STATE_STATE 1) = 3 ∧ r.host.reclaims = [] := by decide

/-- A dock in MIRROR, port A in RUN, track 0 in use for the card that is in port B. -/
def wTrack (bits : List (Nat × Nat)) : State :=
  let s := ((wDockRun.setLink 1 lnkRun).setFld BRG_MODE_MODE 1).setFlag BRG_RESYNC_CFG_EN true
  let s := (s.setFlag (SP_CLK_CFG_STOP_EN 1) true).setFlag (SP_STAT_CLK_STOPPED 1) false
  s.setTrack 0 { s.track 0 with inUse := true, bits := bits, serial := 5 }

theorem witness_BridgeControlCommands : wDock.dockPage pBRG = true ∧ ((wDock.setFld BRG_MODE_MODE 2).touchPage pBRG).brgMode = 2 ∧
    (wTrack []).dockPage pBRG = true ∧ (wTrack []).brgMode = 1 ∧ (wTrack []).flag BRG_RESYNC_CFG_EN = true ∧
    (wTrack [(0, 1)]).brg.copying.isNone = true ∧ ((wTrack [(0, 1)]).track 0).bits ≠ [] ∧ (wTrack []).brg.copying.isNone = true ∧ ((wTrack []).track 0).inUse = true ∧ (wTrack []).safe = false ∧
    ((wTrack []).track 0).bits = [] := by decide

theorem witness_BridgeControlCommands_port : (let s : State := { wDockRun with brg := { wDockRun.brg with replayHold := true, busy := [(0, 1)] } }
    (s.portRun 0, s.brg.replayHold, s.isDock, s.brg.busy.any (fun e => e.1 == 0))) = (true, true, true, true) := by decide

theorem witness_BridgeControlCommands_chunk : let s := (wTrack [(0, 1)]).setTrack 0 { (wTrack [(0, 1)]).track 0 with serial := 7 }
    let s : State := { s with brg := { s.brg with serials := [0, 7] } }
    s.trackPort 0 = some 1 ∧ s.copyRegion 0 = some 0 ∧ s.sourceReady 0 0 0 = true ∧ s.copyMay = true ∧ s.brgMode = 1 ∧ s.safe = false ∧
    s.dockPage pBRG = true ∧ s.flag BRG_RESYNC_CFG_EN = true ∧ (s.track 0).inUse = true := by decide +kernel

theorem witness_DockFirmwareCommands : wDock.dockPage pBRG = true ∧ (wDock.touchPage pBRG).otherSlot < 2 ∧
    (wDock.touchPage pBRG).runSlot < 2 ∧ (wDock.touchPage pBRG).runSlot ≠ (wDock.touchPage pBRG).otherSlot ∧
    (wDock.touchPage pBRG).fld BRG_DFW_ADDR_WORD + 1 < 2 ^ 18 ∧ (wDock.touchPage pBRG).firm.activating.isNone = true ∧
    (wDock.touchPage pBRG).activateBad 0 = true := by decide

/-- A dock that stages the slot not running. -/
def wStaging : State := { wDock with firm := { wDock.firm with staging := some 0 } }

theorem witness_DockFirmwareCommands_data : wStaging.dockPage pBRG = true ∧ (wStaging.touchPage pBRG).firm.staging = some 0 := by decide

theorem witness_KeyAndLockControls : let t := wDock.touchPage pKEY
    wDock.pageTakes pKEY = true ∧ wDock.isDock = true ∧ t.ladderUp = true ∧ t.flag TMP_STAT_LATCHED = false ∧
    t.safe = false ∧ t.keyHolds = false ∧ t.rngUp = true ∧ wCard.pageTakes pLCK = true := by decide

theorem witness_KeyAndLockControls_lock :
    ((wCard.writeTwoM (lockAddr 1) (lockAddr 1 + 64) 1 [0, 0, 0, 0, 0, 0]).touchPage pLCK).lockSet 1 = true := by
  decide +kernel

/-- A state with one record, of one discarded unit. -/
def wRec (s : State) (served : Bool) : State := { s with lnd := { s.lnd with recs := [{ seq := 1, line := 0, lap := 0, kind := 2, inst := 0, cnt := 0, addr := 0, ports := 1, donePorts := 1, committed := true, programmed := true, segDone := true, mapDsn := if served then some 0 else none }] } }

theorem witness_RecordCommands : ((wRec wCard false).findRec 1).isSome = true ∧ (wRec wCard false).placing = true ∧
    (wRec wCard false).enginesServe = true ∧ ((wRec wCard false).findRec 1).map (fun r => ((wRec wCard false).inTurn r, r.committed, r.loc)) = some (true, true, none) ∧
    (wRec wCard false).ready = true ∧
    ((wRec wDock false).findRec 1).map State.bridgeServed = some true ∧ (wRec wDock false).ready = true := by decide

theorem witness_RecordCommands_release : ((wRec wCard true).findRec 1).map (fun r => (wRec wCard true).releasable r) = some true := by decide

/-- A card in READY that has been up for 100 s, with keys, a node that changed, a dirty map page and an anchor that moved. -/
def wBehind : State := { wCard with uptime := 100000000, keys := { wCard.keys with trk := [1] }, tree := { wCard.tree with dirty := [0] }, mapS := { wCard.mapS with cache := [{ page := 3, isDir := false, oldest := some 1 }] }, lnd := { wCard.lnd with ancMoved := true } }

theorem witness_RecordCommands_behind : wBehind.up = true ∧ wBehind.lnd.ancMoved = true ∧
    wBehind.lnd.ancTime.toNat + 100000 ≤ wBehind.uptime.toNat ∧ wBehind.ready = true ∧ wBehind.isCard = true ∧
    wBehind.safe = false ∧ wBehind.coreRuns = true ∧ wBehind.pageServes pMAP = true ∧ wBehind.oldestDirty.isSome = true ∧
    wBehind.wbDue = true ∧ wBehind.ckptDue = true ∧
    wBehind.ckptMay = true ∧ wBehind.tree.dirty ≠ [] ∧ wBehind.pageTakes pTRE = true ∧
    (wBehind.touchPage pTRE).ckptMay = true := by decide

/-- A card in READY with superblocks 4 and 6 of data, the second worn far more. -/
def wSbs (reads next : Nat) (scan : Bool) : State :=
  ({ wCard with media := { wCard.media with table := [(4, { state := 2, reads := [reads] }), (6, { state := 2, erases := 5000 })], scanning := scan, scanNext := next, refresh := [4] } } : State).setFlag MED_WEAR_CFG_MOVE_EN true

theorem witness_MediaUpkeepCommands : wCard.placing = true ∧ wCard.ready = true ∧ wCard.isCard = true ∧ wCard.safe = false ∧
    wCard.pageServes pPAR = true ∧ wCard.pageTakes pMED = true ∧ wCard.up = true ∧ (wSbs 0 0 true).moving = true ∧
    (wSbs 0 0 true).flag MED_WEAR_CFG_MOVE_EN = true ∧ (wSbs 0 0 true).media.moving = [] := by decide

theorem witness_MediaUpkeepCommands_wear : let s := wSbs 0 0 true
    min 2000 (max 50 (s.fld MED_WEAR_CFG_SPREAD_LIMIT)) < s.eraseRange.2 - s.eraseRange.1 ∧
    lowestOf s.dataSbs (fun k => (s.entry k).erases) = some 4 ∧ s.freeCount 0 ≤ max 1 (s.fld MED_RECLAIM_CFG_START) ∧
    (lowestOf (s.dataSbs.filter (fun k => sbHalf k == 0 && !s.media.moving.any (fun x => x.1 == k)))
        (fun k => (s.currentUnits k).length)).isSome = true := by decide

theorem witness_MediaUpkeepCommands_refresh : (wSbs 0 0 true).findSb 4 = none ∧ ((wSbs 0 0 true).entry 4).state = 2 ∧
    (wSbs 0 0 true).readsOf 4 < (wSbs 0 0 true).refreshLimit ∧ (wSbs 0 0 true).media.refresh.contains 4 = true ∧
    (wSbs 1000000 0 true).refreshLimit ≤ (wSbs 1000000 0 true).readsOf 4 := by decide

theorem witness_MediaUpkeepCommands_open : let s : State := { wCard with media := { wCard.media with
      sbs := [{ set := 0, half := 0, b := 1, first := 0, state := 1, forMove := false, fill := [] }] } }
    (s.findSb (sbIndex 0 1 0)).map (·.state) = some 1 := by decide

theorem witness_MediaUpkeepCommands_scan : (wSbs 0 0 true).flag MED_SCAN_CFG_EN = true ∧ (wSbs 0 0 true).media.scanning = true ∧
    (wSbs 0 0 true).dataSbs.find? (fun k => (wSbs 0 0 true).media.scanNext ≤ k) = some 4 ∧
    (wSbs 0 9 true).dataSbs.find? (fun k => (wSbs 0 9 true).media.scanNext ≤ k) = none ∧
    ((wSbs 0 0 true).dataSbs.filter (fun k => k < (wSbs 0 0 true).media.scanNext)).length = 0 ∧
    (wSbs 0 0 true).dataSbs.length = 2 ∧ (0 : Nat) * 5 < 1 * 2 ∧
    (wSbs 0 9 true).dataSbs.length ≤ ((wSbs 0 9 true).dataSbs.filter (fun k => k < (wSbs 0 9 true).media.scanNext)).length := by
  decide

theorem witness_FlashAndStoreUpkeep : wCard.isCard = true ∧ wCard.alive = true ∧ wCard.coreRuns = true ∧ wCard.safe = false ∧
    wCard.fenced (.channel 0) = false ∧ wCard.pageTakes pMED = true ∧ wCard.up = true ∧
    wCard.flag LND_SCRUB_CFG_EN = true ∧ wCard.powerState < 3 ∧ wCard.flag CLK_PLL_STAT_RELOCKING = false ∧
    ({ wCard with uptime := 10000000 } : State).life.last.toNat + 10000000 ≤ ({ wCard with uptime := 10000000 } : State).uptime.toNat := by decide

theorem witness_FlashAndStoreUpkeep_lun : let s : State := { wCard with media := { wCard.media with luns := [3], ops := [{ lun := 3, kind := 1, block := 2, page := 0, sb := 0, issued := true }] } }
    (s.media.ops.find? (fun o => o.lun == 3 && o.issued)).isSome = true ∧ s.media.luns.contains 3 = true ∧
    s.media.retiring.isNone = true ∧ s.isCard = true ∧ s.pageTakes pMED = true := by decide

/-! ## The spec's own examples -/

def asciiDigits : List Byte := [0x31, 0x32, 0x33, 0x34, 0x35, 0x36, 0x37, 0x38, 0x39]

/-- R175: the check value of CRC-7 over "123456789". -/
theorem test_crc7_check_value : Crypto.crc7 (Crypto.bitsBE asciiDigits) = 0x75 := by decide +kernel

/-- R122: the check value of CRC-16. -/
theorem test_crc16_check_value : Crypto.crc16 asciiDigits = 0x29B1 := by decide +kernel

/-- R264: the check value of CRC-32. -/
theorem test_crc32_check_value : Crypto.crc32 asciiDigits = 0x0376E6E7 := by decide +kernel

/-- R122: a STATUS request with SEQ 01. -/
theorem test_status_request : cnFrame 0x02 0x01 [] = [0x02, 0x01, 0x00, 0x91, 0xCD] := by decide +kernel

/-- The worked case of "Spantoen transactions": the command frame. -/
theorem test_command_frame : cmdFrame 0x03 ⟨1, 0x17, 0x2A400000, 1, 0x5CE193⟩ = 0x10C45C0000A90000015CE19371 := by decide +kernel

/-- The same case: its response frame. -/
theorem test_response_frame : respFrame 0x17 0 0 0 = 0x05C00000006B := by decide +kernel

/-- The same case: the IVs of the command MAC, of the unit and of the response MAC. -/
theorem test_link_ivs : natBE (linkIv 1 1 1 1 0x17 0 0x42A17) = 0x711700000000000000042A17 ∧
    natBE (linkIv 1 1 0 1 0x17 0 0x42A17) = 0x611700000000000000042A17 ∧
    natBE (linkIv 1 0 1 1 0x17 0 0x429F3) = 0x5117000000000000000429F3 := by decide +kernel

/-- The same case: the card takes TAG 17 above H 42A16, the dock RSEQ F3 above HR 429F2. -/
theorem test_frame_counters : fcNear 0x42A16 0x17 = some 0x42A17 ∧ rspNear 0x429F2 0xF3 = 0x429F3 := by decide +kernel

def exampleRecord : JRec := { seq := 0x317C05, line := 0x12F00, lap := 0x213, kind := 1, inst := 1, cnt := 0, addr := 0x2A400 }

/-- The worked case of "The landing store": words 0 to 2 of the header, and where header and commit line lie. -/
theorem test_record_header : (headerWords exampleRecord 66).take 3 = [0xA518400000000213, 0x0000000000317C05, 0x100000000002A400] ∧
    64 * exampleRecord.line = 0x004BC000 ∧ 64 * State.reset.commitLine exampleRecord = 0x004BD040 := by decide +kernel

/-- The same case: the upper half of the commit line's word 0. -/
theorem test_commit_word : (commitWords exampleRecord 0).map (· / 2 ^ 32) = [0x5A7C0513, 0] := by decide +kernel

/-- The worked case of "Keys and integrity": the media IV and the associated data. -/
theorem test_media_iv : natBE (userIv 1 0x2A400 2) = 0x100002A40000000000000002 ∧
    userAad 1 1 2 0x3A400 = [0x01, 0x01, 0, 0, 0, 0, 0, 0, 0x02, 0, 0, 0x03, 0xA4, 0] := by decide +kernel

/-- The worked case of "Translation": LUN, block pair, page and codeword of an entry, and the half of its unit. -/
theorem test_map_entry : entryLun 0x4A38A922 = 37 ∧ entryPair 384 0x4A38A922 = 2417 ∧ entryPage 384 0x4A38A922 = 200 ∧
    entryCw 0x4A38A922 = 2 ∧ unitHalf 238592 = 0 := by decide +kernel

/-- The worked case of "The Counlet": TCK of the answer to reset. -/
theorem test_answer_check : ([0x9F, 0x96, 0x0E, 0x19, 0xB1, 0x5E, 0x11, 0x0C, 0x3A, 0x00, 0x00, 0x1F, 0x27, 0x24, 0x3F, 0x4C, 0x0C,
    0x02] : List Byte).foldl (· ^^^ ·) 0 = 0xB7 := by decide +kernel

/-- The same case: H1 to H10 of a card with that serial. -/
theorem test_card_parameters : (({ wCard with shadow := [(4, 0x5E110C3A00001F27)] } : State).cps 0 0).take 10 =
    [0x19, 0xB1, 0x5E, 0x11, 0x0C, 0x3A, 0x00, 0x00, 0x1F, 0x27] := by decide +kernel

/-- The worked case of "The fault collector": a die's timeout. -/
def exampleFault : State := match exec (.faultDetected 17 37 0x12E220C9 false)
    { (wCard.setFld FLT_HIST_HEAD_NEXT_SEQ 0x31).setFld FLT_HIST_HEAD_INDEX 1 with uptime := 0x024B3C7D10 } with
  | .next t => t
  | _ => State.reset

/-- The same case: the four words of entry 1. -/
theorem test_history_entry : (exampleFault.reg 0x05810).toNat = 0x4B3C7D10 ∧ (exampleFault.reg 0x05814).toNat = 0x10251102 ∧
    (exampleFault.reg 0x05818).toNat = 0x12E220C9 ∧ (exampleFault.reg 0x0581C).toNat = 0x00310000 := by decide +kernel

/-- The worked case of "Register pages": the record of a translation fault of INST_02, and the head after it. -/
def exampleEvent : State := ({ (wDock.setFld EVT_RING_HEAD_INDEX 0x13).setFld EVT_RING_HEAD_NEXT_SEQ 0x153 with
    uptime := 974937864 } : State).fireI EV_ITU_XLAT_FAULT 2 0x0042 0x00020135

theorem test_event_record : (exampleEvent.reg 0x04530).toNat = 0x015312EC ∧ (exampleEvent.reg 0x04534).toNat = 0x3A1C5F08 ∧
    (exampleEvent.regRead 0x04048).1 = 0x01540014 := by decide +kernel

/-- The worked case of "Islands and power": HOST_A, LSE and CMD gated, HOST_B and PCIE off. -/
theorem test_island_states : (((wCard.setReg 0x02044 0x22002000).regRead 0x02044).1) = 0x22002111 := by decide +kernel

/-- FIPS 197, the AES-256 example. -/
theorem test_aes256 : natBE (Crypto.aes256 ((List.range 32).map (BitVec.ofNat 8)) ((List.range 16).map (fun i => BitVec.ofNat 8 (0x11 * i)))) =
    0x8EA2B7CA516745BFEAFC49904B496089 := by decide +kernel

/-- FIPS 180-4, the one-block example "abc". -/
theorem test_sha256 : natBE (Crypto.sha256 [0x61, 0x62, 0x63]) =
    0xBA7816BF8F01CFEA414140DE5DAE2223B00361A396177A9CB410FF61F20015AD := by decide +kernel

/-- The GCM specification's first AES-256 case: the tag of nothing under a zero key and IV. -/
theorem test_gcm_tag : natBE (Crypto.gcmTag (List.replicate 32 0) (List.replicate 12 0) [] []) =
    0x530F8AFBC74536B9A963B4F1C4CB738B := by decide +kernel

/-! ## Well-formed and ill-formed commands -/

def wfCmd : Cmd := { inst := 15, tag := 255, arg := 2 ^ 48 - 1, epoch := 3, mac := 2 ^ 24 - 1 }
def wfUnit : UnitIn := { lines := List.replicate 8 ⟨false, List.replicate 514 0, 65535, true⟩ }
def wfResp : RespIn := { tag := 255, st := 255, info := 65535, flags := 63, kind := 3, token := 255, rseq := 255, rmac := 2 ^ 24 - 1 }
def wfFrames : List Nat := List.replicate 8 (2 ^ 258 - 1)
def wfSweep : Sweep := { rd := List.replicate 64 wfFrames, wr := List.replicate 64 65535, finalInfo := 65535 }

theorem test_wf_frame : (Instr.spRead wfCmd []).wf = true ∧ (Instr.spRead { wfCmd with inst := 16 } []).wf = false ∧
    (Instr.spRead { wfCmd with tag := 256 } []).wf = false ∧ (Instr.spRead { wfCmd with arg := 2 ^ 48 } []).wf = false ∧
    (Instr.spRead { wfCmd with epoch := 4 } []).wf = false ∧ (Instr.spRead { wfCmd with mac := 2 ^ 24 } []).wf = false := by
  decide

def badCmd : Cmd := { wfCmd with inst := 16 }
def badUnit : UnitIn := { lines := [] }
def badResp : RespIn := { wfResp with tag := 256 }
def badSweep : Sweep := { wfSweep with rd := [] }
def badMedia : MediaRead := { ladder := 4 }
def badTorn : TornLine := ⟨0, [], 256⟩
def badCut : CutBlock := ⟨128, []⟩

theorem test_wf_parts : wfCmd.wf = true ∧ wfUnit.wf = true ∧ wfResp.wf = true ∧ wfSweep.wf = true ∧ framesOk wfFrames = true ∧
    MediaRead.wf {} = true ∧ TornLine.wf ⟨0, List.replicate 8 (2 ^ 64 - 1), 255⟩ = true ∧ CutBlock.wf ⟨127, [4095]⟩ = true ∧
    Path.wf (.vf 15) = true ∧ Path.wf (.cfg 15 (.aerHeader 3)) = true ∧ LunIn.wf ⟨true, true, [3]⟩ = true ∧
    accessOk (2 ^ 20 - 8) 8 = true := by
  decide +kernel

theorem test_ill_formed_parts : badUnit.wf = false ∧ UnitIn.wf ⟨List.replicate 8 ⟨false, [], 0, true⟩⟩ = false ∧
    UnitIn.wf ⟨List.replicate 8 ⟨false, List.replicate 514 0, 65536, true⟩⟩ = false ∧
    ({ wfResp with st := 256 } : RespIn).wf = false ∧ ({ wfResp with info := 65536 } : RespIn).wf = false ∧
    ({ wfResp with flags := 64 } : RespIn).wf = false ∧ ({ wfResp with kind := 4 } : RespIn).wf = false ∧
    ({ wfResp with token := 256 } : RespIn).wf = false ∧ ({ wfResp with rseq := 256 } : RespIn).wf = false ∧
    ({ wfResp with rmac := 2 ^ 24 } : RespIn).wf = false ∧ ({ wfSweep with wr := [] } : Sweep).wf = false ∧
    ({ wfSweep with rd := List.replicate 64 [] } : Sweep).wf = false ∧ framesOk (List.replicate 8 (2 ^ 258)) = false ∧
    ({ wfSweep with wr := List.replicate 64 65536 } : Sweep).wf = false ∧
    ({ wfSweep with finalInfo := 65536 } : Sweep).wf = false ∧ MediaRead.wf { other := some ([], List.replicate 32 0) } = false ∧
    MediaRead.wf { other := some (List.replicate 4096 0, []) } = false ∧ TornLine.wf ⟨0, List.replicate 9 0, 0⟩ = false ∧
    TornLine.wf ⟨0, [2 ^ 64], 0⟩ = false ∧ badTorn.wf = false ∧ badCut.wf = false ∧ CutBlock.wf ⟨0, [4096]⟩ = false ∧
    Path.wf (.vf 16) = false ∧ Path.wf (.vf 0) = false ∧ Path.wf (.cfg 16 .ids) = false ∧
    Path.wf (.cfg 0 (.aerHeader 4)) = false ∧ LunIn.wf ⟨true, true, [4]⟩ = false ∧ offOk (2 ^ 20) = false ∧
    accessOk 0 3 = false ∧ accessOk 2 4 = false ∧ accessOk (2 ^ 20) 1 = false := by
  decide +kernel

/-- Ill-formed commands: each breaks one check of its arm. -/
def illFormed1 : List Instr := [
  .supplyLoss [] (some badTorn) [], .supplyLoss [] none [badCut], .bringupStepDone { luns := [⟨true, true, [4]⟩] },
  .chipRst 65536 [] false, .bridgeTimeout 21 0, .bridgeTimeout 0 21, .islandResetDone 21,
  .islandIdleGate 21 false, .blkRstReq 256, .blockResetDone 256, .pgCtrlEnable 256 false, .quiesceReq 256 false,
  .blockQuiesced 256, .fenceReq 256 false, .pgLock 256, .evtPendClear 256 0, .evtPendClear 0 (2 ^ 32),
  .evtMaskWrite 256 0, .evtMaskWrite 0 (2 ^ 32), .evtSet 256 0, .evtSet 0 (2 ^ 32), .injArm 256 0, .injArm 0 65536,
  .injArmExpiry 256, .injCtrl 256 0, .injCtrl 0 (2 ^ 32), .ringTail (2 ^ 16), .ringClr 65536, .uptimeLoRead (.vf 0) 0 4, .uptimeLoRead .pf 0 3,
  .gpioEdge 16, .registerWrite (.vf 0) 0 0 0, .registerWrite .pf 2 0 0, .registerWrite .pf 0 (2 ^ 64) 0,
  .registerWrite .pf 0 0 256, .i2cWrite [256], .jtagInstruction 16 [], .leaseExpiry 32 0, .mpSelfCheckDone false false 4,
  .faultDetected 128 0 0 false, .faultDetected 0 0 (2 ^ 32) false, .fenceActionDone 128 false, .lullExpiry 128,
  .fltClearSource 65536 0, .fltClearSource 0 128, .fltClearAll 65536, .tamperLoopWord (2 ^ 32) [],
  .tamperAck 256 [] false, .tamperAck 0 (List.replicate 255 0) false, .tmpCtrlClear (2 ^ 32) false, .spDoze badCmd,
  .pwrCtrlDoze (2 ^ 32), .dozeWake 0, .dozeWake 5, .ppsRequest 256 0 0, .ppsRequest 0 256 0, .ppsRequest 0 0 256,
  .charWaitTimeout 2 0 0]

theorem test_ill_formed_1 : illFormed1.all (fun c => !c.wf) = true := by decide +kernel

/-- Ill-formed commands: each breaks one check of its arm. -/
def illFormed2 : List Instr := [
  .charWaitTimeout 0 256 0, .charWaitTimeout 0 0 256, .counletBadFrame 2 0 0 0 0 [], .counletBadFrame 0 16 0 0 0 [],
  .counletBadFrame 0 0 65536 0 0 [], .counletBadFrame 0 0 0 256 0 [], .counletBadFrame 0 0 0 0 256 [], .counletRepeatedRequest 256 0,
  .counletRepeatedRequest 0 256, .counletIdent 256, .counletStatus 256, .counletHealth 256, .histRead 256 0 0,
  .histRead 0 256 0, .histRead 0 0 256, .counletLockSet 256 0 0 [] [], .counletLockSet 0 256 0 [] [],
  .counletLockSet 0 0 256 [] [], .counletLockSet 0 0 0 (List.replicate 252 0) [], .counletUnlock 256 0 [],
  .counletUnlock 0 256 [], .counletUnlock 0 0 (List.replicate 254 0), .forceEraseArm 256 0,
  .forceEraseArm 0 (2 ^ 64), .forceEraseConfirm 256 0 0, .forceEraseConfirm 0 (2 ^ 32) 0,
  .forceEraseConfirm 0 0 (2 ^ 64), .pairBeginProve 256 0 (List.replicate 16 0),
  .pairBeginProve 0 256 (List.replicate 16 0), .pairBeginProve 0 0 [], .pairBeginEnrol 256 0 0 (List.replicate 16 0),
  .pairBeginEnrol 0 256 0 (List.replicate 16 0), .pairBeginEnrol 0 0 256 (List.replicate 16 0),
  .pairBeginEnrol 0 0 0 [], .pairProofProve 256 (List.replicate 32 0), .pairProofProve 0 [],
  .pairProofEnrol 256 (List.replicate 32 0), .pairProofEnrol 0 [], .pairDrop 256 0, .pairDrop 0 256,
  .counletRegRd 256 0, .counletRegRd 0 (2 ^ 32), .fwSlotWrite 256 0 0 [], .fwSlotWrite 0 256 0 [],
  .fwSlotWrite 0 0 (2 ^ 24) [], .fwSlotWrite 0 0 0 (List.replicate 252 0), .counletLinkReset 256, .cardInsertion 2,
  .insDelayExpiry 2, .atrReceived 2 [], .atrTimeout 2, .linkupRetryExpiry 2, .dockCounletResponse 2 0 0 [],
  .dockCounletResponse 0 256 0 [], .dockCounletResponse 0 0 256 [], .dockCounletResponse 0 0 0 (List.replicate 256 0)]

theorem test_ill_formed_2 : illFormed2.all (fun c => !c.wf) = true := by decide +kernel

/-- Ill-formed commands: each breaks one check of its arm. -/
def illFormed3 : List Instr := [
  .mbxGo 2 0 0, .mbxGo 0 256 0, .mbxGo 0 0 256, .mbxResponse 2 0 0 [], .mbxResponse 0 256 0 [],
  .mbxResponse 0 0 256 [], .mbxResponse 0 0 0 (List.replicate 256 0), .mbxRespTimeout 2, .cnRestart 2, .enrolReq 2 0,
  .enrolReq 0 2, .holdReset 2 false, .cardRemoval 2 0, .relinkExpiry 2, .linkResetDetect 2 false, .spantoenBadFrame 2,
  .spantoenUnknownOp 256 wfCmd, .spantoenUnknownOp 0 badCmd, .duplicateFc 256 wfCmd, .duplicateFc 0 badCmd,
  .spPing badCmd, .spIdentify badCmd, .spRead badCmd [], .spRead wfCmd [badMedia], .spWrite badCmd,
  .hostUnitReceived badUnit false 0 [], .hostUnitReceived wfUnit false 0 [badMedia], .spDiscard badCmd true,
  .spBarrier badCmd, .spSettle badCmd, .settleComplete 256, .segOpen badCmd, .segClose badCmd,
  .segVerify badCmd wfUnit [], .segVerify wfCmd badUnit [], .segVerify wfCmd wfUnit [badMedia], .regRd badCmd,
  .regWr badCmd wfUnit, .regWr wfCmd badUnit, .tuneRd badCmd, .tuneWr badCmd wfFrames, .tuneWr wfCmd [], .speedSet badCmd,
  .linkKey badCmd, .instCfgCreate badCmd wfUnit, .instCfgCreate wfCmd badUnit, .instCfgResize badCmd wfUnit,
  .instCfgResize wfCmd badUnit, .instCfgSched badCmd wfUnit, .instCfgSched wfCmd badUnit,
  .instCfgDelete badCmd wfUnit, .instCfgDelete wfCmd badUnit, .instCfgReclaim badCmd wfUnit,
  .instCfgReclaim wfCmd badUnit, .spHealth badCmd]

theorem test_ill_formed_3 : illFormed3.all (fun c => !c.wf) = true := by decide +kernel

/-- Ill-formed commands: each breaks one check of its arm. -/
def illFormed4 : List Instr := [
  .logRead badCmd, .fwStage badCmd, .fwActivate badCmd, .lockCtlLockSet badCmd wfUnit, .lockCtlLockSet wfCmd badUnit,
  .lockCtlUnlock badCmd wfUnit, .lockCtlUnlock wfCmd badUnit, .spantoenForceEraseArm badCmd,
  .spantoenForceEraseConfirm badCmd, .statusFrameReceived 2 false 0 0, .statusFrameReceived 0 false 256 0,
  .statusFrameReceived 0 false 0 256, .tokenWaitExpiry 2, .dockRetrain 2 wfSweep, .dockRetrain 0 badSweep,
  .responseReceived 2 wfResp, .responseReceived 0 badResp, .cardUnitReceived 2 0 0 wfUnit,
  .cardUnitReceived 0 256 0 wfUnit, .cardUnitReceived 0 0 4096 wfUnit, .cardUnitReceived 0 0 0 badUnit,
  .pingInterval 2, .responseTimeout 2, .sclkStop 2, .autoRetune 2 wfSweep, .autoRetune 0 badSweep,
  .tunePort 2 0 wfSweep, .tunePort 0 4 wfSweep, .tunePort 0 0 badSweep, .autoRekey 2, .retrain 2, .linkReset 2,
  .retune 2, .rekey 2, .endSession 2, .pcieLinkChange 4 0 false 0, .pcieLinkChange 0 4 false 0,
  .pcieLinkChange 0 0 false 8, .pceFlr 16, .vfEnable false 65536 false, .sqDoorbell 16 0 0, .sqDoorbell 0 4 0,
  .sqDoorbell 0 0 (2 ^ 32), .cqDoorbell 16 0 0, .cqDoorbell 0 2 0, .cqDoorbell 0 0 (2 ^ 32), .sqFetch 16 0,
  .sqFetch 0 4, .dockWrite 16 0 0, .dockWrite 0 4 0, .dockWrite 0 0 65536, .dockRead 16 0 0, .dockRead 0 4 0,
  .dockRead 0 0 65536, .dockForwardCommand 16 0 0]

theorem test_ill_formed_4 : illFormed4.all (fun c => !c.wf) = true := by decide +kernel

/-- Ill-formed commands: each breaks one check of its arm. -/
def illFormed5 : List Instr := [
  .dockForwardCommand 0 4 0, .dockForwardCommand 0 0 65536, .dockPing 16 0 0, .dockPing 0 4 0, .dockPing 0 0 65536,
  .dockBarrier 16 0 0, .dockBarrier 0 4 0, .dockBarrier 0 0 65536, .dockOpcodeRefused 16 0 0,
  .dockOpcodeRefused 0 4 0, .dockOpcodeRefused 0 0 65536, .cqCoalesceTimer 16 0, .cqCoalesceTimer 0 2,
  .bridgeBusyResend 2, .brgMode 4 0, .brgMode 0 65536, .portDrain 4 0, .portDrain 0 65536, .portDrainResume 4 0,
  .portDrainResume 0 65536, .instQuiesceQuiesce 4 0, .instQuiesceQuiesce 0 65536, .instQuiesceResume 4 0,
  .instQuiesceResume 0 65536, .instQuiesceReclaim 4 0, .instQuiesceReclaim 0 65536, .instanceQuiesced 16,
  .invalGo (2 ^ 32), .qosSchedWrite 16 0, .qosSchedWrite 0 (2 ^ 32), .brgSwitch 65536, .resumeCarry 65536,
  .dropBlocked 65536, .dropTrack 65536 0, .dropTrack 0 2, .resyncChunk 2, .bridgeReplayDelivery 2, .dfwBegin 65536 0,
  .dfwBegin 0 2, .dfwData (2 ^ 32), .dfwEnd 65536, .dfwActivate 65536 0, .dfwActivate 0 2, .pairGen 65536,
  .pairImport 65536, .relock 65536 0, .relock 0 256, .retireGo 128, .recordPlacement 0 (2 ^ 32),
  .flashChannelGrant 8 0, .flashChannelGrant 0 32, .flashOpComplete 128 false, .mapWriteback (2 ^ 32),
  .pagePadTimer 2, .superblockVerify (2 ^ 29)]

theorem test_ill_formed_5 : illFormed5.all (fun c => !c.wf) = true := by decide +kernel

/-- Ill-formed commands: each breaks one check of its arm. -/
def illFormed6 : List Instr := [
  .medReclaim 2, .readRefresh (2 ^ 29), .retentionScan [badMedia], .dieTimeout 128 false false (0, 0), .lullWindowEnd 128, .flrDone 16]

theorem test_ill_formed_6 : illFormed6.all (fun c => !c.wf) = true := by decide +kernel

end
end

section
/-! PROOFS. The header of a page, as a register read shows it (R93–R95). -/

namespace Sys2Proof.Machine

/-! ## The map of the pages -/

/-- Past the last INS page every page is reserved (R94). -/
theorem pageCode_eq_none_of_le {p : Nat} (hp : 0x50 ≤ p) : pageCode p = none := by
  unfold pageCode
  split
  case h_30 => rw [if_neg (by omega), if_neg (by omega)]  -- neither a channel's page nor an instance's
  all_goals omega

theorem lt_of_pageCode_isSome {p : Nat} (hc : (pageCode p).isSome = true) : p < 0x50 := by
  refine Nat.lt_of_not_le fun hle => ?_
  simp only [pageCode_eq_none_of_le hle, Option.isSome_none, Bool.false_eq_true] at hc

theorem pageVer_of_pageCode_isSome {p : Nat} (hc : (pageCode p).isSome = true) : pageVer p = 0x1B0 :=
  if_pos hc

/-! ## What a read returns -/

/-- The value that a read returns is the word at its offset, whether or not the read latches a high word (R90). -/
theorem State.regRead_fst (s : State) (off : Nat) :
    (s.regRead off).1 = s.regWord (off % 1048576 / 4 * 4) := by
  simp only [State.regRead]
  split <;> rfl

/-- PG_VER reads the same whatever the state: on a present page, an absent one, one that does not answer (R95, R97)
and a reserved one, where `pageVer` is zero. -/
theorem State.regWord_pgVer (s : State) {p : Nat} (hp : p < 256) : s.regWord (4096 * p + 0x004) = pageVer p := by
  have hpage : (4096 * p + 0x004) / 4096 % 256 = p := by omega
  have hoff : (4096 * p + 0x004) % 4096 / 4 * 4 = 0x004 := by omega
  have hpgId : (0x004 : Nat) ≠ 0x00 := by decide
  cases hc : pageCode p with
  | none =>
    simp only [State.regWord, pageVer, hpage, hc, Option.isNone_none, Option.isSome_none, Bool.false_eq_true, if_true,
      if_false]
  | some c =>
    simp only [State.regWord, hpage, hoff, hc, Option.isNone_some, Bool.false_eq_true, if_false, if_neg hpgId, if_true]

theorem State.regRead_pgVer (s : State) {p : Nat} (hp : p < 256) :
    (s.regRead (4096 * p + 0x004)).1 = pageVer p := by
  have hword : (4096 * p + 0x004) % 1048576 / 4 * 4 = 4096 * p + 0x004 := by omega
  rw [State.regRead_fst, hword, State.regWord_pgVer s hp]

/-! ## PG_VER of the pages of the map -/

/-- Settles O15: a read of PG_VER returns `pageVer` of the page in every state, and that is 0000_01B0 on each page of
the map. -/
theorem everyPageSaysB0 : Obligations.EveryPageSaysB0 := by
  unfold Obligations.EveryPageSaysB0
  intro s p hc
  have hp : p < 256 := Nat.lt_trans (lt_of_pageCode_isSome hc) (by decide)
  have hver : (s.regRead (4096 * p + 0x004)).1 = 0x1B0 :=
    (s.regRead_pgVer hp).trans (pageVer_of_pageCode_isSome hc)
  rw [hver]
  decide

end Sys2Proof.Machine
end

section
/-! PROOFS. Where the resets of the chip start bring-up (R8, R48, R68, R69, R72). -/

namespace Sys2Proof.Machine

/-! ## What a stop of the MRAM leaves alone -/

/-- `t` differs from `s` at most in the cells of the MRAM, the state of its words, the tracks of the resync log and the
requests that wait. -/
def State.MovesCells (s t : State) : Prop :=
  t = { s with mram := t.mram, ecc := t.ecc, brg := t.brg, mq := t.mq }

theorem State.MovesCells.refl (s : State) : s.MovesCells s := rfl

theorem State.MovesCells.trans {s t u : State} (h : s.MovesCells t) (k : t.MovesCells u) : s.MovesCells u := by
  unfold State.MovesCells at *
  rw [k, h]

theorem State.movesCells_putTrackWord (s : State) (w v : Nat) : s.MovesCells (s.putTrackWord w v) := by
  unfold State.putTrackWord State.setTrack
  split <;> rfl

theorem State.movesCells_putCell (s : State) (w v e : Nat) : s.MovesCells (s.putCell w v e) := by
  unfold State.putCell
  split
  · have hecc : s.MovesCells { s with ecc := Sparse.set eccClean s.ecc w e } := rfl
    exact hecc.trans (State.movesCells_putTrackWord _ w v)
  · rfl

/-- A fold of changes of cells is one. -/
theorem State.movesCells_foldl {α : Type} {f : State → α → State} (h : ∀ t x, State.MovesCells t (f t x)) (l : List α) :
    ∀ s : State, s.MovesCells (l.foldl f s) := by
  induction l with
  | nil => exact State.MovesCells.refl
  | cons x l ih => exact fun s => (h s x).trans (ih (f s x))

theorem State.movesCells_undoReq (s : State) (q : MramReq) : s.MovesCells (s.undoReq q) := by
  unfold State.undoReq
  exact State.movesCells_foldl (fun t _ => State.movesCells_putCell t _ _ _) q.old s

theorem State.movesCells_tearReq (s : State) (q : MramReq) (x : TornLine) : s.MovesCells (s.tearReq q x) := by
  unfold State.tearReq
  exact (State.movesCells_foldl (fun t _ => State.movesCells_putCell t _ _ _) q.old s).trans rfl

theorem State.movesCells_mramStop (s : State) (order : List Nat) (torn : Option TornLine) :
    s.MovesCells (s.mramStop order torn) := by
  unfold State.mramStop
  refine State.MovesCells.trans (State.movesCells_foldl (fun t i => ?_) _ s) rfl
  split
  · exact State.MovesCells.refl t
  · split
    · exact State.movesCells_tearReq t _ _
    · exact State.movesCells_undoReq t _

@[simp] theorem State.boot_mramStop (s : State) (order : List Nat) (torn : Option TornLine) :
    (s.mramStop order torn).boot = s.boot :=
  (congrArg State.boot (State.movesCells_mramStop s order torn)).trans rfl

@[simp] theorem State.regs_mramStop (s : State) (order : List Nat) (torn : Option TornLine) :
    (s.mramStop order torn).regs = s.regs :=
  (congrArg State.regs (State.movesCells_mramStop s order torn)).trans rfl

@[simp] theorem State.fld_mramStop (s : State) (order : List Nat) (torn : Option TornLine) (f : Fld) :
    (s.mramStop order torn).fld f = s.fld f := by
  simp only [State.fld, State.reg, State.regs_mramStop]

@[simp] theorem State.bootStep_mramStop (s : State) (order : List Nat) (torn : Option TornLine) :
    (s.mramStop order torn).bootStep = s.bootStep := State.fld_mramStop s order torn _

@[simp] theorem State.safe_mramStop (s : State) (order : List Nat) (torn : Option TornLine) :
    (s.mramStop order torn).safe = s.safe := by
  simp only [State.safe, State.flag, State.fld_mramStop]

/-! ## Asking for a reset of the chip -/

/-- With nothing in progress and nothing waiting, the reset takes effect at once (R72). -/
theorem State.askReset_at_once (s : State) (k : ResetKind) (hw : s.boot.waiting = []) (hf : s.boot.fuse = none) :
    s.askReset k false = s.takeReset k false := by
  simp [State.askReset, State.absorbs, State.defers, hw, hf]

/-- With a pulse or a burn in progress and nothing waiting, the reset is the one that waits (R72). -/
theorem State.askReset_waits (s : State) (k : ResetKind) (pulse : Bool) (hw : s.boot.waiting = [])
    (hp : pulse = true ∨ s.boot.fuse.isSome = true) :
    s.askReset k pulse = { s with boot := { s.boot with waiting := [k] } } := by
  have hd : s.defers pulse = true := by rcases hp with h | h <;> simp [State.defers, h]
  simp [State.askReset, State.absorbs, State.await, hw, hd]

/-! ## The commands -/

/-- The power-on clear ends with RST_N high. -/
theorem execPowerOnClearRelease_starts (s : State) (hp : s.boot.poc = true) (hl : s.boot.rstLow = false) :
    execPowerOnClearRelease s = .next ((s.startChip true s.pins.strap).askAtr) := by
  simp [execPowerOnClearRelease, hp, hl]

/-- The power-on clear ends with RST_N low. -/
theorem execPowerOnClearRelease_holds (s : State) (hp : s.boot.poc = true) (hl : s.boot.rstLow = true) :
    execPowerOnClearRelease s = .next (s.holdChip true) := by
  simp [execPowerOnClearRelease, hp, hl]

/-- A low pulse of RST_N that is honoured for its length stops the MRAM and asks for the reset. -/
theorem execRstNLow_long (ns : Nat) (served : List Nat) (pulse : Bool) (s : State) (hn : 500 ≤ ns)
    (hp : s.boot.poc = false) (hl : s.boot.rstLow = false) :
    execRstNLow ns served pulse s = .next ((({ s with boot := { s.boot with rstLow := true } } : State).mramStop served
      none).askReset .rstN pulse) := by
  have hb : ¬ ns < 500 := by omega
  simp [execRstNLow, hn, hb, hp, hl]

/-- A glitch of RST_N has no effect. -/
theorem execRstNLow_short (ns : Nat) (served : List Nat) (pulse : Bool) (s : State) (hn : ns < 200) :
    execRstNLow ns served pulse s = .next s := by
  have hb : ¬ 200 ≤ ns := by omega
  have hh : ¬ 500 ≤ ns := by omega
  simp [execRstNLow, hb, hh]

/-- RST_N rises after a reset that was not the power-on clear's, with none waiting. -/
theorem execRstNRelease_starts (s : State) (hl : s.boot.rstLow = true) (hp : s.boot.poc = false)
    (hf : s.boot.fromPoc = false) (hw : s.chipWaits = false) :
    execRstNRelease s = .next (({ s with boot := { s.boot with rstLow := false } } : State).startChip false
      s.pins.strap) := by
  unfold State.chipWaits at hw
  simp [execRstNRelease, State.chipWaits, hl, hp, hf, hw]

/-- The state in which what waited takes effect, after a deferral of `d` × 10 ns, the longest so far, that no burn ends. -/
def State.longestDeferral (s : State) (d : Nat) : State :=
  { (s.setFld RST_DEFER_MAX_LONGEST d).setFlag RST_DEFER_MAX_BY_FUSE false with
    boot := { s.boot with waiting := [] } }

/-- A deferral ends outside the safe state with no burn, and is the longest so far: the first reset of the chip that
waits takes effect, and with none each narrower one. -/
theorem execResetDeferEnd_longest (tenNs : Nat) (s : State) (hw : s.boot.waiting ≠ []) (hs : s.safe = false)
    (hf : s.boot.fuse = none) (hm : s.fld RST_DEFER_MAX_LONGEST < min 1200 tenNs) :
    (∀ k, s.boot.waiting.find? ResetKind.chip = some k →
      execResetDeferEnd tenNs s = .next ((s.longestDeferral (min 1200 tenNs)).takeReset k true)) ∧
    (s.boot.waiting.find? ResetKind.chip = none →
      execResetDeferEnd tenNs s = .next (s.boot.waiting.foldl State.narrowReset (s.longestDeferral (min 1200 tenNs)))) := by
  have hburn : s.endBurn = s := by simp [State.endBurn, hf]
  have hbyFuse : s.boot.fuse.isSome = false := by rw [hf]; rfl
  have hmay : s.boot.waiting.filter (fun k => !s.safe || k == .rstN || !k.chip) = s.boot.waiting := by simp [hs]
  refine ⟨fun k hk => ?_, fun hk => ?_⟩
  all_goals
    simp only [execResetDeferEnd, List.isEmpty_iff, hw, hburn, hbyFuse, hmay, hm, hk, if_false, if_true] <;> rfl

/-- CHIP_RST with its key stops the MRAM and asks for the reset. -/
theorem execChipRst_key (key : Nat) (served : List Nat) (pulse : Bool) (s : State) (hb : 1 ≤ s.bootStep)
    (hp : s.boot.poc = false) (hl : s.boot.rstLow = false) (hs : s.safe = false) (hk : key % 65536 = 0xD1E5) :
    execChipRst key served pulse s = .next ((s.mramStop served none).askReset .chipSw pulse) := by
  simp [execChipRst, State.chipReset, hk, hb, hp, hl, hs]

/-- CHIP_RST with another key does nothing (R69). -/
theorem execChipRst_other (key : Nat) (served : List Nat) (pulse : Bool) (s : State) (hk : key % 65536 ≠ 0xD1E5) :
    execChipRst key served pulse s = .next s := by
  simp [execChipRst, State.chipReset, hk]

/-- The watchdog that is due stops the MRAM and asks for the reset. -/
theorem execMpWatchdogExpiry_due (served : List Nat) (pulse : Bool) (s : State) (h : s.wdogDue = true) :
    execMpWatchdogExpiry served pulse s = .next ((s.mramStop served none).askReset .mpWdog pulse) := by
  rw [execMpWatchdogExpiry, if_pos h]

/-- Settles O20: each command comes down to `startChip`, `holdChip` or `askReset`, and with nothing waiting `askReset`
is the reset itself or its place in the queue. -/
theorem resetsStartBringUp : Obligations.ResetsStartBringUp := by
  unfold Obligations.ResetsStartBringUp
  refine ⟨fun s hp => ⟨fun hl => execPowerOnClearRelease_starts s hp hl, fun hl => execPowerOnClearRelease_holds s hp hl⟩,
    ?_, fun ns served pulse s hn => execRstNLow_short ns served pulse s hn,
    fun s hl hp hf hw => execRstNRelease_starts s hl hp hf hw,
    fun tenNs s hw hs hf hm => execResetDeferEnd_longest tenNs s hw hs hf hm, ?_,
    fun key served pulse s hk => execChipRst_other key served pulse s hk, ?_⟩
  · intro ns served s hn hp hl hw t
    have hwt : t.boot.waiting = [] := by simp [t, hw]
    have hft : t.boot.fuse = s.boot.fuse := by simp [t]
    have ask (pulse : Bool) : exec (.rstNLow ns served pulse) s = .next (t.askReset .rstN pulse) :=
      execRstNLow_long ns served pulse s hn hp hl
    refine ⟨fun hf => ?_, ?_, fun hf => ?_⟩
    · rw [ask, State.askReset_at_once t _ hwt (hft.trans hf)]
    · rw [ask, State.askReset_waits t _ _ hwt (.inl rfl)]
    · rw [ask, State.askReset_waits t _ _ hwt (.inr (hft ▸ hf))]
  · intro key served s hb hp hl hs hw hf hk
    refine (execChipRst_key key served false s hb hp hl hs hk).trans ?_
    rw [State.askReset_at_once _ _ (by simpa using hw) (by simpa using hf)]
  · intro served s hu hs he hm hc hw hf
    have due : s.wdogDue = true := by simp [State.wdogDue, State.wdogPeriod, hu, hs, he, hm, hc]
    refine (execMpWatchdogExpiry_due served false s due).trans ?_
    rw [State.askReset_at_once _ _ (by simpa using hw) (by simpa using hf)]

end Sys2Proof.Machine
end

section
/-! PROOFS. Bridges between islands: what a timeout raises and what the end of an island's reset does (R12, R13, R415). -/

namespace Sys2Proof.Machine

/-! ## A bridge that times out -/

/-- The FLT source of the group an island belongs to (R408). -/
def groupFault (i : Nat) : Nat :=
  if i = islMP then 121 else if 17 ≤ i then 120 else if 13 ≤ i then 119 else if 9 ≤ i then 118
  else if 6 ≤ i then 117 else 116

/-- A bridge toward or from a PARKED island does not time out (R425). -/
theorem execBridgeTimeout_parked (w f : Nat) (s : State) (h : s.parked w = true ∨ s.parked f = true) :
    execBridgeTimeout w f s = .next s := by
  unfold execBridgeTimeout
  exact if_pos (by simp [h])

/-- A bridge between two running islands, neither of them PARKED, raises FLT_127 where FLT is one of them, and otherwise
the fault of the far island's group, or of the waiting one's toward AON; nothing is injected. -/
theorem execBridgeTimeout_raises (w f : Nat) (s : State) (hb : s.bootStep ≠ 0) (hrw : islandRuns s.role w = true)
    (hrf : islandRuns s.role f = true) (hne : w ≠ f) (hpw : s.parked w = false) (hpf : s.parked f = false)
    (hi : s.injects pCLK f = false) :
    execBridgeTimeout w f s =
      if w = islFLT ∨ f = islFLT then .next (s.faultFull 127 0 (w + 256 * f) false)
      else .next (s.faultFull (groupFault (if f = islAON then w else f)) (if f = islAON then w else f)
        (w + 256 * (if f = islAON then w else f)) false) := by
  simp only [execBridgeTimeout, groupFault, hb, hrw, hrf, hne, hpw, hpf, hi, Bool.and_false, Bool.not_true,
    Bool.false_eq_true, or_false, if_false]

/-! ## The end of an island's reset -/

/-- An island that is down comes back, where nothing holds its reset: no burn, no safe state, no reset of the chip. -/
theorem execIslandResetDone_reconnects (i : Nat) (s : State) (hd : s.islandDown i = true) (hi : i < 21)
    (hs : s.safe = false) (hf : s.boot.fuse = none) (hw : s.chipWaits = false) :
    execIslandResetDone i s = .next
      (((((s.resetIsland i).setFlag (bitFld rCLK_BRIDGE_DISC.off i) false).fireD EV_CLK_BRIDGE_RECONN
        (s.fld CLK_LAST_BRIDGE_WAITING + 256 * i) 0).fireD EV_CLK_ISLAND_RST_DONE i 0).keyResume) := by
  unfold execIslandResetDone
  exact if_pos (by simp [hd, hi, hs, hf, hw])

/-- Settles O23: what a timeout raises is split by the place of FLT and AON on the bridge. -/
theorem islandFences : Obligations.IslandFences := by
  unfold Obligations.IslandFences
  refine ⟨?_, fun w f s h => execBridgeTimeout_parked w f s h,
    fun i s hd hi hs hf hw => execIslandResetDone_reconnects i s hd hi hs hf hw⟩
  intro w f s hb hrw hrf hne hpw hpf hi
  have raises := execBridgeTimeout_raises w f s hb hrw hrf hne hpw hpf hi
  refine ⟨fun hflt => ?_, fun hw hf haon => ?_, fun hw haon => ?_⟩
  · rw [if_pos hflt] at raises
    exact raises
  · rw [if_neg (not_or.mpr ⟨hw, hf⟩), if_neg haon] at raises
    exact raises
  · have hf : f ≠ islFLT := by rw [haon]; decide
    rw [if_neg (not_or.mpr ⟨hw, hf⟩), if_pos haon] at raises
    exact raises

end Sys2Proof.Machine
end

section
/-! PROOFS. The data commands that a card starts at once (R15, R16, R226, R277, R301, R393, R396). -/

namespace Sys2Proof.Machine

/-! ## What a command keeps of its frame -/

/-- A command that starts has no end of its data phase waiting. -/
theorem State.starts_cut {s : State} {op : Nat} {c : Cmd} {fc : Nat} {env : List MediaRead} {aux : Nat} {o : Outst}
    (hop : op ≠ 0) (h : s.Starts op c fc env aux o) : o.cut = none := by
  obtain ⟨x, f, rfl⟩ := State.starts_out s op c fc env aux o hop h
  rfl

/-- A DISCARD that starts keeps whether the read-back of its commit line will fail. -/
theorem State.starts_failAt {s : State} {c : Cmd} {fc aux : Nat} {env : List MediaRead} {o : Outst}
    (h : s.Starts 0x05 c fc env aux o) : o.failAt = if aux = 0 then none else some 0 := by
  have hout := h.2.2.1
  simp only [State.taken, State.accept, Nat.reduceEqDiff, if_false, true_and] at hout
  have hlast := congrArg List.getLast? hout
  simp only [List.getLast?_append, List.getLast?_singleton, Option.some_or, Option.some.injEq] at hlast
  rw [← hlast]
  by_cases ha : aux = 0 <;> simp [ha, outOf]

/-! ## What a command begins with -/

/-- What a data command that nothing bars begins with, by its operation; SEG_VERIFY and the others as they start. -/
def State.dataBegins (s : State) (op : Nat) (o : Outst) : State :=
  match op with
  | 0x02 => s.startRead o
  | 0x03 => s.startWrite o
  | 0x05 => s.startDiscard o
  | 0x06 => s.startBarrier o
  | 0x07 => s.startSettle o
  | 0x08 => s.startSegOpen o
  | 0x09 => s.startSegClose o
  | _ => s.startOne o

theorem State.startOne_dataBegins (s : State) (o : Outst)
    (hbar : (if dataOp o.op then s.dataBars o else none) = none) : s.startOne o = s.dataBegins o.op o := by
  unfold State.dataBegins
  split
  case h_8 => rfl
  all_goals
    next hop =>
      rw [hop] at hbar
      simp only [State.startOne, hop, hbar]

/-- A READ whose units all read sends them with what had to be corrected. -/
theorem State.startRead_reads (s : State) (o : Outst)
    (h : (s.readUnits o.inst (argAddr o.arg) (argCnt o.arg + 1) o.env).2.2.1 = none) :
    let r := s.readUnits o.inst (argAddr o.arg) (argCnt o.arg + 1) o.env
    s.startRead o = r.2.2.2.sendAll o r.1 (if r.2.1 = 0 then 0x00 else 0x01) r.2.1 := by
  simp only [State.startRead, h]

/-- A READ one of whose units fails sends those before it with the status of the failure. -/
theorem State.startRead_fails (s : State) (o : Outst) (st : Nat)
    (h : (s.readUnits o.inst (argAddr o.arg) (argCnt o.arg + 1) o.env).2.2.1 = some st) :
    let r := s.readUnits o.inst (argAddr o.arg) (argCnt o.arg + 1) o.env
    s.startRead o = r.2.2.2.sendAll o r.1 st (if st = 0x42 then 0 else r.1.length) := by
  simp only [State.startRead, h]

/-- A WRITE that nothing refuses reserves the records of all its units, and commits those that have arrived. -/
theorem State.startWrite_reserves (s : State) (o : Outst) (hcut : o.cut = none) (hn : argCnt o.arg + 1 ≤ 1024)
    (hf : s.writeFenced = false) (hr : s.noRoom = false) (hfit : s.fits 1 (argCnt o.arg + 1) = true) :
    let n := argCnt o.arg + 1
    let u := s.noteHigh (s.allocWrites 1 o.inst (argAddr o.arg) 0 (s.globalUnit o.inst (argAddr o.arg)) n)
    let seqs := (u.lnd.recs.drop (u.lnd.recs.length - n)).map (·.seq)
    s.startWrite o = (u.updOut o.fc (fun x => { x with held := false, seqs := seqs })).commitUnits o.fc n := by
  simp only [State.startWrite, hcut, Nat.not_lt.mpr hn, hf, hr, hfit, Option.isSome_none, Bool.not_true,
    Bool.false_eq_true, if_false]

/-- A DISCARD that nothing refuses commits its range record, and answers by what the read-back gives. -/
theorem State.startDiscard_commits (s : State) (o : Outst) (r : JRec) (hf : s.writeFenced = false)
    (hr : s.noRoom = false) (hfit : s.fits 2 1 = true) :
    let u := s.noteHigh (s.allocRecord 2 o.inst (argCnt o.arg) (argAddr o.arg) 0
      (s.globalUnit o.inst (argAddr o.arg)))
    u.lnd.recs.getLast? = some r →
      let v := (u.commitRec r []).injUsed pLND 1
      s.startDiscard o = if o.failAt = some 0 || u.injects pLND 1 then v.readbackFails o r (u.injects pLND 1)
        else (v.segJoin r.seq).done o 0x00 0 := by
  intro u hlast v
  simp only [State.startDiscard, hf, hr, hfit, Bool.not_true, Bool.false_eq_true, if_false]
  rw [hlast]

/-- SEG_OPEN opens a segment where the seal key stands and none is open already. -/
theorem State.startSegOpen_opens (s : State) (o : Outst) (hk : s.keys.slk ≠ []) (hs : s.segOf o.inst = none) :
    s.startSegOpen o = (s.openSegment o.inst (argAddr o.arg)).done o 0x00 0 := by
  simp only [State.startSegOpen, hk, hs, Option.isSome_none, Bool.false_eq_true, if_false]

/-- SEG_CLOSE that gives a seal sends it. -/
theorem State.startSegClose_seals (s : State) (o : Outst) (u : List Byte) (hk : s.keys.slk ≠ [])
    (hu : (s.closeSegment o.inst (argAddr o.arg)).2.1 = some u) :
    let r := s.closeSegment o.inst (argAddr o.arg)
    s.startSegClose o = (r.2.2.sendAll o [u] r.1 0).updOut o.fc (fun x => { x with unit := some u }) := by
  simp only [State.startSegClose, hk, hu, if_false]

/-- SEG_CLOSE that gives no seal answers with its status. -/
theorem State.startSegClose_refuses (s : State) (o : Outst) (hk : s.keys.slk ≠ [])
    (hu : (s.closeSegment o.inst (argAddr o.arg)).2.1 = none) :
    let r := s.closeSegment o.inst (argAddr o.arg)
    s.startSegClose o = r.2.2.done o r.1 0 := by
  simp only [State.startSegClose, hk, hu, if_false]

/-! ## The commands -/

/-- A frame that starts its data command leaves what the command begins with on the card that has accepted it, and the
card goes on. -/
theorem State.frameIn_dataBegins {s t : State} {op : Nat} {c : Cmd} {fc : Nat} {env : List MediaRead} {aux : Nat}
    {o : Outst} (hop : dataOp op = true) (h : s.Starts op c fc env aux o)
    (hbegins : (s.taken op c fc env aux).dataBegins op o = t) :
    (Host.Outcome.next (s.frameIn op c env aux) : Result) = .next t.goesOn := by
  have hne : op ≠ 0 := by rintro rfl; exact absurd hop (by decide)
  have hlt : op < 64 := by simp [dataOp] at hop; omega
  obtain ⟨hoo, hbar⟩ := State.starts_op s op c fc env aux o hne h
  rw [State.frameIn_starts s op c fc env aux o hlt h, State.startOne_dataBegins _ o hbar, hoo, hbegins]

/-- Settles O40: each frame runs its command's beginning on the card that accepted it, and the beginning's own lemma
says what that does. -/
theorem dataCommandsStart : Obligations.DataCommandsStart := by
  unfold Obligations.DataCommandsStart
  refine ⟨fun c fc env s o h => ⟨fun hr => ?_, fun st hr => ?_⟩, fun c fc s o => ⟨?_, ?_, ?_, ?_, ?_, ?_⟩⟩
  · exact State.frameIn_dataBegins rfl h (State.startRead_reads _ o hr)
  · exact State.frameIn_dataBegins rfl h (State.startRead_fails _ o st hr)
  · intro h t n hn hf hr hfit u seqs
    have hcut := State.starts_cut (by decide) h
    exact State.frameIn_dataBegins rfl h (State.startWrite_reserves t o hcut hn hf hr hfit)
  · intro readback h t hf hr hfit u r hlast v
    have hback : decide (o.failAt = some 0) = !readback := by
      rw [State.starts_failAt h]
      cases readback <;> rfl
    refine State.frameIn_dataBegins rfl h ((State.startDiscard_commits t o r hf hr hfit hlast).trans ?_)
    rw [hback]
    cases readback <;> cases u.injects pLND 1 <;> rfl
  · exact fun h => State.frameIn_dataBegins rfl h rfl
  · exact fun h => State.frameIn_dataBegins rfl h rfl
  · intro h t hk hs
    exact State.frameIn_dataBegins rfl h (State.startSegOpen_opens t o hk hs)
  · intro h t hk r
    refine ⟨fun u hu => ?_, fun hu => ?_⟩
    · exact State.frameIn_dataBegins rfl h (State.startSegClose_seals t o u hk hu)
    · exact State.frameIn_dataBegins rfl h (State.startSegClose_refuses t o hk hu)

end Sys2Proof.Machine
end

section
/-! PROOFS. Where a queue of commands ends (logs 2 and 3): the run of its steps, with nothing done unsaid. -/

namespace Sys2Proof.Machine

/-! ## What comes after a state whose queue is another -/

/-- What comes later does not depend on the commands that wait. -/
theorem State.Later.withPending {s t : State} (h : s.Later t) (l : List Instr) :
    ({ s with pending := l } : State).Later { t with pending := l } :=
  ⟨h.regs, h.mram, h.ecc, h.otp, h.fuses, h.low, rfl, h.draws, h.sent⟩

/-- What comes after a state in order is in order, and keeps the fuses that were burned (R342, R343). -/
theorem State.Later.ok_keepsFuses {s t : State} (h : s.Later t) (hs : s.Ok) : t.Ok ∧ s.KeepsFuses t := by
  obtain ⟨hregs, hmram, hecc, hotp⟩ := hs
  exact ⟨⟨h.regs hregs, h.mram hmram, h.ecc hecc, h.otp hotp⟩, h.fuses hotp⟩

/-! ## The run -/

/-- A run whose first step goes on to `u` is the run from `u`. -/
theorem run_succ_of_step (M : Host.Core) {s u : M.State} (n : Nat) (h : M.step s = .next u) :
    M.run (n + 1) s = M.run n u := by
  rw [Host.Core.run, h]

/-- As many steps as commands wait reach a state with none waiting, and it comes after the first. -/
theorem run_length_pending (n : Nat) : ∀ s : State, s.pending.length = n →
    ∃ t : State, Sys2Proof.core.run n s = .next t ∧ ({ s with pending := [] } : State).Later t := by
  induction n with
  | zero =>
    intro s hn
    have hempty : s.pending = [] := List.length_eq_zero_iff.mp hn
    have hsame : ({ s with pending := [] } : State) = s := by rw [← hempty]
    exact ⟨s, rfl, hsame ▸ State.Later.refl s⟩
  | succ n ih =>
    intro s hn
    obtain ⟨u, hstep, hlater⟩ := step_goes s
    have hrest : u.pending.length = n := by
      rw [hlater.pending, List.length_tail, hn, Nat.add_sub_cancel]
    obtain ⟨t, hrun, hend⟩ := ih u hrest
    exact ⟨t, (run_succ_of_step Sys2Proof.core n hstep).trans hrun, (hlater.withPending []).trans hend⟩

/-- Settles O4, by induction on the commands that wait: each step takes the front one off and goes on to a later
state. -/
theorem everyQueueRunsToItsEnd : Obligations.EveryQueueRunsToItsEnd := by
  unfold Obligations.EveryQueueRunsToItsEnd
  intro s
  obtain ⟨t, hrun, hlater⟩ := run_length_pending s.pending.length s rfl
  obtain ⟨more, hmore⟩ := hlater.sent
  exact ⟨t, hrun, hlater.pending, ⟨more, hmore.symm⟩, hlater.ok_keepsFuses⟩

end Sys2Proof.Machine
end

section
/-! PROOFS. What a loss of supply leaves (R25, R70, R429; logs 6, 7 and 106). -/

namespace Sys2Proof.Machine

/-! ## The words that a stop of the MRAM spares -/

/-- Where the store of `s` is in order, that of `t` is, and the words of `keep` hold in `t` what they hold in `s`. -/
def State.SparesWords (keep : Nat → Prop) (s t : State) : Prop :=
  Memory.wf s.mram = true → Memory.wf t.mram = true ∧ ∀ a, keep (a / 8) → t.mramByte a = s.mramByte a

section
variable {keep : Nat → Prop}

theorem State.sparesWords_of_mram {s t : State} (h : t.mram = s.mram) : State.SparesWords keep s t := by
  intro hs
  refine ⟨h ▸ hs, fun a _ => ?_⟩
  rw [State.mramByte, h, State.mramByte]

theorem State.SparesWords.trans {s t u : State} (h : State.SparesWords keep s t) (k : State.SparesWords keep t u) :
    State.SparesWords keep s u := by
  intro hs
  obtain ⟨ht, hst⟩ := h hs
  obtain ⟨hu, htu⟩ := k ht
  exact ⟨hu, fun a ha => (htu a ha).trans (hst a ha)⟩

/-- A fold of changes that spare the words spares them. -/
theorem State.sparesWords_foldl {α : Type} {f : State → α → State} (l : List α)
    (h : ∀ t, ∀ x ∈ l, State.SparesWords keep t (f t x)) : ∀ s : State, State.SparesWords keep s (l.foldl f s) := by
  induction l with
  | nil => exact fun s => State.sparesWords_of_mram rfl
  | cons x l ih =>
    exact fun s => (h s x List.mem_cons_self).trans (ih (fun t y hy => h t y (List.mem_cons_of_mem x hy)) (f s x))

/-- A word of the store changes its own eight bytes. -/
theorem State.sparesWords_cellWord (s : State) (w v e : Nat) (hw : ¬ keep w) :
    State.SparesWords keep s (s.cellWord w v e) := by
  intro hs
  refine ⟨Sparse.wf_setRun _ _ _ _ hs, fun a ha => ?_⟩
  have hother : ¬ (8 * w ≤ a ∧ a < 8 * w + (bytesBE 8 v).length) := by
    rintro ⟨hlo, hhi⟩
    rw [length_bytesBE] at hhi
    have hword : a / 8 = w := by omega
    exact hw (hword ▸ ha)
  exact (Sparse.get_setRun _ _ _ _ _ hs).trans (if_neg hother)

/-- A cell, of the store or of the resync log, changes no other word. -/
theorem State.sparesWords_putCell (s : State) (w v e : Nat) (hw : ¬ keep w) :
    State.SparesWords keep s (s.putCell w v e) := by
  unfold State.putCell
  split
  · refine State.sparesWords_of_mram ?_
    unfold State.putTrackWord State.setTrack
    split <;> rfl
  · exact State.sparesWords_cellWord s w v e hw

theorem State.sparesWords_undoReq (s : State) (q : MramReq) (hq : ∀ e ∈ q.old, ¬ keep e.1) :
    State.SparesWords keep s (s.undoReq q) := by
  unfold State.undoReq
  exact State.sparesWords_foldl q.old (fun t e he => State.sparesWords_putCell t _ _ _ (hq e he)) s

theorem State.sparesWords_tearReq (s : State) (q : MramReq) (x : TornLine) (hq : ∀ e ∈ q.old, ¬ keep e.1) :
    State.SparesWords keep s (s.tearReq q x) := by
  unfold State.tearReq
  exact (State.sparesWords_foldl q.old (fun t e he => State.sparesWords_putCell t _ _ _ (hq e he)) s).trans
    (State.sparesWords_of_mram rfl)

/-- A stop of the MRAM changes words of the requests that wait only. -/
theorem State.sparesWords_mramStop (s : State) (order : List Nat) (torn : Option TornLine)
    (hreqs : ∀ q ∈ s.mq.reqs, ∀ e ∈ q.old, ¬ keep e.1) : State.SparesWords keep s (s.mramStop order torn) := by
  have hat (i : Nat) : ∀ e ∈ (s.mq.reqs.reverse.getD i ⟨0, 0, 0, []⟩).old, ¬ keep e.1 := by
    rw [List.getD_eq_getElem?_getD]
    cases hi : s.mq.reqs.reverse[i]? with
    | none => simp
    | some q => exact hreqs q (List.mem_reverse.mp (List.mem_of_getElem? hi))
  unfold State.mramStop
  refine (State.sparesWords_foldl _ (fun t i _ => ?_) s).trans (State.sparesWords_of_mram rfl)
  split
  · exact State.sparesWords_of_mram rfl
  · split
    · exact State.sparesWords_tearReq t _ _ (hat i)
    · exact State.sparesWords_undoReq t _ (hat i)

end

/-- With no request waiting, a stop of the MRAM leaves the store and the states of its words. -/
theorem State.mramStop_of_no_requests (s : State) (order : List Nat) (torn : Option TornLine) (h : s.mq.reqs = []) :
    s.mramStop order torn = { s with mq := {} } := by
  simp only [State.mramStop, h, List.reverse_nil, List.length_nil, List.range_zero, List.foldl_nil]

/-! ## The flash -/

/-- A cut of the operations under way changes which slots decode. -/
theorem State.foldl_cutBlock (hurt : List CutBlock) : ∀ s : State,
    hurt.foldl State.cutBlock s = { s with media := (hurt.foldl State.cutBlock s).media } := by
  induction hurt with
  | nil => exact fun s => rfl
  | cons x hurt ih =>
    intro s
    have hcut : s.cutBlock x = { s with media := (s.cutBlock x).media } := by
      unfold State.cutBlock
      split <;> rfl
    rw [List.foldl_cons, ih, hcut]

/-! ## The command -/

/-- The state in which the loss of supply takes the volatile state: the MRAM stopped, and the operations of the flash
cut. -/
def State.unsupplied (s : State) (served : List Nat) (torn : Option TornLine) (hurt : List CutBlock) : State :=
  hurt.foldl State.cutBlock (s.mramStop served torn)

/-- It holds the cells as the stop of the MRAM leaves them, and no request waits. -/
theorem State.unsupplied_cells (s : State) (served : List Nat) (torn : Option TornLine) (hurt : List CutBlock) :
    (s.unsupplied served torn hurt).mram = (s.mramStop served torn).mram ∧
    (s.unsupplied served torn hurt).ecc = (s.mramStop served torn).ecc ∧ (s.unsupplied served torn hurt).mq = {} := by
  unfold State.unsupplied
  rw [State.foldl_cutBlock]
  exact ⟨rfl, rfl, rfl⟩

/-- Beside the cells, the tracks, the requests and the flash it is the state before. -/
theorem State.unsupplied_frame (s : State) (served : List Nat) (torn : Option TornLine) (hurt : List CutBlock) :
    let u := s.unsupplied served torn hurt
    u = { s with mram := u.mram, ecc := u.ecc, brg := u.brg, mq := u.mq, media := u.media } := by
  intro u
  have hcut : u = { s.mramStop served torn with media := u.media } := State.foldl_cutBlock hurt _
  have hstop := State.movesCells_mramStop s served torn
  rw [State.MovesCells] at hstop
  rw [hcut, hstop]

/-- Settles O19: the MRAM stops, which touches words of the requests that wait only, and the volatile state goes. -/
theorem supplyLossKeepsWhatLasts : Obligations.SupplyLossKeepsWhatLasts := by
  unfold Obligations.SupplyLossKeepsWhatLasts
  intro served torn hurt s
  obtain ⟨hmram, hecc, hmq⟩ := s.unsupplied_cells served torn hurt
  have hframe := s.unsupplied_frame served torn hurt
  have keeps {α : Type} (f : State → α) := congrArg f hframe
  refine ⟨_, rfl, rfl, rfl, rfl, rfl, rfl, rfl, rfl, rfl, rfl, rfl, hmq, rfl, keeps State.role, keeps State.otp,
    keeps State.out, keeps (·.firm.slot0), keeps (·.firm.slot1), fun hnone => ?_, fun hwf a ha => ?_⟩
  · rw [State.mramStop_of_no_requests s served torn hnone] at hmram hecc
    exact ⟨hmram, hecc⟩
  · have hspared := State.sparesWords_mramStop (keep := (· = a / 8)) s served torn ha
    exact (congrArg (Sparse.get mramBlank · a) hmram).trans ((hspared hwf).2 a rfl)

end Sys2Proof.Machine
end

section
/-! PROOFS. The locks and the forced erase over Counlet (R36, R134, R135, R388, R389, R391; logs 79 and 81). -/

namespace Sys2Proof.Machine

/-! ## The forced erase -/

/-- FORCE_ERASE_ARM with another serial answers OUT_OF_RANGE. -/
theorem State.cnArm_other_serial (s : State) (seq serial : Nat) (h : serial ≠ s.serial) :
    s.cnArm seq serial = s.cnAnswer 0x12 seq 0x30 [] := by
  rw [State.cnArm, if_pos h]

/-- FORCE_ERASE_ARM with the card's serial arms the erase under a token that is drawn. -/
theorem State.cnArm_arms (s : State) (seq : Nat) (hr : s.rngUp = true) :
    s.cnArm seq s.serial =
      (((({ s.spend.disarm with cnA := { s.cnA with token := some (natBE (s.rand 4)) } } : State).armErase
        false).setFlag (CN_STAT_ERASE_ARMED 0) true).cnAnswer 0x12 seq 0x00 (bytesBE 4 (natBE (s.rand 4)))) := by
  rw [State.cnArm, if_neg (fun hne => hne rfl), hr]
  rfl

/-- FORCE_ERASE_CONFIRM with the token armed and the card's serial runs the erase, with KEY and the random source in
use. -/
theorem State.cnConfirm_erases (s : State) (seq token : Nat) (ht : s.cnA.token = some token)
    (hk : s.ladderUp = true) (hr : s.rngUp = true) :
    s.cnConfirm seq token s.serial = s.runErase (fun u => u.cnAnswer 0x13 seq 0x00 []) := by
  simp only [State.cnConfirm, ht, hk, hr, ne_eq, not_true_eq_false, or_self, Bool.not_true, Bool.false_eq_true, if_false]

/-- FORCE_ERASE_CONFIRM with another token or serial disarms. -/
theorem State.cnConfirm_disarms (s : State) (seq token serial : Nat)
    (h : s.cnA.token ≠ some token ∨ serial ≠ s.serial) :
    s.cnConfirm seq token serial = s.disarm.cnAnswer 0x13 seq 0x32 [] := by
  rw [State.cnConfirm, if_pos h]

theorem execEraseArmExpiry_armed (s : State) (h : s.fld LCK_ERASE_STAT_STATE = 1) :
    execEraseArmExpiry s = .next s.disarm := by
  rw [execEraseArmExpiry, if_pos h]

/-- The background erase goes on in a card in READY whose core runs. -/
theorem execForceEraseBackground_erases (blocks : Nat) (s : State) (hc : s.isCard = true) (hr : s.ready = true)
    (hs : s.safe = false) (hcore : s.coreRuns = true) (he : s.media.erasing = true) :
    execForceEraseBackground blocks s = .next (s.eraseMore blocks) := by
  simp only [execForceEraseBackground, hc, hr, hs, hcore, he, Bool.not_false, Bool.and_self, if_true]

/-! ## The requests -/

/-- LOCK_SET with passwords of a length that is allowed is a request of the right length. -/
theorem execCounletLockSet_serves (seq scope action : Nat) (old new : List Byte) (s : State) (ho : old.length ≤ 32)
    (hn : new.length ≤ 32) (h : s.cnServes 0x10 seq = true) :
    execCounletLockSet seq scope action old new s = .next ((s.cnHeard 0x10).cnLockSet (seq % 256) scope action old new) := by
  have hlen : (decide (old.length ≤ 32) && decide (new.length ≤ 32)) = true := by simp [ho, hn]
  rw [execCounletLockSet, hlen, State.cnIn_serves s 0x10 seq _ _ h]

/-- UNLOCK with a password of a length that is allowed is a request of the right length. -/
theorem execCounletUnlock_serves (seq scope : Nat) (pw : List Byte) (s : State) (hlo : 4 ≤ pw.length)
    (hhi : pw.length ≤ 32) (h : s.cnServes 0x11 seq = true) :
    execCounletUnlock seq scope pw s = .next ((s.cnHeard 0x11).cnUnlock (seq % 256) scope pw) := by
  have hlen : (decide (4 ≤ pw.length) && decide (pw.length ≤ 32)) = true := by simp [hlo, hhi]
  rw [execCounletUnlock, hlen, State.cnIn_serves s 0x11 seq _ _ h]

theorem execForceEraseArm_serves (seq serial : Nat) (s : State) (h : s.cnServes 0x12 seq = true) :
    execForceEraseArm seq serial s = .next ((s.cnHeard 0x12).cnArm (seq % 256) serial) := by
  rw [execForceEraseArm, State.cnIn_serves s 0x12 seq _ _ h]

theorem execForceEraseConfirm_serves (seq token serial : Nat) (s : State) (h : s.cnServes 0x13 seq = true) :
    execForceEraseConfirm seq token serial s = .next ((s.cnHeard 0x13).cnConfirm (seq % 256) token serial) := by
  rw [execForceEraseConfirm, State.cnIn_serves s 0x13 seq _ _ h]

/-- Settles O34: each request that is served runs its operation on the card as it finds it, and the operation's own lemma
says what that answers. -/
theorem counletLockRequests : Obligations.CounletLockRequests := by
  unfold Obligations.CounletLockRequests
  refine ⟨fun seq scope action old new s ho hn h => execCounletLockSet_serves seq scope action old new s ho hn h,
    fun seq scope pw s hlo hhi h => execCounletUnlock_serves seq scope pw s hlo hhi h, ?_, ?_,
    fun s h => execEraseArmExpiry_armed s h,
    fun blocks s hc hr hs hcore he => execForceEraseBackground_erases blocks s hc hr hs hcore he⟩
  · intro seq serial s h t
    have runs := execForceEraseArm_serves seq serial s h
    refine ⟨fun hserial hr => ?_, fun hserial => ?_⟩
    · subst hserial
      exact runs.trans (congrArg _ (State.cnArm_arms t (seq % 256) hr))
    · exact runs.trans (congrArg _ (State.cnArm_other_serial t (seq % 256) serial hserial))
  · intro seq token serial s h t
    have runs := execForceEraseConfirm_serves seq token serial s h
    refine ⟨fun ht hserial hk hr => ?_, fun hbad => ?_⟩
    · subst hserial
      exact runs.trans (congrArg _ (State.cnConfirm_erases t (seq % 256) token ht hk hr))
    · exact runs.trans (congrArg _ (State.cnConfirm_disarms t (seq % 256) token serial hbad))

end Sys2Proof.Machine
end

section
/-! PROOFS. The firmware commands, the burns of the floor, and the forced erase over the link (R36, R182, R342, R445–R447;
logs 48 and 79). -/

namespace Sys2Proof.Machine

/-! ## What a command that is no data command begins with -/

/-- A frame that starts its command leaves the card as the command's start does, and the card goes on. -/
theorem State.frameIn_begins {s t : State} {op : Nat} {c : Cmd} {fc : Nat} {env : List MediaRead} {aux : Nat} {o : Outst}
    (hlt : op < 64) (h : s.Starts op c fc env aux o) (hbegins : (s.taken op c fc env aux).startOne o = t) :
    (Host.Outcome.next (s.frameIn op c env aux) : Result) = .next t.goesOn := by
  rw [State.frameIn_starts s op c fc env aux o hlt h, hbegins]

theorem State.startOne_stage (s : State) (o : Outst) (h : o.op = 0x18) : s.startOne o = s.startStage o := by
  unfold State.startOne
  rw [h]
  rfl

theorem State.startOne_activate (s : State) (o : Outst) (h : o.op = 0x19) : s.startOne o = s.startActivate o := by
  unfold State.startOne
  rw [h]
  rfl

theorem State.startOne_erase (s : State) (o : Outst) (h : o.op = 0x1B) : s.startOne o = s.startErase o := by
  unfold State.startOne
  rw [h]
  rfl

/-! ## Firmware -/

/-- FW_STAGE of the slot that does not run, within its space, stages the units that have arrived (R445). -/
theorem State.startStage_stages (s : State) (o : Outst) (hslot : bitsOf o.arg 24 1 ≠ s.runSlot)
    (hspace : 4096 * (bitsOf o.arg 12 12 + (argCnt o.arg + 1)) ≤ 1048576)
    (hplace : s.slotPlaceable (bitsOf o.arg 24 1) = true) :
    s.startStage o = (s.updOut o.fc (fun x => { x with held := false })).stageUnits o.fc (argCnt o.arg + 1) := by
  simp only [State.startStage, hslot, Nat.not_lt.mpr hspace, hplace, Bool.not_true, Bool.false_eq_true, if_false]

/-- FW_ACTIVATE of a slot that may be activated begins its activation (R447). -/
theorem State.startActivate_begins (s : State) (o : Outst) (h : s.activateBad (o.arg % 2) = false) :
    s.startActivate o =
      ({ s with firm := { s.firm with activating := some (o.arg % 2), activTag := some o.fc } } : State).updOut o.fc
        (fun x => { x with held := false }) := by
  rw [State.startActivate, h]
  rfl

/-- FW_ACTIVATE of another slot answers NOT_PERMITTED. -/
theorem State.startActivate_refuses (s : State) (o : Outst) (h : s.activateBad (o.arg % 2) = true) :
    s.startActivate o = s.done o 0x32 0 := by
  rw [State.startActivate, if_pos h]

section
variable {s : State} {slot : Nat} {mp : Bool} (ha : s.firm.activating = some slot)
  (hmp : [false, true].find? (fun mp => s.mpIs mp == 2) = some mp)
include ha hmp

/-- A standby whose check passes takes over, where it keeps the leases. -/
theorem execActivationSelfCheckDone_hands_over :
    execActivationSelfCheckDone true true s =
      .next ((({ s with firm := { s.firm with activating := none, activTag := none } } : State).handOver slot
        mp).activateEnds s.firm.activTag 0x00 0).settle := by
  simp only [execActivationSelfCheckDone, ha, hmp, Bool.not_true, Bool.false_eq_true, if_false]

/-- A standby whose check passes reloads, where a lease was lost. -/
theorem execActivationSelfCheckDone_lease_lost :
    execActivationSelfCheckDone true false s =
      .next ((({ s with firm := { s.firm with activating := none, activTag := none } } : State).setFld (mpState mp)
        1).activateEnds s.firm.activTag 0x7F 3).settle := by
  simp only [execActivationSelfCheckDone, ha, hmp, Bool.not_true, Bool.not_false, Bool.false_eq_true, if_false, if_true]

/-- A standby whose check fails raises the fault of its processor. -/
theorem execActivationSelfCheckDone_fails (kept : Bool) :
    execActivationSelfCheckDone false kept s =
      .next ((({ s with firm := { s.firm with activating := none, activTag := none } } : State).activateEnds
        s.firm.activTag 0x41 1).faultFull (96 + mp.toNat) 0 slot false).settle := by
  simp only [execActivationSelfCheckDone, ha, hmp, Bool.not_false, if_true]

end

/-! ## The floor -/

/-- The lowest fuse of the floor that is not burned starts to burn, while the floor is below what is asked. -/
theorem execFloorBurn_burns {v i : Nat} {s : State} (hv : s.boot.floorTo = some v) (hbelow : s.fwFloor < v)
    (hr : s.ready = true) (hf : s.boot.fuse = none) (hw : s.boot.waiting = []) (hk : s.keyHolds = false)
    (hl : s.ladderUp = true) (hi : (List.range 128).find? (fun i => !s.floorBits.testBit i) = some i) :
    execFloorBurn s = .next { s with boot := { s.boot with fuse := some i } } := by
  have hmay : (s.ready && s.boot.fuse.isNone && s.boot.waiting.isEmpty && !s.keyHolds && s.ladderUp) = true := by
    simp [hr, hf, hw, hk, hl]
  simp only [execFloorBurn, hv, Nat.not_le.mpr hbelow, hmay, hi, if_false, if_true]

/-- The burn that reaches what is asked ends the floor. -/
theorem execFuseBurnDone_reached {v : Nat} {s : State} (hv : s.endBurn.boot.floorTo = some v)
    (h : v ≤ s.endBurn.fwFloor) :
    execFuseBurnDone s = .next { s.endBurn with boot := { s.endBurn.boot with floorTo := none } } := by
  simp only [execFuseBurnDone, hv, h, if_true]

/-- A burn below what is asked leaves more to burn. -/
theorem execFuseBurnDone_below {v : Nat} {s : State} (hv : s.endBurn.boot.floorTo = some v)
    (h : s.endBurn.fwFloor < v) : execFuseBurnDone s = .next s.endBurn := by
  simp only [execFuseBurnDone, hv, Nat.not_le.mpr h, if_false]

/-! ## The forced erase -/

/-- FORCE_ERASE keeps from its frame whether it carries the token armed for it (R182). -/
theorem State.starts_bound_erase {s : State} {c : Cmd} {fc aux : Nat} {env : List MediaRead} {o : Outst}
    (h : s.Starts 0x1B c fc env aux o) :
    o.bound = (s.frameHeard.spA.eraseToken.any (· == bitsOf o.arg 24 16)).toNat := by
  have hout := h.2.2.1
  simp only [State.taken, State.accept, Nat.reduceEqDiff, if_false, false_and] at hout
  have hlast := congrArg List.getLast? hout
  simp only [List.getLast?_append, List.getLast?_singleton, Option.some_or, Option.some.injEq] at hlast
  rw [← hlast]
  rfl

/-- A FORCE_ERASE arm with the low bits of the serial arms the erase, under a token that is drawn. -/
theorem State.startErase_arms (s : State) (o : Outst) (hs : o.arg % 2 ^ 24 = s.serial % 2 ^ 24)
    (harm : o.arg / 2 ^ 46 = 1) (hr : s.rngUp = true) :
    s.startErase o =
      ((({ s.spend with spA := { s.spA with eraseToken := some (natBE (s.rand 2)) } } : State).armErase true).done o 0x00
        (natBE (s.rand 2))) := by
  simp only [State.startErase, hs, harm, hr, beq_self_eq_true, Bool.not_true, Bool.false_eq_true, if_false, if_true]

/-- A FORCE_ERASE confirm with the token armed for it and the low bits of the serial runs the erase. -/
theorem State.startErase_erases (s : State) (o : Outst) (hs : o.arg % 2 ^ 24 = s.serial % 2 ^ 24)
    (hconfirm : o.arg / 2 ^ 46 = 2) (hb : o.bound = 1) (hl : s.ladderUp = true) (hr : s.rngUp = true) :
    s.startErase o = s.runErase (fun u => u.done o 0x00 0) := by
  simp only [State.startErase, hs, hconfirm, hb, hl, hr, beq_self_eq_true, Nat.reduceEqDiff, ne_eq, not_true_eq_false,
    or_self, Bool.not_true, Bool.false_eq_true, if_false]

/-- A FORCE_ERASE confirm with another token disarms. -/
theorem State.startErase_disarms (s : State) (o : Outst) (hconfirm : o.arg / 2 ^ 46 = 2) (hb : o.bound ≠ 1) :
    s.startErase o = s.disarm.done o 0x32 0 := by
  simp only [State.startErase, hconfirm, hb, Nat.reduceEqDiff, ne_eq, not_false_eq_true, true_or, if_false, if_true]

/-! ## The commands -/

/-- Settles O42: each frame runs its command's start on the card that accepted it, and what ends an activation or a burn
is split by its outcome. -/
theorem firmwareAndEraseCommands : Obligations.FirmwareAndEraseCommands := by
  unfold Obligations.FirmwareAndEraseCommands
  refine ⟨fun c fc s o => ⟨?_, ?_, ?_⟩, ?_, ?_, ?_⟩
  · intro h t hslot hspace hplace
    have hop := (State.starts_op s 0x18 c fc [] 0 o (by decide) h).1
    exact State.frameIn_begins (by decide) h
      ((State.startOne_stage t o hop).trans (State.startStage_stages t o hslot hspace hplace))
  · intro h t
    have hop := (State.starts_op s 0x19 c fc [] 0 o (by decide) h).1
    refine ⟨fun hgood => ?_, fun hbad => ?_⟩
    · exact State.frameIn_begins (by decide) h
        ((State.startOne_activate t o hop).trans (State.startActivate_begins t o hgood))
    · exact State.frameIn_begins (by decide) h
        ((State.startOne_activate t o hop).trans (State.startActivate_refuses t o hbad))
  · intro h t hs
    have hstart := State.startOne_erase t o (State.starts_op s 0x1B c fc [] 0 o (by decide) h).1
    have hbound := State.starts_bound_erase h
    refine ⟨fun harm hr => ?_, fun hconfirm htoken hl hr => ?_, fun hconfirm htoken => ?_⟩
    · exact State.frameIn_begins (by decide) h (hstart.trans (State.startErase_arms t o hs harm hr))
    · have hb : o.bound = 1 := by rw [hbound, htoken]; simp
      exact State.frameIn_begins (by decide) h (hstart.trans (State.startErase_erases t o hs hconfirm hb hl hr))
    · have hb : o.bound ≠ 1 := by
        rw [hbound]
        cases htok : s.frameHeard.spA.eraseToken with
        | none => simp
        | some x => simpa [htok] using htoken
      exact State.frameIn_begins (by decide) h (hstart.trans (State.startErase_disarms t o hconfirm hb))
  · intro slot mp s ha hmp t
    exact ⟨execActivationSelfCheckDone_hands_over ha hmp, execActivationSelfCheckDone_lease_lost ha hmp,
      fun kept => execActivationSelfCheckDone_fails ha hmp kept⟩
  · intro v i s hv hbelow hr hf hw hk hl hi
    exact execFloorBurn_burns hv hbelow hr hf hw hk hl hi
  · intro v s hv
    exact ⟨fun h => execFuseBurnDone_reached hv h, fun h => execFuseBurnDone_below hv h⟩

end Sys2Proof.Machine
end

section
/-! PROOFS. Placing and releasing records, and what the card writes behind them (R28, R272, R283, R295, R296, R364; logs
20, 24 and 105). -/

namespace Sys2Proof.Machine

/-! ## Records -/

/-- A committed record that is not placed, in its turn, is placed by its kind (R28). -/
theorem execRecordPlacement_places {seq : Nat} (loc : Nat) {s : State} {r : JRec} (hfind : s.findRec seq = some r)
    (hplacing : s.placing = true) (hserve : s.enginesServe = true) (hturn : s.inTurn r = true)
    (hcommitted : r.committed = true) (hloc : r.loc = none) :
    execRecordPlacement seq loc s = .next (if r.kind = 1 then s.placeWrite r loc else s.placeDiscard r) := by
  have hmay : (s.placing && s.enginesServe && s.inTurn r && r.committed && r.loc.isNone) = true := by
    simp [hplacing, hserve, hturn, hcommitted, hloc]
  simp only [execRecordPlacement, hfind, hmay, if_true]

/-- A card frees a record that may be released (R272). -/
theorem execRecordRelease_card {seq : Nat} {s : State} {r : JRec} (hfind : s.findRec seq = some r)
    (hready : s.ready = true) (hrole : s.role = .card) (hrel : s.releasable r = true) :
    execRecordRelease seq s = .next (s.releaseRec r) := by
  simp only [execRecordRelease, hfind, hrole, hready, hrel, Bool.and_self, if_true]

/-- A dock frees a record that every target port has been served (R283). -/
theorem execRecordRelease_dock {seq : Nat} {s : State} {r : JRec} (hfind : s.findRec seq = some r)
    (hready : s.ready = true) (hrole : s.role = .dock) (hserved : State.bridgeServed r = true) :
    execRecordRelease seq s = .next (s.releaseRec r) := by
  simp only [execRecordRelease, hfind, hrole, hready, hserved, Bool.and_self, if_true]

/-- An anchor that moved is rewritten 100 ms after its last rewrite. -/
theorem execAnchorRewrite_writes {s : State} (hup : s.up = true) (hmoved : s.lnd.ancMoved = true)
    (hold : 100000 ≤ s.since s.lnd.ancTime) : execAnchorRewrite s = .next s.writeAnchor := by
  simp only [execAnchorRewrite, hup, hmoved, hold, decide_true, Bool.and_self, if_true]

theorem execDeltaLineWrite_writes {s : State} (hready : s.ready = true) (hcard : s.isCard = true)
    (hsafe : s.safe = false) : execDeltaLineWrite s = .next s.writeDeltaLine := by
  simp only [execDeltaLineWrite, hready, hcard, hsafe, Bool.not_false, Bool.and_self, if_true]

/-! ## Writebacks -/

/-- A writeback starts for one of three reasons: the ring's mark, the dirty slots, or the age of a dirty page (R296). -/
theorem State.wbDue_iff (s : State) :
    s.wbDue = true ↔ s.wbMark * deltaLines ≤ 100 * s.deltaUsed ∨ 448 ≤ s.mapDirty ∨
      (s.fld MAP_CFG_WB_AGE ≠ 0 ∧ ∃ y ∈ s.mapS.cache, y.oldest.isSome = true ∧
        1000000 * s.fld MAP_CFG_WB_AGE ≤ s.since y.since) := by
  simp only [State.wbDue, State.ringMarked, Bool.or_eq_true, Bool.and_eq_true, decide_eq_true_eq, bne_iff_ne, ne_eq,
    List.any_eq_true, or_assoc]

/-- MAP_WRITEBACK writes back the page with the oldest delta that is not retired, where one is due. -/
theorem execMapWriteback_starts {s : State} {x : MapSlot} (hready : s.ready = true) (hcard : s.isCard = true)
    (hsafe : s.safe = false) (hcore : s.coreRuns = true) (hserve : s.pageServes pMAP = true)
    (holdest : s.oldestDirty = some x) (hdue : s.wbDue = true) :
    execMapWriteback (pageName x.page x.isDir) s = .next (s.startWriteback x.page x.isDir) := by
  simp only [execMapWriteback, holdest, hdue, hready, hcard, hsafe, hcore, hserve, beq_self_eq_true, Bool.not_false,
    Bool.and_self, if_true]

/-- A writeback that may be places the page's snapshot, and waits for its program (R291, R296). -/
theorem State.startWriteback_places (s : State) (page : Nat) (isDir : Bool) :
    let t := (s.touchMap page isDir).touchTree (snapCtr isDir (4 * page) / 512)
    let u := t.bumpSnap page isDir
    t.wbMay page isDir = true → ∀ loc v, u.placePage (page % 2) (u.snapUnits page isDir) = (some loc, v) →
      s.startWriteback page isDir = (({ v with mapS := { v.mapS with
        wbs := v.mapS.wbs ++ [{ page := page, isDir := isDir, loc := loc, top := t.topOf page isDir }] } } :
          State).issueAll) := by
  intro t u hmay loc v hplace
  simp only [State.startWriteback, t, u] at hmay hplace ⊢
  simp only [hmay, hplace, Bool.not_true, Bool.false_eq_true, if_false]

/-! ## Checkpoints -/

/-- A checkpoint is due for one of three reasons: the age of the oldest dirty node, their share of the slots, or the
ring's mark (R364). -/
theorem State.ckptDue_iff (s : State) :
    s.ckptDue = true ↔ s.tree.dirty ≠ [] ∧
      ((s.fld TRE_CFG_CKPT_AGE ≠ 0 ∧ 1000000 * s.fld TRE_CFG_CKPT_AGE ≤ s.since s.tree.oldest) ∨
        384 * min 100 (s.fld TRE_CFG_DIRTY_MARK) ≤ 100 * s.tree.dirty.length ∨
        s.wbMark * deltaLines ≤ 100 * s.deltaUsed) := by
  simp only [State.ckptDue, State.ringMarked, Bool.or_eq_true, Bool.and_eq_true, decide_eq_true_eq, bne_iff_ne, ne_eq,
    Bool.not_eq_true', List.isEmpty_eq_false_iff, or_assoc]

theorem execCheckpoint_starts {s : State} (hmay : s.ckptMay = true) (hdue : s.ckptDue = true) :
    execCheckpoint s = .next s.startCheckpoint := by
  simp only [execCheckpoint, hmay, hdue, Bool.and_self, if_true]

/-- CKPT_NOW starts a checkpoint where one may run, due or not. -/
theorem execCkptNow_starts {s : State} (hcard : s.isCard = true) (htakes : s.pageTakes pTRE = true)
    (hmay : (s.touchPage pTRE).ckptMay = true) : execCkptNow s = .next (s.touchPage pTRE).startCheckpoint := by
  have hnow : bitAt 1 0 = true := by decide
  simp only [execCkptNow, State.treCtrl, hcard, htakes, hmay, hnow, Bool.and_self, if_true]

/-- A checkpoint places the nodes that changed, all of them or none, and shows CKPT_BUSY (R364). -/
theorem State.startCheckpoint_places {s t : State} {ents : List (Nat × TreeEnt)} (hnone : s.tree.ckpt = none)
    (hkey : s.keys.trk ≠ [])
    (hplace : s.commitDeltas.ckptKeys.foldl State.placeTree (some s.commitDeltas.tree.ents, s.commitDeltas) =
      (some ents, t)) :
    s.startCheckpoint = (({ t with tree := { t.tree with
      ckpt := some { d := t.tree.applied, ents := ents, keys := s.commitDeltas.ckptKeys } } } : State).setFlag
        TRE_STAT_CKPT_BUSY true).issueAll := by
  have hmay : (s.tree.ckpt.isSome || s.keys.trk == []) = false := by simp [hnone, hkey]
  simp only [State.startCheckpoint, hmay, hplace, Bool.false_eq_true, if_false]

/-! ## The commands -/

/-- Settles O56: each command's own lemma says what it does where its conditions hold, and the marks that make a writeback
or a checkpoint due are those of `wbDue` and `ckptDue`. -/
theorem recordCommands : Obligations.RecordCommands := by
  unfold Obligations.RecordCommands
  refine ⟨fun seq loc s r hfind hplacing hserve hturn hcommitted hloc => ?_, fun seq s r hfind hready => ⟨?_, ?_⟩,
    fun s hup hmoved hold => execAnchorRewrite_writes hup hmoved hold,
    fun s hready hcard hsafe => execDeltaLineWrite_writes hready hcard hsafe, ?_, ?_,
    fun s hcard htakes hmay => execCkptNow_starts hcard htakes hmay,
    fun s t ents hnone hkey hplace => State.startCheckpoint_places hnone hkey hplace⟩
  · exact execRecordPlacement_places loc hfind hplacing hserve hturn hcommitted hloc
  · exact fun hrole hrel => execRecordRelease_card hfind hready hrole hrel
  · exact fun hrole hserved => execRecordRelease_dock hfind hready hrole hserved
  · intro s x hready hcard hsafe hcore hserve holdest hdue
    exact ⟨execMapWriteback_starts hready hcard hsafe hcore hserve holdest (s.wbDue_iff.mpr hdue),
      State.startWriteback_places s x.page x.isDir⟩
  · intro s hmay hdirty hdue
    exact execCheckpoint_starts hmay (s.ckptDue_iff.mpr ⟨hdirty, hdue⟩)

end Sys2Proof.Machine
end

section
/-! PROOFS. Register accesses over a path, the uptime counter and GPIO, and what the I²C target and the JTAG port answer
(R53, R54, R84, R89, R90, R91; logs 172 and 177). -/

namespace Sys2Proof.Machine

/-! ## Reads (R89, R90) -/

theorem State.regRead_latches (s : State) (off : Nat) : ∃ l, (s.regRead off).2 = { s with hiLatch := l } := by
  simp only [State.regRead]
  split
  · exact ⟨_, rfl⟩
  · exact ⟨s.hiLatch, rfl⟩

/-- Only a read of the window can latch; configuration space and the other BARs are read without effect. -/
theorem State.pathRead_latches (s : State) (path : Path) (off : Nat) :
    ∃ l, (s.pathRead path off).2 = { s with hiLatch := l } := by
  unfold State.pathRead
  split
  · exact s.regRead_latches _
  all_goals exact ⟨s.hiLatch, rfl⟩

theorem State.pathRead_pf_fst (s : State) (off : Nat) :
    (s.pathRead .pf off).1 = s.regWord (off % 2 ^ 20 / 4 * 4) := by
  have hwindow : s.pathRead .pf off = s.regRead (off % 2 ^ 20) := rfl
  have hoff : off % 2 ^ 20 % 1048576 = off % 2 ^ 20 := Nat.mod_mod off (2 ^ 20)
  rw [hwindow, State.regRead_fst, hoff]

/-- A read of any size sends what it read, and leaves the state as it was but for the latch. -/
theorem State.hostRead_sends (s : State) (path : Path) (off bytes : Nat) :
    let a := s.pathRead path off
    let b := a.2.pathRead path (off + 4)
    ∃ l, s.hostRead path off bytes = ({ s with hiLatch := l } : State).emit (.readData path off bytes
      (if bytes = 8 then a.1 + 2 ^ 32 * b.1 else a.1 / 2 ^ (8 * (off % 4)) % 2 ^ (8 * bytes))) := by
  intro a b
  obtain ⟨low, ha⟩ := s.pathRead_latches path off
  obtain ⟨both, hb⟩ := a.2.pathRead_latches path (off + 4)
  by_cases hbytes : bytes = 8
  · refine ⟨both, ?_⟩
    have hlatch : b.2 = { s with hiLatch := both } := by rw [hb, ha]
    simp only [State.hostRead, hbytes, if_true, ← hlatch, a, b]
  · refine ⟨low, ?_⟩
    simp only [State.hostRead, hbytes, if_false, ← ha, a]

theorem execUptimeLoRead_answers {path : Path} {s : State} (off bytes : Nat) (h : s.pathAnswers path = true) :
    execUptimeLoRead path off bytes s = .next (s.hostRead path off bytes) :=
  congrArg _ (if_pos h)

/-! ## Writes (R89, R91) -/

theorem State.pathWrite_pf (s : State) (off v be : Nat) : s.pathWrite .pf off v be = s.regWrite (off % 2 ^ 20) v be :=
  rfl

theorem execRegisterWrite_answers {path : Path} {s : State} (off v be : Nat) (h : s.pathAnswers path = true) :
    execRegisterWrite path off v be s = .next (s.hostWrite path off v be).settle :=
  congrArg _ (if_pos h)

/-! ## Accesses that no path answers (R65, R202) -/

theorem State.pathAnswers_cfg (s : State) (fn : Nat) (r : CfgReg) :
    s.pathAnswers (.cfg fn r) = (s.alive && s.fnReached fn && s.configUp) := rfl

/-- Configuration space of a function that is reached before step 10 has ended asks for another try. -/
theorem State.cfgRetry_cfg {s : State} {fn : Nat} (r : CfgReg) (halive : s.alive = true) (hfn : s.fnReached fn = true)
    (hdown : s.configUp = false) : s.cfgRetry (.cfg fn r) = s.emit (.cfgRetry fn) := by
  simp only [State.cfgRetry, State.pathOpen, halive, hfn, hdown, Bool.not_false, Bool.and_self, if_true]

theorem State.cfgRetry_closed {s : State} {path : Path} (h : s.alive = false ∨ s.pathOpen path = false) :
    s.cfgRetry path = s := by
  have hclosed : (s.alive && s.pathOpen path) = false := Bool.and_eq_false_iff.mpr h
  cases path with
  | cfg fn r => simp only [State.cfgRetry, hclosed, Bool.false_and, Bool.false_eq_true, if_false]
  | _ => rfl

/-- A write and a read that no path answers both leave what `cfgRetry` gives. -/
theorem State.access_unanswered {s t : State} {path : Path} (off v be : Nat) (h : s.pathAnswers path = false)
    (hretry : s.cfgRetry path = t) : execRegisterWrite path off v be s = .next t ∧
    ∀ bytes, execUptimeLoRead path off bytes s = .next t := by
  simp only [execRegisterWrite, execUptimeLoRead, h, hretry, Bool.false_eq_true, if_false, implies_true, and_self]

/-! ## The uptime counter (R84) -/

theorem execUptimeWrap_wraps {s : State} (h : s.uptime.toNat + 1 = 2 ^ 40) : execUptimeWrap s = .next s.wrapUptime :=
  congrArg _ (if_pos h)

/-! ## The I²C target (R54) -/

theorem map_beq_zero_range_succ (n : Nat) :
    (List.range (n + 1)).map (fun k => k == 0) = true :: List.replicate n false := by
  have htail : (fun k => k == 0) ∘ Nat.succ = fun _ => false := funext fun k => beq_false_of_ne (Nat.succ_ne_zero k)
  simp only [List.range_succ_eq_map, List.map_cons, List.map_map, htail, List.map_const', List.length_range, BEq.rfl]

/-- A pointer byte below 16 is taken and acknowledged; the bytes after it are not. -/
theorem execI2cWrite_points {s : State} {b : Nat} (more : List Nat) (h : s.i2cAnswers = true) (hb : b < 16) :
    execI2cWrite (b :: more) s = .next (({ s with pins := { s.pins with i2cPtr := b } } : State).emit
      (.i2cAck (true :: true :: List.replicate more.length false))) := by
  simp only [execI2cWrite, h, hb, List.head?_cons, Option.any_some, decide_true, Bool.and_self, Bool.true_and, if_true,
    List.headD_cons, List.length_cons, map_beq_zero_range_succ]

theorem execI2cWrite_silent {s : State} (bytes : List Nat) (h : s.i2cAnswers = false) :
    execI2cWrite bytes s = .next (s.emit (.i2cAck (List.replicate (bytes.length + 1) false))) := by
  simp only [execI2cWrite, h, Bool.false_and, Bool.false_eq_true, if_false, List.map_const', List.length_range,
    List.replicate_succ]

theorem execI2cRead_sends {s : State} (n : Nat) (h : s.i2cAnswers = true) :
    execI2cRead n s = .next { s with
      pins := { s.pins with i2cPtr := (s.pins.i2cPtr + n) % 16 }, mq := {},
      out := s.out ++ [.i2cAck [true],
        .i2c ((List.range n).map (fun k => BitVec.ofNat 8 (s.statusByte ((s.pins.i2cPtr + k) % 16))))] } := by
  simp only [execI2cRead, h, if_true, State.emit, List.append_assoc, List.cons_append, List.nil_append]

/-! ## The JTAG port (R53) -/

/-- Of the codes past SAMPLE/PRELOAD only CLAMP and HIGHZ are instructions; the rest are BYPASS. -/
theorem jtagInst_bypass {code : Nat} (h : code = 3 ∨ 4 ≤ code) :
    jtagInst code = if code = 4 ∨ code = 5 then code else 15 := by
  by_cases hacts : code = 4 ∨ code = 5
  · rcases hacts with rfl | rfl <;> rfl
  · rw [if_neg hacts]
    refine if_neg ?_
    simp only [List.contains_eq_mem, List.mem_cons, List.not_mem_nil, or_false, decide_eq_true_eq]
    omega

/-- EXTEST and SAMPLE/PRELOAD send what the boundary scan captured, and load what is shifted in. -/
theorem execJtagInstruction_boundary {code : Nat} (scan : List Bool) (s : State) (h : code % 16 = 0 ∨ code % 16 = 2) :
    execJtagInstruction code scan s = .next { s with
      pins := { s.pins with jtag := code % 16, boundary := scan }, mq := {}, freeCtr := s.freeCtr + 1,
      out := s.out ++ [.tdo ((List.range scan.length).map (Config.sampledBit s.freeCtr))] } := by
  have hinst : jtagInst (code % 16) = code % 16 := by rcases h with h | h <;> rw [h] <;> rfl
  simp only [execJtagInstruction, State.scanOut, hinst, if_pos h, State.emit, State.spend]

/-- Any other instruction leaves the boundary-scan register alone, and sends the register that it selects. -/
theorem execJtagInstruction_shifts {code : Nat} (scan : List Bool) (s : State) (h0 : jtagInst (code % 16) ≠ 0)
    (h2 : jtagInst (code % 16) ≠ 2) :
    execJtagInstruction code scan s = .next { s with
      pins := { s.pins with jtag := jtagInst (code % 16) }, mq := {},
      out := s.out ++ [.tdo (((if jtagInst (code % 16) = 1 then bitsLow 32 idCode.toNat else [false]) ++ scan).take
        scan.length)] } := by
  simp only [execJtagInstruction, State.scanOut, h0, h2, or_self, if_false, State.emit]
  split <;> rfl

/-! ## The commands -/

/-- Settles O26: each access and each command on the pins by its own lemma. -/
theorem registerAndPinCommands : Obligations.RegisterAndPinCommands := by
  unfold Obligations.RegisterAndPinCommands
  refine ⟨fun path off bytes s h => ?_, fun off s => s.pathRead_pf_fst off, fun s h => execUptimeWrap_wraps h,
    fun levels s => rfl, fun path off v be s => ⟨?_, ?_, ?_⟩, fun o v be s => s.pathWrite_pf o v be,
    fun b more s h hb => execI2cWrite_points more h hb, fun bytes s h => execI2cWrite_silent bytes h,
    fun n s h => execI2cRead_sends n h, fun code scan s => ⟨?_, ?_, ?_⟩⟩
  · obtain ⟨l, hsends⟩ := s.hostRead_sends path off bytes
    exact ⟨_, (execUptimeLoRead_answers off bytes h).trans (congrArg _ hsends), rfl, rfl⟩
  · exact fun h => execRegisterWrite_answers off v be h
  · rintro fn r rfl halive hfn hdown
    have hsilent : s.pathAnswers (.cfg fn r) = false := by rw [State.pathAnswers_cfg, hdown, Bool.and_false]
    exact State.access_unanswered off v be hsilent (State.cfgRetry_cfg r halive hfn hdown)
  · exact fun hsilent hclosed => State.access_unanswered off v be hsilent (State.cfgRetry_closed hclosed)
  · intro hcode
    have hinst : jtagInst (code % 16) = 1 := by rw [hcode]; rfl
    have hshifts := execJtagInstruction_shifts scan s (code := code) (by rw [hinst]; decide) (by rw [hinst]; decide)
    rw [hinst] at hshifts
    exact hshifts
  · exact fun hcode => execJtagInstruction_boundary scan s hcode
  · intro hcode
    have hinst := jtagInst_bypass hcode
    have hne : jtagInst (code % 16) ≠ 0 ∧ jtagInst (code % 16) ≠ 1 ∧ jtagInst (code % 16) ≠ 2 := by
      rw [hinst]; split <;> omega
    obtain ⟨h0, h1, h2⟩ := hne
    have hshifts := execJtagInstruction_shifts scan s h0 h2
    rw [if_neg h1] at hshifts
    exact ⟨_, hinst, hshifts⟩

end Sys2Proof.Machine
end

section
/-! PROOFS. What a read of a register leaves behind (R84, R87, R89, R90; log 63). -/

namespace Sys2Proof.Machine

/-! ## What the latch takes part in -/

/-- Of the latch a word of the window reads its own entry only. -/
theorem State.regWord_hiLatch (s : State) (l : List (Nat × Word)) {x : Nat} (hx : x < 0x100000)
    (hsame : l.find? (fun e => e.1 == x / 4 * 4) = s.hiLatch.find? (fun e => e.1 == x / 4 * 4)) :
    ({ s with hiLatch := l } : State).regWord x = s.regWord x := by
  have hkey : 4096 * (x / 4096 % 256) + x % 4096 / 4 * 4 = x / 4 * 4 := by omega
  simp only [State.regWord, hkey, hsame]
  rfl

/-! ## The latch after a read -/

/-- The latch once the low word at `lo` has been read: the high word is kept as it is then (R90). -/
def State.latchHigh (s : State) (lo : Nat) : List (Nat × Word) :=
  s.hiLatch.filter (fun e => e.1 != lo + 4) ++
    [(lo + 4, BitVec.ofNat 32 (s.wordAt ((lo + 4) / 4096) ((lo + 4) % 4096)))]

/-- Another word's entry of the latch is as before. -/
theorem State.find_latchHigh_other (s : State) {lo k : Nat} (hk : k ≠ lo + 4) :
    (s.latchHigh lo).find? (fun e => e.1 == k) = s.hiLatch.find? (fun e => e.1 == k) := by
  have hnew : (lo + 4 == k) = false := beq_false_of_ne (Ne.symm hk)
  have hold : (fun e : Nat × Word => decide ((e.1 != lo + 4) = true ∧ (e.1 == k) = true)) = fun e => e.1 == k := by
    funext e
    by_cases he : e.1 = k <;> simp [he, hk]
  simp only [State.latchHigh, List.find?_append, List.find?_filter, hold, List.find?_cons, hnew, List.find?_nil,
    Option.or_none]

/-- The entry of the high word is the one that the read has made. -/
theorem State.find_latchHigh_same (s : State) (lo : Nat) :
    (s.latchHigh lo).find? (fun e => e.1 == lo + 4) =
      some (lo + 4, BitVec.ofNat 32 (s.wordAt ((lo + 4) / 4096) ((lo + 4) % 4096))) := by
  have hdropped : (s.hiLatch.filter (fun e => e.1 != lo + 4)).find? (fun e => e.1 == lo + 4) = none := by
    simp
  rw [State.latchHigh, List.find?_append, hdropped, Option.none_or, List.find?_cons, BEq.rfl]

/-- A read of a low word that answers leaves the latch of its high word; any other leaves the state (R90). -/
theorem State.regRead_snd (s : State) {off : Nat} (hoff : off < 0x100000) :
    (s.regRead off).2 = if lowWords.contains (off / 4 * 4) ∧ pagePresent s.role (off / 4 * 4 / 4096) ∧
      !s.pageSilent (off / 4 * 4 / 4096) then { s with hiLatch := s.latchHigh (off / 4 * 4) } else s := by
  have hmod : off % 1048576 = off := Nat.mod_eq_of_lt hoff
  simp only [State.regRead, hmod]
  split <;> rfl

/-- A word is one of 32 bits. -/
theorem State.wordAt_lt (s : State) (p o : Nat) : s.wordAt p o < 2 ^ 32 :=
  Nat.lt_of_le_of_lt Nat.and_le_left (Nat.mod_lt _ (by decide))

/-! ## The high words -/

/-- A low word and its high word are registers of one page of the map, past its header's first two. -/
theorem highWord_place {lo : Nat} (h : lowWords.contains lo = true) :
    lo + 4 < 0x100000 ∧ (lo + 4) / 4096 = lo / 4096 ∧ (lo + 4) % 4096 = lo % 4096 + 4 ∧ lo % 4 = 0 ∧
    (pageCode (lo / 4096)).isNone = false ∧ lo % 4096 + 4 ≠ 0x00 ∧ lo % 4096 + 4 ≠ 0x04 := by
  have hall : ∀ x ∈ lowWords, x + 4 < 0x100000 ∧ (x + 4) / 4096 = x / 4096 ∧ (x + 4) % 4096 = x % 4096 + 4 ∧ x % 4 = 0 ∧
      (pageCode (x / 4096)).isNone = false ∧ x % 4096 + 4 ≠ 0x00 ∧ x % 4096 + 4 ≠ 0x04 := by decide
  exact hall lo (List.contains_iff_mem.mp h)

/-- Once it is latched, the high word of a register that a page which answers has reads what the latch holds. -/
theorem State.regWord_latched (s : State) {lo : Nat} {e : Nat × Word} (hlow : lowWords.contains lo = true)
    (hpage : pagePresent s.role (lo / 4096) = true) (hanswers : s.pageSilent (lo / 4096) = false)
    (hthere : regThere s.role (lo / 4096) (lo % 4096 + 4) = true)
    (hlatch : s.hiLatch.find? (fun e => e.1 == lo + 4) = some e) : s.regWord (lo + 4) = e.2.toNat := by
  obtain ⟨hlt, hpg, ho, halign, hcode, ho0, ho4⟩ := highWord_place hlow
  have hp : (lo + 4) / 4096 % 256 = lo / 4096 := by omega
  have hoff : (lo + 4) % 4096 / 4 * 4 = lo % 4096 + 4 := by omega
  have hkey : 4096 * (lo / 4096) + (lo % 4096 + 4) = lo + 4 := by omega
  simp only [State.regWord, hp, hoff, hkey, hcode, ho0, ho4, hpage, hanswers, hthere, hlow, hlatch, Nat.add_sub_cancel,
    Bool.not_true, Bool.false_eq_true, if_false, if_true]

/-- Settles O9: a read leaves the state, or the latch of one high word, and of the latch a word reads its own entry
only. -/
theorem readingChangesOnlyTheLatch : Obligations.ReadingChangesOnlyTheLatch := by
  unfold Obligations.ReadingChangesOnlyTheLatch
  intro s off hoff lo t
  have hsnd : t = _ := s.regRead_snd hoff
  refine ⟨?_, ?_, fun hlow => ?_, fun x hx hne => ?_, fun hlow hpage hanswers hthere => ?_⟩
  · have hmod : off % 1048576 = off := Nat.mod_eq_of_lt hoff
    rw [State.regRead_fst, hmod]
  · obtain ⟨l, hl⟩ := s.regRead_latches off
    rw [show t = _ from hl]
  · rw [hsnd, if_neg]
    rintro ⟨h, -⟩
    exact Bool.false_ne_true (hlow.symm.trans h)
  · have hmod : x % 1048576 / 4 * 4 < 0x100000 := by omega
    rw [State.regRead_fst, State.regRead_fst, hsnd]
    split
    · refine s.regWord_hiLatch _ hmod (s.find_latchHigh_other ?_)
      omega
    · rfl
  · obtain ⟨hlt, hpg, ho, halign, -⟩ := highWord_place hlow
    have hhigh : (lo + 4) % 1048576 / 4 * 4 = lo + 4 := by omega
    have hlatched : t = { s with hiLatch := s.latchHigh lo } := by
      rw [hsnd, if_pos ⟨hlow, hpage, by rw [hanswers]; rfl⟩]
    rw [State.regRead_fst, hhigh, hlatched,
      State.regWord_latched { s with hiLatch := s.latchHigh lo } hlow hpage hanswers hthere (s.find_latchHigh_same lo),
      BitVec.toNat_ofNat, Nat.mod_eq_of_lt (s.wordAt_lt _ _), hpg, ho]

end Sys2Proof.Machine
end

section
/-! PROOFS. What the clock, power, function-reset and pin events change (R84, R230, R424, R426, R427). -/

namespace Sys2Proof.Machine

/-! ## CLK -/

theorem execOscMeasure_onPages (a f : Nat) (x : Bool) (s : State) (h : Sparse.wf regReset s.regs = true) :
    ∃ t, execOscMeasure a f x s = .next t ∧ State.OnPages (· = pCLK) s t := by
  have haon := State.onPages_setFld (m := (· = pCLK)) (.refl h) CLK_OSC_AON_KHZ a rfl (by decide)
  have hflt := State.onPages_setFld haon CLK_OSC_FLT_100KHZ f rfl (by decide)
  have hstored := State.onPages_setFlag hflt CLK_PLL_STAT_REF_PRESENT x rfl (by decide)
  unfold execOscMeasure
  split
  · exact ⟨s, rfl, .refl h⟩
  · refine ⟨_, rfl, ?_⟩
    refine State.onPages_fireIf ?_ EV_CLK_REF_DRIFT (by decide) rfl _
    refine State.onPages_fireIf ?_ EV_CLK_FLT_OSC_DRIFT (by decide) rfl _
    exact State.onPages_fireIf hstored EV_CLK_AON_OSC_DRIFT (by decide) rfl _

theorem execPllLockLoss_onPages (s : State) (h : Sparse.wf regReset s.regs = true) :
    ∃ t, execPllLockLoss s = .next t ∧ State.OnPages (· = pCLK) s t := by
  refine ⟨_, rfl, State.onPages_ite _ (fun _ => State.onPages_fire ?_ _ (by decide) rfl) (fun _ => .refl h)⟩
  have hlost := State.onPages_setFlag (m := (· = pCLK)) (.refl h) CLK_PLL_STAT_LOCKED false rfl (by decide)
  have hrelocks := State.onPages_setFlag hlost CLK_PLL_STAT_RELOCKING true rfl (by decide)
  exact State.onPages_bump (State.onPages_setFld hrelocks CLK_PLL_STAT_ATTEMPT 0 rfl (by decide)) _ rfl (by decide)

theorem execIslandIdleGate_onPages (i : Nat) (gate : Bool) (s : State) (h : Sparse.wf regReset s.regs = true) :
    ∃ t, execIslandIdleGate i gate s = .next t ∧ State.OnPages (· = pCLK) s t := by
  refine ⟨_, rfl, State.onPages_ite _ (fun hc => ?_) (fun _ => .refl h)⟩
  have hi : i < 21 := by
    simp only [Bool.and_eq_true, decide_eq_true_eq] at hc
    omega
  refine State.onPages_setFld (.refl h) _ _ ?_ ?_ <;> dsimp only [pCLK] <;> omega

/-! ## PWR and PCE -/

theorem execClkstopAll_onPages (s : State) (h : Sparse.wf regReset s.regs = true) :
    ∃ t, execClkstopAll s = .next t ∧ State.OnPages (· = pPWR) s t :=
  ⟨_, rfl, State.onPages_fireIf (.refl h) EV_PWR_CLKSTOP_ALL (by decide) rfl _⟩

theorem execFlrDone_onPages (fn : Nat) (s : State) (h : Sparse.wf regReset s.regs = true) :
    ∃ t, execFlrDone fn s = .next t ∧ State.OnPages (fun p => p = pPCE ∨ p = pINS fn) s t := by
  unfold execFlrDone
  dsimp only
  split
  · exact ⟨s, rfl, .refl h⟩
  · refine ⟨_, rfl, State.onPages_fireFull (State.onPages_setFld (.refl h) _ _ (.inl rfl) (by decide)) _ _ _ _ _ (by decide)
      (.inl rfl) ?_⟩
    rintro n ⟨⟩
    exact .inr rfl

/-! ## SYS -/

theorem State.gpioLevels_onPages (s : State) (levels : Nat) (h : Sparse.wf regReset s.regs = true) :
    State.OnPages (· = pSYS) { s with pins := { s.pins with gpio := levels % 16 } } (s.gpioLevels levels) :=
  State.onPages_fireIf (State.OnPages.refl (s := { s with pins := { s.pins with gpio := levels % 16 } }) h) EV_SYS_GPIO_EDGE
    (by decide) rfl _

theorem execRoleSelChange_onPages (level : Bool) (s : State) (h : Sparse.wf regReset s.regs = true) :
    ∃ t, execRoleSelChange level s = .next t ∧
      State.OnPages (· = pSYS) { s with pins := { s.pins with strap := level } } t :=
  ⟨_, rfl, State.onPages_fireIf (State.OnPages.refl (s := { s with pins := { s.pins with strap := level } }) h)
    EV_SYS_STRAP_MISMATCH (by decide) rfl _⟩

/-- Settles O18: each command's state differs from the one before on the pages of its own lemma, and the pins only where
they take a level. -/
theorem pinAndClockEventFrames : Obligations.PinAndClockEventFrames := by
  unfold Obligations.PinAndClockEventFrames
  refine ⟨fun s i ⟨hregs, _⟩ hi => ?_, fun s ⟨hregs, _⟩ => ?_, fun s fn ⟨hregs, _⟩ => ?_,
    fun s levels ⟨hregs, _⟩ => ?_, fun s level ⟨hregs, _⟩ => ?_⟩
  · have hclk : ∃ t, exec i s = .next t ∧ State.OnPages (· = pCLK) s t := by
      rcases hi with ⟨a, f, x, rfl⟩ | rfl | ⟨k, g, rfl⟩
      · exact execOscMeasure_onPages a f x s hregs
      · exact execPllLockLoss_onPages s hregs
      · exact execIslandIdleGate_onPages k g s hregs
    obtain ⟨t, hexec, hpages⟩ := hclk
    exact ⟨t, hexec, State.onPages_frame hpages⟩
  · obtain ⟨t, hexec, hpages⟩ := execClkstopAll_onPages s hregs
    exact ⟨t, hexec, State.onPages_frame hpages⟩
  · obtain ⟨t, hexec, hfired, hkeeps⟩ := execFlrDone_onPages fn s hregs
    refine ⟨t, hexec, fun j hpce hevt hins => hkeeps.reg j ?_, hfired⟩
    rintro ((h | h) | h)
    · exact hpce h
    · exact hins h
    · exact hevt h
  · exact ⟨_, rfl, State.onPages_pins (s.gpioLevels_onPages levels hregs)⟩
  · obtain ⟨t, hexec, hpages⟩ := execRoleSelChange_onPages level s hregs
    exact ⟨t, hexec, State.onPages_pins hpages⟩

end Sys2Proof.Machine
end

section
/-! PROOFS. The machine right after reset, the step that takes a command, and the page headers of chapter 04 (R65, R67,
R83, R84; logs 3 and 10 to 12). -/

namespace Sys2Proof.Machine

/-- Settles O1: no register is listed at reset, so each reads its reset value, and every store is empty. -/
theorem resetIsInOrder : Obligations.ResetIsInOrder := by
  unfold Obligations.ResetIsInOrder
  have hstores : State.reset.Ok := ⟨rfl, rfl, rfl, rfl⟩
  exact ⟨fun _ => rfl, rfl, rfl, rfl, rfl, rfl, hstores⟩

/-- Settles O2: both are the step's own equations. -/
theorem stepRunsTheFrontCommand : Obligations.StepRunsTheFrontCommand := by
  unfold Obligations.StepRunsTheFrontCommand
  refine ⟨fun c rest s => rfl, fun s hempty => ?_⟩
  rw [step, hempty]

/-! ## Page headers (R83, R93) -/

/-- PG_ID reads the same whatever the state, on every page. -/
theorem State.regRead_pgId (s : State) {p : Nat} (hp : p < 256) : (s.regRead (4096 * p)).1 = pageId p := by
  have hword : 4096 * p % 1048576 / 4 * 4 = 4096 * p := by omega
  have hpage : 4096 * p / 4096 % 256 = p := by omega
  have hoff : 4096 * p % 4096 / 4 * 4 = 0x00 := by omega
  rw [State.regRead_fst, hword]
  cases hc : pageCode p with
  | none => simp only [State.regWord, pageId, hpage, hc, Option.isNone_none, if_true]
  | some c =>
    simp only [State.regWord, pageId, hpage, hoff, hc, Option.isNone_some, Bool.false_eq_true, if_false, if_true]

/-- Settles O6: PG_ID and PG_VER of the three pages by the rules for every page. -/
theorem pageHeadersOfTheChapter : Obligations.PageHeadersOfTheChapter := by
  unfold Obligations.PageHeadersOfTheChapter
  exact fun s => ⟨s.regRead_pgId (p := pSYS) (by decide), s.regRead_pgId (p := pRST) (by decide),
    s.regRead_pgId (p := pMPC) (by decide), s.regRead_pgVer (p := pSYS) (by decide),
    s.regRead_pgVer (p := pRST) (by decide), s.regRead_pgVer (p := pMPC) (by decide)⟩

end Sys2Proof.Machine
end

section
/-! PROOFS. Leases, the standby's heartbeat and a processor's self-check (R78–R80, R444; logs 46, 48 and 72). -/

namespace Sys2Proof.Machine

/-- The lease of an ACTIVE part outside the safe state expires (R79). -/
theorem execLeaseExpiry_expires {n : Nat} (us : Nat) {s : State} (hn : n < 32) (halive : s.alive = true)
    (hsafe : s.safe = false) (hvalid : s.flag (bitFld rMPC_LEASE_VALID.off n) = true) :
    execLeaseExpiry n us s = .next (s.expireLease n us) := by
  simp only [execLeaseExpiry, hn, halive, hsafe, hvalid, decide_true, Bool.not_false, Bool.and_self, if_true]

/-- The processor that is STANDBY, the first of the two, misses its heartbeat (R78). -/
theorem execStandbyHeartbeatMiss_of_find {s : State} {mp : Bool} (hsafe : s.safe = false)
    (hmp : [false, true].find? (fun mp => s.mpIs mp == 2) = some mp) :
    execStandbyHeartbeatMiss s = .next ((s.fire EV_MPC_STANDBY_LOST).faultFull (98 + mp.toNat) 0 0 false) := by
  simp only [execStandbyHeartbeatMiss, hmp, hsafe, Bool.false_eq_true, if_false]

section
variable {s : State} {mp : Bool} {slotOk : Nat} (hstep : 6 ≤ s.bootStep) (hsafe : s.safe = false)
  (hmp : s.mpIs mp = 1 ∨ s.mpIs mp = 5)
include hstep hsafe hmp

/-- A processor that checks itself, or resets, passes on the slot it loads (R78, R444). -/
theorem execMpSelfCheckDone_passes {slot : Nat} (hslot : s.loadImage slotOk = some slot) :
    execMpSelfCheckDone mp true slotOk s = .next (s.mpPasses mp slot) := by
  have hchecks : (s.mpIs mp == 1 || s.mpIs mp == 5) = true := by simpa using hmp
  simp only [execMpSelfCheckDone, Nat.not_lt.mpr hstep, hsafe, hchecks, hslot, decide_false, Bool.not_true, Bool.or_self,
    Bool.false_eq_true, if_false, if_true]

/-- It fails, whatever slot it loads (R78). -/
theorem execMpSelfCheckDone_fails :
    execMpSelfCheckDone mp false slotOk s = .next (s.faultFull (96 + mp.toNat) 0 0 false) := by
  have hchecks : (s.mpIs mp == 1 || s.mpIs mp == 5) = true := by simpa using hmp
  cases hslot : s.loadImage slotOk <;>
    simp only [execMpSelfCheckDone, Nat.not_lt.mpr hstep, hsafe, hchecks, hslot, decide_false, Bool.not_true, Bool.or_self,
      Bool.false_eq_true, if_false]

end

/-- The first processor whose check passes becomes ACTIVE (R78). -/
theorem State.mpPasses_first {s : State} (mp : Bool) (slot : Nat) (h : s.mpActive = false) :
    s.mpPasses mp slot = ((s.mpTake mp).showSlot slot).settle := by
  rw [State.mpPasses, h]
  rfl

/-- Beside an ACTIVE one it becomes STANDBY (R78). -/
theorem State.mpPasses_second {s : State} (mp : Bool) (slot : Nat) (h : s.mpActive = true) :
    s.mpPasses mp slot = (s.setFld (mpState mp) 2).fire EV_MPC_STANDBY_READY := by
  rw [State.mpPasses, if_pos h]

/-- Settles O28: each command by its own lemma; the processor that misses its heartbeat is the first that `find?` meets. -/
theorem processorCommands : Obligations.ProcessorCommands := by
  unfold Obligations.ProcessorCommands
  refine ⟨fun n us s hn halive hsafe hvalid => execLeaseExpiry_expires us hn halive hsafe hvalid, fun s hsafe ha => ?_,
    fun s hsafe ha hb => ?_, fun mp slotOk s hstep hsafe hmp => ⟨fun slot hslot => ⟨fun h => ?_, fun h => ?_⟩, ?_⟩⟩
  · exact execStandbyHeartbeatMiss_of_find (mp := false) hsafe (by simp [ha])
  · exact execStandbyHeartbeatMiss_of_find (mp := true) hsafe (by simp [ha, hb])
  · exact (execMpSelfCheckDone_passes hstep hsafe hmp hslot).trans (congrArg _ (State.mpPasses_first mp slot h))
  · exact (execMpSelfCheckDone_passes hstep hsafe hmp hslot).trans (congrArg _ (State.mpPasses_second mp slot h))
  · exact execMpSelfCheckDone_fails hstep hsafe hmp

end Sys2Proof.Machine
end

section
/-! PROOFS. What the commands on a page's header write (R76, R77, R96, R101; logs 50, 55, 56 and 58). -/

namespace Sys2Proof.Machine

/-! ## A listed register beside the one written, in stores that need not be in order -/

section
variable {V : Type} {d : Nat → V} {j k : Nat}

theorem Sparse.get_insert_other (m : List (Nat × V)) (v : V) (h : k ≠ j) :
    Sparse.get d (Sparse.insert m k v) j = Sparse.get d m j := by
  induction m with
  | nil => simp [Sparse.insert, Sparse.get, h]
  | cons p rest ih =>
    rcases Nat.lt_trichotomy p.1 k with hlt | heq | hgt
    · simp only [Sparse.insert, Nat.ne_of_lt hlt, Nat.lt_asymm hlt, if_false, Sparse.get, ih]
    · simp only [Sparse.insert, heq, if_true, Sparse.get, h, if_false]
    · simp only [Sparse.insert, Nat.ne_of_gt hgt, hgt, if_false, if_true, Sparse.get, h]
      split
      · have hlow : j < p.1 := by omega
        simp only [Nat.ne_of_gt hlow, hlow, if_false, if_true]
      · rfl

theorem Sparse.get_erase_other (m : List (Nat × V)) (h : k ≠ j) (hlisted : Sparse.get d m j ≠ d j) :
    Sparse.get d (Sparse.erase m k) j = Sparse.get d m j := by
  induction m with
  | nil => rfl
  | cons p rest ih =>
    rcases Nat.lt_trichotomy p.1 k with hlt | heq | hgt
    · simp only [Sparse.erase, Nat.ne_of_lt hlt, Nat.lt_asymm hlt, if_false, Sparse.get] at hlisted ⊢
      split
      · rfl
      · split
        · rfl
        · simp_all
    · have habove : ¬ j < k := by
        intro hjk
        simp only [Sparse.get, heq, h, hjk, if_false, if_true] at hlisted
        exact hlisted rfl
      simp only [Sparse.erase, heq, if_true, Sparse.get, h, habove, if_false]
    · simp only [Sparse.erase, Nat.ne_of_gt hgt, hgt, if_false, if_true]

end

/-- A register that is not at its reset value keeps its word when another is written. -/
theorem State.reg_setReg_of_listed (s : State) {off j : Nat} (v : Word) (hj : off ≠ j) (hlisted : s.reg j ≠ regReset j) :
    (s.setReg off v).reg j = s.reg j := by
  simp only [State.reg, State.setReg, Sparse.set]
  split
  · exact Sparse.get_erase_other s.regs hj hlisted
  · exact Sparse.get_insert_other s.regs v hj

/-- A write to PG_CTRL leaves the part running (R76, R100). -/
theorem State.alive_written (s : State) (p : Nat) (h : s.alive = true) : (s.written p).alive = true := by
  have hstep : s.bootStep ≠ 0 := by
    intro h0
    simp [State.alive, h0] at h
  have hlisted : s.reg SYS_BRINGUP_STEP.off ≠ regReset SYS_BRINGUP_STEP.off := by
    intro hreset
    refine hstep ?_
    rw [State.bootStep, State.fld, hreset]
    decide
  have hreg : (s.written p).reg SYS_BRINGUP_STEP.off = s.reg SYS_BRINGUP_STEP.off :=
    (s.touchPage p).reg_setReg_of_listed _ (by dsimp only [pageOff]; omega) hlisted
  have hsame : (s.written p).bootStep = s.bootStep := by
    rw [State.bootStep, State.fld, hreg, State.bootStep, State.fld]
  rw [State.alive, hsame]
  exact h

/-! ## A page that takes writes -/

theorem State.alive_of_pageTakes {s : State} {p : Nat} (h : s.pageTakes p = true) : s.alive = true := by
  simp only [State.pageTakes, Bool.and_eq_true] at h
  exact h.2

theorem State.onPage_takes {s : State} {p : Nat} (f : State → State) (h : s.pageTakes p = true) :
    s.onPage p f = (f (s.touchPage p)).settle := if_pos h

/-- A write of PG_CTRL does `f` to the page as the write finds it, and the engines go on. -/
theorem State.onPage_written {s t : State} {p : Nat} (f : State → State) (h : s.pageTakes p = true)
    (hf : f (s.written p) = t) :
    (Host.Outcome.next (s.onPage p (fun u => f (u.clearRefused p))) : Result) = .next t.settle :=
  congrArg _ ((State.onPage_takes _ h).trans (congrArg State.settle hf))

/-! ## Block resets (R76) -/

/-- A block reset that is asked of a running part is refused before step 11, in the safe state, of a page that has none,
and of one that was not quiesced. -/
theorem State.askBlockReset_refused {s : State} {p : Nat} {quiet : Bool} (halive : s.alive = true)
    (h : s.up = false ∨ s.safe = true ∨ pageNoBlockReset p = true ∨ quiet = false) :
    s.askBlockReset p quiet = (((s.setFld RST_BLK_RST_LAST_PAGE p).setFlag (PG_STAT_RST_REFUSED p) true).setFlag
      RST_BLK_RST_LAST_REFUSED true).fire EV_RST_BLK_REFUSED := by
  have hrefused : (!s.up || s.safe || pageNoBlockReset p || !quiet) = true := by
    rcases h with h | h | h | h <;> simp [h]
  simp only [State.askBlockReset, halive, hrefused, Bool.not_true, Bool.false_eq_true, if_false, if_true]

/-- Otherwise it is under way. -/
theorem State.askBlockReset_starts {s : State} {p : Nat} (halive : s.alive = true) (hup : s.up = true)
    (hsafe : s.safe = false) (hpage : pageNoBlockReset p = false) :
    s.askBlockReset p true = (((s.setFld RST_BLK_RST_LAST_PAGE p).setFlag RST_BLK_RST_LAST_REFUSED false).setFlag
      (PG_STAT_RST_BUSY p) true).setFlag (PG_CTRL_BLK_RST_REQ p) true := by
  simp only [State.askBlockReset, halive, hup, hsafe, hpage, Bool.not_true, Bool.or_self, Bool.false_eq_true, if_false]

/-! ## ENABLE, QUIESCE_REQ and FENCE_REQ (R96) -/

/-- ENABLE of a page that is not fixed takes a new value, and a block off a dock's INS pages may leave quiesce. -/
theorem State.setEnable_changes {s : State} {p : Nat} {on : Bool} (hfixed : pageFixed p = false)
    (hinst : s.dockInst p = false) (hnew : s.flag (PG_CTRL_ENABLE p) ≠ on) :
    s.setEnable p on = (s.setFlag (PG_CTRL_ENABLE p) on).leaveQuiesce p := by
  simp only [State.setEnable, hfixed, beq_false_of_ne hnew.symm, hinst, Bool.or_self, Bool.false_eq_true, if_false]

theorem State.setQuiesce_block {s : State} {p : Nat} (on : Bool) (hinst : s.dockInst p = false) :
    s.setQuiesce p on = (s.setFlag (PG_CTRL_QUIESCE_REQ p) on).leaveQuiesce p := by
  simp only [State.setQuiesce, hinst, Bool.false_eq_true, if_false]

theorem State.setFence_fences {s : State} {p : Nat} (hfixed : pageFixed p = false)
    (hoff : s.flag (PG_CTRL_FENCE_REQ p) = false) (hfault : s.pageFaultFenced p = false) :
    s.setFence p true = (s.setFlag (PG_CTRL_FENCE_REQ p) true).softFence p := by
  simp [State.setFence, hfixed, hoff, hfault]

theorem State.setFence_restores {s : State} {p : Nat} (hfixed : pageFixed p = false)
    (hon : s.flag (PG_CTRL_FENCE_REQ p) = true) :
    s.setFence p false = (s.setFlag (PG_CTRL_FENCE_REQ p) false).softRestore p := by
  simp [State.setFence, hfixed, hon]

/-- A block that has no work in flight reaches the quiesce it was asked for. -/
theorem State.blockQuiet_reached {s : State} {p : Nat} (hinst : s.dockInst p = false)
    (hpage : pagePresent s.role p = true) (hhonoured : quiesceHonoured p = true) (hasked : s.quiesceAsked p = true)
    (hidle : s.inFlight p = false) (hnew : s.flag (PG_STAT_QUIESCED p) = false) :
    s.blockQuiet p = if 0x40 ≤ p
      then (s.setFlag (PG_STAT_QUIESCED p) true).fireI EV_CMD_INST_QUIESCED (p - 0x40) 0 0
      else s.setFlag (PG_STAT_QUIESCED p) true := by
  simp only [State.blockQuiet, hinst, hpage, hhonoured, hasked, hidle, hnew, Bool.not_true, Bool.or_self,
    Bool.false_eq_true, if_false]

/-! ## The commands -/

/-- Settles O24: each command does its part of PG_CTRL or PG_LOCK on the page as the write finds it, and that part's own
lemma says what it writes. -/
theorem pageHeaderCommands : Obligations.PageHeaderCommands := by
  unfold Obligations.PageHeaderCommands
  refine ⟨fun p s h => ?_, fun p s _ _ => rfl, fun p on s h hinst => ?_,
    fun p s hinst hpage hhonoured hasked hidle hnew =>
      congrArg _ (State.blockQuiet_reached hinst hpage hhonoured hasked hidle hnew),
    fun p s h => congrArg _ (State.onPage_takes _ h)⟩
  · have halive : (s.written p).alive = true := s.alive_written p (State.alive_of_pageTakes h)
    have hasks {t : State} := State.onPage_written (t := t) (fun u => u.askBlockReset p (s.quiescedNow p)) h
    refine ⟨fun hup hsafe hpage hquiet => hasks ?_, fun hrefused => hasks ?_⟩
    · rw [hquiet, State.askBlockReset_starts halive hup hsafe hpage]
    · exact State.askBlockReset_refused halive hrefused
  · have hblock : (s.written p).dockInst p = false := hinst
    exact ⟨fun hfixed hnew => State.onPage_written (·.setEnable p on) h (State.setEnable_changes hfixed hblock hnew),
      State.onPage_written (·.setQuiesce p on) h (State.setQuiesce_block on hblock),
      fun hfixed hoff hfault => State.onPage_written (·.setFence p true) h (State.setFence_fences hfixed hoff hfault),
      fun hfixed hon => State.onPage_written (·.setFence p false) h (State.setFence_restores hfixed hon)⟩

end Sys2Proof.Machine
end

section
/-! PROOFS. Resets narrower than the chip (R68, R71–R73). -/

namespace Sys2Proof.Machine

/-- With no reset in force or waiting, and no pulse and no burn, a narrow reset takes effect at once. -/
theorem State.askNarrow_at_once {s : State} (k : ResetKind) (hp : s.boot.poc = false) (hl : s.boot.rstLow = false)
    (hw : s.boot.waiting = []) (hf : s.boot.fuse = none) : s.askNarrow k false = s.narrowReset k := by
  simp [State.askNarrow, State.absorbs, hp, hl, hw, hf]

/-- With a pulse in progress it is the one that waits. -/
theorem State.askNarrow_waits {s : State} (k : ResetKind) (hp : s.boot.poc = false) (hl : s.boot.rstLow = false)
    (hw : s.boot.waiting = []) : s.askNarrow k true = { s with boot := { s.boot with waiting := [k] } } := by
  simp [State.askNarrow, State.absorbs, State.await, hp, hl, hw]

end Sys2Proof.Machine
end

section
/-! PROOFS. The Counlet engine below its requests: card reset, answer to reset, parameter selection, and the errors of
characters and frames (R68, R114–R119, R121, R123, R124; logs 22, 107, 116 and 117). -/

namespace Sys2Proof.Machine

/-! ## Card reset (R68, R118) -/

/-- A low pulse of CRST_N that is honoured for its length asks a card for the reset of its engine. -/
theorem execCrstNLow_long {ns : Nat} (pulse : Bool) {s : State} (hcard : s.isCard = true) (hns : 500 ≤ ns) :
    execCrstNLow ns pulse s = .next (({ s with pins := { s.pins with crstHigh := false } } : State).askNarrow .crstN
      pulse) := by
  have hlong : ¬ ns < 500 := Nat.not_lt.mpr hns
  simp only [execCrstNLow, hcard, hns, hlong, decide_true, decide_false, Bool.and_false, Bool.true_or, Bool.and_self,
    Bool.false_eq_true, if_false, if_true]

/-- A glitch of CRST_N has no effect. -/
theorem execCrstNLow_short {ns : Nat} (pulse : Bool) (s : State) (hns : ns < 200) :
    execCrstNLow ns pulse s = .next s := by
  have hlow : ¬ 200 ≤ ns := by omega
  have hlong : ¬ 500 ≤ ns := by omega
  simp only [execCrstNLow, hlow, hlong, decide_false, Bool.false_and, Bool.or_self, Bool.false_eq_true, if_false]

theorem execCrstNRelease_card {s : State} (hcard : s.isCard = true) (hpoc : s.boot.poc = false)
    (hlow : s.pins.crstHigh = false) :
    execCrstNRelease s = .next (((({ s with pins := { s.pins with crstHigh := true } } : State).setFld (CN_ETU_ETU 0)
      372).setFld (CN_STAT_FIDI 0) 0x11).askAtr) := by
  have hcard' : ({ s with pins := { s.pins with crstHigh := true } } : State).isCard = true := hcard
  simp only [execCrstNRelease, hlow, hpoc, hcard', Bool.not_true, Bool.or_self, Bool.false_eq_true, if_false]

/-! ## The answer to reset (R119, R121) -/

/-- The card with its parameter string in CNA.CPS_0 to CPS_3 and the clock that it measures (log 22). -/
theorem execAnswerToReset_sends {s : State} (hcn : s.cardCn = true) (hdue : s.cnA.atrDue = true) :
    let t := ((List.range 4).foldl (fun (t : State) k =>
      t.setReg (rCN_CPS 0 k).off (BitVec.ofNat 32 (natBE (padTo 4 ((s.atrCps.drop (4 * k)).take 4))))) s).setFld
        (CN_CCLK_KHZ_KHZ 0) (Config.cclkKhz s.freeCtr).toNat
    execAnswerToReset s = .next (((({ t.spend with cnA := { t.cnA with atrDue := false, ppsOpen := true } } :
      State).setFld (CN_STAT_STATE 0) 3).emit (.atr s.atrBytes)).fire (EV_CN_ATR_DONE 0)) := by
  simp only [execAnswerToReset, hcn, hdue, Bool.not_true, Bool.or_self, Bool.false_eq_true, if_false]
  rfl

/-! ## Parameter selection (R116, R117) -/

/-- Characters arrive as they are where no injection of the page is active (R146). -/
theorem State.cnChars_plain {s : State} {p : Nat} (h : s.flag (INJ_CTRL_ACTIVE (pCN p)) = false) :
    s.cnChars p = (true, s) := by
  simp only [State.cnChars, State.injects, h, Bool.false_and, Bool.false_eq_true, if_false]

section
variable {s : State} {pps0 pps1 pck : Nat} (hlistens : s.cnListens = true) (hopen : (s.wake 2).cnA.ppsOpen = true)
  (hinj : (s.wake 2).flag (INJ_CTRL_ACTIVE (pCN 0)) = false) (hpps0 : pps0 < 256) (hpps1 : pps1 < 256)
include hlistens hopen hinj hpps0 hpps1

/-- A PPS request in its place with a good check byte is taken. -/
theorem execPpsRequest_good : execPpsRequest pps0 pps1 (0xFF ^^^ pps0 ^^^ pps1) s =
    .next ((s.wake 2).shutPps.ppsTaken pps0 pps1 (0xFF ^^^ pps0 ^^^ pps1)) := by
  have hpck : (0xFF ^^^ pps0 ^^^ pps1) % 256 = 0xFF ^^^ pps0 ^^^ pps1 :=
    Nat.mod_eq_of_lt (Nat.xor_lt_two_pow (n := 8) (Nat.xor_lt_two_pow (by decide) hpps0) hpps1)
  simp only [execPpsRequest, hlistens, State.cnChars_plain hinj, hopen, hpck, Nat.mod_eq_of_lt hpps0,
    Nat.mod_eq_of_lt hpps1, Bool.not_true, ne_eq, not_true_eq_false, Bool.false_eq_true, if_false]

/-- One with another check byte is a frame error (log 116). -/
theorem execPpsRequest_bad (hpck : pck % 256 ≠ 0xFF ^^^ pps0 ^^^ pps1) : execPpsRequest pps0 pps1 pck s =
    .next ((s.wake 2).shutPps.frameError 0 0xFF 3) := by
  simp only [execPpsRequest, hlistens, State.cnChars_plain hinj, hopen, hpck, Nat.mod_eq_of_lt hpps0,
    Nat.mod_eq_of_lt hpps1, Bool.not_true, ne_eq, not_false_eq_true, Bool.false_eq_true, if_false, if_true]

end

/-- A pair of R116 is echoed and put in force. -/
theorem State.ppsTaken_echoes (s : State) {pps1 : Nat} (pck : Nat) (hknown : fidiKnown pps1 = true) :
    s.ppsTaken 0x1E pps1 pck = ((((s.emit (.counlet 0 [0xFF, 0x1E, BitVec.ofNat 8 pps1, BitVec.ofNat 8 pck])).setFld
      (CN_STAT_FIDI 0) pps1).setFld (CN_ETU_ETU 0) (etuOf pps1)).fire (EV_CN_PPS_DONE 0)) :=
  if_pos ⟨rfl, hknown⟩

/-- Any other request is answered FF 0E F1 (log 107). -/
theorem State.ppsTaken_refuses (s : State) {pps0 pps1 : Nat} (pck : Nat) (h : pps0 ≠ 0x1E ∨ fidiKnown pps1 = false) :
    s.ppsTaken pps0 pps1 pck = s.emit (.counlet 0 [0xFF, 0x0E, 0xF1]) := by
  refine if_neg ?_
  rintro ⟨hpps0, hknown⟩
  rcases h with h | h
  · exact h hpps0
  · exact Bool.false_ne_true (h.symm.trans hknown)

/-! ## Errors (R114, R115, R124) -/

theorem execCharWaitTimeout_runs {port : Nat} (op index : Nat) {s : State} (h : s.cnAlive port = true) :
    execCharWaitTimeout port op index s =
      .next ((if s.isCard then (s.wake 2).shutPps else s).frameError port op index) :=
  congrArg _ (if_pos h)

/-- A frame whose length or check is wrong ends parameter selection and is a frame error of the card. -/
theorem State.cardBadFrame_check {s : State} (op index : Nat) {bytes : List Byte}
    (h : bytes.length ≠ (bytes.getD 2 0).toNat + 5 ∨
      bytes.drop (bytes.length - 2) ≠ bytesBE 2 (Crypto.crc16 (bytes.take (bytes.length - 2)))) :
    s.cardBadFrame op index bytes = s.shutPps.frameError 0 op index := if_pos h

/-- With no character refused and none signalled, a card looks at the frame. -/
theorem execCounletBadFrame_card {port op index : Nat} {bytes : List Byte} {s : State} (halive : s.cnAlive port = true)
    (hcard : s.isCard = true) (hbytes : bytes ≠ []) :
    execCounletBadFrame port 0 0 op index bytes s = .next ((s.wake 2).cardBadFrame op index bytes) := by
  have hsome : bytes.isEmpty = false := List.isEmpty_eq_false_iff.mpr hbytes
  simp only [execCounletBadFrame, halive, hcard, hsome, State.charSignalled, Nat.not_lt_zero, Bool.not_true, or_self,
    Bool.false_eq_true, if_false, if_true]

/-- On a dock a character refused more than REPEAT_MAX times is all that counts, beside those it signalled. -/
theorem execCounletBadFrame_abandons {port refused parity op index : Nat} {bytes : List Byte} {s : State}
    (halive : s.cnAlive port = true) (hdock : s.isDock = true) (hmax : s.fld (CN_CFG_REPEAT_MAX port) < refused)
    (hparity : parity ≠ 0) : execCounletBadFrame port refused parity op index bytes s =
      .next (((s.bumpBy (CN_ERR_CNT_REPEATS port) parity).fire (EV_CN_CHAR_REPEAT port)).charRefused port refused op
        index) := by
  have hcard : s.isCard = false := by
    cases hrole : s.role <;> simp_all [State.isDock, State.isCard]
  have hrefused : refused ≠ 0 := by omega
  simp only [execCounletBadFrame, halive, hcard, hmax, hrefused, hparity, State.charSignalled, Bool.not_true, true_or,
    Bool.false_eq_true, if_false, if_true]

/-! ## Repetitions (R123) -/

theorem State.cnA_wake (s : State) (cause : Nat) : (s.wake cause).cnA = s.cnA := by
  unfold State.wake
  repeat' split
  all_goals rfl

theorem State.Fired.cnA_eq {s t : State} (h : s.Fired t) : t.cnA = s.cnA := by
  rw [State.Fired] at h
  rw [h]

theorem State.fired_charSignalled {s t : State} (h : s.Fired t) (p n : Nat) : s.Fired (t.charSignalled p n) := by
  unfold State.charSignalled
  split
  · exact h
  · exact State.fired_fire (State.fired_setFld h _ _) _

theorem State.fired_frameError {s t : State} (h : s.Fired t) (p op index : Nat) : s.Fired (t.frameError p op index) :=
  State.fired_fireD (State.fired_bump h _) _ _ _

theorem State.fired_cnChars (s : State) (p : Nat) : s.Fired (s.cnChars p).2 := by
  unfold State.cnChars
  split
  · exact State.fired_injUsed (State.fired_charSignalled (.refl s) _ _) _ _
  · exact .refl s

/-- A frame that arrives changes what an event and a counter change. -/
theorem State.fired_cnReceive (s : State) (p op : Nat) : s.Fired (s.cnReceive p op).2 := by
  have hchars := s.fired_cnChars p
  unfold State.cnReceive
  dsimp only
  split
  · exact hchars
  · split
    · exact State.fired_injUsed hchars _ _
    · exact State.fired_frameError (State.fired_injUsed hchars _ _) _ _ _

/-- The answer that a card remembers stands while a frame arrives. -/
theorem State.last_cnArrived (s : State) (op : Nat) : (s.cnArrived op).2.cnA.last = s.cnA.last := by
  have hfired : (s.cnArrived op).2.cnA = (s.wake 2).shutPps.cnA :=
    State.Fired.cnA_eq ((s.wake 2).shutPps.fired_cnReceive 0 op)
  rw [hfired, State.shutPps, State.cnA_wake]

/-- A repetition of the request that the card has answered last is answered again. -/
theorem execCounletRepeatedRequest_again {op seq : Nat} {frame : List Byte} {s : State} (hlistens : s.cnListens = true)
    (harrives : (s.cnArrived op).1 = true) (hlast : s.cnA.last = some (op, seq % 256, frame)) :
    execCounletRepeatedRequest op seq s = .next ((s.cnArrived op).2.emit (.counlet 0 frame)) := by
  simp only [State.cnArrived] at harrives ⊢
  simp only [execCounletRepeatedRequest, hlistens, harrives, hlast, Option.filter_some, BEq.rfl, Bool.and_self,
    Bool.not_true, Bool.false_eq_true, if_false, if_true]

/-! ## The commands -/

/-- Settles O32: each command by its own lemmas. -/
theorem counletCharacterCommands : Obligations.CounletCharacterCommands := by
  unfold Obligations.CounletCharacterCommands
  refine ⟨?_, fun s hcard hp hlow => execCrstNRelease_card hcard hp hlow,
    fun s hcn hdue => execAnswerToReset_sends hcn hdue, ?_,
    fun port op index s halive => execCharWaitTimeout_runs op index halive, ?_, ?_⟩
  · intro ns s hcard hp hl hw t
    refine ⟨fun hns hf => ?_, fun hns => ?_, fun hns pulse => execCrstNLow_short pulse s hns⟩
    · exact (execCrstNLow_long false hcard hns).trans (congrArg _ (State.askNarrow_at_once (s := t) .crstN hp hl hw hf))
    · exact (execCrstNLow_long true hcard hns).trans (congrArg _ (State.askNarrow_waits (s := t) .crstN hp hl hw))
  · intro pps1 s hlistens hopen hinj hpps1 t pck
    refine ⟨fun hknown => ?_, fun pps0 hpps0 h => ?_, fun pps0 bad hpps0 hbad => ?_⟩
    · exact (execPpsRequest_good hlistens hopen hinj (by decide) hpps1).trans
        (congrArg _ (t.ppsTaken_echoes (pck 0x1E) hknown))
    · exact (execPpsRequest_good hlistens hopen hinj hpps0 hpps1).trans (congrArg _ (t.ppsTaken_refuses (pck pps0) h))
    · exact execPpsRequest_bad hlistens hopen hinj hpps0 hpps1 hbad
  · intro port op index bytes s halive
    refine ⟨fun hcard hbytes hbad => ?_, fun refused parity hdock hmax hparity =>
      execCounletBadFrame_abandons halive hdock hmax hparity⟩
    exact (execCounletBadFrame_card halive hcard hbytes).trans (congrArg _ (State.cardBadFrame_check op index hbad))
  · intro op seq frame s hlistens harrives hlast
    exact execCounletRepeatedRequest_again hlistens harrives ((s.last_cnArrived op).symm.trans hlast)

end Sys2Proof.Machine
end

section
/-! PROOFS. What happens on the link below its frames: units and status frames, bad frames, a clock that stops, a link
reset, and the end of a SETTLE (R71, R166, R175, R179, R180, R186, R190, R191, R277; log 123). -/

namespace Sys2Proof.Machine

/-! ## Units from the host (R180, R186, R190, R191) -/

/-- The checks of a unit and of a status frame leave the commands that owe a unit. -/
theorem State.owing_injUsed (s : State) (p k : Nat) : (s.injUsed p k).owing = s.owing := by
  simp only [State.owing, State.injUsed_spA]

theorem State.owing_unitHeard (s : State) : s.unitHeard.owing = s.owing := by
  simp only [State.owing, State.unitHeard_spA]

/-- A unit that arrives at a card's link leaves the card as `cardUnit` does, and everything goes on. -/
theorem execHostUnitReceived_arrives {s t : State} {u : UnitIn} {rb : Bool} {lat : Nat} {env : List MediaRead}
    (hlink : s.cardLink = true) (ht : s.cardUnit u rb lat env = t) :
    execHostUnitReceived u rb lat env s = .next t.unitsOn.cardPump.settle := by
  rw [execHostUnitReceived, if_pos hlink, State.unitArrives, ht]

section
variable {s : State} {u : UnitIn} {rb : Bool} {lat : Nat} {env : List MediaRead} {o : Outst} (ho : s.owing = some o)
include ho

/-- Lines that fail are the failing unit of the command that owes it. -/
theorem State.cardUnit_lines (hlines : u.mask (s.injBits (pSP 0) 1) ≠ 0xFF) :
    s.cardUnit u rb lat env = (s.injUsed (pSP 0) 1).unitFailed o (u.mask (s.injBits (pSP 0) 1)) := by
  have hout : (s.injUsed (pSP 0) 1).owing = some o := (s.owing_injUsed _ _).trans ho
  simp only [State.cardUnit, hlines, hout, if_false]

/-- A whole unit with the tag of its ciphertext is stored, while the epoch may move units. -/
theorem State.cardUnit_stored {plain : List Byte} (hplain : s.unitPlain o u = some plain)
    (hspent : s.unitHeard.unitsSpent 0 o.epoch = false) :
    s.cardUnit u rb lat env = s.unitHeard.unitStored o plain rb lat env := by
  have hout : s.unitHeard.owing = some o := s.owing_unitHeard.trans ho
  have hlines : u.mask (s.injBits (pSP 0) 1) = 0xFF := by
    refine Decidable.byContradiction fun hne => ?_
    rw [State.unitPlain, if_neg hne] at hplain
    cases hplain
  have hunit : s.unitHeard.hostUnit o.epoch o.inst o.tag o.next o.fc u.ct ((s.injUsed (pSP 0) 1).tagOf 0 u) =
      some plain := by
    rw [← hplain, State.unitPlain, if_pos hlines]
  rw [State.cardUnit]
  simp only [hlines, if_true]
  rw [← State.unitHeard, State.wholeUnit]
  simp only [hout, hunit, hspent, Bool.false_eq_true, if_false]

/-- A whole unit with another tag is one taken before, or forged. -/
theorem State.cardUnit_other (hlines : u.mask (s.injBits (pSP 0) 1) = 0xFF) (hplain : s.unitPlain o u = none) :
    s.cardUnit u rb lat env =
      if s.unitHeard.unitKnown u.ct ((s.injUsed (pSP 0) 1).tagOf 0 u) then s.unitHeard.emit (.status 0 true 0xFF)
      else s.unitHeard.unitForged o := by
  have hout : s.unitHeard.owing = some o := s.owing_unitHeard.trans ho
  have hunit : s.unitHeard.hostUnit o.epoch o.inst o.tag o.next o.fc u.ct ((s.injUsed (pSP 0) 1).tagOf 0 u) = none := by
    rw [← hplain, State.unitPlain, if_pos hlines]
  rw [State.cardUnit]
  simp only [hlines, if_true]
  rw [← State.unitHeard, State.wholeUnit]
  simp only [hout, hunit]

end

/-- A failing unit below the tries is answered with the lines that passed. -/
theorem State.unitFailed_again {s : State} (o : Outst) (lines : Nat)
    (h : o.fails + 1 < ((s.noteLines 0 lines o.tag).updOut o.fc (fun x => { x with fails := x.fails + 1 })).unitTries 0) :
    s.unitFailed o lines =
      ((s.noteLines 0 lines o.tag).updOut o.fc (fun x => { x with fails := x.fails + 1 })).emit (.status 0 true lines) :=
  if_neg (Nat.not_le.mpr h)

/-- The last try ends the command's data phase. -/
theorem State.unitFailed_exhausted {s : State} (o : Outst) (lines : Nat)
    (h : ((s.noteLines 0 lines o.tag).updOut o.fc (fun x => { x with fails := x.fails + 1 })).unitTries 0 ≤ o.fails + 1) :
    s.unitFailed o lines = (((s.noteLines 0 lines o.tag).updOut o.fc
      (fun x => { x with fails := x.fails + 1 })).noteExhausted 0 o.tag o.next).endPhase o 0x10 :=
  if_pos h

/-! ## Status frames (R179, R190) -/

/-- A status frame on a card is the token, with the complement that its check meets, of the unit that it sends (R199). -/
theorem execStatusFrameReceived_card {s t : State} {good : Bool} {token ntoken n : Nat} (hlink : s.linkUp 0 = true)
    (hcard : s.isCard = true) (hn : ntoken ^^^ s.injBits (pSP 0) 2 = n)
    (ht : (s.injUsed (pSP 0) 2).cardToken good token n = t) :
    execStatusFrameReceived 0 good token ntoken s = .next t.cardOn := by
  simp only [execStatusFrameReceived, hlink, hcard, hn, ht, Bool.not_true, Bool.false_eq_true, if_false, if_true]

section
variable {s : State} {o : Outst} (ho : s.spA.outst.find? (·.sending) = some o)
include ho

theorem State.cardToken_taken : s.cardToken true 0xFF 0 = s.unitTaken o := by
  simp [State.cardToken, ho]

theorem State.cardToken_aborts : s.cardToken true 0 0 = s.done o 0x10 o.next := by
  simp [State.cardToken, ho]

/-- A token with its complement that is not all-pass is a miss that was heard. -/
theorem State.cardToken_missed {token n : Nat} (hlt : token < 255) (hn : n + token = 255) :
    s.cardToken true token n = s.unitMissed o true := by
  have hnoabort : ¬ (token = 0 ∧ n = 0) := by omega
  have hsome : token ≠ 0xFF := by omega
  simp [State.cardToken, ho, hn, hsome, hnoabort]

/-- A frame that does not pass its check is a miss that was not heard. -/
theorem State.cardToken_bad (token n : Nat) : s.cardToken false token n = s.unitMissed o false := by
  simp [State.cardToken, ho]

end

/-- The wait for the token of the unit that a card sends ends. -/
theorem execTokenWaitExpiry_card {s : State} {o : Outst} (hlink : s.linkUp 0 = true) (hcard : s.isCard = true)
    (ho : s.spA.outst.find? (·.sending) = some o) : execTokenWaitExpiry 0 s = .next (s.unitMissed o false).cardOn := by
  simp only [execTokenWaitExpiry, hlink, hcard, ho, Bool.not_true, Bool.false_eq_true, if_false, if_true]

/-- A dock takes the token of its own unit. -/
theorem execStatusFrameReceived_dock {s : State} {p token ntoken : Nat} (hlink : s.linkUp p = true)
    (hdock : s.isCard = false) (hn : (ntoken ^^^ s.injBits (pSP p) 2) + token = 255) :
    execStatusFrameReceived p true token ntoken s =
      .next ((((s.injUsed (pSP p) 2).dockToken p true token).drive p).pump) := by
  have hvalid : (true && token + (ntoken ^^^ s.injBits (pSP p) 2) == 255) = true := by
    rw [Nat.add_comm, hn]
    rfl
  simp only [execStatusFrameReceived, hlink, hdock, hvalid, Bool.not_true, Bool.false_eq_true, if_false]

theorem execTokenWaitExpiry_dock {s : State} {p : Nat} (hlink : s.linkUp p = true) (hdock : s.isCard = false) :
    execTokenWaitExpiry p s = .next (s.unitAgain p false) := by
  simp only [execTokenWaitExpiry, hlink, hdock, Bool.not_true, Bool.false_eq_true, if_false]

/-! ## Bad frames, the clock and link resets (R71, R166, R175) -/

theorem execSpantoenBadFrame_counts {s : State} {p : Nat} (h : s.linkUp p = true) :
    execSpantoenBadFrame p s = .next ((s.injUsed (pSP p) 0).badFrame p) := congrArg _ (if_pos h)

theorem State.isCard_of_cardLink {s : State} (h : s.cardLink = true) : s.isCard = true := by
  simp only [State.cardLink, Bool.and_eq_true] at h
  simp only [h]

/-- A link reset of a card's link takes effect where no reset is in force or waits, and no pulse and no burn. -/
theorem execLinkResetDetect_resets {s : State} (hlink : s.cardLink = true) (hp : s.boot.poc = false)
    (hl : s.boot.rstLow = false) (hw : s.boot.waiting = []) (hf : s.boot.fuse = none) :
    execLinkResetDetect 0 false s = .next ((s.cardLinkReset.bump RST_LINK_RST_PORT_A).fire EV_RST_LINK_A) := by
  have hnarrow : s.narrowReset (.link 0) = (s.cardLinkReset.bump RST_LINK_RST_PORT_A).fire EV_RST_LINK_A := by
    simp only [State.narrowReset, State.isCard_of_cardLink hlink, hlink, State.countLinkReset, if_true]
  rw [execLinkResetDetect, if_pos ⟨rfl, hlink⟩, State.askNarrow_at_once _ hp hl hw hf, hnarrow]

/-- A card that is idle reports the clock that stopped. -/
theorem execCardClkStopDetect_reports {s : State} (hlink : s.cardLink = true) (hidle : s.spA.outst = [])
    (hruns : s.flag (SP_STAT_CLK_STOPPED 0) = false) :
    execCardClkStopDetect s = .next ((s.setFlag (SP_STAT_CLK_STOPPED 0) true).fire (EV_SP_CLK_STOPPED 0)) := by
  simp only [execCardClkStopDetect, hlink, hidle, hruns, List.isEmpty_nil, Bool.not_false, Bool.and_self, if_true]

/-- An idle port of a dock with STOP_EN stops its clock. -/
theorem execSclkStop_stops {s : State} {p : Nat} (hengine : s.dockEngine p = true) (hidle : s.portIdle p = true)
    (hstop : s.flag (SP_CLK_CFG_STOP_EN p) = true) (hsclk : (s.sp p).sclk = true) :
    execSclkStop p s = .next ((((s.setSp p { s.sp p with sclk := false }).setFlag (SP_STAT_CLK_STOPPED p) true).emit
      (.sclk p false)).fire (EV_SP_CLK_STOPPED p)) := by
  simp only [execSclkStop, hengine, hidle, hstop, hsclk, State.stopClock, Bool.and_self, if_true]

/-! ## The end of a SETTLE (R277) -/

theorem execSettleComplete_ends {s : State} {o : Outst} {tag : Nat} (hcard : s.isCard = true) (hsettled : s.settled o = true)
    (ho : s.spA.outst.find? (fun o => o.op == 7 && o.tag == tag && !o.held) = some o) :
    execSettleComplete tag s = .next ((s.writeLife.writeAnchor.done o 0x00 0).cardOn) := by
  simp only [execSettleComplete, ho, hcard, hsettled, Bool.and_self, if_true]

/-! ## The commands -/

/-- Settles O44: a unit is split by its lines, its tag and the tries left, a status frame by its token, and each other
command has its own lemma. -/
theorem linkEventCommands : Obligations.LinkEventCommands := by
  unfold Obligations.LinkEventCommands
  refine ⟨?_, ?_, fun p token ntoken s hlink hdock =>
      ⟨fun hn => execStatusFrameReceived_dock hlink hdock hn, execTokenWaitExpiry_dock hlink hdock⟩,
    fun p s hlink => execSpantoenBadFrame_counts hlink,
    fun s hlink hp hl hw hf => execLinkResetDetect_resets hlink hp hl hw hf,
    fun s hlink hidle hruns => execCardClkStopDetect_reports hlink hidle hruns,
    fun p s hengine hidle hstop hsclk => execSclkStop_stops hengine hidle hstop hsclk,
    fun tag s o hcard hsettled ho => execSettleComplete_ends hcard hsettled ho⟩
  · intro u rb lat env s o hlink ho w lines tag
    refine ⟨fun plain hplain hspent => ?_, ?_, fun hlines hplain => ⟨fun hknown => ?_, fun hknown => ?_⟩⟩
    · exact execHostUnitReceived_arrives hlink (State.cardUnit_stored ho hplain hspent)
    · intro hlines t
      have hfailed := State.cardUnit_lines (rb := rb) (lat := lat) (env := env) ho hlines
      exact ⟨fun htry => execHostUnitReceived_arrives hlink (hfailed.trans (State.unitFailed_again o lines htry)),
        fun htry => execHostUnitReceived_arrives hlink (hfailed.trans (State.unitFailed_exhausted o lines htry))⟩
    · refine execHostUnitReceived_arrives hlink ((State.cardUnit_other ho hlines hplain).trans (if_neg ?_))
      exact fun hyes => Bool.false_ne_true (hknown.symm.trans hyes)
    · exact execHostUnitReceived_arrives hlink ((State.cardUnit_other ho hlines hplain).trans (if_pos hknown))
  · intro s o hlink hcard ho t
    have hsends : t.spA.outst.find? (·.sending) = some o := by rw [State.injUsed_spA]; exact ho
    refine ⟨?_, execTokenWaitExpiry_card hlink hcard ho⟩
    intro token ntoken n
    refine ⟨?_, ?_, fun hlt hn => ?_, ?_⟩
    · rintro rfl hn
      exact execStatusFrameReceived_card hlink hcard hn (State.cardToken_taken hsends)
    · rintro rfl hn
      exact execStatusFrameReceived_card hlink hcard hn (State.cardToken_aborts hsends)
    · exact execStatusFrameReceived_card hlink hcard rfl (State.cardToken_missed hsends hlt hn)
    · exact execStatusFrameReceived_card hlink hcard rfl (State.cardToken_bad hsends token n)

end Sys2Proof.Machine
end

section
/-! PROOFS. What a word that reads corrected in the tree's area does to bring-up step 8 (R61, R261, R366). -/

namespace Sys2Proof.Machine

/-- A card in bring-up step 8 with blank keys, in whose MRAM one word of the integrity tree's area reads corrected. -/
def treeWordCorrected : State :=
  ({ State.reset with boot := { poc := false }, ecc := [(0x384000, 1)] } : State).setFld SYS_BRINGUP_STEP 8

/-- It is in order. -/
theorem ok_treeWordCorrected : treeWordCorrected.Ok := ⟨rfl, rfl, rfl, rfl⟩

/-- It goes on to step 9 by checking the tree's root, but for the word that the step reads on the way. -/
theorem endStep8_treeWordCorrected (e : StepIn) :
    exec (.bringupStepDone e) treeWordCorrected = .next treeWordCorrected.endStep8 := rfl

/-- The word that step 8 reads is counted (R261). -/
theorem corrected_endStep8 : treeWordCorrected.endStep8.fld LND_ECC_CNT_CORRECTED = 1 := by decide

/-- The check of the tree's root alone counts no word. -/
theorem corrected_treeRootCheck :
    ((if treeWordCorrected.role = .card then treeWordCorrected.treeRootCheck else treeWordCorrected).setFld
      SYS_BRINGUP_STEP 9).fld LND_ECC_CNT_CORRECTED = 0 := by decide

/-- Refutes O21: step 8 reads the words of the tree's area and counts those that read corrected, which the state that the
statement names leaves out. -/
theorem not_bringUpStepsInOrder : ¬ Obligations.BringUpStepsInOrder := by
  unfold Obligations.BringUpStepsInOrder
  intro ⟨hsteps, _⟩
  obtain ⟨_, _, _, _, _, _, _, _, _, _, hstep8, _⟩ := hsteps {} treeWordCorrected rfl rfl rfl rfl
  have hstate := Host.Outcome.next.inj ((endStep8_treeWordCorrected {}).symm.trans (hstep8 rfl))
  have hcount := congrArg (State.fld · LND_ECC_CNT_CORRECTED) hstate
  simp only [corrected_endStep8, corrected_treeRootCheck] at hcount
  exact absurd hcount (by decide)

end Sys2Proof.Machine
end

section
/-! PROOFS. A page that is absent in the latched role: what it reads; it takes no write and fires no event (R95). -/

namespace Sys2Proof.Machine

section
variable {s : State} {p : Nat}

/-- Past PG_ID and PG_VER an absent page of the map has one word that is not zero, PG_STAT with ABSENT set alone. -/
theorem State.regRead_absent {o : Nat} (hcode : (pageCode p).isSome = true) (habsent : pagePresent s.role p = false)
    (ho : o < 4096) (hid : o / 4 * 4 ≠ 0x000) (hver : o / 4 * 4 ≠ 0x004) :
    (s.regRead (4096 * p + o)).1 = if o / 4 * 4 = 0x00C then 0x20 else 0 := by
  have hp : p < 0x50 := lt_of_pageCode_isSome hcode
  have hword : (4096 * p + o) % 1048576 / 4 * 4 = 4096 * p + o / 4 * 4 := by omega
  have hpage : (4096 * p + o / 4 * 4) / 4096 % 256 = p := by omega
  have hoff : (4096 * p + o / 4 * 4) % 4096 / 4 * 4 = o / 4 * 4 := by omega
  have hmapped : (pageCode p).isNone = false := Option.isNone_eq_false_iff.mpr hcode
  rw [State.regRead_fst, hword]
  simp only [State.regWord, hpage, hoff, hmapped, hid, hver, habsent, Bool.not_false, Bool.false_eq_true, if_false,
    if_true]

theorem State.regWrite_absent {o : Nat} (v be : Nat) (hp : p < 256) (habsent : pagePresent s.role p = false)
    (ho : o < 4096) : s.regWrite (4096 * p + o) v be = s := by
  have hpage : (4096 * p + o) / 4096 % 256 = p := by omega
  simp only [State.regWrite, hpage]
  exact if_pos (.inr (by simp [State.pageTakes, habsent]))

theorem evtInRole_absent {r : Role} (k : Nat) (habsent : pagePresent r p = false) : evtInRole r p k = false := by
  simp only [evtInRole, habsent, Bool.false_and]

/-- An event of an absent page, or of the other role, does not fire (R95, R102). -/
theorem State.fireFull_not_inRole {k : Nat} (inst : Option Nat) (dA dB : Nat) (test : Bool)
    (h : evtInRole s.role p k = false) : s.fireFull (p, k) inst dA dB test = s := by
  rw [State.fireFull, h]
  rfl

end

/-- Settles O7: PG_ID and PG_VER read as on every page of the map, and the rest by the page's absence. -/
theorem absentPagesReadAndIgnore : Obligations.AbsentPagesReadAndIgnore := by
  unfold Obligations.AbsentPagesReadAndIgnore
  intro s p code replica hcode habsent
  have hmapped : (pageCode p).isSome = true := Option.isSome_of_eq_some hcode
  have hp : p < 256 := Nat.lt_trans (lt_of_pageCode_isSome hmapped) (by decide)
  refine ⟨?_, (s.regRead_pgVer hp).trans (pageVer_of_pageCode_isSome hmapped),
    State.regRead_absent hmapped habsent (by decide) (by decide) (by decide), fun o ho hid hver hstat => ?_,
    fun o v be ho => State.regWrite_absent v be hp habsent ho,
    fun k inst dA dB test => State.fireFull_not_inRole inst dA dB test (evtInRole_absent k habsent)⟩
  · rw [s.regRead_pgId hp, pageId, hcode]
  · rw [State.regRead_absent hmapped habsent ho hid hver, if_neg hstat]

end Sys2Proof.Machine
end

section
/-! PROOFS. What an event that fires changes (R95, R98, R103, R105–R108). -/

namespace Sys2Proof.Machine

/-- The MRAM, its ECC states and the fuses are none of what an event changes. -/
theorem State.Fired.ok {s t : State} (h : s.Fired t) (hregs : Sparse.wf regReset t.regs = true) (hs : s.Ok) : t.Ok := by
  obtain ⟨_, hmram, hecc, hotp⟩ := hs
  unfold State.Fired at h
  have mram_eq : t.mram = s.mram := by rw [h]
  have ecc_eq : t.ecc = s.ecc := by rw [h]
  have otp_eq : t.otp = s.otp := by rw [h]
  exact ⟨hregs, mram_eq ▸ hmram, ecc_eq ▸ hecc, otp_eq ▸ hotp⟩

/-- Before bring-up step 11 an event of the role sets its RAW bit, and waits behind those held back (R103). -/
theorem State.fireFull_not_up {s : State} {p k : Nat} (inst : Option Nat) (dA dB : Nat) (test : Bool)
    (hrole : evtInRole s.role p k = true) (hup : s.up = false) : s.fireFull (p, k) inst dA dB test =
      { s.setFlag (bitFld (rEVT_RAW p).off k) true with
        held := s.held ++ [⟨p, k, inst, dA, dB, test, s.uptime, evtBase p + k, false⟩] } := by
  simp only [State.fireFull, hrole, hup, Bool.not_true, Bool.false_eq_true, if_false, State.held_setFlag]

/-- Settles O10: from what firing leaves alone, the registers that it may touch, and its two cases in which nothing is
delivered. -/
theorem firingTouchesOnlyEventState : Obligations.FiringTouchesOnlyEventState := by
  unfold Obligations.FiringTouchesOnlyEventState
  intro s p k inst dA dB test hok hk t
  have hregs : Sparse.wf regReset s.regs = true := hok.1
  have hfired : s.Fired t := State.fired_fireFull (State.Fired.refl s) (p, k) inst dA dB test
  have hkeeps : State.Keeps (evTouched (p, k) inst) s t := s.keeps_fireFull (p, k) inst dA dB test hk hregs
  refine ⟨hfired, hfired.ok hkeeps.wf hok, fun off hraw hpend hevt hins => hkeeps.reg off ?_, hkeeps.raw,
    s.raw_fireFull (p, k) inst dA dB test hk hregs, fun hrole hup => ?_,
    State.fireFull_not_inRole inst dA dB test⟩
  · rintro (h | h | h | ⟨n, hn, h⟩)
    · exact hraw h
    · exact hpend h
    · exact hevt h
    · exact hins n hn h
  · have hwaits : t = _ := State.fireFull_not_up inst dA dB test hrole hup
    rw [hwaits]
    exact ⟨rfl, rfl⟩

end Sys2Proof.Machine
end

section
/-! PROOFS. EVT_PEND, EVT_MASK, EVT_SET, the injection commands, and the tail of the event ring (R98, R100, R102, R105,
R110; logs 54 and 158). -/

namespace Sys2Proof.Machine

section
variable {s : State} {p : Nat}

/-- A command that writes a register of a page that takes writes does its part, and the engines go on. -/
theorem State.onPage_next {t : State} (f : State → State) (h : s.pageTakes p = true) (hf : f (s.touchPage p) = t) :
    (Host.Outcome.next (s.onPage p f) : Result) = .next t.settle :=
  congrArg _ ((State.onPage_takes f h).trans (congrArg State.settle hf))

/-! ## EVT_SET (R98, R102) -/

/-- On a page below the INS pages each event that the mask names fires as a test. -/
theorem State.evtTest_block (t : State) (mask : Nat) (hp : p < 0x40) :
    t.evtTest p mask = (List.range (evtCount p)).foldl (fun (u : State) k =>
      if bitAt mask k = true then
        (if evtOfInst p k then u.spend.fireFull (p, k) (some (Config.testInst u.freeCtr).toNat) 0 0 true
         else u.fireFull (p, k) none 0 0 true)
      else u) t := by
  unfold State.evtTest
  congr 1
  funext u k
  cases hk : bitAt mask k
  · rfl
  · simp only [Nat.not_le_of_lt hp, Bool.not_true, Bool.false_eq_true, if_false, if_true]

/-! ## INJ_ARM and INJ_CTRL (R100) -/

theorem State.touchPage_touchPage : (s.touchPage p).touchPage p = s.touchPage p := by
  simp only [State.touchPage, List.filter_filter, Bool.and_self]

theorem State.armInject_of_key {key : Nat} (hkey : key % 65536 = 0x5A1D) :
    (s.touchPage p).armInject p key = { s with injArmed := s.injArmed.filter (· != p) ++ [p] } := by
  rw [State.armInject, State.touchPage_touchPage, if_pos hkey]
  rfl

theorem State.armInject_of_other {key : Nat} (hkey : key % 65536 ≠ 0x5A1D) :
    (s.touchPage p).armInject p key = s.touchPage p := by
  rw [State.armInject, State.touchPage_touchPage, if_neg hkey]

theorem State.injWrite_armed (word : Nat) (harmed : s.injArmed.contains p = true)
    (hlock : s.flag (PG_LOCK_LOCK p) = false) (hchecker : noChecker p = false) :
    s.injWrite p word = (s.touchPage p).setReg (rINJ_CTRL p).off (BitVec.ofNat 32 word &&& 0x00FF03FF#32) := by
  simp only [State.injWrite, harmed, hlock, hchecker, Bool.not_false, Bool.and_self, if_true]

theorem State.injWrite_unarmed (word : Nat) (harmed : s.injArmed.contains p = false) :
    s.injWrite p word = s.touchPage p := by
  simp only [State.injWrite, harmed, Bool.false_and, Bool.false_eq_true, if_false]

theorem execInjCtrl_takes (word : Nat) (h : s.pageTakes p = true) : execInjCtrl p word s = .next (s.injWrite p word) :=
  congrArg _ (if_pos h)

end

/-! ## The commands -/

/-- Settles O25: each command does its part of the page as the write finds it. -/
theorem eventAndInjectionCommands : Obligations.EventAndInjectionCommands := by
  unfold Obligations.EventAndInjectionCommands
  refine ⟨fun p s h => ?_, fun p s => rfl, fun index s h => ?_, fun key s h => ?_⟩
  · exact ⟨fun mask => State.onPage_next (·.pendClear p mask) h rfl,
      fun mask => State.onPage_next (·.maskWrite p mask) h rfl,
      fun mask hp => State.onPage_next (·.evtTest p mask) h (State.evtTest_block _ mask hp),
      fun key hkey => State.onPage_next (·.armInject p key) h (State.armInject_of_key hkey),
      fun key hkey => State.onPage_next (·.armInject p key) h (State.armInject_of_other hkey),
      fun word harmed hlock hchecker =>
        (execInjCtrl_takes word h).trans (congrArg _ (State.injWrite_armed word harmed hlock hchecker)),
      fun word harmed => (execInjCtrl_takes word h).trans (congrArg _ (State.injWrite_unarmed word harmed))⟩
  · exact ⟨fun hheld => State.onPage_next (·.ringTailWrite index) h (if_pos hheld),
      fun hpast => State.onPage_next (·.ringTailWrite index) h (if_neg (Nat.not_le_of_lt hpast))⟩
  · exact ⟨fun hkey => State.onPage_next (·.ringClear key) h (if_pos hkey),
      fun hkey => State.onPage_next (·.ringClear key) h (if_neg hkey)⟩

end Sys2Proof.Machine
end

section
/-! PROOFS. The answer to reset: its length and its check character (R119, R120). -/

namespace Sys2Proof.Machine

/-- The Card Parameter String is H1 to H15, whatever it says (R120). -/
theorem State.length_cps (s : State) (bits ver : Nat) : (s.cps bits ver).length = 15 := by
  simp only [State.cps, List.length_append, List.length_cons, List.length_nil, length_bytesBE]

/-- Bytes followed by their exclusive-OR add up to zero bit by bit. -/
theorem foldl_xor_append_self (l : List Byte) : (l ++ [l.foldl (· ^^^ ·) 0]).foldl (· ^^^ ·) 0 = 0 := by
  rw [List.foldl_append]
  exact BitVec.xor_self

/-- Settles O14: TCK is the exclusive-OR of the characters after TS, which it therefore brings to zero. -/
theorem answerToResetLayout : Obligations.AnswerToResetLayout := by
  unfold Obligations.AnswerToResetLayout
  intro s
  have hlen : s.atrCps.length = 15 := s.length_cps _ _
  have hlayout : s.atrBytes = [0x3B, 0x9F, 0x96, 0x0E] ++ s.atrCps ++
      [([0x9F, 0x96, 0x0E] ++ s.atrCps).foldl (· ^^^ ·) 0] := rfl
  refine ⟨hlen, _, hlayout, rfl, foldl_xor_append_self ([0x9F, 0x96, 0x0E] ++ s.atrCps), ?_⟩
  rw [hlayout, List.length_append, List.length_append, hlen]
  rfl

end Sys2Proof.Machine
end

section
/-! PROOFS. The Counlet requests of a card that report, stage firmware and reset the link, and what ends a wait for KEY
(R122, R125, R137–R139, R370, R417, R450; logs 77, 86, 118 and 174). -/

namespace Sys2Proof.Machine

/-- A request of the right length that is served leaves the card as its operation does. -/
theorem State.cnIn_next {s t : State} {op seq : Nat} {lenOk : Bool} {i : Instr} {run : State → State}
    (hlen : lenOk = true) (h : s.cnServes op seq = true) (hrun : run (s.cnHeard op) = t) :
    (Host.Outcome.next (s.cnIn op seq lenOk i run) : Result) = .next t := by
  rw [hlen, State.cnIn_serves s op seq i run h, hrun]

/-! ## Registers (R137) -/

theorem State.cnRegRd_word (s : State) (seq : Nat) {off : Nat} (haligned : off % 4 = 0) (hoff : off < 0x100000) :
    s.cnRegRd seq off = (s.regRead off).2.cnAnswer 0x30 seq 0x00 (bytesBE 4 (s.regRead off).1) :=
  if_neg (fun h => h.elim (· haligned) (Nat.not_le.mpr hoff))

theorem State.cnRegRd_outOfRange (s : State) (seq : Nat) {off : Nat} (h : off % 4 ≠ 0 ∨ 0x100000 ≤ off) :
    s.cnRegRd seq off = s.cnAnswer 0x30 seq 0x30 [] := if_pos h

section
variable {seq off : Nat} {s : State} (h : s.cnServes 0x30 seq = true)
include h

/-- REG_RD of a word of the window answers the word, and leaves what reading it leaves. -/
theorem execCounletRegRd_word (haligned : off % 4 = 0) (hoff : off < 0x100000) :
    execCounletRegRd seq off s = .next (((s.cnHeard 0x30).regRead off).2.cnAnswer 0x30 (seq % 256) 0x00
      (bytesBE 4 ((s.cnHeard 0x30).regRead off).1)) :=
  State.cnIn_next rfl h (State.cnRegRd_word _ _ haligned hoff)

/-- REG_RD off alignment or past the window answers OUT_OF_RANGE. -/
theorem execCounletRegRd_outOfRange (hoff : off % 4 ≠ 0 ∨ 0x100000 ≤ off) :
    execCounletRegRd seq off s = .next ((s.cnHeard 0x30).cnAnswer 0x30 (seq % 256) 0x30 []) :=
  State.cnIn_next rfl h (State.cnRegRd_outOfRange _ _ hoff)

end

/-- Settles O8: the two cases of REG_RD. -/
theorem counletRegRdAnswers : Obligations.CounletRegRdAnswers := by
  unfold Obligations.CounletRegRdAnswers
  exact fun seq off s h => ⟨execCounletRegRd_outOfRange h, execCounletRegRd_word h⟩

/-! ## Reports (R122, R125, R417) -/

section
variable {seq count : Nat} {s : State} (start : Nat) (h : s.cnServes 0x04 seq = true)
include h

/-- HIST_READ of a number of entries that one answer holds. -/
theorem execHistRead_entries (hcount : 1 ≤ count ∧ count ≤ 15) : execHistRead seq start count s =
    .next ((s.cnHeard 0x04).cnAnswer 0x04 (seq % 256) 0x00 ((s.cnHeard 0x04).cnHist (start % 256) count)) :=
  State.cnIn_next rfl h (if_pos hcount)

/-- HIST_READ of another number answers NOT_PERMITTED (log 77). -/
theorem execHistRead_refuses (hcount : count = 0 ∨ 15 < count) : execHistRead seq start count s =
    .next ((s.cnHeard 0x04).cnAnswer 0x04 (seq % 256) 0x32 []) :=
  State.cnIn_next rfl h (if_neg (by omega))

end

/-- An answer is one frame, which is remembered; CNA.STAT shows its SEQ; and what was asked of the landing store before
it is served (log 6). -/
theorem State.cnAnswer_eq (s : State) (op seq st : Nat) (payload : List Byte) :
    s.cnAnswer op seq st payload =
      { ({ s with cnA := { s.cnA with
            last := some (op, seq, cnFrame (respOp op) seq (BitVec.ofNat 8 st :: payload)) } } : State).setFld
          (CN_STAT_LAST_SEQ 0) seq with
        out := s.out ++ [.counlet 0 (cnFrame (respOp op) seq (BitVec.ofNat 8 st :: payload))], mq := {} } := rfl

/-- Settles O33: each request that is served answers what its operation reports. -/
theorem counletReportRequests : Obligations.CounletReportRequests := by
  unfold Obligations.CounletReportRequests
  exact ⟨fun seq s h => State.cnIn_next rfl h rfl, fun seq s h => State.cnIn_next rfl h rfl,
    fun seq s h => State.cnIn_next rfl h rfl,
    fun seq start count s h => ⟨execHistRead_entries start h, execHistRead_refuses start h⟩,
    fun seq off s h => ⟨fun hin => execCounletRegRd_word h hin.1 hin.2, execCounletRegRd_outOfRange h⟩,
    fun op seq st payload s => s.cnAnswer_eq op seq st payload, fun op _ => rfl⟩

/-! ## Firmware, the link, and the wait for KEY (R138, R139, R370) -/

/-- FW_SLOT_WRITE at an aligned offset with clean CONTROL stages its bytes. -/
theorem State.cnSlotWrite_stages (s : State) (seq : Nat) {control off : Nat} (data : List Byte) (haligned : off % 4 = 0)
    (hclean : bitsOf control 1 6 = 0) : s.cnSlotWrite seq control off data =
      (s.stageBytes (bitsOf control 0 1) off data (bitAt control 7)).2.cnAnswer 0x38 seq
        (s.stageBytes (bitsOf control 0 1) off data (bitAt control 7)).1 [] :=
  if_neg (fun h => h.elim (· haligned) (· hclean))

/-- FW_SLOT_WRITE of 4 to 248 bytes in fours is a request of the right length. -/
theorem execFwSlotWrite_serves {seq : Nat} (control off : Nat) {data : List Byte} {s : State} (hlo : 4 ≤ data.length)
    (hhi : data.length ≤ 248) (hfours : data.length % 4 = 0) (h : s.cnServes 0x38 seq = true) :
    execFwSlotWrite seq control off data s = .next ((s.cnHeard 0x38).cnSlotWrite (seq % 256) control off data) :=
  State.cnIn_next (by simp only [hlo, hhi, hfours, decide_true, BEq.rfl, Bool.and_self]) h rfl

/-- The wait that ends on a card whose KEY starts no operation is that of its oldest request for KEY (log 86). -/
theorem execKeyQuiesceHoldExpiry_ends {h : HeldCn} {s : State} (hcard : s.isCard = true) (hholds : s.keyHolds = true)
    (hfind : s.keys.heldReq.find? HeldCn.forKey = some h) :
    let t : State := { s with keys := { s.keys with heldReq := s.keys.heldReq.erase h } }
    execKeyQuiesceHoldExpiry s =
      .next (if h.lost then t else t.cnRefuse (heldOp h.req).1 ((heldOp h.req).2 % 256) 0x33) := by
  simp only [execKeyQuiesceHoldExpiry, State.expireHeld, hcard, hholds, hfind, Bool.and_self, if_true]

/-- Settles O36: each request by its own lemma, and the wait split by whether its answer is lost. -/
theorem counletServiceRequests : Obligations.CounletServiceRequests := by
  unfold Obligations.CounletServiceRequests
  refine ⟨?_, fun seq s h => State.cnIn_next rfl h rfl, ?_⟩
  · intro seq control off data s hlo hhi hfours haligned hclean h
    exact (execFwSlotWrite_serves control off hlo hhi hfours h).trans
      (congrArg _ (State.cnSlotWrite_stages _ _ data haligned hclean))
  · intro h s hcard hholds hfind t
    have hends := execKeyQuiesceHoldExpiry_ends hcard hholds hfind
    exact ⟨fun hkept => hends.trans (congrArg _ (if_neg (Bool.eq_false_iff.mp hkept))),
      fun hlost => hends.trans (congrArg _ (if_pos hlost))⟩

end Sys2Proof.Machine
end

section
/-! PROOFS. Pairing over Counlet at the card's end: to begin, to prove, to enrol and to drop (R129–R133; logs 84 and
85). -/

namespace Sys2Proof.Machine

/-! ## PAIR_BEGIN (R129, R132) -/

/-- PAIR_BEGIN of the stepping draws a nonce and keeps what was begun. -/
theorem State.cnPairBegin_begins (s : State) (seq : Nat) (mode : PairMode) (nonce : List Byte) (hrng : s.rngUp = true) :
    s.cnPairBegin seq 0xB0 mode nonce =
      (({ s.drawNonce with cnA := { s.drawNonce.cnA with pair := mode, nonceH := nonce, nonceC := s.pairNonce } } :
        State).cnAnswer 0x20 seq 0x00 (bytesBE 1 s.slotsUsed ++ s.pairNonce)) := by
  simp only [State.cnPairBegin, hrng, ne_eq, not_true_eq_false, Bool.not_true, Bool.false_eq_true, if_false]

/-- PAIR_BEGIN of another stepping is refused. -/
theorem State.cnPairBegin_stepping (s : State) (seq : Nat) {stepping : Nat} (mode : PairMode) (nonce : List Byte)
    (hother : stepping ≠ 0xB0) : s.cnPairBegin seq stepping mode nonce = s.cnAnswer 0x20 seq 0x21 [] := if_pos hother

/-- To enrol into a slot that the card has begins like to prove (log 84). -/
theorem State.cnEnrolBegin_slot (s : State) (seq : Nat) {slot : Nat} (stepping : Nat) (nonce : List Byte)
    (hslot : slot < 2) : s.cnEnrolBegin seq slot stepping nonce = s.cnPairBegin seq stepping (.enrol slot) nonce :=
  if_neg (Nat.not_lt.mpr (Nat.le_of_lt_succ hslot))

/-! ## PAIR_PROOF (R130–R132) -/

/-- A proof valid under the first slot alone is proven under it. -/
theorem State.cnProve_slot0 {s : State} (seq : Nat) {proof : List Byte} (h0 : s.proofValid 0 proof = true)
    (h1 : s.proofValid 1 proof = false) : s.cnProve seq proof = s.proven seq 0 := by
  simp only [State.cnProve, h0, h1, Bool.false_eq_true, if_false, if_true]

/-- A proof valid under no slot is a failed attempt. -/
theorem State.cnProve_fails {s : State} (seq : Nat) {proof : List Byte} (h0 : s.proofValid 0 proof = false)
    (h1 : s.proofValid 1 proof = false) : s.cnProve seq proof = s.countFail.proofFails seq 0x21 := by
  simp only [State.cnProve, h0, h1, Bool.false_eq_true, if_false]

/-- A key goes into a free slot under the credential, with no card-wide lock. -/
theorem State.cnEnrol_commits {s : State} (seq : Nat) {slot : Nat} (key : List Byte) (hfree : s.pairUsed slot = false)
    (hlock : s.lockForce 16 = false) (hcred : s.flag (CN_STAT_CRED 0) = true) :
    s.cnEnrol seq slot key =
      (((s.commitKey (0x13 + slot) 5 (s.nextKgen (0x13 + slot)) key 0).setPairKey slot key).fire
        EV_KEY_PAIR_ADDED).cnAnswer 0x21 seq 0x00 (bytesBE 1 slot ++ s.cardProof key) := by
  simp only [State.cnEnrol, hfree, hlock, hcred, Bool.not_true, Bool.and_false, Bool.or_self, Bool.false_eq_true,
    if_false]

section
variable {s : State} (hopen : s.flag (CN_PAIR_STAT_REFUSED 0) = false) (hladder : s.ladderUp = true)
include hopen hladder

/-- With PAIR_PROOF not refused and KEY in use, it proves after a PAIR_BEGIN that asked for it. -/
theorem State.cnPairProof_prove (seq : Nat) (proof : List Byte) (hmode : s.cnA.pair = .prove) :
    s.cnPairProof seq proof = ({ s with cnA := { s.cnA with pair := .none } } : State).cnProve seq proof := by
  simp only [State.cnPairProof, hopen, hladder, hmode, Bool.not_true, Bool.false_eq_true, if_false]

/-- It enrols into the slot that the PAIR_BEGIN before it named. -/
theorem State.cnPairProof_enrol (seq : Nat) {slot : Nat} (key : List Byte) (hmode : s.cnA.pair = .enrol slot) :
    s.cnPairProof seq key = ({ s with cnA := { s.cnA with pair := .none } } : State).cnEnrol seq slot key := by
  simp only [State.cnPairProof, hopen, hladder, hmode, Bool.not_true, Bool.false_eq_true, if_false]

end

/-! ## PAIR_DROP (R133) -/

/-- The key of a slot goes, and the credential that rests on it. -/
theorem State.cnPairDrop_drops {s : State} (seq : Nat) {slot : Nat} (hslot : slot ≤ 1)
    (hlock : s.lockForce 16 = false) (hladder : s.ladderUp = true) :
    let u := (((s.overwriteKey (0x13 + slot) 5).setPairKey slot []).fire EV_KEY_PAIR_DROPPED).cnAnswer 0x22 seq 0x00 []
    s.cnPairDrop seq slot = if s.fld (CN_STAT_PAIR_SLOT 0) = slot then u.dropCred else u := by
  simp only [State.cnPairDrop, hlock, hladder, Nat.not_lt.mpr hslot, Bool.not_true, or_self, Bool.false_eq_true,
    if_false]

/-! ## The requests -/

theorem execPairBeginProve_serves {seq : Nat} (stepping : Nat) {nonce : List Byte} {s : State}
    (hnonce : nonce.length = 16) (h : s.cnServes 0x20 seq = true) : execPairBeginProve seq stepping nonce s =
      .next ((s.cnHeard 0x20).cnPairBegin (seq % 256) stepping .prove nonce) :=
  State.cnIn_next (beq_iff_eq.mpr hnonce) h rfl

theorem execPairBeginEnrol_serves {seq : Nat} (slot stepping : Nat) {nonce : List Byte} {s : State}
    (hnonce : nonce.length = 16) (h : s.cnServes 0x20 seq = true) : execPairBeginEnrol seq slot stepping nonce s =
      .next ((s.cnHeard 0x20).cnEnrolBegin (seq % 256) slot stepping nonce) :=
  State.cnIn_next (beq_iff_eq.mpr hnonce) h rfl

theorem execPairProofProve_serves {seq : Nat} {proof : List Byte} {s : State} (hproof : proof.length = 32)
    (h : s.cnServes 0x21 seq = true) :
    execPairProofProve seq proof s = .next ((s.cnHeard 0x21).cnPairProof (seq % 256) proof) :=
  State.cnIn_next (beq_iff_eq.mpr hproof) h rfl

theorem execPairProofEnrol_serves {seq : Nat} {key : List Byte} {s : State} (hkey : key.length = 32)
    (h : s.cnServes 0x21 seq = true) :
    execPairProofEnrol seq key s = .next ((s.cnHeard 0x21).cnPairProof (seq % 256) key) :=
  State.cnIn_next (beq_iff_eq.mpr hkey) h rfl

/-- Settles O35: each request that is served runs its operation on the card as it finds it, and the operation's own
lemma says what that does. -/
theorem counletPairingRequests : Obligations.CounletPairingRequests := by
  unfold Obligations.CounletPairingRequests
  refine ⟨?_, ?_, ?_, ?_⟩
  · intro seq nonce s hnonce t u
    refine ⟨?_, fun stepping hother h => ?_⟩
    · rintro mode i hi h hrng
      have hbegins := State.cnPairBegin_begins t (seq % 256) mode nonce hrng
      rcases hi with ⟨rfl, rfl⟩ | ⟨slot, hslot, rfl, rfl⟩
      · exact (execPairBeginProve_serves 0xB0 hnonce h).trans (congrArg _ hbegins)
      · exact (execPairBeginEnrol_serves slot 0xB0 hnonce h).trans
          (congrArg _ ((State.cnEnrolBegin_slot t _ _ nonce hslot).trans hbegins))
    · exact (execPairBeginProve_serves stepping hnonce h).trans
        (congrArg _ (State.cnPairBegin_stepping t _ _ nonce hother))
  · intro seq proof s hproof h hmode hopen hladder t
    have hruns := (execPairProofProve_serves hproof h).trans
      (congrArg _ (State.cnPairProof_prove hopen hladder (seq % 256) proof hmode))
    exact ⟨fun h0 h1 => hruns.trans (congrArg _ (State.cnProve_slot0 (seq % 256) h0 h1)),
      fun h0 h1 => hruns.trans (congrArg _ (State.cnProve_fails (seq % 256) h0 h1))⟩
  · intro seq slot key s hkey h hmode hopen hladder t hfree hlock hcred
    have hruns := (execPairProofEnrol_serves hkey h).trans
      (congrArg _ (State.cnPairProof_enrol hopen hladder (seq % 256) key hmode))
    exact hruns.trans (congrArg _ (State.cnEnrol_commits (seq % 256) key hfree hlock hcred))
  · intro seq slot s hslot h t hlock hladder u
    exact State.cnIn_next rfl h (State.cnPairDrop_drops (seq % 256) hslot hlock hladder)

end Sys2Proof.Machine
end

section
/-! PROOFS. A card in a dock port: its insertion, the waits of the link-up, its answers, and its removal (R140, R141,
R170–R172; log 16). -/

namespace Sys2Proof.Machine

/-! ## Insertion and removal (R170) -/

section
variable {p : Nat} {s : State} (hdock : s.isDock = true) (hp : p < 2)
include hdock hp

/-- A card that goes into a port of a dock in use, with CD_N high until then, is inserted. -/
theorem execCardInsertion_inserts (hcd : (s.cn p).cdLow = false) :
    let u := s.cdChange.setCn p { s.cdChange.cn p with cdLow := true, removals := [] }
    let v := u.setSp p { u.sp p with drained := false }
    v.up = true → v.safe = false → execCardInsertion p s = .next (v.portInsert p) := by
  intro u v hup hsafe
  have hin : (v.up && !v.safe) = true := by rw [hup, hsafe]; rfl
  have hrefused : (!s.isDock || decide (2 ≤ p) || (s.cn p).cdLow) = false := by
    rw [hdock, hcd, decide_eq_false (Nat.not_le.mpr hp)]
    rfl
  rw [execCardInsertion, if_neg (Bool.eq_false_iff.mp hrefused)]
  exact congrArg _ (if_pos hin)

/-- CD_N high for 10 µs or more takes the card of a port in use away. -/
theorem execCardRemoval_removes {highUs : Nat} (hcd : (s.cn p).cdLow = true) (hlong : 10 ≤ highUs) :
    let u := s.cdChange.setCn p { s.cdChange.cn p with cdLow := false, removals := [] }
    u.up = true →
      execCardRemoval p highUs s = .next (((u.setFlag (SP_STAT_CARD_PRESENT p) false).removePort p).pump) := by
  intro u hup
  have hport : ¬ 2 ≤ p := Nat.not_le.mpr hp
  have hbetween : ¬ highUs < 10 := Nat.not_lt.mpr hlong
  simp only [execCardRemoval, hdock, hcd, hport, hbetween, hlong, decide_true, decide_false, Bool.not_true,
    Bool.or_self, Bool.and_false, Bool.false_and, Bool.or_false, Bool.false_eq_true, if_false]
  exact congrArg _ (if_pos hup)

/-- CD_N high for less than 8 µs is no removal. -/
theorem execCardRemoval_short {highUs : Nat} (hcd : (s.cn p).cdLow = true) (hshort : highUs < 8) :
    execCardRemoval p highUs s = .next s := by
  have hport : ¬ 2 ≤ p := Nat.not_le.mpr hp
  have h8 : ¬ 8 ≤ highUs := by omega
  have h10 : ¬ 10 ≤ highUs := by omega
  simp only [execCardRemoval, hdock, hcd, hport, h8, h10, decide_false, Bool.not_true, Bool.or_self, Bool.false_and,
    Bool.not_false, Bool.false_eq_true, if_false, if_true]

end

/-! ## The waits of the link-up and the answer to reset (R140, R172) -/

section
variable {p : Nat} {s : State} (hruns : s.cnRuns p = true)
include hruns

theorem execInsDelayExpiry_releases (hphase : (s.cn p).phase = .insDelay) :
    execInsDelayExpiry p s = .next (s.releaseCrst p) := by
  simp only [execInsDelayExpiry, hruns, hphase, BEq.rfl, Bool.and_self, if_true]

theorem execLinkupRetryExpiry_releases (hphase : (s.cn p).phase = .retryHold) (hlink : s.linkState p = lnkLinkup) :
    execLinkupRetryExpiry p s = .next (s.releaseCrst p) := by
  simp only [execLinkupRetryExpiry, hruns, hphase, hlink, BEq.rfl, Bool.and_self, if_true]

theorem execRelinkExpiry_links (hphase : (s.cn p).phase = .retryHold) (hlink : s.linkState p = lnkRemoved)
    (hcd : (s.cn p).cdLow = true) (hauto : s.flag (CN_CFG_AUTO_LINKUP p) = true) :
    execRelinkExpiry p s = .next ((s.startLinkup p).releaseCrst p) := by
  simp only [execRelinkExpiry, hruns, hphase, hlink, hcd, hauto, BEq.rfl, Bool.and_self, if_true]

section
variable (hphase : (s.cn p).phase = .atr)
include hphase

theorem execAtrTimeout_fails : execAtrTimeout p s = .next (s.atrFails p) := by
  simp only [execAtrTimeout, hruns, hphase, BEq.rfl, Bool.and_self, if_true]

/-- An answer to reset that is awaited is taken if its characters arrive in the layout of R119. -/
theorem execAtrReceived_awaited (bytes : List Byte) : execAtrReceived p bytes s =
    .next (if (s.cnChars p).1 && atrGood bytes then (s.cnChars p).2.atrTaken p bytes
      else (s.cnChars p).2.atrFails p) := by
  simp only [execAtrReceived, hruns, hphase, BEq.rfl, Bool.and_self, if_true]

end

/-! ## Frames of the card (R114, R140, R142, R146) -/

theorem State.cnFrom_whole {op : Nat} (f : State → State) (hwhole : (s.cnReceive p op).1 = true) :
    s.cnFrom p op f = f (s.cnReceive p op).2 := by
  simp only [State.cnFrom, hruns, hwhole, Bool.not_true, Bool.false_eq_true, if_false, if_true]

theorem State.cnFrom_discarded {op : Nat} (f : State → State) (hbad : (s.cnReceive p op).1 = false) :
    s.cnFrom p op f = (s.cnReceive p op).2 := by
  simp only [State.cnFrom, hruns, hbad, Bool.not_true, Bool.false_eq_true, if_false]

end

/-- A frame that answers the dock while a request of its own is outstanding or its link-up is under way. -/
theorem execDockCounletResponse_own {p : Nat} (op seq : Nat) (payload : List Byte) {s : State}
    (hown : s.cnOwn p = true) :
    execDockCounletResponse p op seq payload s = .next (s.cnFrom p op (fun t => t.ownAnswer p op seq payload)) :=
  congrArg _ (if_pos hown)

section
variable {p op seq : Nat} {s : State} (payload : List Byte)

theorem State.ownAnswer_pps (hphase : (s.cn p).phase = .pps) (hop : op % 256 = 0xFF) :
    s.ownAnswer p op seq payload = s.ppsAnswer p seq payload := by
  simp only [State.ownAnswer, hphase, hop, BEq.rfl, if_true]

/-- Past parameter selection the response to the dock's own request is one of pairing or of enrolment. -/
theorem State.ownAnswer_response {o : Nat} {sent : List Byte} (hphase : (s.cn p).phase ≠ .pps)
    (hlast : (s.cn p).last = some (o, seq, sent)) (hop : respOp o = op % 256) :
    s.ownAnswer p op seq payload = (s.cnRest p).pairAnswer p payload := by
  simp only [State.ownAnswer, beq_eq_false_iff_ne.mpr hphase, hlast, hop, and_self, Bool.false_eq_true, if_false,
    if_true]

end

/-- Settles O37: each command by its own lemmas. -/
theorem dockCardCommands : Obligations.DockCardCommands := by
  unfold Obligations.DockCardCommands
  refine ⟨?_, ?_, ?_, ?_⟩
  · intro p s hdock hp t u v hcd hup hsafe w
    have hinserts := execCardInsertion_inserts hdock hp hcd hup hsafe
    exact ⟨fun hauto => hinserts.trans (congrArg _ (if_pos hauto)),
      fun hauto => hinserts.trans (congrArg _ (if_neg (Bool.eq_false_iff.mp hauto)))⟩
  · intro p s hruns
    refine ⟨execInsDelayExpiry_releases hruns, execLinkupRetryExpiry_releases hruns, execRelinkExpiry_links hruns,
      fun hphase => ⟨execAtrTimeout_fails hruns hphase, fun bytes => ?_⟩⟩
    have hawaited := execAtrReceived_awaited hruns hphase bytes
    refine ⟨fun hchars hgood => hawaited.trans (congrArg _ (if_pos ?_)),
      fun hbad => hawaited.trans (congrArg _ (if_neg ?_))⟩
    · rw [hchars, hgood]
      rfl
    · rw [Bool.not_eq_true, Bool.and_eq_false_iff]
      exact hbad
  · intro p op seq payload s hruns hown r
    have howns := execDockCounletResponse_own op seq payload hown
    exact ⟨fun hwhole hphase hop => howns.trans (congrArg _
        ((State.cnFrom_whole hruns _ hwhole).trans (State.ownAnswer_pps payload hphase hop))),
      fun o sent hwhole hphase hlast hop => howns.trans (congrArg _
        ((State.cnFrom_whole hruns _ hwhole).trans (State.ownAnswer_response payload hphase hlast hop))),
      fun hbad => howns.trans (congrArg _ (State.cnFrom_discarded hruns _ hbad))⟩
  · intro p highUs s hdock hp hcd u
    exact ⟨fun hlong hup => execCardRemoval_removes hdock hp hcd hlong hup, execCardRemoval_short hdock hp hcd⟩

end Sys2Proof.Machine
end

section
/-! PROOFS. The mailbox of a dock port, and RESTART, ENROL_REQ and HOLD_RESET (R132, R142, R143, R145; log 111). -/

namespace Sys2Proof.Machine

/-! ## Writes of the CN page (R132, R142, R143) -/

section
variable {p : Nat} {s : State} (hdock : s.isDock = true) (hp : p < 2) (htakes : s.pageTakes (pCN p) = true)
include hdock hp htakes

/-- The CN page of a dock's port takes a write. -/
theorem State.cnPage_takes : (s.isDock && decide (p < 2) && s.pageTakes (pCN p)) = true := by
  rw [hdock, htakes, decide_eq_true hp]
  rfl

theorem execMbxGo_takes (op len : Nat) : execMbxGo p op len s = .next ((s.touchPage (pCN p)).mailboxGo p op len) :=
  congrArg _ (if_pos (State.cnPage_takes hdock hp htakes))

theorem execCnRestart_takes : execCnRestart p s = .next ((s.touchPage (pCN p)).cnRestart p) :=
  congrArg _ (if_pos (State.cnPage_takes hdock hp htakes))

theorem execEnrolReq_takes (slot : Nat) : execEnrolReq p slot s = .next ((s.touchPage (pCN p)).startEnrol p slot) :=
  congrArg _ (if_pos (State.cnPage_takes hdock hp htakes))

theorem execHoldReset_takes (on : Bool) : execHoldReset p on s = .next ((s.touchPage (pCN p)).holdReset p on) :=
  congrArg _ (if_pos (State.cnPage_takes hdock hp htakes))

end

/-! ## A mailbox request starts (R142) -/

/-- The port with OP and LEN written. -/
def State.mailboxAsked (s : State) (p op len : Nat) : State :=
  (s.setFld (CN_MBX_CTRL_OP p) op).setFld (CN_MBX_CTRL_LEN p) len

/-- The port with the payload of a new request taken from MBX_TX; the request has no SEQ yet. -/
def State.mailboxTaken (s : State) (p op len : Nat) : State :=
  let u := ((s.setFlag (CN_MBX_CTRL_GO p) true).setFlag (CN_MBX_STAT_DONE p) false).setFlag (CN_MBX_STAT_BUSY p) true
  u.setCn p { u.cn p with mbx := some (op % 256, 256, u.mailboxTx p (len % 256)), resends := 0 }

section
variable {p op len : Nat} {s : State}

/-- While a request is in progress GO writes OP and LEN alone. -/
theorem State.mailboxGo_busy (hbusy : (s.mailboxAsked p op len).flag (CN_MBX_STAT_BUSY p) = true) :
    s.mailboxGo p op len = s.mailboxAsked p op len := if_pos hbusy

/-- GO of a free mailbox takes the request, which ends at once if it is one of pairing or if there is no channel. -/
theorem State.mailboxGo_free (hfree : (s.mailboxAsked p op len).flag (CN_MBX_STAT_BUSY p) = false) :
    s.mailboxGo p op len =
      let v := (s.mailboxAsked p op len).mailboxTaken p op len
      if op % 256 = 0x20 ∨ op % 256 = 0x21 then v.endMailbox p 4
      else if !v.cnOpen p && !v.cnOwn p then v.endMailbox p 1
      else v.cnGo p := if_neg (Bool.eq_false_iff.mp hfree)

theorem State.cnGo_waits (hfree : s.cnFree p = false) : s.cnGo p = s := by
  simp only [State.cnGo, hfree, Bool.not_false, if_true]

/-- With no pairing owed and no enrolment asked for, a free channel is the mailbox's. -/
theorem State.cnGo_mailbox (hfree : s.cnFree p = true) (hpair : (s.cn p).wantPair = false)
    (henrol : (s.cn p).enrol = none) : s.cnGo p = s.sendMailbox p := by
  simp only [State.cnGo, hfree, hpair, henrol, Option.isSome_none, Bool.not_true, Bool.false_and, Bool.false_eq_true,
    if_false]

end

/-! ## A mailbox request ends (R142) -/

section
variable {p seq : Nat} {s : State}

/-- The response to the request outstanding fills MBX_RX and ends it with RESULT 0. -/
theorem State.mailboxAnswer_outstanding {op o : Nat} (payload : List Byte) {sent : List Byte}
    (hmbx : (s.cn p).mbx = some (o, seq, sent)) (hop : respOp o = op % 256) :
    s.mailboxAnswer p op seq payload =
      ((((((s.cnRest p).mailboxRx p payload).setFld (CN_MBX_STAT_RESP_LEN p) payload.length).setFld (CN_MBX_STAT_ST p)
        (payload.headD 0).toNat).endMailbox p 0).cnGo p) := by
  simp only [State.mailboxAnswer, hmbx, hop, and_self, if_true]

section
variable {op : Nat} {payload : List Byte} (hseq : seq < 256) (hmbx : (s.cn p).mbx = some (op, seq, payload))
include hseq hmbx

/-- A request that was sent goes out again while it has been resent less than twice. -/
theorem State.mailboxTimeout_resends (htries : (s.cn p).resends < 2) :
    s.mailboxTimeout p = (s.setCn p { s.cn p with resends := (s.cn p).resends + 1, rested := false }).emit
      (.counlet p (cnFrame op seq payload)) := by
  simp only [State.mailboxTimeout, hmbx, Nat.ne_of_lt hseq, Nat.not_le.mpr htries, if_false]

theorem State.mailboxTimeout_ends (htries : 2 ≤ (s.cn p).resends) :
    s.mailboxTimeout p = (s.endMailbox p 2).cnGo p := by
  simp only [State.mailboxTimeout, hmbx, Nat.ne_of_lt hseq, htries, if_false, if_true]

end

end

theorem execMbxRespTimeout_runs {p : Nat} {s : State} (hruns : s.cnRuns p = true) :
    execMbxRespTimeout p s = .next (s.mailboxTimeout p) := congrArg _ (if_pos hruns)

/-- Settles O38: each write of the CN page by what it does there, and each end of a mailbox request by its own lemma. -/
theorem dockMailboxCommands : Obligations.DockMailboxCommands := by
  unfold Obligations.DockMailboxCommands
  refine ⟨?_, ?_, ?_⟩
  · intro p s hdock hp htakes t
    refine ⟨execCnRestart_takes hdock hp htakes, execEnrolReq_takes hdock hp htakes,
      execHoldReset_takes hdock hp htakes, ?_⟩
    intro op len w u v
    have hgo := execMbxGo_takes hdock hp htakes op len
    refine ⟨fun hbusy => hgo.trans (congrArg _ (State.mailboxGo_busy hbusy)), fun hidle => ?_⟩
    have hfree := hgo.trans (congrArg _ (State.mailboxGo_free hidle))
    refine ⟨fun hpairs => hfree.trans (congrArg _ (if_pos hpairs)), fun hbegin hproof hopen hown => ?_,
      fun hbegin hproof hchannel => ?_⟩
    · have hno : (!v.cnOpen p && !v.cnOwn p) = true := by rw [hopen, hown]; rfl
      exact hfree.trans (congrArg _ ((if_neg (not_or.mpr ⟨hbegin, hproof⟩)).trans (if_pos hno)))
    · have hyes : ¬ (!v.cnOpen p && !v.cnOwn p) = true := by
        rw [Bool.not_eq_true, Bool.and_eq_false_iff, Bool.not_eq_false', Bool.not_eq_false']
        exact hchannel
      have hgoes := hfree.trans (congrArg _ ((if_neg (not_or.mpr ⟨hbegin, hproof⟩)).trans (if_neg hyes)))
      exact ⟨fun hline hpair henrol => hgoes.trans (congrArg _ (State.cnGo_mailbox hline hpair henrol)),
        fun hline => hgoes.trans (congrArg _ (State.cnGo_waits hline))⟩
  · intro p op seq o payload sent s hruns r hwhole hmbx hop
    exact congrArg _ ((State.cnFrom_whole hruns _ hwhole).trans (State.mailboxAnswer_outstanding payload hmbx hop))
  · intro p op seq payload s hruns hseq hmbx
    have htimeout := execMbxRespTimeout_runs hruns
    exact ⟨fun htries => htimeout.trans (congrArg _ (State.mailboxTimeout_resends hseq hmbx htries)),
      fun htries => htimeout.trans (congrArg _ (State.mailboxTimeout_ends hseq hmbx htries))⟩

end Sys2Proof.Machine
end

section
/-! PROOFS. The link's own commands that a card starts at once: IDENTIFY, registers, tuning, SPEED_SET, LINK_KEY, HEALTH,
LOG_READ and DOZE (R158, R160, R163, R181, R195, R430, R450; logs 69, 125, 126 and 127). -/

namespace Sys2Proof.Machine

/-! ## What a command begins with -/

/-- What a command of the link begins with, by its operation; any other as it starts. -/
def State.linkBegins (s : State) (op : Nat) (o : Outst) : State :=
  match op with
  | 0x01 => s.sendAll o [padTo 4096 (padTo 32 s.identBytes ++ s.cps s.cpsBits s.summaryNow.2)] 0x00 0
  | 0x0C => s.startRegRd o
  | 0x10 => s.startTuneRd o
  | 0x11 => s.startTuneWr o
  | 0x12 => s.startSpeed o
  | 0x13 => s.startLinkKey o
  | 0x15 => s.startHealth o
  | 0x16 => s.startLogRead o
  | 0x17 => s.startDozeCmd o
  | _ => s.startOne o

theorem State.startOne_linkBegins (s : State) (o : Outst) (hdata : dataOp o.op = false) :
    s.startOne o = s.linkBegins o.op o := by
  have hbar : (if dataOp o.op then s.dataBars o else none) = none := if_neg (Bool.eq_false_iff.mp hdata)
  unfold State.linkBegins
  split
  case h_10 => rfl
  all_goals
    next hop =>
      rw [hop] at hbar
      simp only [State.startOne, hop, hbar]

/-- A frame that starts its link command leaves what the command begins with on the card that has accepted it, and the
card goes on. -/
theorem State.frameIn_linkBegins {s t : State} {op : Nat} {c : Cmd} {fc : Nat} {env : List MediaRead} {aux : Nat}
    {o : Outst} (hop : op ≠ 0 ∧ op < 64 ∧ dataOp op = false) (h : s.Starts op c fc env aux o)
    (hbegins : (s.taken op c fc env aux).linkBegins op o = t) :
    (Host.Outcome.next (s.frameIn op c env aux) : Result) = .next t.goesOn := by
  obtain ⟨hne, hlt, hdata⟩ := hop
  have hoo : o.op = op := (State.starts_op s op c fc env aux o hne h).1
  refine State.frameIn_begins hlt h ((State.startOne_linkBegins _ o (hoo ▸ hdata)).trans ?_)
  rw [hoo, hbegins]

/-- A command that starts is alone on the port. -/
theorem State.starts_alone {s : State} {op : Nat} {c : Cmd} {fc : Nat} {env : List MediaRead} {aux : Nat} {o : Outst}
    (h : s.Starts op c fc env aux o) : ¬ 1 < (s.taken op c fc env aux).spA.outst.length := by
  obtain ⟨-, -, hout, -⟩ := h
  rw [hout]
  exact Nat.lt_irrefl 1

/-! ## Tuning (R158, R160) -/

section
variable {s : State} {o : Outst} (hmode : s.fld (SP_STAT_MODE 0) ≠ 0)
include hmode

/-- TUNE_RD above SPD_0 answers OK and sends the tuning frame. -/
theorem State.startTuneRd_sends :
    s.startTuneRd o = (({ s with spA := { s.spA with tuneWrs := 1 } } : State).done o 0x00 0).emit
      (.tuneFrame 0 tuneFrames) := if_neg hmode

/-- TUNE_WR above SPD_0 whose eight lines pass tunes the port. -/
theorem State.startTuneWr_passes (hlines : o.bound = 0xFF) :
    s.startTuneWr o = ((((s.setTaps 0 ((List.range 8).map (fun n => bitsOf o.arg (6 * n) 6))).tunePassed 0).noteTuneWr
      0xFF).finish o 0x00 0xFF (some 0xFF) []) := by
  simp only [State.startTuneWr, State.runTuneWr, hmode, hlines, if_false, if_true]

/-- TUNE_WR above SPD_0 with a line that fails leaves the port untuned. -/
theorem State.startTuneWr_fails (hlines : o.bound ≠ 0xFF) :
    s.startTuneWr o = ((((s.setTaps 0 ((List.range 8).map (fun n => bitsOf o.arg (6 * n) 6))).setFlag (SP_STAT_TUNED 0)
      false).noteTuneWr o.bound).finish o 0x00 o.bound (some o.bound) []) := by
  simp only [State.startTuneWr, State.runTuneWr, hmode, hlines, if_false]

end

/-! ## The mode, the key and DOZE (R163, R195, R430) -/

section
variable {s : State} {o : Outst}

/-- SPEED_SET of a mode above SPD_0, alone on the port, answers and switches. -/
theorem State.startSpeed_switches (halone : ¬ 1 < s.spA.outst.length) (hmode : o.arg % 4 ≠ 0) :
    s.startSpeed o = (s.done o 0x00 0).switchMode 0 (o.arg % 4) := by
  rw [State.startSpeed, if_neg halone]
  exact if_neg hmode

/-- SPEED_SET to SPD_0, alone on the port, also ends a tune under way and counts a retrain. -/
theorem State.startSpeed_retrains (halone : ¬ 1 < s.spA.outst.length) (hmode : o.arg % 4 = 0) :
    let t := (s.done o 0x00 0).switchMode 0 (o.arg % 4)
    let u := if t.spA.tuneWrs = 0 then t else t.tuneOver
    s.startSpeed o = { u.bump (SP_RETRAIN_CNT_RETRAINS 0) with
      life := { u.life with retrains := u.life.retrains + 1 } } := by
  rw [State.startSpeed, if_neg halone]
  exact if_pos hmode

/-- LINK_KEY of the next epoch holds its key under a nonce that is drawn, and answers the nonce. -/
theorem State.startLinkKey_holds (hheld : s.flag (LSE_STAT_NEXT_HELD 0) = false)
    (hepoch : o.arg % 4 = (s.fld (LSE_STAT_EPOCH 0) + 1) % 4) (hfence : s.keyFenced = false) (hrng : s.rngUp = true) :
    let nonce := natBE (s.rand 2)
    s.startLinkKey o = (s.spend.openRekey 0 (o.arg % 4) (o.arg / 2 ^ 16 % 2 ^ 32) nonce).done o 0x00 nonce := by
  simp only [State.startLinkKey, hheld, hepoch, hfence, hrng, bne_self_eq_false, Bool.or_self, Bool.not_true,
    Bool.false_eq_true, if_false]

/-- DOZE with DOZE_EN, alone on the port, answers OK and enters DOZE. -/
theorem State.startDozeCmd_enters (halone : ¬ 1 < s.spA.outst.length) (hen : s.flag PWR_CFG_DOZE_EN = true) :
    s.startDozeCmd o = (s.done o 0x00 0).startDoze := by
  simp only [State.startDozeCmd, halone, hen, Bool.not_true, Bool.false_eq_true, if_false]

end

/-! ## The commands -/

/-- Settles O41: each frame runs its command's beginning on the card that accepted it. IDENTIFY, REG_RD, HEALTH and
LOG_READ begin with no condition; each other one by the lemma on how it begins. -/
theorem linkCommandsStart : Obligations.LinkCommandsStart := by
  unfold Obligations.LinkCommandsStart
  intro c fc frames s o
  refine ⟨fun h => State.frameIn_linkBegins (by decide) h rfl, fun h => State.frameIn_linkBegins (by decide) h rfl,
    fun h hmode => State.frameIn_linkBegins (by decide) h (State.startTuneRd_sends hmode), ?_, ?_, ?_,
    fun h => State.frameIn_linkBegins (by decide) h rfl, fun h => State.frameIn_linkBegins (by decide) h rfl,
    fun h hen => State.frameIn_linkBegins (by decide) h (State.startDozeCmd_enters (State.starts_alone h) hen)⟩
  · intro h hmode lines t
    have hbound : o.bound = lines := State.starts_bound s c fc (tuneMask frames) o h
    refine ⟨fun hpass => ?_, fun hfail => ?_⟩
    · exact State.frameIn_linkBegins (by decide) h (State.startTuneWr_passes hmode (hbound.trans hpass))
    · have hfails := State.startTuneWr_fails hmode (fun hfull => hfail (hbound.symm.trans hfull))
      rw [hbound] at hfails
      exact State.frameIn_linkBegins (by decide) h hfails
  · intro h t
    have halone := State.starts_alone h
    exact ⟨fun hmode => State.frameIn_linkBegins (by decide) h (State.startSpeed_switches halone hmode),
      fun hmode => State.frameIn_linkBegins (by decide) h (State.startSpeed_retrains halone hmode)⟩
  · intro h t hheld hepoch hfence hrng
    exact State.frameIn_linkBegins (by decide) h (State.startLinkKey_holds hheld hepoch hfence hrng)

end Sys2Proof.Machine
end

section
/-! PROOFS. What a dock takes from a card over the link, answers and units, and what its timers send (R170, R180, R186,
R187, R190, R194, R195, R198). -/

namespace Sys2Proof.Machine

open Sys2Proof.Crypto

/-- A frame of the card that passes its check acts on a dock port whose link runs. -/
theorem State.fromCard_passes {s : State} {p : Nat} (hlink : s.dockLink p = true) (hpass : (s.frameCheck p).1 = true)
    (f : State → State) : s.fromCard p f = f (s.frameCheck p).2 := by
  simp only [State.fromCard, hlink, hpass, Bool.not_true, Bool.false_eq_true, if_false, if_true]

theorem execResponseReceived_passes {s t : State} {p : Nat} {r : RespIn} (hlink : s.dockLink p = true)
    (hpass : (s.frameCheck p).1 = true) (ht : (s.frameCheck p).2.dockResponse p r = t) :
    execResponseReceived p r s = .next t := by
  rw [execResponseReceived, State.fromCard_passes hlink hpass, ht]

theorem execCardUnitReceived_passes {s t : State} {p tag index : Nat} {u : UnitIn} (hlink : s.dockLink p = true)
    (hpass : (s.frameCheck p).1 = true) (ht : (s.frameCheck p).2.dockUnit p tag index u = t) :
    execCardUnitReceived p tag index u s = .next t := by
  rw [execCardUnitReceived, State.fromCard_passes hlink hpass, ht]

/-! ## Answers (R187, R191, R198) -/

/-- The RMAC that the check of the port's LSE asks of an answer to a command (R186, R187, R200). -/
def State.rspMac (s : State) (p : Nat) (d : DCmd) (r : RespIn) : Nat :=
  respMac ((s.keyAt p d.epoch).getD []) d.epoch d.inst d.tag (rspNear (s.sp p).rspFc r.rseq) r.kind r.st r.info r.flags
    (if r.kind = 3 then r.token else 0) ^^^ s.injBits (pLSE p) 0

/-- The port with an answer that verifies noted: its FC is in HR, and the command's epoch and the FLAGS have had their
effect (R168, R187, R195, R197). -/
def State.rspNoted (s : State) (p : Nat) (d : DCmd) (r : RespIn) : State :=
  let v := s.injUsed (pLSE p) 0
  ((v.setSp p { v.sp p with rspFc := rspNear (s.sp p).rspFc r.rseq }).noteEpoch p d).noteFlags p r.flags

/-- The statuses that leave units to be moved: LINK_RETRY_EXHAUSTED, and AUTH_FAIL on a unit (R192, R193). -/
def leavesUnits (r : RespIn) : Prop := r.st = 0x10 ∨ (r.st = 0x11 ∧ r.info ≠ 0xFFFF)

theorem not_leavesUnits {r : RespIn} (hretry : r.st ≠ 0x10) (hauth : r.st ≠ 0x11 ∨ r.info = 0xFFFF) :
    ¬ leavesUnits r := by
  rintro (hst | ⟨hst, hinfo⟩)
  · exact hretry hst
  · exact hauth.elim (fun hne => hne hst) hinfo

section
variable {s : State} {p : Nat} {r : RespIn} {d : DCmd} (hsent : s.findSent p r.tag = some d)
include hsent

section
variable (hsession : (s.injUsed (pLSE p) 0).session p = true) (hgood : r.rmac = s.rspMac p d r)
include hsession hgood

/-- An answer that verifies and leaves no units ends its command. -/
theorem State.dockResponse_ends (hend : ¬ leavesUnits r) :
    s.dockResponse p r = (s.rspNoted p d r).endD p d r.st r.info r.flags := by
  rw [State.rspMac] at hgood
  rw [leavesUnits] at hend
  simp only [State.dockResponse, hsent, hsession, hgood, beq_self_eq_true, Bool.and_self, if_true]
  exact if_neg hend

/-- An answer that verifies and leaves units has them sent again. -/
theorem State.dockResponse_reissues (hleaves : leavesUnits r) :
    s.dockResponse p r = ((s.rspNoted p d r).reissue p d r.st (min r.info (d.arg % 4096 + 1))).pump := by
  rw [State.rspMac] at hgood
  rw [leavesUnits] at hleaves
  simp only [State.dockResponse, hsent, hsession, hgood, beq_self_eq_true, Bool.and_self, if_true]
  exact if_pos hleaves

end

/-- An answer under a session that does not verify is counted, and at the limit ends the session. -/
theorem State.dockResponse_counts (hbad : r.rmac ≠ s.rspMac p d r) (hkind : r.kind ≠ 2) :
    let u := (s.injUsed (pLSE p) 0).noteAuth p d.op d.inst d.tag d.epoch (rspNear (s.sp p).rspFc r.rseq)
    s.dockResponse p r = if u.authSpent p then (u.endDockSession p).pump else u := by
  have hmac : (r.rmac == s.rspMac p d r) = false := beq_eq_false_iff_ne.mpr hbad
  rw [State.rspMac] at hmac
  simp only [State.dockResponse, hsent, hmac, hkind, Bool.and_false, Bool.false_eq_true, false_and, and_false, if_false]

end

/-! ## Units (R180, R186, R190) -/

section
variable {s : State} {p tag : Nat} {u : UnitIn} {d : DCmd}
  (hsent : (s.injUsed (pSP p) 1).findSent p tag = some d)
include hsent

/-- A unit taken before is acknowledged again. -/
theorem State.dockUnit_before {index : Nat} (hbefore : index < d.next) :
    s.dockUnit p tag index u = (s.injUsed (pSP p) 1).emit (.status p true 0xFF) := by
  simp only [State.dockUnit, hsent, hbefore, if_true]

section
variable (hdue : d.next < d.c2h)
include hdue

/-- The unit in turn, with lines that fail, is refused with the lines that passed. -/
theorem State.dockUnit_lines (hlines : u.mask (s.injBits (pSP p) 1) ≠ 0xFF) :
    s.dockUnit p tag d.next u = ((s.injUsed (pSP p) 1).noteLines p (u.mask (s.injBits (pSP p) 1)) d.tag).refuseUnit p
      d.next (u.mask (s.injBits (pSP p) 1)) d := by
  simp only [State.dockUnit, hsent, Nat.lt_irrefl, ne_eq, not_true_eq_false, Nat.not_le.mpr hdue, or_self, hlines,
    not_false_eq_true, if_false, if_true]

/-- The unit in turn, whole and with the tag of its ciphertext, goes where its command wants it and is acknowledged. -/
theorem State.dockUnit_whole (hlines : u.mask (s.injBits (pSP p) 1) = 0xFF) :
    let v := s.injUsed (pSP p) 1
    let key := (v.keyAt p d.epoch).getD []
    let iv := linkIv d.epoch 0 0 d.inst d.tag d.next d.fc
    v.tagOf p u = gcmTag key iv [] u.ct →
      s.dockUnit p tag d.next u = (((((v.injUsed (pLSE p) 1).takeUnit p d d.next (gcmCrypt key iv u.ct)).countUnit p
        d.epoch).emit (.status p true 0xFF)).pump) := by
  intro v key iv htag
  simp only [State.dockUnit, hsent, Nat.lt_irrefl, ne_eq, not_true_eq_false, Nat.not_le.mpr hdue, or_self, hlines,
    if_false]
  exact if_pos (beq_iff_eq.mpr htag)

end

end

/-- A unit refused below the tries is answered with its token. -/
theorem State.refuseUnit_again {s : State} {p index token : Nat} {d : DCmd}
    (htries : d.fails + 1 < (s.updD p d.id (fun x => { x with fails := x.fails + 1 })).unitTries p) :
    s.refuseUnit p index token d =
      (s.updD p d.id (fun x => { x with fails := x.fails + 1 })).emit (.status p true token) :=
  if_neg (Nat.not_le.mpr htries)

/-! ## Timers (R170, R194, R195) -/

section
variable {s : State} {p : Nat}

/-- While a command is outstanding, the port asks for the lowest FC outstanding. -/
theorem execPingInterval_asks (hlink : s.dockLink p = true) (hbusy : s.portIdle p = false) :
    execPingInterval p s = .next (s.linkCmd p 0x00 (s.lowFc p % 2 ^ 32)) := by
  simp only [execPingInterval, hlink, hbusy, Bool.not_false, Bool.and_self, if_true]

/-- A response that does not come while a command is outstanding is reported, and removes the card. -/
theorem execResponseTimeout_removes (hlink : s.dockLink p = true) (hbusy : s.portIdle p = false) :
    let t := s.fire (EV_SP_RESP_TIMEOUT p)
    execResponseTimeout p s = .next ((if (s.cn p).cdLow then t.removeLow p else t.removePort p).pump) := by
  simp only [execResponseTimeout, hlink, hbusy, Bool.not_false, Bool.and_self, if_true]

/-- An idle port that wants a key, and holds none yet, asks for it under a nonce that is drawn. -/
theorem execAutoRekey_asks (htune : s.mayTune p = true) (hwant : (s.sp p).wantRekey = true)
    (hheld : s.flag (LSE_STAT_NEXT_HELD p) = false) (hkey : s.keyHolds = false) :
    let nonce := natBE (s.rand 4)
    execAutoRekey p s = .next ((s.spend.setSp p { s.sp p with wantRekey := false, rekeyNonce := nonce }).linkCmd p 0x13
      (nonce * 65536 + (s.fld (LSE_STAT_EPOCH p) + 1) % 4)) := by
  simp only [execAutoRekey, htune, hwant, hheld, hkey, Bool.not_false, Bool.and_self, if_true]

end

/-! ## The commands -/

/-- Settles O45: an answer is split by whether it verifies and by its status, a unit by its place, its lines and its tag,
and each timer has its own lemma. -/
theorem dockLinkCommands : Obligations.DockLinkCommands := by
  unfold Obligations.DockLinkCommands
  refine ⟨?_, ?_, fun p s => execPingInterval_asks, fun p s => execResponseTimeout_removes,
    fun p s => execAutoRekey_asks⟩
  · intro p r s d hlink hpass s0 hsent fc good v t
    refine ⟨fun hsession hgood hretry hauth => ?_, fun hsession hgood hst => ?_, fun hbad hkind => ?_⟩
    · exact execResponseReceived_passes hlink hpass
        (State.dockResponse_ends hsent hsession hgood (not_leavesUnits hretry hauth))
    · exact execResponseReceived_passes hlink hpass (State.dockResponse_reissues hsent hsession hgood hst)
    · exact execResponseReceived_passes hlink hpass (State.dockResponse_counts hsent hbad hkind)
  · intro p tag u s d hlink hpass s0 mask v hsent hdue key iv
    refine ⟨fun hlines htag => ?_, fun hlines htries => ?_, fun index hbefore => ?_⟩
    · exact execCardUnitReceived_passes hlink hpass (State.dockUnit_whole hsent hdue hlines htag)
    · exact execCardUnitReceived_passes hlink hpass
        ((State.dockUnit_lines hsent hdue hlines).trans (State.refuseUnit_again htries))
    · exact execCardUnitReceived_passes hlink hpass (State.dockUnit_before hsent hbefore)

end Sys2Proof.Machine
end

section
/-! PROOFS. Tuning a dock port, and the control registers of a port and of its session (R161, R163, R168, R169, R192,
R199, R200; logs 119 and 127). -/

namespace Sys2Proof.Machine

/-! ## Tuning (R161, R169, R192) -/

theorem State.linkState_of_portRun {s : State} {p : Nat} (h : s.portRun p = true) : s.linkState p = lnkRun := by
  simp only [State.portRun, Bool.and_eq_true, beq_iff_eq] at h
  obtain ⟨-, hrun⟩ := h
  exact hrun

section
variable {s : State} {p : Nat} (sweep : Sweep) (hmay : s.mayTune p = true)
include hmay

/-- TUNE_PORT at the mode due goes on with tune_port. -/
theorem execTunePort_due (hdue : s.tuneDue p = true) :
    execTunePort p (s.sp p).newMode sweep s = .next (s.tuneOn p sweep) := by
  simp only [execTunePort, hmay, hdue, beq_self_eq_true, Bool.and_self, if_true]

/-- DOCK_RETRAIN of a port that retrains already goes on with tune_port. -/
theorem execDockRetrain_goes_on (hlink : s.linkState p = lnkRetrain) (hmode : (s.sp p).newMode ≠ 0) :
    execDockRetrain p sweep s = .next (s.tuneOn p sweep) := by
  simp only [execDockRetrain, hmay, hlink, hmode, ne_eq, not_false_eq_true, and_self, Bool.not_true, Bool.false_eq_true,
    if_false, if_true]

/-- DOCK_RETRAIN of a running port that wants one goes to SPD_0, and tunes from the last good mode. -/
theorem execDockRetrain_begins (hrun : s.portRun p = true) (hwant : (s.sp p).wantRetrain = true) :
    let t := (s.toLink p lnkRetrain).setSpeed p 0
    execDockRetrain p sweep s = .next (((t.runTune p (t.fld (SP_STAT_LAST_GOOD p)) sweep).drive p).pump) := by
  have hlink : s.linkState p ≠ lnkRetrain := by
    rw [State.linkState_of_portRun hrun]
    decide
  simp only [execDockRetrain, hmay, hlink, hrun, hwant, false_and, Bool.and_self, Bool.not_true, Bool.false_eq_true,
    if_false, if_true]

/-- AUTO_RETUNE of a running port above SPD_0 that wants one tunes at its mode. -/
theorem execAutoRetune_tunes (hrun : s.portRun p = true) (hwant : (s.sp p).wantRetune = true)
    (hmode : s.fld (SP_STAT_MODE p) ≠ 0) :
    execAutoRetune p sweep s = .next (((s.runTune p (s.fld (SP_STAT_MODE p)) sweep).drive p).pump) := by
  simp only [execAutoRetune, hmay, hrun, hwant, hmode, Bool.and_self, if_true, if_false]

end

/-! ## SP.CTRL (R168, R192, R199) -/

section
variable {s : State} {p : Nat} (hport : s.isPort p = true) (htakes : s.pageTakes (pSP p) = true)
include hport htakes

/-- The SP page of a port takes a write. -/
theorem State.spPage_takes : (s.isPort p && s.pageTakes (pSP p)) = true := Bool.and_eq_true_iff.mpr ⟨hport, htakes⟩

theorem execRetrain_takes : execRetrain p s = .next ((s.touchPage (pSP p)).askRetrain p) :=
  congrArg _ (if_pos (State.spPage_takes hport htakes))

theorem execLinkReset_takes : execLinkReset p s = .next ((s.touchPage (pSP p)).askLinkReset p) :=
  congrArg _ (if_pos (State.spPage_takes hport htakes))

theorem execRetune_takes : execRetune p s = .next ((s.touchPage (pSP p)).askRetune p) :=
  congrArg _ (if_pos (State.spPage_takes hport htakes))

end

section
variable {s : State} {p : Nat} (hp : p < 2) (hdock : s.isDock = true) (hup : s.up = true)
  (hcard : s.flag (SP_STAT_CARD_PRESENT p) = true) (hfree : s.absorbs (.link p) = false)
include hp hdock hup hcard hfree

/-- LINK_RESET of a dock's port with a card resets the link, or waits for the burn in progress (R72). -/
theorem State.askLinkReset_card :
    s.askLinkReset p = if s.boot.fuse.isSome then s.await (.link p) else (s.resetLink p).pump := by
  simp only [State.askLinkReset, hp, hdock, hup, hcard, hfree, decide_true, Bool.and_self, Bool.not_true, Bool.or_self,
    Bool.false_eq_true, if_false]

theorem State.askLinkReset_resets (hfuse : s.boot.fuse = none) : s.askLinkReset p = (s.resetLink p).pump := by
  rw [State.askLinkReset_card hp hdock hup hcard hfree, hfuse]
  rfl

theorem State.askLinkReset_waits (hfuse : s.boot.fuse ≠ none) : s.askLinkReset p = s.await (.link p) := by
  rw [State.askLinkReset_card hp hdock hup hcard hfree, if_pos (Option.isSome_iff_ne_none.mpr hfuse)]

end

/-! ## LSE.CTRL (R184, R195, R200) -/

section
variable {s : State} {p : Nat} (hport : s.isPort p = true) (htakes : s.pageTakes (pLSE p) = true)
include hport htakes

/-- The LSE page of a port takes a write. -/
theorem State.lsePage_takes : (s.isPort p && s.pageTakes (pLSE p)) = true := Bool.and_eq_true_iff.mpr ⟨hport, htakes⟩

theorem execRekey_takes : execRekey p s = .next ((s.touchPage (pLSE p)).askRekey p) :=
  congrArg _ (if_pos (State.lsePage_takes hport htakes))

theorem execEndSession_takes : execEndSession p s = .next ((s.touchPage (pLSE p)).endSession p) :=
  congrArg _ (if_pos (State.lsePage_takes hport htakes))

end

section
variable {s : State} {p : Nat} (hsession : s.session p = true)
include hsession

/-- REKEY of a dock's port with a session notes that a key is wanted. -/
theorem State.askRekey_notes (hdock : s.isDock = true) :
    s.askRekey p = s.setSp p { s.sp p with wantRekey := true } :=
  if_pos (Bool.and_eq_true_iff.mpr ⟨hdock, hsession⟩)

theorem State.endSession_card (hcard : s.isCard = true) : s.endSession p = s.closeSession p := by
  simp only [State.endSession, hsession, hcard, Bool.not_true, Bool.false_eq_true, if_false, if_true]

/-- A dock that ends a session pairs again. -/
theorem State.endSession_dock (hdock : s.isCard = false) : s.endSession p = (s.endDockSession p).pump := by
  simp only [State.endSession, hsession, hdock, Bool.not_true, Bool.false_eq_true, if_false]

end

/-! ## The commands -/

/-- Settles O46: each tuning command by the lemma on where it begins, and each control by the page that takes it and by
what it asks for there. -/
theorem dockTuningCommands : Obligations.DockTuningCommands := by
  unfold Obligations.DockTuningCommands
  refine ⟨fun p sweep s hmay => ⟨execTunePort_due sweep hmay, execDockRetrain_goes_on sweep hmay,
    execDockRetrain_begins sweep hmay, execAutoRetune_tunes sweep hmay⟩, ?_, ?_⟩
  · intro p s hport htakes hrun t
    refine ⟨(execRetrain_takes hport htakes).trans (congrArg _ (if_pos hrun)),
      (execRetune_takes hport htakes).trans (congrArg _ (if_pos hrun)), fun hp hdock hup hcard hfree => ?_⟩
    have hreset := execLinkReset_takes hport htakes
    exact ⟨fun hfuse => hreset.trans (congrArg _ (State.askLinkReset_resets hp hdock hup hcard hfree hfuse)),
      fun hfuse => hreset.trans (congrArg _ (State.askLinkReset_waits hp hdock hup hcard hfree hfuse))⟩
  · intro p s hport htakes hsession t
    have hend := execEndSession_takes hport htakes
    exact ⟨fun hdock => (execRekey_takes hport htakes).trans (congrArg _ (State.askRekey_notes hsession hdock)),
      fun hcard => hend.trans (congrArg _ (State.endSession_card hsession hcard)),
      fun hdock => hend.trans (congrArg _ (State.endSession_dock hsession hdock))⟩

end Sys2Proof.Machine
end

section
/-! PROOFS. Frame counters rebuilt from TAG and RSEQ, and the frames that a card answers without starting a command: PING,
an unknown opcode, and a repetition (R187–R189, R194; logs 102, 121 and 122). -/

namespace Sys2Proof.Machine

/-! ## Frame counters (R187) -/

/-- The card's window of 256 FCs holds one value for every TAG; it may lie below zero, and then there is none. -/
theorem fcNear_eq_some_iff {h tag fc : Nat} :
    fcNear h tag = some fc ↔ fc % 256 = tag % 256 ∧ h ≤ fc + 127 ∧ fc ≤ h + 128 := by
  unfold fcNear
  by_cases hback : (h + 384 - tag % 256) % 256 ≤ h + 128
  · rw [if_pos hback, Option.some.injEq]
    omega
  · rw [if_neg hback]
    constructor
    · rintro ⟨⟩
    · omega

/-- The dock's window of 256 FCs holds one value for every RSEQ. -/
theorem rspNear_eq_iff {h rseq fc : Nat} :
    rspNear h rseq = fc ↔ fc % 256 = rseq % 256 ∧ h + 1 ≤ fc ∧ fc ≤ h + 256 := by
  unfold rspNear
  omega

/-- Settles O16: each window is 256 values long, so the value in it that agrees modulo 256 is the one found. -/
theorem frameCountersAreTheNearest : Obligations.FrameCountersAreTheNearest := by
  unfold Obligations.FrameCountersAreTheNearest
  exact ⟨fun _ _ _ => fcNear_eq_some_iff, fun _ _ _ => rspNear_eq_iff⟩

/-! ## PING (R194) -/

/-- PING that is accepted enters the window and is answered at once, with the states it asks for. -/
theorem State.accept_ping (s : State) (c : Cmd) (fc : Nat) (env : List MediaRead) (aux : Nat) (armed : Option Nat) :
    ∃ (t : State) (o : Outst), o.op = 0 ∧ o.fc = fc ∧ t.spA.accepted.contains fc = true ∧
      s.accept 0 c fc env aux armed = t.finish o 0x00 (t.pingInfo fc c.arg) none [] := by
  refine ⟨_, outOf 0 c fc env _, rfl, rfl, ?_, rfl⟩
  simp

/-! ## An unknown opcode (R188) -/

/-- The first check of the arguments refuses an opcode that is not known. -/
theorem State.refusal_unknown (s : State) {op : Nat} (c : Cmd) (hop : knownOp op = false) :
    s.refusal op c = some (0x32, 0) := by
  have hne : op ≠ 0 := by
    rintro rfl
    exact absurd hop (by decide)
  rw [State.refusal, if_neg hne, if_pos (by simp [hop])]

/-- A refusal with NOT_PERMITTED fires its event; it disarms nothing where the frame is no confirm of an erase. -/
theorem State.refuseCmd_notPermitted (s : State) {op : Nat} (c : Cmd) (info : Nat) (hop : isConfirm op c = false) :
    s.refuseCmd op c 0x32 info =
      (s.fireI EV_CMD_NOT_PERMITTED c.inst 0 0).respond c.epoch c.inst c.tag 0x32 info none := by
  rw [State.refuseCmd, hop]
  rfl

theorem isConfirm_unknown {op : Nat} (c : Cmd) (hop : knownOp op = false) : isConfirm op c = false := by
  have hne : op ≠ 0x1B := by
    rintro rfl
    exact absurd hop (by decide)
  rw [isConfirm, beq_eq_false_iff_ne.mpr hne, Bool.false_and]

/-! ## A repetition (R189) -/

section
variable {s : State} {fc : Nat} (op : Nat) (c : Cmd)

/-- A repetition of a command still outstanding is dropped. -/
theorem State.answerAgain_outstanding (hout : s.hasOut fc = true) : s.answerAgain op c fc = s := if_pos hout

/-- A repetition of a completed command of class S without units is answered again. -/
theorem State.answerAgain_dedup {d : Done} (hout : s.hasOut fc = false)
    (hdone : s.spA.dedup.find? (fun d => d.fc == fc) = some d) (hclass : classN d.op = false) (hunits : d.units = []) :
    s.answerAgain op c fc = ((s.bump (INS_CMD_CNT_DEDUP c.inst)).fireI EV_CMD_DEDUP c.inst 0 0).respond c.epoch c.inst
      c.tag (if d.st = 0x00 ∨ d.st = 0x01 then 0x02 else d.st) d.info none := by
  simp only [State.answerAgain, hout, hdone, hclass, hunits, List.isEmpty_nil, Bool.false_eq_true, if_false, if_true]

/-- A repetition of a command of class N, or of one no longer remembered, is counted and rejected. -/
theorem State.answerAgain_rejects (hout : s.hasOut fc = false)
    (hdone : (s.spA.dedup.find? (fun d => d.fc == fc)).all (fun d => classN d.op) = true) :
    s.answerAgain op c fc = ((s.bump (LSE_CNT_REPLAY 0)).fireI (EV_LSE_REPLAY_REJECTED 0) c.inst
      (c.tag % 256 + op % 64 * 256 + c.epoch % 4 * 2 ^ 14) (fc % 2 ^ 32)).respond c.epoch c.inst c.tag 0x12 0 none := by
  rw [State.answerAgain, hout, if_neg Bool.false_ne_true]
  cases hfind : s.spA.dedup.find? (fun d => d.fc == fc) with
  | none => rfl
  | some d =>
    rw [hfind, Option.all_some] at hdone
    exact if_pos hdone

end

/-! ## The frames -/

section
variable {s : State} {op : Nat} {c : Cmd} {fc : Nat} (env : List MediaRead) (aux : Nat) (hlt : op < 64)
  (h : s.Verifies op c fc)
include hlt h

/-- A frame whose FC was accepted before is answered as a repetition, and the card goes on. -/
theorem State.frameIn_repeats (hseen : s.frameHeard.spA.accepted.contains fc = true) :
    s.frameIn op c env aux = (s.frameHeard.answerAgain op (cutCmd c) fc).cardOn := by
  rw [State.frameIn, Nat.mod_eq_of_lt hlt, State.cardFrame_verifies s op c fc env aux h]
  exact congrArg State.cardOn (if_pos hseen)

/-- A frame with a new FC that a check refuses is answered with its status, and the card goes on. -/
theorem State.frameIn_refused {st info : Nat} (hnew : s.frameHeard.spA.accepted.contains fc = false)
    (hrefused : (s.frameHeard.takesToken op (cutCmd c)).refusal op (cutCmd c) = some (st, info)) :
    s.frameIn op c env aux = ((s.frameHeard.takesToken op (cutCmd c)).refuseCmd op (cutCmd c) st info).cardOn := by
  rw [State.frameIn, Nat.mod_eq_of_lt hlt, State.cardFrame_verifies s op c fc env aux h]
  simp only [hnew, hrefused, Bool.false_eq_true, if_false]

end

/-- Settles O39: PING is accepted, an unknown opcode refused, and a repetition answered by what is known of its FC. -/
theorem frameAnswers : Obligations.FrameAnswers := by
  unfold Obligations.FrameAnswers
  refine ⟨fun c fc s h => ⟨?_, State.accept_ping _ (cutCmd c) fc [] 0 _⟩, ?_, ?_⟩
  · exact congrArg _ (State.frameIn_accepts s 0 c fc [] 0 (by decide) h)
  · intro op c fc s hlt hop h hnew
    have hrefused := (s.frameHeard.takesToken op (cutCmd c)).refusal_unknown (cutCmd c) hop
    refine congrArg _ ((State.frameIn_refused [] 0 hlt h hnew hrefused).trans ?_)
    rw [State.refuseCmd_notPermitted _ _ _ (isConfirm_unknown _ hop)]
  · intro op c fc s hlt h t d hseen
    have hagain : exec (.duplicateFc op c) s = .next (t.answerAgain op d fc).cardOn :=
      congrArg _ (State.frameIn_repeats [] 0 hlt h hseen)
    refine ⟨fun hout => ?_, fun hout => ⟨fun x hdone hclass hunits => ?_, fun hdone => ?_⟩⟩
    · rw [hagain, State.answerAgain_outstanding op d hout]
    · rw [hagain, State.answerAgain_dedup op d hout hdone hclass hunits]
    · rw [hagain, State.answerAgain_rejects op d hout hdone]

end Sys2Proof.Machine
end

section
/-! PROOFS. The commands that a card starts with their one unit: SEG_VERIFY, REG_WR, INST_CFG and LOCK_CTL (R181, R232,
R234, R236, R249, R254, R388, R389, R399; logs 77, 100 and 125). -/

namespace Sys2Proof.Machine

/-! ## What a command begins with -/

/-- What a command with one unit begins with, by its operation; any other as it starts. -/
def State.unitBegins (s : State) (op : Nat) (o : Outst) : State :=
  match op with
  | 0x0A => s.startSegVerify o
  | 0x0D => s.startRegWr o
  | 0x14 => s.startInstCfg o
  | 0x1A => s.startLockCtl o
  | _ => s.startOne o

theorem State.startOne_unitBegins (s : State) (o : Outst)
    (hbar : (if dataOp o.op then s.dataBars o else none) = none) : s.startOne o = s.unitBegins o.op o := by
  unfold State.unitBegins
  split
  case h_5 => rfl
  all_goals
    next hop =>
      rw [hop] at hbar
      simp only [State.startOne, hop, hbar]

/-- A frame that starts its command with its unit leaves what the command begins with on the card that has taken both,
and the card goes on. -/
theorem State.frameUnit_begins {s t : State} {op : Nat} {c : Cmd} {fc : Nat} {u : UnitIn} {env : List MediaRead}
    {o q : Outst} (hop : oneUnit op) (h : s.StartsWithUnit op c fc u env o q)
    (hbegins : (s.withUnit op c fc u env o).unitBegins op q = t) : s.frameUnit op c u env = t.goesOn.cardOn := by
  obtain ⟨hqop, hbar⟩ := State.startsWithUnit_op s op c fc u env o q hop h
  rw [State.frameUnit_starts s op c fc u env o q hop h, State.startOne_unitBegins _ q hbar, hqop, hbegins]

theorem State.next_frameUnit_begins {s t : State} {op : Nat} {c : Cmd} {fc : Nat} {u : UnitIn} {env : List MediaRead}
    {o q : Outst} (hop : oneUnit op) (h : s.StartsWithUnit op c fc u env o q)
    (hbegins : (s.withUnit op c fc u env o).unitBegins op q = t) :
    (Host.Outcome.next (s.frameUnit op c u env) : Result) = .next t.goesOn.cardOn :=
  congrArg _ (State.frameUnit_begins hop h hbegins)

theorem oneUnit_segVerify : oneUnit 0x0A := .inl rfl
theorem oneUnit_regWr : oneUnit 0x0D := .inr (.inl rfl)
theorem oneUnit_instCfg : oneUnit 0x14 := .inr (.inr (.inl rfl))
theorem oneUnit_lockCtl : oneUnit 0x1A := .inr (.inr (.inr rfl))

/-! ## SEG_VERIFY (R399) -/

/-- A seal of the command's instance that does not check answers INTEGRITY_FAIL. -/
theorem State.startSegVerify_unchecked (s : State) (o : Outst)
    (hinst : o.inst = 0 ∨ (o.data.getD 6 0).toNat = o.inst) (hkey : s.keys.slk ≠ [])
    (hseal : s.sealChecks (o.data.take 128) = false) :
    s.startSegVerify o = ((s.bump SEG_CNT_VERIFY_FAILED).fireI EV_SEG_VERIFY_FAIL o.inst 0xFFFF 0).done o 0x41 0xFFFF := by
  have hbyte : (o.data.take 128).getD 6 0 = o.data.getD 6 0 := by
    simp only [List.getD_eq_getElem?_getD, List.getElem?_take_of_lt (by decide : 6 < 128)]
  have hown : ¬ (o.inst ≠ 0 ∧ ((o.data.take 128).getD 6 0).toNat ≠ o.inst) := by
    rw [hbyte]
    exact fun hforeign => hinst.elim hforeign.1 hforeign.2
  rw [State.startSegVerify]
  simp only [hown, hkey, hseal, Bool.not_false, if_false, if_true]
  rfl

/-! ## INST_CFG (R232–R236, R249, R254) -/

section
variable {s : State} {o : Outst} (hclean : recordClean (padTo 4096 o.data) = true)
include hclean

section
variable (hserial : natBE (((padTo 4096 o.data).drop 12).take 8) = 0)
include hserial

/-- CREATE with a clean record and no serial answers what creating the instance gives. -/
theorem State.startInstCfg_creates (haction : o.action = 1) :
    let d := padTo 4096 o.data
    let r := s.createInst o.target (natBE ((d.drop 4).take 4)) (natBE ((d.drop 8).take 4)) (d.getD 2 0).toNat
      (d.getD 3 0).toNat
    s.startInstCfg o = r.2.done o r.1 0 := by
  simp [State.startInstCfg, hclean, hserial, haction]

/-- RESIZE with a clean record and no serial answers what resizing the instance gives. -/
theorem State.startInstCfg_resizes (haction : o.action = 2) :
    let d := padTo 4096 o.data
    let r := s.resizeInst o.target (natBE ((d.drop 4).take 4)) (natBE ((d.drop 8).take 4)) 0
    s.startInstCfg o = r.2.done o r.1 0 := by
  simp [State.startInstCfg, hclean, hserial, haction]

/-- SCHED with a clean record that names no serial and no range answers what scheduling the instance gives. -/
theorem State.startInstCfg_schedules (haction : o.action = 3)
    (hbase : natBE (((padTo 4096 o.data).drop 4).take 4) = 0) (hsize : natBE (((padTo 4096 o.data).drop 8).take 4) = 0) :
    let d := padTo 4096 o.data
    let r := s.schedInst o.target (d.getD 2 0).toNat (d.getD 3 0).toNat
    s.startInstCfg o = r.2.done o r.1 0 := by
  simp [State.startInstCfg, hclean, hserial, haction, hbase, hsize]

/-- RECLAIM of a configured instance aborts what it has open and answers OK. -/
theorem State.startInstCfg_reclaims (haction : o.action = 5) (hconf : s.configured o.target = true) :
    s.startInstCfg o = (s.reclaimInst o.fc o.target).done o 0x00 0 := by
  simp [State.startInstCfg, hclean, hserial, haction, hconf]

end

/-- DELETE of a configured instance other than 0, under the card's serial, begins the deletion. -/
theorem State.startInstCfg_deletes (haction : o.action = 4) (htarget : o.target ≠ 0)
    (hconf : s.configured o.target = true) (hserial : natBE (((padTo 4096 o.data).drop 12).take 8) = s.serial) :
    s.startInstCfg o = s.startDelete o o.target := by
  simp [State.startInstCfg, hclean, hserial, haction, htarget, hconf]

end

/-! ## LOCK_CTL (R388, R389) -/

section
variable {s : State} {o : Outst}

/-- LOCK_CTL with ARG 0 answers what LOCK_SET gives for its unit. -/
theorem State.startLockCtl_sets (harg : o.arg = 0) :
    let d := padTo 4096 o.data
    let b := fun (i : Nat) => (d.getD i 0).toNat
    let r := s.runLockSet (b 0) (b 1) ((d.drop 3).take (b 2)) ((d.drop (4 + b 2)).take (b (3 + b 2)))
    s.startLockCtl o = r.2.2.done o r.1 r.2.1 := if_pos harg

/-- LOCK_CTL with another ARG and a password of 4 to 32 bytes answers what UNLOCK gives for its unit. -/
theorem State.startLockCtl_unlocks (harg : o.arg ≠ 0) (hmin : 4 ≤ ((padTo 4096 o.data).getD 1 0).toNat)
    (hmax : ((padTo 4096 o.data).getD 1 0).toNat ≤ 32) :
    let d := padTo 4096 o.data
    let r := s.runUnlock (d.getD 0 0).toNat ((d.drop 2).take (d.getD 1 0).toNat)
    s.startLockCtl o = r.2.2.done o r.1 r.2.1 :=
  (if_neg harg).trans (if_neg (not_or.mpr ⟨Nat.not_lt.mpr hmin, Nat.not_lt.mpr hmax⟩))

end

/-! ## The commands -/

/-- Settles O43: each frame runs its command's beginning on the card that has taken the frame and its unit, and the
beginning's own lemma says what that does. -/
theorem unitCommandsStart : Obligations.UnitCommandsStart := by
  unfold Obligations.UnitCommandsStart
  intro c fc u s o q
  refine ⟨?_, fun h => ?_, ?_, ?_⟩
  · intro env h t
    exact ⟨State.next_frameUnit_begins oneUnit_segVerify h rfl, State.startSegVerify_unchecked t q⟩
  · have hframe := State.frameUnit_begins oneUnit_regWr h rfl
    exact congrArg (fun t : State => (Host.Outcome.next t.settle : Result)) hframe
  · intro h t d base size hclean
    refine ⟨fun hserial => ⟨fun ha => ?_, fun ha => ?_, fun ha hbase hsize => ?_, fun ha hconf => ?_⟩,
      fun ha htarget hconf hserial => ?_⟩
    · exact State.next_frameUnit_begins oneUnit_instCfg h (State.startInstCfg_creates hclean hserial ha)
    · exact State.next_frameUnit_begins oneUnit_instCfg h (State.startInstCfg_resizes hclean hserial ha)
    · exact State.next_frameUnit_begins oneUnit_instCfg h (State.startInstCfg_schedules hclean hserial ha hbase hsize)
    · exact State.next_frameUnit_begins oneUnit_instCfg h (State.startInstCfg_reclaims hclean hserial ha hconf)
    · exact State.next_frameUnit_begins oneUnit_instCfg h (State.startInstCfg_deletes hclean ha htarget hconf hserial)
  · intro h t d b
    exact ⟨fun harg => State.next_frameUnit_begins oneUnit_lockCtl h (State.startLockCtl_sets harg),
      fun harg hmin hmax => State.next_frameUnit_begins oneUnit_lockCtl h (State.startLockCtl_unlocks harg hmin hmax)⟩

end Sys2Proof.Machine
end

section
/-! PROOFS. PERST_N, the PCIe link, the resets of functions, and the VFs of a dock (R201–R203, R229, R230; logs 139 and
140). -/

namespace Sys2Proof.Machine

/-! ## PERST_N (R72, R73, R202) -/

section
variable {s : State} (k : ResetKind) (hpoc : s.boot.poc = false) (hrst : s.boot.rstLow = false)
  (hfree : s.absorbs k = false)
include hpoc hrst hfree

/-- A narrow reset that no other takes in waits for the pulse or the burn in progress, and else takes effect at once. -/
theorem State.askNarrow_free (pulse : Bool) :
    s.askNarrow k pulse = if pulse || s.boot.fuse.isSome then s.await k else s.narrowReset k := by
  simp only [State.askNarrow, hpoc, hrst, hfree, Bool.or_self, Bool.false_eq_true, if_false]

theorem State.askNarrow_free_runs (hfuse : s.boot.fuse = none) : s.askNarrow k false = s.narrowReset k := by
  rw [State.askNarrow_free k hpoc hrst hfree, hfuse]
  rfl

theorem State.askNarrow_free_waits_pulse : s.askNarrow k true = s.await k := by
  rw [State.askNarrow_free k hpoc hrst hfree]
  rfl

theorem State.askNarrow_free_waits_burn (hfuse : s.boot.fuse ≠ none) : s.askNarrow k false = s.await k := by
  rw [State.askNarrow_free k hpoc hrst hfree, Bool.false_or, if_pos (Option.isSome_iff_ne_none.mpr hfuse)]

end

/-- PERST_N falling on a dock from step 1 on asks for the reset of the PCIE island. -/
theorem execPerstNFall_asks {s : State} (pulse : Bool) (hdock : s.isDock = true) (hstep : 1 ≤ s.bootStep)
    (hhigh : s.pins.perstHigh = true) :
    execPerstNFall pulse s = .next (({ s with pins := { s.pins with perstHigh := false } } : State).askNarrow .perstN
      pulse) := by
  simp only [execPerstNFall, hdock, hstep, hhigh, decide_true, Bool.and_self, Bool.not_true, Bool.false_eq_true,
    if_false, if_true]

/-- PERST_N rising from bring-up step ROLE on fires its event and starts training. -/
theorem execPerstNRise_trains {s : State} (hdock : s.isDock = true) (halive : s.alive = true)
    (hlow : s.pins.perstHigh = false) (hstep : 4 ≤ s.bootStep) :
    execPerstNRise s = .next (((({ s with pins := { s.pins with perstHigh := true, wakeLow := false } } : State).wake
      3).fire EV_RST_PERST).setFld PCE_LINK_STAT_LTSSM 1) := by
  simp only [execPerstNRise, hdock, halive, hlow, hstep, Bool.not_true, Bool.or_self, Bool.false_eq_true, if_false,
    if_true]

/-! ## The link (R201, R229) -/

section
variable {s : State} {speed width : Nat} (ltssm : Nat) (hdock : s.isDock = true) (hhigh : s.pins.perstHigh = true)
  (hstep : 4 ≤ s.bootStep) (hisland : s.islandDown islPCIE = false) (hfence : s.fenced (.engine pPCE 1) = false)
  (hl1 : s.fld PCE_LINK_STAT_LTSSM ≠ 5)
include hdock hhigh hstep hisland hfence hl1

/-- A link that was not in L1 changes as it is told, at a speed and a width that there are. -/
theorem execPcieLinkChange_told (up : Bool)
    (hknown : (up && (speed = 0 || 3 < speed || width = 0 || 2 < width)) = false) :
    execPcieLinkChange speed width up ltssm s = .next
      (if up then (s.linkUpAs (s.speedCap speed) width ltssm).pump else s.linkDownAs ltssm) := by
  simp only [execPcieLinkChange, hdock, hhigh, hisland, hfence, hl1, hknown, Nat.not_lt.mpr hstep, decide_false,
    Bool.not_true, Bool.or_self, Bool.false_eq_true, false_and, if_false]

theorem execPcieLinkChange_up (hspeed : 1 ≤ speed ∧ speed ≤ 3) (hwidth : 1 ≤ width ∧ width ≤ 2) :
    execPcieLinkChange speed width true ltssm s = .next (s.linkUpAs (s.speedCap speed) width ltssm).pump := by
  refine execPcieLinkChange_told ltssm hdock hhigh hstep hisland hfence hl1 true ?_
  simp only [Bool.true_and, Bool.or_eq_false_iff, decide_eq_false_iff_not]
  omega

theorem execPcieLinkChange_down : execPcieLinkChange speed width false ltssm s = .next (s.linkDownAs ltssm) :=
  execPcieLinkChange_told ltssm hdock hhigh hstep hisland hfence hl1 false rfl

end

/-! ## Functions (R203, R230) -/

section
variable {s : State} (hconfig : s.configUp = true)
include hconfig

/-- FLR of the PF resets all sixteen functions and disables the VFs, and FLR of a VF resets that one. -/
theorem execPceFlr_resets {fn : Nat} (hen : s.fnEnabled fn = true) (hfn : fn < 16) :
    execPceFlr fn s = .next (if fn = 0 then
      (((List.range 16).foldl (fun (t : State) n => t.resetFn n) s).setFld PCE_FUNC_STAT_ENABLED 1).setFlag
        PCE_FUNC_STAT_VF_ENABLE false
      else s.resetFn fn) := by
  simp only [execPceFlr, hconfig, hen, Nat.not_le.mpr hfn, decide_false, Bool.not_true, Bool.or_self,
    Bool.false_eq_true, if_false]
  split <;> rfl

/-- VF_ENABLE given enables the PF and up to fifteen VFs. -/
theorem execVfEnable_enables (num : Nat) (ari : Bool) (hwas : s.flag PCE_FUNC_STAT_VF_ENABLE = false) :
    execVfEnable true num ari s = .next
      ((((s.setFlag PCE_FUNC_STAT_ARI ari).setFld PCE_FUNC_STAT_ENABLED (2 ^ (min num 15 + 1) - 1)).setFlag
        PCE_FUNC_STAT_VF_ENABLE true).fire EV_PCE_VF_ENABLE) := by
  simp only [execVfEnable, hconfig, hwas, Bool.not_true, Bool.not_false, Bool.and_self, Bool.false_eq_true, if_false,
    if_true]

/-- VF_ENABLE taken back resets every VF that was enabled. -/
theorem execVfEnable_disables (num : Nat) (ari : Bool) (hwas : s.flag PCE_FUNC_STAT_VF_ENABLE = true) :
    execVfEnable false num ari s = .next
      (((fnList (s.fld PCE_FUNC_STAT_ENABLED)).filter (· != 0)).foldl (fun (t : State) n => t.resetFn n)
        (((s.setFlag PCE_FUNC_STAT_ARI ari).setFld PCE_FUNC_STAT_ENABLED 1).setFlag PCE_FUNC_STAT_VF_ENABLE
          false)) := by
  simp only [execVfEnable, hconfig, hwas, Bool.not_true, Bool.not_false, Bool.and_self, Bool.false_eq_true, if_false,
    if_true]

end

/-- FLR_DONE of a function whose reset is under way clears its BUSY bit. -/
theorem execFlrDone_ends {s : State} {fn : Nat} (hdock : s.isDock = true) (hfn : fn < 16)
    (hbusy : bitAt (s.fld PCE_FLR_STAT_BUSY) fn = true) :
    execFlrDone fn s = .next
      ((s.setFld PCE_FLR_STAT_BUSY (s.fld PCE_FLR_STAT_BUSY - 2 ^ fn)).fireI EV_PCE_FLR fn fn 0) := by
  simp only [execFlrDone, hdock, hbusy, Nat.not_le.mpr hfn, decide_false, Bool.not_true, Bool.or_self,
    Bool.false_eq_true, if_false]

/-! ## The commands -/

/-- Settles O47: PERST_N falling asks for a reset that nothing takes in, and each other command has its own lemma. -/
theorem pcieLinkAndFunctions : Obligations.PcieLinkAndFunctions := by
  unfold Obligations.PcieLinkAndFunctions
  refine ⟨?_, fun s hdock halive hlow hstep => execPerstNRise_trains hdock halive hlow hstep, ?_,
    fun fn s hconfig hen hfn => execPceFlr_resets hconfig hen hfn,
    fun fn s hdock hfn hbusy => execFlrDone_ends hdock hfn hbusy,
    fun num ari s hconfig => ⟨execVfEnable_enables hconfig num ari, execVfEnable_disables hconfig num ari⟩⟩
  · intro s hdock hstep hpoc hrst hfree hhigh t u
    have hasks := fun pulse => execPerstNFall_asks pulse hdock hstep hhigh
    refine ⟨fun hfuse => (hasks false).trans (congrArg _ ?_), (hasks true).trans (congrArg _ ?_),
      fun hfuse => (hasks false).trans (congrArg _ ?_)⟩
    · exact State.askNarrow_free_runs (s := t) .perstN hpoc hrst hfree hfuse
    · exact State.askNarrow_free_waits_pulse (s := t) .perstN hpoc hrst hfree
    · exact State.askNarrow_free_waits_burn (s := t) .perstN hpoc hrst hfree hfuse
  · intro speed width ltssm s hdock hhigh hstep hisland hfence hl1
    exact ⟨fun hlo hhi hwlo hwhi =>
        execPcieLinkChange_up ltssm hdock hhigh hstep hisland hfence hl1 ⟨hlo, hhi⟩ ⟨hwlo, hwhi⟩,
      execPcieLinkChange_down ltssm hdock hhigh hstep hisland hfence hl1⟩

end Sys2Proof.Machine
end

section
/-! PROOFS. Doorbells, the fetch of entries, and what the host answers to a read (R206, R210–R212, R229, R239, R243;
logs 131, 132 and 138). -/

namespace Sys2Proof.Machine

/-! ## Doorbells (R206, R229) -/

section
variable {s : State} {fn k : Nat} (value : Nat) (htakes : s.fnTakes fn = true)
include htakes

theorem execSqDoorbell_rings (hk : k < 4) : execSqDoorbell fn k value s = .next ((s.wake 3).ringSq fn k value) :=
  congrArg _ (if_pos (Bool.and_eq_true_iff.mpr ⟨htakes, decide_eq_true hk⟩))

theorem execCqDoorbell_rings (hk : k < 2) : execCqDoorbell fn k value s = .next ((s.wake 3).ringCq fn k value).pump :=
  congrArg _ (if_pos (Bool.and_eq_true_iff.mpr ⟨htakes, decide_eq_true hk⟩))

end

/-- A doorbell is not ignored where its queue is enabled and the value is a slot of it. -/
theorem bellCause_slot {value len : Nat} (hlen : value < len) (hmax : value < 4096) : bellCause value len true = 0 := by
  simp only [bellCause, Nat.not_le.mpr hlen, Nat.not_le.mpr hmax, Bool.not_true, Bool.false_eq_true, if_false]

theorem bellCause_index {value len : Nat} (hlen : len ≤ value) (hmax : value < 4096) :
    bellCause value len true = 1 := by
  simp only [bellCause, hlen, Nat.not_le.mpr hmax, Bool.not_true, Bool.false_eq_true, if_false, if_true]

theorem bellCause_reserved {value : Nat} (len : Nat) (on : Bool) (hmax : 4096 ≤ value) : bellCause value len on = 2 :=
  if_pos hmax

theorem bellCause_disabled {value : Nat} (len : Nat) (hmax : value < 4096) : bellCause value len false = 3 := by
  simp only [bellCause, Nat.not_le.mpr hmax, Bool.not_false, if_false, if_true]

section
variable {s : State} {n k value : Nat}

/-- A doorbell of an SQ with a cause to ignore it is recorded with that cause. -/
theorem State.ringSq_ignored {cause : Nat}
    (hcause : bellCause value (s.sqLen n k) (s.flag (INS_SQ_CFG_ENABLE n k)) = cause) (hne : cause ≠ 0) :
    s.ringSq n k value = s.bellError n k value cause := by
  simp only [State.ringSq, hcause, hne, ne_eq, not_false_eq_true, if_true]

/-- A doorbell of an SQ that is not ignored is the new tail. -/
theorem State.tail_ringSq (hcause : bellCause value (s.sqLen n k) (s.flag (INS_SQ_CFG_ENABLE n k)) = 0) :
    (s.ringSq n k value).fld (INS_SQ_STAT_TAIL n k) =
      (s.setFld (INS_SQ_STAT_TAIL n k) value).fld (INS_SQ_STAT_TAIL n k) := by
  simp only [State.ringSq, hcause, ne_eq, not_true_eq_false, if_false]
  split <;> rfl

end

/-! ## The fetch of entries (R210) -/

/-- A queue that may be fetched from, with entries to fetch, starts a burst of them. -/
theorem execSqFetch_bursts {s : State} {n k : Nat} (hserves : s.sqServes n k = true)
    (hm : min (min s.burst (s.sqVisible n k - s.sqAhead n k)) (s.cqFree n (s.sqCq n k)) ≠ 0) :
    let m := min (min s.burst (s.sqVisible n k - s.sqAhead n k)) (s.cqFree n (s.sqCq n k))
    execSqFetch n k s = .next
      ({ s with host := { s.host with fetching := s.host.fetching ++ [(n, k, m)] } } : State).pump := by
  simp only [execSqFetch, hserves, hm, decide_false, Bool.not_true, Bool.or_self, Bool.false_eq_true, if_false]

/-! ## What the host answers (R211, R212, R239, R243) -/

/-- A read of which the bytes of one request, of a tag, have arrived. -/
def HRead.answered (r : HRead) (q : HReq) (tag : Nat) (bytes : List Byte) : HRead :=
  { r with data := putBytes r.data q.off (padTo q.len bytes), reqs := r.reqs.filter (fun x => x.tag != tag) }

/-- One open read is replaced by what it has become. -/
def State.withRead (s : State) (r r' : HRead) : State :=
  { s with host := { s.host with reads := mapIf (fun x => x == r) (fun _ => r') s.host.reads } }

section
variable {s : State} {r : HRead} {q : HReq} {tag : Nat} (bytes : List Byte)
  (hreq : r.reqs.find? (fun q => q.tag == tag) = some q)
include hreq

/-- The bytes of a request go to their place in its read, and a read that is whole then is taken. -/
theorem State.takePart_answered : s.takePart r tag bytes =
    if (r.answered q tag bytes).reqs.isEmpty && (r.answered q tag bytes).asked == (r.answered q tag bytes).len then
      (s.withRead r (r.answered q tag bytes)).takeRead (r.answered q tag bytes) (r.answered q tag bytes).data
    else s.withRead r (r.answered q tag bytes) := by
  simp only [State.takePart, hreq]
  rfl

theorem State.takePart_whole (hlast : (r.answered q tag bytes).reqs = [])
    (hasked : (r.answered q tag bytes).asked = (r.answered q tag bytes).len) :
    s.takePart r tag bytes =
      (s.withRead r (r.answered q tag bytes)).takeRead (r.answered q tag bytes) (r.answered q tag bytes).data := by
  rw [State.takePart_answered bytes hreq, if_pos]
  rw [hlast, hasked, beq_self_eq_true]
  rfl

theorem State.takePart_part
    (hmore : (r.answered q tag bytes).reqs ≠ [] ∨ (r.answered q tag bytes).asked ≠ (r.answered q tag bytes).len) :
    s.takePart r tag bytes = s.withRead r (r.answered q tag bytes) := by
  rw [State.takePart_answered bytes hreq, if_neg]
  rw [Bool.and_eq_true_iff, List.isEmpty_iff, beq_iff_eq]
  exact fun ⟨hlast, hasked⟩ => hmore.elim (absurd hlast) (absurd hasked)

end

section
variable {s : State} {tag : Nat} (hopen : s.tagOpen tag = true)
include hopen

/-- Bytes for a tag go to the read that its request serves. -/
theorem execPcieReadCompletion_serves {r : HRead} (bytes : List Byte) (hread : s.readOf tag = some r) :
    execPcieReadCompletion tag (.data bytes) s = .next (s.takePart r tag bytes).pump := by
  simp only [execPcieReadCompletion, hopen, hread, Bool.not_true, Bool.false_eq_true, if_false]

/-- Bytes for the tag of a read that was given up free the tag. -/
theorem execPcieReadCompletion_stale (bytes : List Byte) (hread : s.readOf tag = none) :
    execPcieReadCompletion tag (.data bytes) s = .next (s.freeTag tag).pump := by
  simp only [execPcieReadCompletion, hopen, hread, Bool.not_true, Bool.false_eq_true, if_false]

theorem execPcieReadCompletion_unsuccessful :
    execPcieReadCompletion tag .unsuccessful s = .next (s.failPart tag).pump := by
  simp only [execPcieReadCompletion, hopen, Bool.not_true, Bool.false_eq_true, if_false]

/-- A poisoned completion is counted, its header logged and the error reported. -/
theorem execPcieReadCompletion_poisoned : execPcieReadCompletion tag .poisoned s = .next
    ((((s.bump PCE_CPL_CNT_POISONED).logHeader).noteAer).failPart tag).pump := by
  simp only [execPcieReadCompletion, hopen, Bool.not_true, Bool.false_eq_true, if_false]

/-- A missing completion is counted and reported where the host has not disabled the timeout. -/
theorem execCompletionTimeout_fails (hon : bitAt (s.fnReg 0 36) 4 = false) :
    execCompletionTimeout tag s = .next (((s.bump PCE_CPL_CNT_TIMEOUT).noteAer).failPart tag).pump := by
  simp only [execCompletionTimeout, hopen, hon, Bool.not_true, Bool.or_self, Bool.false_eq_true, if_false]

end

/-- The coalescing timer of a CQ that has entries not signalled signals them. -/
theorem execCqCoalesceTimer_signals {s : State} {n j : Nat} (hup : s.pciUp = true) (hj : j < 2)
    (htime : s.fld (INS_CQ_CFG_COAL_TIME n j) ≠ 0) (hcoal : assocGet s.host.coal (2 * n + j) ≠ 0) :
    execCqCoalesceTimer n j s = .next (s.signalCq n j) := by
  simp only [execCqCoalesceTimer, hup, hj, bne_iff_ne.mpr htime, bne_iff_ne.mpr hcoal, decide_true, Bool.and_self,
    if_true]

/-! ## The commands -/

/-- Settles O48: a doorbell is split by the cause to ignore it, and an answer by its kind and by the read it serves. -/
theorem queueCommands : Obligations.QueueCommands := by
  unfold Obligations.QueueCommands
  refine ⟨fun fn k value s htakes => ⟨execSqDoorbell_rings value htakes, execCqDoorbell_rings value htakes⟩,
    fun fn k value t hon => ?_, fun fn k value t hoff hmax => ?_, fun n k s hserves => execSqFetch_bursts hserves,
    fun tag s hup htag => ?_, fun n j s hup hj htime hcoal => execCqCoalesceTimer_signals hup hj htime hcoal⟩
  · refine ⟨fun hlen hmax => State.tail_ringSq ?_, fun hlen hmax => State.ringSq_ignored ?_ (by decide),
      fun hmax => State.ringSq_ignored (bellCause_reserved _ _ hmax) (by decide)⟩
    · rw [hon, bellCause_slot hlen hmax]
    · rw [hon, bellCause_index hlen hmax]
  · refine State.ringSq_ignored ?_ (by decide)
    rw [hoff, bellCause_disabled _ hmax]
  · intro hit free fail
    have hopen : s.tagOpen tag = true := Bool.and_eq_true_iff.mpr ⟨hup, htag⟩
    refine ⟨fun bytes r q hread hreq => ?_, fun bytes hread => execPcieReadCompletion_stale hopen bytes hread,
      execPcieReadCompletion_unsuccessful hopen, execPcieReadCompletion_poisoned hopen,
      execCompletionTimeout_fails hopen⟩
    have hserves := execPcieReadCompletion_serves hopen bytes hread
    exact ⟨fun hlast hasked => hserves.trans (congrArg (fun u : State => (Host.Outcome.next u.pump : Result))
        (State.takePart_whole bytes hreq hlast hasked)),
      fun hmore => hserves.trans (congrArg (fun u : State => (Host.Outcome.next u.pump : Result))
        (State.takePart_part bytes hreq hmore))⟩

end Sys2Proof.Machine
end

section
/-! PROOFS. WRITE, READ and the commands that a dock forwards to its cards (R217, R219, R221–R224, R226; logs 149 and
150). -/

namespace Sys2Proof.Machine

/-! ## WRITE and DISCARD (R221, R223) -/

section
variable {inst sq cid : Nat} {s : State} {c : HCmd} (hfresh : s.freshCmd inst sq cid = some c)
  (hloaded : c.loaded = true) (hwrite : isWriteOp c.op = true) (hturn : s.writeAhead c = false)
include hfresh hloaded hwrite hturn

/-- A write whose turn it is ends by the parity of the mode register, goes on with its bridge records, or goes to the
port of its instance. -/
theorem execDockWrite_turn : execDockWrite inst sq cid s =
    if s.modeParity && s.bridged then .next (s.complete c 0x33 0 0x07)
    else if c.recs.isEmpty then .next (if s.bridged then s else s.soloWrite c)
    else .next (s.bridgeWrite c) := by
  simp only [execDockWrite, hfresh, hloaded, hwrite, hturn, Bool.not_true, Bool.or_self, Bool.false_eq_true, if_false]

theorem execDockWrite_parity (hparity : s.modeParity = true) (hbridged : s.bridged = true) :
    execDockWrite inst sq cid s = .next (s.complete c 0x33 0 0x07) := by
  rw [execDockWrite_turn hfresh hloaded hwrite hturn, if_pos (Bool.and_eq_true_iff.mpr ⟨hparity, hbridged⟩)]

theorem execDockWrite_bridge (hsound : s.modeParity = false ∨ s.bridged = false) (hrecs : c.recs ≠ []) :
    execDockWrite inst sq cid s = .next (s.bridgeWrite c) := by
  have hgoes : (s.modeParity && s.bridged) = false := Bool.and_eq_false_iff.mpr hsound
  simp only [execDockWrite_turn hfresh hloaded hwrite hturn, hgoes, List.isEmpty_iff, hrecs, Bool.false_eq_true,
    if_false]

theorem execDockWrite_solo (hrecs : c.recs = []) (hsolo : s.bridged = false) :
    execDockWrite inst sq cid s = .next (s.soloWrite c) := by
  simp only [execDockWrite_turn hfresh hloaded hwrite hturn, hrecs, hsolo, List.isEmpty_nil, Bool.and_false,
    Bool.false_eq_true, if_false, if_true]

end

section
variable {s : State} {c : HCmd}

/-- PORT_SEL does not name another port than that of the instance. -/
theorem HCmd.not_otherPort {p : Nat} (hsel : c.portSel = 0 ∨ c.portSel = p + 1) :
    ¬ (c.portSel ≠ 0 ∧ c.portSel ≠ p + 1) :=
  fun ⟨hnone, hother⟩ => hsel.elim hnone hother

theorem State.soloWrite_otherPort (hsel : c.portSel ≠ 0) (hother : c.portSel ≠ s.portOf c.inst + 1) :
    s.soloWrite c = s.complete c 0x32 0 0x08 := if_pos ⟨hsel, hother⟩

section
variable (hsel : c.portSel = 0 ∨ c.portSel = s.portOf c.inst + 1)
include hsel

theorem State.soloWrite_barred {st reason : Nat} (hbar : s.portBar (s.portOf c.inst) = some (st, reason)) :
    s.soloWrite c = s.complete c st 0 reason := by
  simp only [State.soloWrite, HCmd.not_otherPort hsel, hbar, if_false]

theorem State.soloWrite_discard (hbar : s.portBar (s.portOf c.inst) = none) (hop : c.op = 0x05) :
    s.soloWrite c = ((s.route c 1).pushD (s.portOf c.inst)
      { op := 0x05, inst := c.inst, arg := c.arg, origin := .host c.inst c.sq c.cid }).runDock := by
  simp only [State.soloWrite, HCmd.not_otherPort hsel, hbar, hop, if_false, if_true]

end
end

/-! ## READ (R221, R224) -/

/-- A READ is served by the dock: from the bridge's records, and from the cards for the rest. -/
def State.servedRead (s : State) (c : HCmd) (inst sq cid : Nat) : State :=
  (((s.route c 0).serveRead c 0 (c.good (c.arg % 4096 + 1))).closeParts inst sq cid).runDock

section
variable {inst sq cid : Nat} {s : State} {c : HCmd} (hfresh : s.freshCmd inst sq cid = some c)
  (hloaded : c.loaded = true) (hop : c.op = 0x02)
include hfresh hloaded hop

theorem execDockRead_bridged (hbridged : s.bridged = true) :
    execDockRead inst sq cid s = .next (s.servedRead c inst sq cid) := by
  simp only [execDockRead, hfresh, hloaded, hop, hbridged, ne_eq, not_true_eq_false, Bool.not_true, Bool.false_eq_true,
    or_self, if_false, if_true]
  rfl

section
variable (hsolo : s.bridged = false) (hsel : c.portSel = 0 ∨ c.portSel = s.portOf inst + 1)
include hsolo hsel

theorem execDockRead_runs (hbar : s.portBar (s.portOf inst) = none) (hrun : s.portRun (s.portOf inst) = true) :
    execDockRead inst sq cid s = .next (s.servedRead c inst sq cid) := by
  simp only [execDockRead, hfresh, hloaded, hop, hsolo, HCmd.not_otherPort hsel, hbar, hrun, ne_eq, not_true_eq_false,
    Bool.not_true, Bool.false_eq_true, or_self, if_false, if_true]
  rfl

theorem execDockRead_barred {st reason : Nat} (hbar : s.portBar (s.portOf inst) = some (st, reason)) :
    execDockRead inst sq cid s = .next (s.complete c st 0 reason) := by
  simp only [execDockRead, hfresh, hloaded, hop, hsolo, HCmd.not_otherPort hsel, hbar, ne_eq, not_true_eq_false,
    Bool.not_true, Bool.false_eq_true, or_self, if_false]

end
end

/-! ## Commands for a card (R217, R221, R222) -/

/-- A command goes to the one port it is for, or ends as the state of that port says. -/
def State.forwardOne (s : State) (c : HCmd) : State :=
  match s.onePort c with
  | none => s.complete c 0x50 0 0x05
  | some p => match s.portBar p with
    | some (st, reason) => s.complete c st 0 reason
    | none => s.sendTo c [p]

section
variable {s : State} {c : HCmd}

theorem State.forwardOne_noPort (hport : s.onePort c = none) : s.forwardOne c = s.complete c 0x50 0 0x05 := by
  simp only [State.forwardOne, hport]

theorem State.forwardOne_sends {p : Nat} (hport : s.onePort c = some p) (hbar : s.portBar p = none) :
    s.forwardOne c = s.sendTo c [p] := by
  simp only [State.forwardOne, hport, hbar]

theorem State.forwardOne_barred {p st reason : Nat} (hport : s.onePort c = some p)
    (hbar : s.portBar p = some (st, reason)) : s.forwardOne c = s.complete c st 0 reason := by
  simp only [State.forwardOne, hport, hbar]

end

/-- The ports that a SETTLE of a mirror goes to: those in RUN that are not drained. -/
def State.settlePorts (s : State) : List Nat := [0, 1].filter (fun p => s.portRun p && !(s.sp p).drained)

section
variable {inst sq cid : Nat} {s : State} {c : HCmd} (hfresh : s.freshCmd inst sq cid = some c)
  (hloaded : c.loaded = true) (hwrite : isWriteOp c.op = false) (hread : c.op ≠ 0x02)
  (hcard : dockCompletes c.op = false)
include hfresh hloaded hwrite hread hcard

/-- A command whose data could not be read ends as that failure says, and nothing is sent. -/
theorem execDockForwardCommand_unread {u st reason : Nat} (hfail : c.fail = some (u, st, reason)) :
    execDockForwardCommand inst sq cid s = .next (s.complete c st u reason) := by
  simp only [execDockForwardCommand, hfresh, hloaded, hwrite, hread, hcard, hfail, decide_false, Bool.not_true,
    Bool.or_self, Bool.false_eq_true, if_false]

section
variable (hfail : c.fail = none)
include hfail

/-- SETTLE of a mirror without PORT_SEL goes to every card that runs. -/
theorem execDockForwardCommand_settles (hop : c.op = 0x07) (hmode : s.brgMode = 1) (hsel : c.portSel = 0)
    (hrun : s.settlePorts ≠ []) : execDockForwardCommand inst sq cid s = .next (s.sendTo c s.settlePorts) := by
  have hall : c.op = 0x07 ∧ s.brgMode = 1 ∧ c.portSel = 0 ∧ (!s.settlePorts.isEmpty) = true :=
    ⟨hop, hmode, hsel, by rw [List.isEmpty_eq_false_iff.mpr hrun]; rfl⟩
  have hfirst : (isWriteOp c.op || decide (c.op = 0x02) || dockCompletes c.op || !c.loaded) = false := by
    rw [hwrite, hcard, hloaded, decide_eq_false hread]; rfl
  simp only [execDockForwardCommand, hfresh, hfirst, hfail, Bool.false_eq_true, if_false]
  exact if_pos hall

section
variable (hone : c.op ≠ 0x07 ∨ s.brgMode ≠ 1 ∨ c.portSel ≠ 0)
include hone

/-- Any other command for a card goes to one port, or ends as the state of that port says. -/
theorem execDockForwardCommand_one : execDockForwardCommand inst sq cid s = .next (s.forwardOne c) := by
  have hnotAll (b : Bool) : ¬ (c.op = 0x07 ∧ s.brgMode = 1 ∧ c.portSel = 0 ∧ b = true) := by
    rintro ⟨hop, hmode, hsel, -⟩
    exact hone.elim (absurd hop) (fun h => h.elim (absurd hmode) (absurd hsel))
  simp only [execDockForwardCommand, State.forwardOne, hfresh, hloaded, hwrite, hread, hcard, hfail, hnotAll,
    decide_false, Bool.not_true, Bool.or_self, Bool.false_eq_true, if_false]
  cases s.onePort c with
  | none => rfl
  | some p =>
    dsimp only
    cases s.portBar p <;> rfl

end
end
end

/-! ## The commands -/

/-- Settles O50: each command by the lemma on its case of mode, port and data. -/
theorem hostDataCommands : Obligations.HostDataCommands := by
  unfold Obligations.HostDataCommands
  intro inst sq cid s c hfresh hloaded
  refine ⟨fun hwrite hturn => ⟨execDockWrite_parity hfresh hloaded hwrite hturn,
      execDockWrite_bridge hfresh hloaded hwrite hturn, fun hrecs hsolo =>
        ⟨execDockWrite_solo hfresh hloaded hwrite hturn hrecs hsolo, State.soloWrite_otherPort,
          fun hsel st reason => State.soloWrite_barred hsel, State.soloWrite_discard⟩⟩,
    fun hop => ⟨execDockRead_bridged hfresh hloaded hop, fun hsolo hsel =>
      ⟨execDockRead_runs hfresh hloaded hop hsolo hsel, fun st reason =>
        execDockRead_barred hfresh hloaded hop hsolo hsel⟩⟩,
    fun hwrite hread hcard => ⟨fun u st reason =>
        execDockForwardCommand_unread hfresh hloaded hwrite hread hcard, fun hfail => ⟨?_, fun hone => ?_⟩⟩⟩
  · exact execDockForwardCommand_settles hfresh hloaded hwrite hread hcard hfail
  · have hforward := execDockForwardCommand_one hfresh hloaded hwrite hread hcard hfail hone
    exact ⟨fun hport => hforward.trans (congrArg _ (State.forwardOne_noPort hport)),
      fun p hport hbar => hforward.trans (congrArg _ (State.forwardOne_sends hport hbar)),
      fun p st reason hport hbar => hforward.trans (congrArg _ (State.forwardOne_barred hport hbar))⟩

end Sys2Proof.Machine
end

section
/-! PROOFS. The commands of the host that a dock completes itself: PING, BARRIER, a refused opcode, BRG_MODE and
PORT_DRAIN (R217–R219, R225, R455; logs 135 and 151). -/

namespace Sys2Proof.Machine

/-! ## PING, BARRIER and refused opcodes (R217, R225) -/

section
variable {inst sq cid : Nat} {s : State} {c : HCmd} (hfresh : s.freshCmd inst sq cid = some c)
include hfresh

theorem execDockPing_completes (hop : c.op = 0x00) : execDockPing inst sq cid s = .next (s.complete c 0 0 0) := by
  simp only [execDockPing, hfresh, hop, if_true]

/-- A BARRIER completes once every earlier command of its instance has. -/
theorem execDockBarrier_completes (hop : c.op = 0x06) (hdone : s.allEarlierDone c false = true) :
    execDockBarrier inst sq cid s = .next (s.complete c 0 0 0) := by
  simp only [execDockBarrier, hfresh, hop, hdone, decide_true, Bool.and_self, if_true]

end

theorem execDockOpcodeRefused_completes {inst sq cid : Nat} {s : State} {c : HCmd}
    (hfind : s.host.cmds.find? (fun c => c.inst == inst && c.sq == sq && c.cid % 65536 == cid % 65536 && c.opRefused &&
      c.done.isNone) = some c) :
    execDockOpcodeRefused inst sq cid s = .next (s.complete c 0x32 0 0x01) := by
  simp only [execDockOpcodeRefused, hfind]

/-! ## BRG_MODE and PORT_DRAIN (R218, R219, R455) -/

/-- A fresh command that a management processor serves may go on. -/
theorem State.mpCmd_serves {s : State} {n k cid : Nat} {c : HCmd} (hfresh : s.freshCmd n k cid = some c)
    (hmp : s.mpServes = true) : s.mpCmd n k cid = some c := by
  simp only [State.mpCmd, hfresh, hmp, Option.filter_some, if_true]

section
variable {sq cid : Nat} {s : State} {c : HCmd} (hcmd : s.mpCmd 0 sq cid = some c)
include hcmd

section
variable (hop : c.op = 0x30) (hdone : s.allEarlierDone c true = true)
include hop hdone

theorem execBrgMode_reserved (hmode : c.arg % 4 = 3) : execBrgMode sq cid s = .next (s.complete c 0x32 0 0x02) := by
  simp only [execBrgMode, hcmd, hop, hdone, hmode, ne_eq, not_true_eq_false, Bool.not_true, Bool.false_eq_true, or_self,
    if_false, if_true]

/-- BRG_MODE with a mode that there is applies what it names, and the ports go on with it. -/
theorem execBrgMode_applies (hmode : c.arg % 4 ≠ 3) : execBrgMode sq cid s = .next
    ((((s.applyMode (c.arg % 4) (bitsOf c.arg 2 1) (bitsOf c.arg 16 16)).complete c 0 0 0).evalAll).runDock) := by
  simp only [execBrgMode, hcmd, hop, hdone, hmode, ne_eq, not_true_eq_false, Bool.not_true, Bool.false_eq_true, or_self,
    if_false]

end

section
variable (hop : c.op = 0x31)
include hop

/-- PORT_DRAIN of a port that no other one waits for drains it. -/
theorem execPortDrain_drains (hresume : bitAt c.arg 2 = false) (hnone : (s.sp (c.arg % 2)).drainCmd = none) :
    execPortDrain sq cid s = .next ((s.route c 0).startDrain (c.arg % 2) (bitAt c.arg 1) sq cid).runDock := by
  simp only [execPortDrain, hcmd, hop, hresume, hnone, ne_eq, not_true_eq_false, Option.isSome_none, Bool.false_eq_true,
    or_self, if_false]

theorem execPortDrainResume_ends (hresume : bitAt c.arg 2 = true) :
    execPortDrainResume sq cid s = .next ((s.endDrain (c.arg % 2)).endCmd c 0 0 0).runDock := by
  simp only [execPortDrainResume, hcmd, hop, hresume, ne_eq, not_true_eq_false, Bool.not_true, Bool.false_eq_true,
    or_self, if_false]

end
end

/-! ## The commands -/

/-- Settles O51: each command by its own lemma, those that a management processor serves as commands that may go on. -/
theorem hostDockCommands : Obligations.HostDockCommands := by
  unfold Obligations.HostDockCommands
  refine ⟨fun inst sq cid s c hfresh => ⟨execDockPing_completes hfresh, execDockBarrier_completes hfresh⟩,
    fun inst sq cid s c hfind => execDockOpcodeRefused_completes hfind, fun sq cid s c hfresh hmp => ?_⟩
  have hcmd := State.mpCmd_serves hfresh hmp
  exact ⟨fun hop hdone => ⟨execBrgMode_reserved hcmd hop hdone, execBrgMode_applies hcmd hop hdone⟩,
    execPortDrain_drains hcmd, execPortDrainResume_ends hcmd⟩

end Sys2Proof.Machine
end

section
/-! PROOFS. INST_QUIESCE: what refuses it, its three actions, and the end of the wait (R220, R251–R253; logs 151 and
152). -/

namespace Sys2Proof.Machine

/-! ## The actions (R220, R252, R253) -/

section
variable {sq cid : Nat} {s : State} {c : HCmd}

section
variable (hbad : c.badQuiesce = true)
include hbad

theorem execInstQuiesceQuiesce_refuses (hcmd : s.quiesceCmd sq cid 0 = some c) :
    execInstQuiesceQuiesce sq cid s = .next (s.complete c 0x32 0 0x02) := by
  simp only [execInstQuiesceQuiesce, hcmd, hbad, if_true]

theorem execInstQuiesceResume_refuses (hcmd : s.quiesceCmd sq cid 1 = some c) :
    execInstQuiesceResume sq cid s = .next (s.complete c 0x32 0 0x02) := by
  simp only [execInstQuiesceResume, hcmd, hbad, if_true]

theorem execInstQuiesceReclaim_refuses (hcmd : s.quiesceCmd sq cid 2 = some c) :
    execInstQuiesceReclaim sq cid s = .next (s.complete c 0x32 0 0x02) := by
  simp only [execInstQuiesceReclaim, hcmd, hbad, if_true]

end

/-- An INST_QUIESCE waits for its instance. -/
def State.awaitQuiesce (s : State) (n sq cid : Nat) : State :=
  { s with host := { s.host with quiescing := s.host.quiescing ++ [(n, sq, cid)] } }

/-- RECLAIM begins: what no card has been sent is aborted, and the cards in RUN are told. -/
def State.startReclaim (s : State) (n : Nat) : State :=
  (((((s.setFlag (PG_CTRL_QUIESCE_REQ (pINS n)) true).setFld (INS_STATE_STATE n) 3).abortUnstarted n 0x51).abortStarted
    n).sendReclaim n)

section
variable (hgood : c.badQuiesce = false)
include hgood

theorem execInstQuiesceQuiesce_quiesces (hcmd : s.quiesceCmd sq cid 0 = some c) :
    execInstQuiesceQuiesce sq cid s = .next
      ((((s.route c 0).instQuiesce (c.arg % 16)).awaitQuiesce (c.arg % 16) sq cid).quiesceStep (c.arg % 16)) := by
  simp only [execInstQuiesceQuiesce, hcmd, hgood, Bool.false_eq_true, if_false]
  rfl

section
variable (hcmd : s.quiesceCmd sq cid 1 = some c)
include hcmd

/-- RESUME of an instance that is not QUIESCED is refused. -/
theorem execInstQuiesceResume_wrongState (hstate : s.fld (INS_STATE_STATE (c.arg % 16)) ≠ 2) :
    execInstQuiesceResume sq cid s = .next (s.complete c 0x32 0 0x0C) := by
  simp only [execInstQuiesceResume, hcmd, hgood, hstate, ne_eq, not_false_eq_true, Bool.false_eq_true, if_false,
    if_true]

theorem execInstQuiesceResume_resumes (hstate : s.fld (INS_STATE_STATE (c.arg % 16)) = 2) :
    execInstQuiesceResume sq cid s = .next ((s.instResume (c.arg % 16)).complete c 0 0 0) := by
  simp only [execInstQuiesceResume, hcmd, hgood, hstate, ne_eq, not_true_eq_false, Bool.false_eq_true, if_false]

end

theorem execInstQuiesceReclaim_reclaims (hcmd : s.quiesceCmd sq cid 2 = some c) :
    execInstQuiesceReclaim sq cid s = .next
      (((((s.route c 0).startReclaim (c.arg % 16)).awaitQuiesce (c.arg % 16) sq cid).runDock).quiesceStep
        (c.arg % 16)) := by
  simp only [execInstQuiesceReclaim, hcmd, hgood, Bool.false_eq_true, if_false]
  rfl

end
end

/-! ## The end of the wait (R251, R253) -/

section
variable {s : State} {n : Nat}

theorem execInstanceQuiesced_steps (hdock : s.isDock = true) (hn : n < 16) :
    execInstanceQuiesced n s = .next (s.quiesceStep n) :=
  congrArg _ (if_pos (Bool.and_eq_true_iff.mpr ⟨hdock, decide_eq_true hn⟩))

section
variable (hidle : s.instIdle n = true)
include hidle

/-- An instance that quiesces and has nothing outstanding is QUIESCED. -/
theorem State.quiesceStep_quiesced (hstate : s.fld (INS_STATE_STATE n) = 1) :
    s.quiesceStep n = ((s.setFld (INS_STATE_STATE n) 2).endQuiesces n).pump := by
  simp only [State.quiesceStep, hstate, hidle, if_true]

/-- A reclaim ends when nothing of the instance is outstanding, at the dock or at a card. -/
theorem State.quiesceStep_reclaimed (hstate : s.fld (INS_STATE_STATE n) = 3)
    (hcards : s.host.reclaims.any (fun e => e.1 == n && e.2 != 0) = false) :
    s.quiesceStep n = ((s.endReclaim n).endQuiesces n).pump := by
  simp only [State.quiesceStep, hstate, hidle, hcards, Bool.not_false, Bool.and_self, if_true]

end
end

/-! ## The commands -/

/-- Settles O52: each action by whether it is refused, and the end of the wait by the state of the instance. -/
theorem instanceQuiesceCommands : Obligations.InstanceQuiesceCommands := by
  unfold Obligations.InstanceQuiesceCommands
  refine ⟨fun sq cid act s c hcmd hbad => ⟨?_, ?_, ?_⟩,
    fun sq cid s c hcmd hgood => execInstQuiesceQuiesce_quiesces hgood hcmd,
    fun sq cid s c hcmd hgood =>
      ⟨execInstQuiesceResume_wrongState hgood hcmd, execInstQuiesceResume_resumes hgood hcmd⟩,
    fun sq cid s c hcmd hgood => execInstQuiesceReclaim_reclaims hgood hcmd, fun n s hdock hn hidle => ?_⟩
  · rintro rfl
    exact execInstQuiesceQuiesce_refuses hbad hcmd
  · rintro rfl
    exact execInstQuiesceResume_refuses hbad hcmd
  · rintro rfl
    exact execInstQuiesceReclaim_refuses hbad hcmd
  · have hsteps := execInstanceQuiesced_steps hdock hn
    exact ⟨fun hstate => hsteps.trans (congrArg _ (State.quiesceStep_quiesced hidle hstate)),
      fun hstate hcards => hsteps.trans (congrArg _ (State.quiesceStep_reclaimed hidle hstate hcards))⟩

end Sys2Proof.Machine
end

section
/-! PROOFS. BRG.CTRL, the copying of a track, and the delivery that a replay or a BUSY_RETRY holds back (R223, R451,
R452, R454, R459, R461; logs 130, 155, 181 and 182). -/

namespace Sys2Proof.Machine

/-! ## BRG.CTRL (R451, R454, R461) -/

section
variable (s : State)

theorem State.brgCtrl_switch : s.brgCtrl (0xB46E + 2 ^ 16) = s.askSwitch := by
  simp [State.brgCtrl, bitsOf, bitAt]

theorem State.brgCtrl_resumeCarry : s.brgCtrl (0xB46E + 2 ^ 19) = s.resumeCarry := by
  simp [State.brgCtrl, bitsOf, bitAt]

theorem State.brgCtrl_dropBlocked : s.brgCtrl (0xB46E + 2 ^ 20) = s.dropBlocked := by
  simp [State.brgCtrl, bitsOf, bitAt]

theorem State.brgCtrl_dropTrack {k : Nat} (hk : k < 2) : s.brgCtrl (0xB46E + 2 ^ (17 + k)) = s.dropTrack k := by
  obtain rfl | rfl : k = 0 ∨ k = 1 := by omega
  · simp [State.brgCtrl, bitsOf, bitAt]
  · simp [State.brgCtrl, bitsOf, bitAt]

/-- A write of BRG.CTRL with another key changes nothing, whatever bit stands above it. -/
theorem State.brgCtrl_otherKey {key i : Nat} (hkey : key % 65536 ≠ 0xB46E) (hi : 16 ≤ i) :
    s.brgCtrl (key % 65536 + 2 ^ i) = s := by
  refine if_pos ?_
  have hbit : 2 ^ i = 65536 * 2 ^ (i - 16) := (pow_mul_pow_sub 2 hi).symm
  simp only [bitsOf, hbit, Nat.pow_zero, Nat.div_one, Nat.reducePow, Nat.add_mul_mod_self_left, Nat.mod_mod]
  exact hkey

end

section
variable {s : State} (htakes : s.dockPage pBRG = true)
include htakes

theorem execBrgSwitch_writes (key : Nat) :
    execBrgSwitch key s = .next ((s.touchPage pBRG).brgCtrl (key % 65536 + 2 ^ 16)) := congrArg _ (if_pos htakes)

theorem execResumeCarry_writes (key : Nat) :
    execResumeCarry key s = .next ((s.touchPage pBRG).brgCtrl (key % 65536 + 2 ^ 19)) := congrArg _ (if_pos htakes)

theorem execDropBlocked_writes (key : Nat) :
    execDropBlocked key s = .next ((s.touchPage pBRG).brgCtrl (key % 65536 + 2 ^ 20)) := congrArg _ (if_pos htakes)

theorem execDropTrack_writes (key : Nat) {k : Nat} (hk : k < 2) :
    execDropTrack key k s = .next ((s.touchPage pBRG).brgCtrl (key % 65536 + 2 ^ (17 + k))) :=
  congrArg _ (if_pos (Bool.and_eq_true_iff.mpr ⟨htakes, decide_eq_true hk⟩))

end

/-! ## The copying of a track (R459) -/

/-- The chunk of a region that a track copies next: the one it has come to, or the first of another region. -/
def Track.chunkOf (x : Track) (r : Nat) : Nat := if x.region = some r then x.chunk else 0

/-- The first unit, within its instance, of a chunk of a region. -/
def chunkFirst (r chunk : Nat) : Nat := r % 2 ^ 19 * 2 ^ 17 + 256 * chunk

/-- A chunk of track `k` is asked for from port `p`. -/
def State.startCopy (s : State) (k p inst first : Nat) : State :=
  (({ s with brg := { s.brg with copying := some (k, inst, first), copyDebt := 256 * 4096 } } : State).pushD p
    { op := 0x02, inst := inst, arg := first * 4096 + 255, origin := .resync k }).drive p

section
variable {k : Nat} {s : State} (htakes : s.dockPage pBRG = true) (hk : k < 2) (hmode : s.brgMode = 1)
  (hen : s.flag BRG_RESYNC_CFG_EN = true) (hidle : s.brg.copying = none) (huse : (s.track k).inUse = true)
  (hsafe : s.safe = false)
include htakes hk hmode hen hidle huse hsafe

/-- A track with a line that does not decode is lost. -/
theorem execResyncChunk_lost (hbad : s.trackBad k = true) :
    execResyncChunk k s = .next ((s.noteTrack k).trackLost k) := by
  simp only [execResyncChunk, htakes, hmode, hen, hidle, huse, hsafe, hbad, Nat.not_le.mpr hk, bne_self_eq_false,
    Option.isSome_none, decide_false, Bool.not_true, Bool.or_self, Bool.false_eq_true, if_false, if_true]

section
variable (hgood : s.trackBad k = false)
include hgood

theorem execResyncChunk_ends (hbits : (s.track k).bits = []) : execResyncChunk k s = .next (s.endTrack k) := by
  simp only [execResyncChunk, htakes, hmode, hen, hidle, huse, hsafe, hgood, hbits, Nat.not_le.mpr hk,
    bne_self_eq_false, Option.isSome_none, List.isEmpty_nil, decide_false, Bool.not_true, Bool.or_self,
    Bool.false_eq_true, if_false, if_true]

/-- A track with bits left reads its next chunk from the other card, when the rate and the instances let it. -/
theorem execResyncChunk_copies (hbits : (s.track k).bits ≠ []) {q r : Nat} (hport : s.trackPort k = some q)
    (hregion : s.copyRegion k = some r)
    (hready : s.sourceReady (1 - q) (r / 2 ^ 19) (chunkFirst r ((s.track k).chunkOf r)) = true)
    (hmay : s.copyMay = true) :
    execResyncChunk k s = .next
      ((s.setTrack k { s.track k with region := some r, chunk := (s.track k).chunkOf r }).startCopy k (1 - q)
        (r / 2 ^ 19) (chunkFirst r ((s.track k).chunkOf r))) := by
  rw [chunkFirst, Track.chunkOf] at hready
  simp only [execResyncChunk, htakes, hmode, hen, hidle, huse, hsafe, hgood, hport, hregion, hready, hmay,
    List.isEmpty_iff, hbits, Nat.not_le.mpr hk, bne_self_eq_false, Option.isSome_none, decide_false, Bool.not_true,
    Bool.or_self, Bool.false_eq_true, if_false]
  rfl

end
end

/-! ## Delivery after replay and BUSY (R223, R452) -/

/-- The first card in RUN takes the delivery of the replayed records, in ROTATE as the active one where that has
none. -/
theorem execBridgeReplayDelivery_delivers {p : Nat} {s : State} (hrun : s.portRun p = true)
    (hhold : s.brg.replayHold = true) :
    let t : State := { s with brg := { s.brg with replayHold := false } }
    let u := if t.brgMode = 2 ∧ !t.flag BRG_STAT_NO_ACTIVE ∧ !t.flag (SP_STAT_CARD_PRESENT t.brgActive) then
        t.setActive p else t
    execBridgeReplayDelivery p s = .next ((((u.retarget).carryStart p).deliverTo p).drive p).pump := by
  simp only [execBridgeReplayDelivery, hrun, hhold, Bool.not_true, Bool.or_self, Bool.false_eq_true, if_false]

/-- The wait of a port after a BUSY_RETRY is over. -/
def State.endBusy (s : State) (p : Nat) : State :=
  { s with brg := { s.brg with busy := s.brg.busy.filter (fun e => e.1 != p) } }

/-- The wait of a port ends, and what was turned away goes to its card again. -/
theorem execBridgeBusyResend_ends {p : Nat} {s : State} (hdock : s.isDock = true)
    (hbusy : s.brg.busy.any (fun e => e.1 == p) = true) :
    execBridgeBusyResend p s = .next ((((s.endBusy p).resendBusy p).drive p).pump) := by
  simp only [execBridgeBusyResend, hdock, hbusy, Bool.and_self, if_true]
  rfl

section
variable {s : State} {p : Nat}

theorem State.resendBusy_first {g : List JRec} {l : List (List JRec)} (hdue : s.dueGroups p = g :: l) :
    s.resendBusy p = { s.pushGroup p g with brg := { (s.pushGroup p g).brg with
      again := (s.pushGroup p g).brg.again ++ (g.getLast?.map (fun r => (p, r.seq))).toList } } := by
  simp only [State.resendBusy, hdue]

theorem State.resendBusy_none (hdue : s.dueGroups p = []) : s.resendBusy p = s := by
  simp only [State.resendBusy, hdue]

end

/-! ## The commands -/

/-- Settles O53: each control by the bit that it writes and by the key, a chunk by the state of its track, and each
delivery by its own lemma. -/
theorem bridgeControlCommands : Obligations.BridgeControlCommands := by
  unfold Obligations.BridgeControlCommands
  refine ⟨fun s htakes => ?_, fun k s htakes hk hmode hen hidle huse hsafe => ?_,
    fun p s hrun hhold => execBridgeReplayDelivery_delivers hrun hhold, fun p s hdock hbusy => ?_⟩
  · intro t
    have hswitch := execBrgSwitch_writes htakes
    have hresume := execResumeCarry_writes htakes
    have hblocked := execDropBlocked_writes htakes
    have htrack := fun key k (hk : k < 2) => execDropTrack_writes htakes key hk
    refine ⟨(hswitch 0xB46E).trans (congrArg _ t.brgCtrl_switch), fun hmode => if_pos hmode,
      (hresume 0xB46E).trans (congrArg _ t.brgCtrl_resumeCarry),
      (hblocked 0xB46E).trans (congrArg _ t.brgCtrl_dropBlocked),
      fun k hk => (htrack 0xB46E k hk).trans (congrArg _ (t.brgCtrl_dropTrack hk)), fun key hkey => ?_⟩
    exact ⟨(hswitch key).trans (congrArg _ (t.brgCtrl_otherKey hkey (by decide))),
      (hresume key).trans (congrArg _ (t.brgCtrl_otherKey hkey (by decide))),
      (hblocked key).trans (congrArg _ (t.brgCtrl_otherKey hkey (by decide))),
      fun k hk => (htrack key k hk).trans (congrArg _ (t.brgCtrl_otherKey hkey (by omega)))⟩
  · exact ⟨execResyncChunk_lost htakes hk hmode hen hidle huse hsafe,
      execResyncChunk_ends htakes hk hmode hen hidle huse hsafe,
      fun hgood hbits q r hport hregion =>
        execResyncChunk_copies htakes hk hmode hen hidle huse hsafe hgood hbits hport hregion⟩
  · have hends := execBridgeBusyResend_ends hdock hbusy
    exact ⟨fun g l hdue => hends.trans (congrArg (fun u : State => (Host.Outcome.next (u.drive p).pump : Result))
        (State.resendBusy_first hdue)),
      fun hdue => hends.trans (congrArg (fun u : State => (Host.Outcome.next (u.drive p).pump : Result))
        (State.resendBusy_none hdue))⟩

end Sys2Proof.Machine
end

section
/-! PROOFS. The QOS and the invalidation of translations: grants, SCHED, the rates, INVAL_GO and its end (R242, R245,
R246, R249, R257; logs 103 and 132). -/

namespace Sys2Proof.Machine

/-! ## Grants (R245, R246) -/

/-- Each instance that its buckets hold has been noted. -/
def State.noteHeldAll (s : State) : State := (List.range 16).foldl (fun (t : State) n => t.noteHeld n) s

section
variable {s u : State} (hpci : s.pciUp = true) (hup : s.up = true) (hpower : s.powerState < 2)
  (hserves : s.pageServes pQOS = true)
include hpci hup hpower hserves

/-- The next command of the instance that is chosen is granted its quantum. -/
theorem execQosGrant_grants {n : Nat} {c : HCmd}
    (hchoice : State.decideGrant s.noteHeldAll.qosArbiter s.noteHeldAll = (some n, u))
    (hnext : s.noteHeldAll.qosNext n = some c) : execQosGrant s = .next (u.grantCmd c).pump := by
  rw [State.noteHeldAll] at hchoice hnext
  simp only [execQosGrant, hpci, hup, hserves, Nat.not_le.mpr hpower, hchoice, hnext, decide_false, Bool.not_true,
    Bool.or_self, Bool.false_eq_true, if_false]

theorem execQosGrant_none (hchoice : State.decideGrant s.noteHeldAll.qosArbiter s.noteHeldAll = (none, u)) :
    execQosGrant s = .next u := by
  rw [State.noteHeldAll] at hchoice
  simp only [execQosGrant, hpci, hup, hserves, Nat.not_le.mpr hpower, hchoice, decide_false, Bool.not_true,
    Bool.or_self, Bool.false_eq_true, if_false]

end

/-! ## SCHED and the rates (R245, R249) -/

/-- An unlocked QOS page takes a write of SCHED. -/
theorem execQosSchedWrite_takes {n : Nat} (word : Nat) {s : State} (htakes : s.dockPage pQOS = true) (hn : n < 16)
    (hlock : s.flag (PG_LOCK_LOCK pQOS) = false) :
    execQosSchedWrite n word s = .next ((s.touchPage pQOS).schedWrite n word) := by
  simp only [execQosSchedWrite, htakes, hn, hlock, decide_true, Bool.and_self, Bool.false_eq_true, if_true, if_false]

section
variable {n w : Nat} (s : State)

/-- The class and the weight of a word that acts as before are stored, and nothing else happens. -/
theorem State.schedWrite_same (h : bitsOf w 0 2 = s.fld (QOS_SCHED_CLASS n) ∧ max 1 (bitsOf w 8 8) = s.qosWeight n) :
    s.schedWrite n w = (s.setFld (QOS_SCHED_CLASS n) (bitsOf w 0 2)).setFld (QOS_SCHED_WEIGHT n) (bitsOf w 8 8) :=
  if_pos h

theorem State.schedWrite_changes
    (h : ¬(bitsOf w 0 2 = s.fld (QOS_SCHED_CLASS n) ∧ max 1 (bitsOf w 8 8) = s.qosWeight n)) :
    s.schedWrite n w =
      (((s.setFld (QOS_SCHED_CLASS n) (bitsOf w 0 2)).setFld (QOS_SCHED_WEIGHT n) (bitsOf w 8 8)).rearrange n
        (s.fld (QOS_SCHED_CLASS n)) (bitsOf w 0 2) (s.qosWeight n) (max 1 (bitsOf w 8 8)) (s.qosWaits n)).fireI
        EV_QOS_WEIGHT_CHANGE n 0 0 :=
  if_neg h

end

/-- One microsecond's rates of an instance that has a rate go into its buckets. -/
def State.refillRates (s : State) (n : Nat) : State :=
  let b : Int := (s.fld (QOS_RATE_BYTE_RATE n) * 65536 : Nat)
  let o : Int := (s.fld (QOS_RATE_OPS_RATE n) * 10 : Nat)
  if b = 0 ∧ o = 0 then s
  else (s.setQos n { s.qosOf n with bytes := (s.qosOf n).bytes + b, ops := (s.qosOf n).ops + o }).rearm n

theorem execQosBucketRefill_refills {s : State} (hdock : s.isDock = true) (hup : s.up = true) :
    execQosBucketRefill s = .next ((List.range 16).foldl State.refillRates s.refillCaps) := by
  simp only [execQosBucketRefill, hdock, hup, Bool.not_true, Bool.or_self, Bool.false_eq_true, if_false]
  rfl

/-! ## Invalidation (R242) -/

/-- The read is one of a walk. -/
def HRead.ofWalk (r : HRead) : Bool :=
  match r.use with
  | .walk _ _ _ => true
  | _ => false

/-- An invalidation begins: the entries of its scope are gone, and the walks under way are given up. -/
def State.startInval (s : State) (inst scope page : Nat) : State :=
  (({ s with host := { s.host with
    inval := some (inst, scope, page),
    tlb := s.host.tlb.filter (fun e => !invalHits inst scope page e.inst e.page) } } : State).dropReads
      HRead.ofWalk).setFlag ITU_INVAL_CTRL_GO true

/-- INVAL_CTRL with INST and SCOPE of a word written. -/
def State.putInval (s : State) (w : Nat) : State :=
  (s.setFld ITU_INVAL_CTRL_INST (bitsOf w 0 4)).setFld ITU_INVAL_CTRL_SCOPE (bitsOf w 4 2)

/-- The page that INVAL_ADDR names. -/
def State.invalPage (s : State) : Nat := s.fld ITU_INVAL_ADDR_LO_IOVA + 2 ^ 20 * s.fld ITU_INVAL_ADDR_HI_IOVA

theorem State.invalWrite_starts {s : State} {w : Nat} (hidle : s.host.inval = none) (hgo : bitAt w 8 = true) :
    s.invalWrite w = (s.putInval w).startInval (bitsOf w 0 4) (bitsOf w 4 2) (s.putInval w).invalPage := by
  simp only [State.invalWrite, hidle, hgo, Option.isSome_none, Bool.not_true, Bool.false_eq_true, if_false]
  rfl

/-- INVAL_GO writes its word with GO, whose other fields stay as they are. -/
theorem execInvalGo_starts (word : Nat) {s : State} (htakes : s.dockPage pITU = true)
    (hidle : (s.touchPage pITU).host.inval = none) :
    execInvalGo word s = .next (((s.touchPage pITU).putInval word).startInval (bitsOf word 0 4) (bitsOf word 4 2)
      ((s.touchPage pITU).putInval word).invalPage) := by
  have hinst : bitsOf (word % 256 + 256) 0 4 = bitsOf word 0 4 := by simp only [bitsOf]; omega
  have hscope : bitsOf (word % 256 + 256) 4 2 = bitsOf word 4 2 := by simp only [bitsOf]; omega
  have hgo : bitAt (word % 256 + 256) 8 = true := by simp only [bitAt, beq_iff_eq]; omega
  rw [execInvalGo, if_pos htakes, State.invalWrite_starts hidle hgo]
  simp only [State.putInval, hinst, hscope]

/-- With no read of its scope open, an invalidation ends. -/
theorem execInvalidationDone_ends {s : State} {inst scope page : Nat}
    (hinval : s.host.inval = some (inst, scope, page))
    (hopen : s.host.reads.any (fun r => r.got.isNone && invalHits inst scope page r.inst r.page) = false) :
    execInvalidationDone s = .next ((({ s with host := { s.host with inval := none } } : State).setFlag
      ITU_INVAL_CTRL_GO false).fireI EV_ITU_TLB_INVAL_DONE (if scope < 2 then inst else 0) 0 0).pump := by
  simp only [execInvalidationDone, hinval, hopen, Bool.false_eq_true, if_false]

/-! ## The commands -/

/-- Settles O49: each command by its own lemma, and SCHED by whether class and weight act as before. -/
theorem qosAndInvalidationCommands : Obligations.QosAndInvalidationCommands := by
  unfold Obligations.QosAndInvalidationCommands
  refine ⟨fun n c s u hpci hup hpower hserves => execQosGrant_grants hpci hup hpower hserves,
    fun s u hpci hup hpower hserves => execQosGrant_none hpci hup hpower hserves,
    fun n word s htakes hn hlock => ?_, fun s hdock hup => execQosBucketRefill_refills hdock hup,
    fun word s htakes hidle => execInvalGo_starts word htakes hidle,
    fun s inst scope page hinval hopen => execInvalidationDone_ends hinval hopen⟩
  refine (execQosSchedWrite_takes word htakes hn hlock).trans (congrArg _ ?_)
  split
  case isTrue hsame => exact State.schedWrite_same _ hsame
  case isFalse hdiffers => exact State.schedWrite_changes _ hdiffers

end Sys2Proof.Machine
end

section
/-! PROOFS. The flash channels, dies that end or hang, RETIRE_GO, the scrub and the lifetime record (R284, R320, R323,
R335, R337, R449; logs 104, 179 and 182). -/

namespace Sys2Proof.Machine

/-! ## The channels (R323) -/

theorem execFlashChannelGrant_decides {ch waiting : Nat} {s : State} (hcard : s.isCard = true) (hch : ch < 8)
    (halive : s.alive = true) (hcore : s.coreRuns = true) (hsafe : s.safe = false)
    (hfenced : s.fenced (.channel ch) = false) (hwaiting : waiting % 32 ≠ 0) :
    execFlashChannelGrant ch waiting s = .next (s.chanGrant ch waiting) := by
  simp only [execFlashChannelGrant, hcard, hch, halive, hcore, hsafe, hfenced, bne_iff_ne.mpr hwaiting, decide_true,
    Bool.not_false, Bool.and_self, if_true]

/-! ## Hung dies (R337) -/

section
variable {s : State} {lun : Nat} {read : Nat × Nat}

theorem State.hungOp_issued {o : LunOp} (hissued : s.media.ops.find? (fun o => o.lun == lun && o.issued) = some o) :
    s.hungOp lun read = some o := by
  simp only [State.hungOp, hissued]

/-- A LUN in use that has issued no operation hangs in a read. -/
theorem State.hungOp_read (hnone : s.media.ops.find? (fun o => o.lun == lun && o.issued) = none)
    (hready : s.ready = true) (hcard : s.isCard = true) (huse : s.media.luns.contains lun = true)
    (hfenced : s.lunFenced lun = false) :
    s.hungOp lun read = some
      { lun := lun, kind := 0, block := read.1, page := read.2,
        sb := sbIndex (s.setOf lun) (read.1 / 2) (read.1 % 2) } := by
  simp only [State.hungOp, hnone, hready, hcard, huse, hfenced, Bool.not_false, Bool.and_self, if_true]

end

/-- The syndrome of a hung operation (R409). -/
def LunOp.syndrome (o : LunOp) : Nat := o.block * 65536 + opCode o.kind * 4096 + o.page

/-- The fault of the die of a hung operation is recorded: the LUN is lost, the wordline that it programmed is void, and
a LUN that does not read ready takes the operations of its chip enable with it. -/
def State.faultDie (s : State) (lun : Nat) (ready : Bool) (o : LunOp) : State :=
  let t := s.fault (7 + 5 * (lun / 16)) lun o.syndrome false
  let t := if ready then t else t.abortCe (lun / 8) lun
  let t := if o.kind = 1 then t.voidWordline o.sb o.lun (Config.wordlineOf o.page) else t
  t.lunsLost (fun l => l == lun)

/-- The fault of the chip enable of a hung operation is recorded, and its LUNs are lost. -/
def State.faultCe (s : State) (lun : Nat) (o : LunOp) : State :=
  (s.fault (8 + 5 * (lun / 16)) (lun / 8) o.syndrome false).lunsLost (fun l => l / 8 == lun / 8)

/-- A seizure of a channel's bus is counted, both its events fire, and the channel goes on. -/
def State.noteSeizure (s : State) (lun : Nat) (held : Bool) (o : LunOp) : State :=
  let ch := lun / 16
  let d := o.block * 65536 + o.page
  (((((s.bump (FCH_SEIZE_STAT_COUNT ch)).setFld (FCH_SEIZE_STAT_LAST_LUN ch) lun).setFlag
    (FCH_SEIZE_STAT_CE_FENCED ch) held).fireD (EV_FCH_BUS_SEIZED ch) lun d).fireD (EV_FCH_DIE_FENCED ch) lun d).issueAll

section
variable {s : State} {lun : Nat} {read : Nat × Nat} {o : LunOp} (hhung : s.hungOp lun read = some o)
include hhung

theorem execDieTimeout_released (ready : Bool) :
    execDieTimeout lun ready false read s = .next ((s.faultDie lun ready o).noteSeizure lun false o) := by
  simp only [execDieTimeout, hhung]
  rfl

theorem execDieTimeout_held (ready : Bool) :
    execDieTimeout lun ready true read s =
      .next (((s.faultDie lun ready o).faultCe lun o).noteSeizure lun true o) := by
  simp only [execDieTimeout, hhung]
  rfl

end

/-! ## Retirement (R335) -/

/-- The retirement of a LUN begins. -/
def State.startRetire (s : State) (lun : Nat) : State :=
  (({ s with media := { s.media with retiring := some lun } } : State).setFlag MED_STAT_RETIRING true).driveRetire

/-- MED.CTRL with the retirement bit and no other above it retires the LUN that it names. -/
theorem State.medCtrl_retires {s : State} {lun : Nat} (hlun : lun < 128) (huse : s.media.luns.contains lun = true)
    (hidle : s.media.retiring = none) : s.medCtrl (lun % 128 + 128) = s.startRetire lun := by
  have hname : bitsOf (lun % 128 + 128) 0 7 = lun := by simp only [bitsOf]; omega
  have hretire : bitAt (lun % 128 + 128) 7 = true := by simp only [bitAt, beq_iff_eq]; omega
  have hscan : bitAt (lun % 128 + 128) 8 = false := by simp only [bitAt, beq_eq_false_iff_ne]; omega
  simp only [State.medCtrl, hname, hretire, hscan, huse, hidle, Option.isNone_none, Bool.and_self, Bool.false_eq_true,
    if_true, if_false]
  rfl

theorem execRetireGo_takes (lun : Nat) {s : State} (hcard : s.isCard = true) (htakes : s.pageTakes pMED = true) :
    execRetireGo lun s = .next ((s.touchPage pMED).medCtrl (lun % 128 + 128)) :=
  congrArg _ (if_pos (Bool.and_eq_true_iff.mpr ⟨hcard, htakes⟩))

/-! ## The scrub and the lifetime record (R284, R449) -/

/-- The eight words of a line are read. -/
def State.scrubLine (s : State) (l : Nat) : State := (List.range 8).foldl (fun t i => t.scrubOne (64 * l + 8 * i)) s

theorem execLndScrub_scrubs {s : State} (hup : s.up = true) (hon : s.flag LND_SCRUB_CFG_EN = true)
    (hsafe : s.safe = false) (hpower : s.powerState < 3) (hlocked : s.flag CLK_PLL_STAT_RELOCKING = false) :
    execLndScrub s = .next ((s.scrubLine (s.fld LND_SCRUB_STAT_NEXT)).checkTracks.setFld LND_SCRUB_STAT_NEXT
      ((s.fld LND_SCRUB_STAT_NEXT + 1) % 524288)) := by
  simp only [execLndScrub, hup, hon, hsafe, hpower, hlocked, decide_true, Bool.not_false, Bool.and_self, if_true]
  rfl

theorem execLifeRecordRewrite_writes {s : State} (hcard : s.isCard = true) (hup : s.up = true)
    (hsafe : s.safe = false) (hdue : 10000000 ≤ s.since s.life.last) : execLifeRecordRewrite s = .next s.writeLife := by
  simp only [execLifeRecordRewrite, hcard, hup, hsafe, hdue, decide_true, Bool.not_false, Bool.and_self, if_true]

/-! ## The commands -/

/-- Settles O58: each command by its own lemma, and a hung LUN by whether it has issued an operation. -/
theorem flashAndStoreUpkeep : Obligations.FlashAndStoreUpkeep := by
  unfold Obligations.FlashAndStoreUpkeep
  refine ⟨fun ch waiting s hcard hch halive hcore hsafe hfenced hwaiting =>
      execFlashChannelGrant_decides hcard hch halive hcore hsafe hfenced hwaiting,
    fun lun ok s => rfl, fun lun ready read s o hop => ?_,
    fun lun s hcard htakes hlun huse hidle =>
      (execRetireGo_takes lun hcard htakes).trans (congrArg _ (State.medCtrl_retires hlun huse hidle)),
    fun s hup hon hsafe hpower hlocked => execLndScrub_scrubs hup hon hsafe hpower hlocked,
    fun s hcard hup hsafe hdue => execLifeRecordRewrite_writes hcard hup hsafe hdue⟩
  have hhung : s.hungOp lun read = some o := by
    obtain hissued | ⟨hnone, hready, hcard, huse, hfenced, rfl⟩ := hop
    · exact State.hungOp_issued hissued
    · exact State.hungOp_read hnone hready hcard huse hfenced
  exact ⟨execDieTimeout_released hhung ready, execDieTimeout_held hhung ready⟩

end Sys2Proof.Machine
end

section
/-! PROOFS. What every step keeps of the stores and of the fuses (R259, R262, R342, R343, R448). -/

namespace Sys2Proof.Machine

/-- Where a step leads comes after the state with the front command taken off. -/
theorem State.later_step {s t : State} (h : step s = .next t) :
    ({ s with pending := s.pending.tail } : State).Later t := (step_goes s).later h

/-- Settles O3: a step leads to a later state, and what is later than a state in order is in order. -/
theorem stepKeepsTheStoresInOrder : Obligations.StepKeepsTheStoresInOrder := by
  unfold Obligations.StepKeepsTheStoresInOrder
  intro s t hs hstep
  obtain ⟨hok, -⟩ := (State.later_step hstep).ok_keepsFuses hs
  exact hok

/-- Settles O5: a step leads to a later state, which keeps the burned fuses and every word but 7 and 8. -/
theorem fusesOnlyBurn : Obligations.FusesOnlyBurn := by
  unfold Obligations.FusesOnlyBurn
  intro s t hs hstep
  have hlater := State.later_step hstep
  obtain ⟨-, hkeeps⟩ := hlater.ok_keepsFuses hs
  obtain ⟨-, -, -, hotp⟩ := hs
  exact ⟨hkeeps, fun w h7 h8 => hlater.low hotp w (by omega)⟩

end Sys2Proof.Machine
end

section
/-! PROOFS. What an injection on the landing store's check bits does to the rewriting of the anchor (R100, R272,
R420). -/

namespace Sys2Proof.Machine

/-- A part that runs, whose anchor has moved and was last rewritten 100 ms ago, with a one-shot injection active on the
check bits of its landing store. -/
def injectedAnchor : State :=
  (({ State.reset with
      boot := { poc := false }, uptime := 100000, lnd := { State.reset.lnd with ancMoved := true } } : State).setFld
    SYS_BRINGUP_STEP 11).setFlag (INJ_CTRL_ACTIVE pLND) true

/-- It is in order. -/
theorem ok_injectedAnchor : injectedAnchor.Ok := ⟨rfl, rfl, rfl, rfl⟩

/-- Its anchor record is blank, so the next generation is the first. -/
theorem newGen_injectedAnchor : injectedAnchor.newGen anchorA anchorB < 2 ^ 32 := by decide

/-- The first word written uses the injection up, and FLT_INJECT_DONE shows in EVT_RAW of the page FLT (R420). -/
theorem raw_writeAnchor_injectedAnchor :
    injectedAnchor.writeAnchor.reg (rEVT_RAW pFLT).off ≠ injectedAnchor.reg (rEVT_RAW pFLT).off := by decide

/-- Refutes O13: the statement has no register outside LND and EVT change whether or not an injection is active, and one
that the rewriting uses up shows its event on the page FLT. -/
theorem not_storeRecordsAreRewritten : ¬ Obligations.StoreRecordsAreRewritten := by
  unfold Obligations.StoreRecordsAreRewritten
  intro ⟨hanchor, _⟩
  obtain ⟨t, hexec, -, hregs, -⟩ := hanchor injectedAnchor 0 0 0 ok_injectedAnchor (by decide) rfl (by decide) rfl
    newGen_injectedAnchor (by decide)
  have hstate := Host.Outcome.next.inj
    ((execAnchorRewrite_writes (s := injectedAnchor) (by decide) rfl (by decide)).symm.trans hexec)
  exact raw_writeAnchor_injectedAnchor (hstate ▸ hregs (rEVT_RAW pFLT).off (by decide) (by decide))

end Sys2Proof.Machine
end

section
/-! PROOFS. How a map entry spells the place of a codeword (R288). -/

namespace Sys2Proof.Machine

section
variable {p lun b page cw : Nat} (hpage : page < p) (hcw : cw < 4)
  (hslot : (b + 1) * (4 * p) ≤ 2 ^ 25)
include hpage hcw hslot

/-- The slot of an entry lies below the end of its block, and that within the 2^25 slots of a LUN. -/
theorem entryOf_slot_lt : b * (4 * p) + (page * 4 + cw) < 2 ^ 25 := by
  have hend : (b + 1) * (4 * p) = b * (4 * p) + 4 * p := Nat.succ_mul b (4 * p)
  omega

theorem entryLun_entryOf (hlun : lun < 128) : entryLun (entryOf p lun b page cw) = lun := by
  have hlt := entryOf_slot_lt hpage hcw hslot
  simp only [entryLun, entryOf, bitsOf]
  omega

theorem entrySlot_entryOf : entrySlot (entryOf p lun b page cw) = b * (4 * p) + (page * 4 + cw) := by
  have hlt := entryOf_slot_lt hpage hcw hslot
  simp only [entrySlot, entryOf, bitsOf]
  omega

theorem entryPair_entryOf : entryPair p (entryOf p lun b page cw) = b := by
  rw [entryPair, entrySlot_entryOf hpage hcw hslot, Nat.mul_comm, Nat.mul_add_div (by omega),
    Nat.div_eq_of_lt (by omega), Nat.add_zero]

theorem entryPage_entryOf : entryPage p (entryOf p lun b page cw) = page := by
  rw [entryPage, entrySlot_entryOf hpage hcw hslot, Nat.mul_comm, Nat.mul_add_mod, Nat.mod_eq_of_lt (by omega)]
  omega

theorem entryCw_entryOf : entryCw (entryOf p lun b page cw) = cw := by
  have hblock : b * (4 * p) = 4 * (b * p) := Nat.mul_left_comm b 4 p
  rw [entryCw, entrySlot_entryOf hpage hcw hslot]
  omega

end

/-- A word is the entry of what it spells: block, page and codeword make up its slot, and the LUN stands above. -/
theorem entryOf_fields (p : Nat) {e : Nat} (he : e < 2 ^ 32) :
    entryOf p (entryLun e) (entryPair p e) (entryPage p e) (entryCw e) = e := by
  have hblock := Nat.div_add_mod' (entrySlot e) (4 * p)
  have hcw : entrySlot e % (4 * p) % 4 = entrySlot e % 4 := Nat.mod_mod_of_dvd _ (Dvd.intro p rfl)
  simp only [entryOf, entryLun, entryPair, entryPage, entryCw]
  simp only [entrySlot, bitsOf] at *
  omega

/-- Settles O12: each field of an entry by its own lemma; the slot and the LUN bound the word. -/
theorem mapEntriesRoundTrip : Obligations.MapEntriesRoundTrip := by
  unfold Obligations.MapEntriesRoundTrip
  refine ⟨fun p lun b page cw hlun hpage hcw hslot => ?_, fun p e _ he => entryOf_fields p he⟩
  have hlt := entryOf_slot_lt hpage hcw hslot
  refine ⟨?_, entryLun_entryOf hpage hcw hslot hlun, entryPair_entryOf hpage hcw hslot,
    entryPage_entryOf hpage hcw hslot, entryCw_entryOf hpage hcw hslot, fun habove => ?_⟩
  · simp only [entryOf]
    omega
  · have hend : (b + 1) * (4 * p) = b * (4 * p) + 4 * p := Nat.succ_mul b (4 * p)
    simp only [entryOf]
    omega

end Sys2Proof.Machine
end

section
/-! PROOFS. The journal lane (R353). -/

namespace Sys2Proof.Machine

/-- The number that two strings spell one after the other. -/
theorem natBE_concat (l m : List Byte) : natBE (l ++ m) = natBE l * 256 ^ m.length + natBE m := by
  rw [natBE, List.foldl_append, natBE_append, ← natBE]

theorem length_laneIv (lap line : Nat) : (laneIv lap line).length = 16 := by
  simp [laneIv, length_bytesBE]

/-- The counter block as a number. -/
theorem natBE_laneIv {lap line : Nat} (hlap : lap < 2 ^ 32) (hline : line < 2 ^ 32) :
    natBE (laneIv lap line) = (0x4A * 2 ^ 88 + lap * 2 ^ 56 + line * 2 ^ 24) * 2 ^ 32 + 1 := by
  have hsplit : laneIv lap line = [0x4A] ++ (bytesBE 4 lap ++ (bytesBE 4 line ++ ([0, 0, 0] ++ bytesBE 4 1))) := by
    simp only [laneIv, List.nil_append, List.cons_append, List.append_assoc]
  have hlead : natBE [0x4A] = 0x4A := rfl
  have hzeros : natBE [0, 0, 0] = 0 := rfl
  rw [hsplit]
  simp only [natBE_concat, natBE_bytesBE, hlead, hzeros, List.length_append, length_bytesBE, List.length_cons,
    List.length_nil]
  omega

/-- Settles O17: the block is the number of its fields, which that number spells; counter mode undoes itself. -/
theorem journalLaneUndoesItself : Obligations.JournalLaneUndoesItself := by
  unfold Obligations.JournalLaneUndoesItself
  refine ⟨fun lap line hlap hline => ⟨natBE_laneIv hlap hline, length_laneIv lap line⟩,
    fun lap line lap' line' hlap hline hlap' hline' hsame => ?_,
    fun s lap line bs => ⟨Crypto.ctrCrypt_length _ _ _, Crypto.ctrCrypt_twice _ _ _⟩⟩
  have hnum := congrArg natBE hsame
  rw [natBE_laneIv hlap hline, natBE_laneIv hlap' hline'] at hnum
  omega

end Sys2Proof.Machine
end

section
/-! PROOFS. Padding, verification, moves, refresh, the scan, and the read counts (R305, R309, R327, R330, R331, R333,
R334; logs 24 and 92). -/

namespace Sys2Proof.Machine

theorem execPagePadTimer_pads {half : Nat} {s : State} (hplacing : s.placing = true) :
    execPagePadTimer half s = .next (s.padHalf half) := by
  simp only [execPagePadTimer, hplacing, if_true]

theorem execSuperblockVerify_verifies {k : Nat} {s : State} (hready : s.ready = true) (hcard : s.isCard = true)
    (hsafe : s.safe = false) (hserves : s.pageServes pPAR = true) :
    execSuperblockVerify k s = .next (s.verifySb k) := by
  simp only [execSuperblockVerify, hready, hcard, hsafe, hserves, Bool.not_false, Bool.and_self, if_true]

section
variable {s : State} (hmoving : s.moving = true)
include hmoving

/-! ## Moves -/

/-- Beyond the spread limit the least worn DATA superblock moves (R330). -/
theorem execWearMove_moves {k : Nat} (hen : s.flag MED_WEAR_CFG_MOVE_EN = true)
    (hspread : min 2000 (max 50 (s.fld MED_WEAR_CFG_SPREAD_LIMIT)) < s.eraseRange.2 - s.eraseRange.1)
    (hidle : s.media.moving.any (fun x => x.2 == 1) = false)
    (hleast : lowestOf s.dataSbs (fun k => (s.entry k).erases) = some k) :
    execWearMove s = .next ((s.fireD EV_MED_WEAR_MOVE_START 0 k).evacuate k 1) := by
  simp only [execWearMove, hmoving, hen, hspread, hidle, hleast, decide_true, Bool.not_false, Bool.and_self, if_true]

/-- At or below START the DATA superblock of the half with the fewest current units moves (R331). -/
theorem execMedReclaim_moves {half k : Nat} (hhalf : half < 2)
    (hfree : s.freeCount half ≤ max 1 (s.fld MED_RECLAIM_CFG_START))
    (hleast : lowestOf (s.dataSbs.filter (fun k => sbHalf k == half && !s.media.moving.any (fun x => x.1 == k)))
      s.validOf = some k) :
    execMedReclaim half s = .next
      ((if s.freeCount half ≤ s.reclaimPressure then s.fire EV_MED_RECLAIM_PRESSURE else s).evacuate k 2) := by
  have hstart : s.freeCount half ≤ s.reclaimStart := hfree
  simp only [execMedReclaim, hmoving, hhalf, hstart, hleast, decide_true, Bool.and_self, if_true]

/-! ## Refresh (R325, R333) -/

section
variable {k : Nat} (hdue : s.refreshLimit ≤ s.readsOf k ∨ s.media.refresh.contains k = true)
include hdue

/-- A closed superblock whose refresh is due moves. -/
theorem execReadRefresh_moves (hstate : (s.entry k).state = 2) (hclosed : s.findSb k = none) :
    let t := if s.refreshLimit ≤ s.readsOf k then s.fireD EV_MED_READ_REFRESH 0 k else s
    execReadRefresh k s = .next
      ({ t with media := { t.media with refresh := t.media.refresh.erase k } }.evacuate k 3) := by
  simp only [execReadRefresh, hmoving, hstate, hclosed, Bool.true_and, Bool.or_eq_true, decide_eq_true_eq, hdue,
    if_true]

/-- An open one is closed, and waits for its refresh. -/
theorem execReadRefresh_closes {x : OpenSb} (hopen : s.findSb k = some x) :
    let t := if s.refreshLimit ≤ s.readsOf k then s.fireD EV_MED_READ_REFRESH 0 k else s
    let u := if x.state = 1 then t.closeSb k else t
    execReadRefresh k s = .next { u with media := { u.media with
      refresh := if u.media.refresh.contains k then u.media.refresh else u.media.refresh ++ [k] } } := by
  simp only [execReadRefresh, hmoving, hopen, Bool.true_and, Bool.or_eq_true, decide_eq_true_eq, hdue, if_true]

end

/-! ## The retention scan (R334) -/

section
variable (reads : List MediaRead) (hen : s.flag MED_SCAN_CFG_EN = true) (hscans : s.media.scanning = true)
include hen hscans

/-- A scan that is due reads the next DATA superblock. -/
theorem execRetentionScan_reads {k : Nat} (hdue : s.scanDue = true)
    (hnext : s.dataSbs.find? (fun k => s.media.scanNext ≤ k) = some k) :
    execRetentionScan reads s = .next
      ({ s.scanSb k reads with media := { (s.scanSb k reads).media with scanNext := k + 1 } } : State).writeScan := by
  simp only [execRetentionScan, hmoving, hen, hscans, hdue, hnext, Bool.and_self, if_true]

/-- One that is due with none left to read ends the pass. -/
theorem execRetentionScan_ends (hdue : s.scanDue = true)
    (hnone : s.dataSbs.find? (fun k => s.media.scanNext ≤ k) = none) :
    execRetentionScan reads s = .next
      (({ s with media := { s.media with scanning := false, scanNext := scanEnd } } : State).writeScan.fire
        EV_MED_SCAN_DONE) := by
  simp only [execRetentionScan, hmoving, hen, hscans, hdue, hnone, Bool.and_self, if_true]

end

end

/-- While superblocks are left, the scan is due once the share of the period elapsed is beyond the share done. -/
theorem State.scanDue_within {s : State}
    (hleft : (s.dataSbs.filter (fun k => k < s.media.scanNext)).length < s.dataSbs.length)
    (hshare : (s.dataSbs.filter (fun k => k < s.media.scanNext)).length * s.scanPeriod <
      s.media.scanSecs * s.dataSbs.length) : s.scanDue = true := by
  simp only [State.scanDue, hleft, hshare, decide_true, if_true]

/-- With all of them done it is due once the period has elapsed. -/
theorem State.scanDue_end {s : State}
    (hdone : s.dataSbs.length ≤ (s.dataSbs.filter (fun k => k < s.media.scanNext)).length)
    (hperiod : s.scanPeriod ≤ s.media.scanSecs) : s.scanDue = true := by
  simp only [State.scanDue, Nat.not_lt.mpr hdone, hperiod, decide_true, if_false]

/-- The scan record is rewritten 100 ms after its last rewrite. -/
theorem State.writeScan_writes {s : State} (hold : 100000 ≤ s.since s.media.scanTime) :
    s.writeScan = ({ s with media := { s.media with scanTime := s.uptime } } : State).writeTwo scanA scanB
      [s.media.pass, s.media.scanNext, s.media.scanSecs] :=
  if_neg (Nat.not_lt.mpr hold)

/-! ## SCAN_NOW and the read counts (R327, R340) -/

/-- MED.CTRL with SCAN_NOW alone starts a pass. -/
theorem State.medCtrl_scans (s : State) : s.medCtrl 256 = s.startScan := rfl

theorem execScanNow_starts {s : State} (hcard : s.isCard = true) (htakes : s.pageTakes pMED = true) :
    execScanNow s = .next (s.touchPage pMED).startScan := by
  simp only [execScanNow, hcard, htakes, State.medCtrl_scans, Bool.and_self, if_true]

theorem execReadCountFlush_writes {s : State} (hup : s.up = true) (hcard : s.isCard = true)
    (hold : 100000 ≤ s.since s.media.flushTime) : execReadCountFlush s = .next
      ({ s with media := { s.media with flushTime := s.uptime } } : State).flushReads := by
  simp only [execReadCountFlush, hup, hcard, hold, decide_true, Bool.and_self, if_true]

/-- Settles O57: each command by its own lemma; a refresh is split by whether its superblock is open. -/
theorem mediaUpkeepCommands : Obligations.MediaUpkeepCommands := by
  unfold Obligations.MediaUpkeepCommands
  refine ⟨fun half s hplacing => execPagePadTimer_pads hplacing,
    fun k s hready hcard hsafe hserves => execSuperblockVerify_verifies hready hcard hsafe hserves,
    fun s hmoving => ⟨fun k hen hspread hidle hleast => execWearMove_moves hmoving hen hspread hidle hleast,
      fun half k hhalf hfree hleast => execMedReclaim_moves hmoving hhalf hfree hleast, fun k hplace hdue => ?_,
      fun reads hen hscans => ⟨fun k hnext hleft hshare => ?_, fun hnone hdone hperiod => ?_⟩⟩,
    fun s hold => State.writeScan_writes hold, fun s hcard htakes => execScanNow_starts hcard htakes,
    fun s hup hcard hold => execReadCountFlush_writes hup hcard hold⟩
  · refine ⟨fun hclosed => ?_, fun x hopen => execReadRefresh_closes hmoving hdue hopen⟩
    exact execReadRefresh_moves hmoving hdue (hplace.resolve_right (fun hopen => hopen hclosed)) hclosed
  · exact execRetentionScan_reads hmoving reads hen hscans (State.scanDue_within hleft hshare) hnext
  · exact execRetentionScan_ends hmoving reads hen hscans (State.scanDue_end hdone hperiod) hnone

end Sys2Proof.Machine
end

section
/-! PROOFS. KEY.CTRL, the pairing key of a dock, and RELOCK (R371, R372, R391; logs 76 and 87). -/

namespace Sys2Proof.Machine

/-- IMPORT reads zero (R371). -/
def State.clearImport (s : State) : State := { s with keys := { s.keys with imp := List.replicate 32 0 } }

section
variable {s : State} (hdock : s.isDock = true)
include hdock

/-- KEY.CTRL with GEN asks for a pairing key drawn from the generator. -/
theorem State.keyCtrl_gen : s.keyCtrl (0x9A17 + 2 ^ 16) = (s.keyAsk true).clearImport := by
  simp [State.keyCtrl, State.clearImport, bitsOf, hdock]

/-- KEY.CTRL with IMPORT asks for the pairing key written to IMPORT. -/
theorem State.keyCtrl_import : s.keyCtrl (0x9A17 + 2 ^ 17) = (s.keyAsk false).clearImport := by
  simp [State.keyCtrl, State.clearImport, bitsOf, hdock]

end

/-- KEY.CTRL with another key changes nothing. -/
theorem State.keyCtrl_otherKey (s : State) {key above : Nat} (hkey : key % 65536 ≠ 0x9A17) :
    s.keyCtrl (key % 65536 + 65536 * above) = s := by
  refine if_pos ?_
  simp only [bitsOf]
  omega

section
variable {s : State} (hladder : s.ladderUp = true) (hlatch : s.flag TMP_STAT_LATCHED = false) (hsafe : s.safe = false)
  (hfree : s.keyHolds = false)
include hladder hlatch hsafe hfree

theorem State.keyAsk_gen (hrng : s.rngUp = true) : s.keyAsk true = s.spend.putPairing (s.rand 32) := by
  simp only [State.keyAsk, hladder, hlatch, hsafe, hfree, hrng, Bool.not_true, Bool.and_false, Bool.or_self,
    Bool.false_eq_true, if_false, if_true]

theorem State.keyAsk_import : s.keyAsk false = s.putPairing s.keys.imp := by
  simp only [State.keyAsk, hladder, hlatch, hsafe, hfree, Bool.not_true, Bool.false_and, Bool.or_self,
    Bool.false_eq_true, if_false]

end

section
variable {s : State} (key : Nat) (htakes : s.pageTakes pKEY = true)
include htakes

theorem execPairGen_writes :
    execPairGen key s = .next ((s.touchPage pKEY).keyCtrl (key % 65536 + 2 ^ 16)) := congrArg _ (if_pos htakes)

theorem execPairImport_writes :
    execPairImport key s = .next ((s.touchPage pKEY).keyCtrl (key % 65536 + 2 ^ 17)) := congrArg _ (if_pos htakes)

end

/-! ## RELOCK (R391) -/

/-- RELOCK of a scope whose lock is set puts that lock in force. -/
theorem State.lckCtrl_scope {s : State} {scope : Nat} (hscope : scope < 17) (hset : s.lockSet scope = true) :
    s.lckCtrl (0x3E1C + scope % 32 * 2 ^ 16 + 2 ^ 21) = s.setForce scope true := by
  have hkey : bitsOf (0x3E1C + scope % 32 * 2 ^ 16 + 2 ^ 21) 0 16 = 0x3E1C := by simp only [bitsOf]; omega
  have hsc : bitsOf (0x3E1C + scope % 32 * 2 ^ 16 + 2 ^ 21) 16 5 = scope := by simp only [bitsOf]; omega
  have hgo : bitAt (0x3E1C + scope % 32 * 2 ^ 16 + 2 ^ 21) 21 = true := by simp only [bitAt, beq_iff_eq]; omega
  have hone : scope ≠ 31 := by omega
  simp only [State.lckCtrl, hkey, hsc, hgo, hone, hscope, hset, ne_eq, not_true_eq_false, Bool.not_true,
    Bool.false_eq_true, or_self, and_self, if_false, if_true]

/-- RELOCK of scope 31 puts every lock that is set in force. -/
theorem State.lckCtrl_all (s : State) : s.lckCtrl (0x3E1C + 31 % 32 * 2 ^ 16 + 2 ^ 21) = s.forceLocks := by
  simp [State.lckCtrl, bitsOf, bitAt]

/-- LCK.CTRL with another key changes nothing. -/
theorem State.lckCtrl_otherKey (s : State) {key : Nat} (scope : Nat) (hkey : key % 65536 ≠ 0x3E1C) :
    s.lckCtrl (key % 65536 + scope % 32 * 2 ^ 16 + 2 ^ 21) = s := by
  refine if_pos (.inl ?_)
  simp only [bitsOf]
  omega

theorem execRelock_writes {s : State} (key scope : Nat) (htakes : s.pageTakes pLCK = true) :
    execRelock key scope s = .next ((s.touchPage pLCK).lckCtrl (key % 65536 + scope % 32 * 2 ^ 16 + 2 ^ 21)) :=
  congrArg _ (if_pos htakes)

/-- Settles O55: each command writes its control register, and that write's own lemma says what the key and the bits
do. -/
theorem keyAndLockControls : Obligations.KeyAndLockControls := by
  unfold Obligations.KeyAndLockControls
  refine ⟨?_, fun key s htakes hkey => ⟨?_, ?_⟩, fun s => rfl, fun scope s htakes => ⟨?_, ?_, ?_⟩⟩
  · intro s htakes hdock t hladder hlatch hsafe hfree zero
    have hgen := (execPairGen_writes 0x9A17 htakes).trans (congrArg _ (State.keyCtrl_gen (s := t) hdock))
    have himport := (execPairImport_writes 0x9A17 htakes).trans (congrArg _ (State.keyCtrl_import (s := t) hdock))
    rw [State.keyAsk_import hladder hlatch hsafe hfree] at himport
    refine ⟨fun hrng => ?_, himport⟩
    rw [State.keyAsk_gen hladder hlatch hsafe hfree hrng] at hgen
    exact hgen
  · exact (execPairGen_writes key htakes).trans (congrArg _ (State.keyCtrl_otherKey _ (above := 1) hkey))
  · exact (execPairImport_writes key htakes).trans (congrArg _ (State.keyCtrl_otherKey _ (above := 2) hkey))
  · exact fun hscope hset => (execRelock_writes 0x3E1C scope htakes).trans
      (congrArg _ (State.lckCtrl_scope hscope hset))
  · exact (execRelock_writes 0x3E1C 31 htakes).trans (congrArg _ (State.lckCtrl_all _))
  · exact fun key hkey => (execRelock_writes key scope htakes).trans (congrArg _ (State.lckCtrl_otherKey _ scope hkey))

end Sys2Proof.Machine
end

section
/-! PROOFS. The dock's firmware slots (R446, R447; log 156). -/

namespace Sys2Proof.Machine

/-! ## What a write of DFW_CTRL does -/

section
variable (s : State) {slot : Nat} (hslot : slot < 2)
include hslot

theorem State.dfwCtrl_begin : s.dfwCtrl (0xF17A + 2 ^ 16 + 2 ^ 19 * (slot % 2)) = s.dfwBegin slot := by
  obtain rfl | rfl : slot = 0 ∨ slot = 1 := by omega
  · simp [State.dfwCtrl, bitsOf, bitAt]
  · simp [State.dfwCtrl, bitsOf, bitAt]

theorem State.dfwCtrl_activate : s.dfwCtrl (0xF17A + 2 ^ 18 + 2 ^ 19 * (slot % 2)) = s.dfwActivate slot := by
  obtain rfl | rfl : slot = 0 ∨ slot = 1 := by omega
  · simp [State.dfwCtrl, bitsOf, bitAt]
  · simp [State.dfwCtrl, bitsOf, bitAt]

end

theorem State.dfwCtrl_end (s : State) : s.dfwCtrl (0xF17A + 2 ^ 17) = s.dfwEnd := by
  simp [State.dfwCtrl, bitsOf, bitAt]

/-- A write of DFW_CTRL with another key changes nothing. -/
theorem State.dfwCtrl_otherKey (s : State) {key above : Nat} (hkey : key % 65536 ≠ 0xF17A) :
    s.dfwCtrl (key % 65536 + 65536 * above) = s := by
  refine if_pos ?_
  simp only [bitsOf]
  omega

/-! ## What its commands do -/

section
variable {s : State}

/-- The slot not running is invalidated and staged. -/
theorem State.dfwBegin_stages {slot : Nat} (hslot : slot = s.otherSlot) :
    s.dfwBegin slot = ({ (s.invalidateSlot slot).dfwResult 0 with
      firm := { ((s.invalidateSlot slot).dfwResult 0).firm with staging := some 0 } } : State).setFlag
        BRG_DFW_STAT_STAGING true := if_neg (not_not_intro hslot)

theorem State.dfwBegin_running {slot : Nat} (hslot : slot ≠ s.otherSlot) : s.dfwBegin slot = s.dfwResult 2 :=
  if_pos hslot

/-- A word within the slot is stored at DFW_ADDR, which moves on. -/
theorem State.dfwData_stores {word : Nat} (hstaging : s.firm.staging = some 0)
    (hwithin : s.fld BRG_DFW_ADDR_WORD + 1 < 2 ^ 18) :
    s.dfwData word = (s.slotWrite s.otherSlot (4 * s.fld BRG_DFW_ADDR_WORD) (bytesBE 4 word)).setFld
      BRG_DFW_ADDR_WORD (s.fld BRG_DFW_ADDR_WORD + 1) :=
  (if_neg (not_not_intro hstaging)).trans (if_pos hwithin)

theorem State.dfwEnd_checks (hstaging : s.firm.staging ≠ none) :
    s.dfwEnd = ((s.checkStaged s.otherSlot).2.dfwResult (if (s.checkStaged s.otherSlot).1 = 0 then 0 else 1)).setFlag
      BRG_DFW_STAT_STAGING false :=
  if_neg (fun hnone => hstaging (Option.isNone_iff_eq_none.mp hnone))

section
variable {slot : Nat} (hidle : s.firm.activating = none)
include hidle

/-- The standby loads a slot that may be activated. -/
theorem State.dfwActivate_loads (hgood : s.activateBad slot = false) :
    s.dfwActivate slot = ({ s with firm := { s.firm with activating := some slot, activTag := none } } : State).setFlag
      BRG_DFW_STAT_BUSY true := by
  simp only [State.dfwActivate, hidle, hgood, Option.isSome_none, Bool.false_eq_true, if_false]

theorem State.dfwActivate_refuses (hbad : s.activateBad slot = true) : s.dfwActivate slot = s.dfwResult 2 := by
  simp only [State.dfwActivate, hidle, hbad, Option.isSome_none, Bool.false_eq_true, if_false, if_true]

end

end

/-! ## The commands -/

section
variable {s : State} (htakes : s.dockPage pBRG = true)
include htakes

theorem execDfwBegin_writes (key slot : Nat) : execDfwBegin key slot s =
    .next ((s.touchPage pBRG).dfwCtrl (key % 65536 + 2 ^ 16 + 2 ^ 19 * (slot % 2))) := congrArg _ (if_pos htakes)

theorem execDfwData_writes (word : Nat) : execDfwData word s = .next ((s.touchPage pBRG).dfwData word) :=
  congrArg _ (if_pos htakes)

theorem execDfwEnd_writes (key : Nat) : execDfwEnd key s =
    .next ((s.touchPage pBRG).dfwCtrl (key % 65536 + 2 ^ 17)) := congrArg _ (if_pos htakes)

theorem execDfwActivate_writes (key slot : Nat) : execDfwActivate key slot s =
    .next ((s.touchPage pBRG).dfwCtrl (key % 65536 + 2 ^ 18 + 2 ^ 19 * (slot % 2))) := congrArg _ (if_pos htakes)

end

/-- Settles O54: each command writes its register, a control by the key and the bits that it writes. -/
theorem dockFirmwareCommands : Obligations.DockFirmwareCommands := by
  unfold Obligations.DockFirmwareCommands
  intro slot s htakes hslot t
  have hbegin := (execDfwBegin_writes htakes 0xF17A slot).trans (congrArg _ (t.dfwCtrl_begin hslot))
  have hend := (execDfwEnd_writes htakes 0xF17A).trans (congrArg _ t.dfwCtrl_end)
  have hactivate := (execDfwActivate_writes htakes 0xF17A slot).trans (congrArg _ (t.dfwCtrl_activate hslot))
  refine ⟨fun h => hbegin.trans (congrArg _ (State.dfwBegin_stages h)),
    fun h => hbegin.trans (congrArg _ (State.dfwBegin_running h)),
    fun word hstaging hwithin => (execDfwData_writes htakes word).trans
      (congrArg _ (State.dfwData_stores hstaging hwithin)),
    fun hstaging => hend.trans (congrArg _ (State.dfwEnd_checks hstaging)),
    fun hidle => ⟨fun hgood => hactivate.trans (congrArg _ (State.dfwActivate_loads hidle hgood)),
      fun hbad => hactivate.trans (congrArg _ (State.dfwActivate_refuses hidle hbad))⟩,
    fun key hkey => ⟨?_, ?_, ?_⟩⟩
  · refine (execDfwBegin_writes htakes key slot).trans (congrArg _ ?_)
    rw [Nat.add_assoc, show 2 ^ 16 + 2 ^ 19 * (slot % 2) = 65536 * (1 + 8 * (slot % 2)) by omega]
    exact t.dfwCtrl_otherKey hkey
  · exact (execDfwEnd_writes htakes key).trans (congrArg _ (t.dfwCtrl_otherKey (above := 2) hkey))
  · refine (execDfwActivate_writes htakes key slot).trans (congrArg _ ?_)
    rw [Nat.add_assoc, show 2 ^ 18 + 2 ^ 19 * (slot % 2) = 65536 * (4 + 8 * (slot % 2)) by omega]
    exact t.dfwCtrl_otherKey hkey

end Sys2Proof.Machine
end

section
/-! PROOFS. Loop words, the switch, and the two ways to clear a latched tamper (R376, R377, R383, R384; logs 17, 18
and 82). -/

namespace Sys2Proof.Machine

/-! ## The monitor (R376, R377) -/

section
variable {s : State} (hstep : 2 ≤ s.bootStep) (hrest : s.bootStep ≠ 5)
include hstep hrest

theorem execTamperLoopWord_samples (halves : Nat) (served : List Nat) :
    execTamperLoopWord halves served s = .next (s.loopStep s.tmpMiss halves served) := by
  simp [execTamperLoopWord, hstep, hrest]

theorem execTamperSwitchOpen_latches (served : List Nat) :
    execTamperSwitchOpen served s = .next ((s.setSwitch true).latchTamper 3 served) := by
  simp [execTamperSwitchOpen, hstep, hrest]

end

/-- A bad word that ends a run of MISS latches. -/
theorem State.loopStep_latches {s : State} {miss halves : Nat} (served : List Nat) (hbad : (s.loopWord halves).1 ≠ 0)
    (hrun : miss ≤ (s.loopWord halves).2.tamper.missRun) :
    s.loopStep miss halves served = (s.loopWord halves).2.latchTamper (s.loopWord halves).1 served :=
  if_pos ⟨hbad, hrun⟩

/-- A good word, or a bad one of a shorter run, is counted only. -/
theorem State.loopStep_counts {s : State} {miss halves : Nat} (served : List Nat)
    (h : (s.loopWord halves).1 = 0 ∨ (s.loopWord halves).2.tamper.missRun < miss) :
    s.loopStep miss halves served = (s.loopWord halves).2 :=
  if_neg (fun hlatch => h.elim hlatch.1 (Nat.not_lt.mpr hlatch.2))

/-! ## TAMPER_ACK (R383, R384) -/

theorem execTamperAck_serves {seq : Nat} {pw : List Byte} {s : State} (hlen : pw.length ≤ 32)
    (h : s.cnServes 0x28 seq = true) :
    execTamperAck seq pw true s = .next ((s.cnHeard 0x28).cnTamperAck (seq % 256) pw true) :=
  State.cnIn_next (decide_eq_true hlen) h rfl

section
variable {s : State} (seq : Nat) {pw : List Byte}

/-- Before the latch is set, MISS words are good and the switch is low, TAMPER_ACK is refused. -/
theorem State.cnTamperAck_early (h : (s.setSwitch false).tamperClearable true = false) :
    s.cnTamperAck seq pw true = (s.setSwitch false).cnAnswer 0x28 seq 0x22 (s.setSwitch false).tamperByte := by
  simp only [State.cnTamperAck, h, if_true, Bool.not_false]

section
variable (hclear : (s.setSwitch false).tamperClearable true = true)
include hclear

/-- The right password is answered OK and clears the tamper. -/
theorem State.cnTamperAck_clears (hpw : ((s.setSwitch false).tamperPw pw).1 = true) :
    let r := ((s.setSwitch false).tamperPw pw).2
    s.cnTamperAck seq pw true =
      (r.cnAnswer 0x28 seq 0x00 (r.setFlag TMP_STAT_LATCHED false).tamperByte).clearTamper := by
  simp only [State.cnTamperAck, hclear, hpw, if_true, Bool.not_true, Bool.false_eq_true, if_false]

/-- A wrong one is refused. -/
theorem State.cnTamperAck_wrong (hpw : ((s.setSwitch false).tamperPw pw).1 = false) :
    let r := ((s.setSwitch false).tamperPw pw).2
    s.cnTamperAck seq pw true = r.cnAnswer 0x28 seq 0x22 r.tamperByte := by
  simp only [State.cnTamperAck, hclear, hpw, if_true, Bool.not_true, Bool.not_false, Bool.false_eq_true, if_false]

end

end

/-! ## TMP.CTRL (R383) -/

/-- With its key and CLEAR a dock that may clear the tamper does. -/
theorem State.tmpCtrl_clears {s : State} (hdock : s.isDock = true) (hup : (s.setSwitch false).up = true)
    (hclear : (s.setSwitch false).tamperClearable true = true) :
    s.tmpCtrl 0x17A3C true = (s.setSwitch false).clearTamper := by
  have hkey : bitsOf 0x17A3C 0 16 = 0x7A3C := rfl
  have hbit : bitAt 0x17A3C 16 = true := rfl
  have hsame : (s.setSwitch false).isDock = true := hdock
  simp only [State.tmpCtrl, hkey, hbit, hsame, hup, hclear, if_true, and_self]

/-- On a card it changes nothing but the switch as it reads. -/
theorem State.tmpCtrl_card {s : State} (hcard : s.isCard = true) : s.tmpCtrl 0x17A3C true = s.setSwitch false := by
  have hdock : (s.setSwitch false).isDock = false := by
    rw [State.isCard, beq_iff_eq] at hcard
    exact beq_eq_false_iff_ne.mpr (fun h => nomatch hcard.symm.trans h)
  simp only [State.tmpCtrl, hdock, if_true, Bool.false_eq_true, false_and, and_false, if_false]

theorem execTmpCtrlClear_writes (s : State) : execTmpCtrlClear 0x17A3C true s = .next (s.tmpCtrl 0x17A3C true) := rfl

/-- Settles O30: a word is split by whether it latches, TAMPER_ACK by its conditions and its password. -/
theorem tamperCommands : Obligations.TamperCommands := by
  unfold Obligations.TamperCommands
  refine ⟨fun halves served s hstep hrest => ⟨fun hbad hrun => ?_, fun hcount => ?_⟩,
    fun served s hstep hrest => execTamperSwitchOpen_latches hstep hrest served, fun seq pw s hlen hserves => ?_,
    fun s hdock hup hclear => (execTmpCtrlClear_writes s).trans (congrArg _ (State.tmpCtrl_clears hdock hup hclear)),
    fun s hcard => (execTmpCtrlClear_writes s).trans (congrArg _ (State.tmpCtrl_card hcard))⟩
  · exact (execTamperLoopWord_samples hstep hrest halves served).trans
      (congrArg _ (State.loopStep_latches served hbad hrun))
  · exact (execTamperLoopWord_samples hstep hrest halves served).trans
      (congrArg _ (State.loopStep_counts served hcount))
  · have hexec := execTamperAck_serves hlen hserves
    exact ⟨fun hclear => ⟨fun hpw => hexec.trans (congrArg _ (State.cnTamperAck_clears _ hclear hpw)),
        fun hpw => hexec.trans (congrArg _ (State.cnTamperAck_wrong _ hclear hpw))⟩,
      fun hearly => hexec.trans (congrArg _ (State.cnTamperAck_early _ hearly))⟩

end Sys2Proof.Machine
end

section
/-! PROOFS. What a fault does to the source of a unit inside the one that it fences (R409, R413). -/

namespace Sys2Proof.Machine

/-- A card in which the fence action of a die is under way, for source 7, the die faults of the first channel. -/
def dieFencing : State :=
  ({ State.reset with flt := { State.reset.flt with holds := [⟨7, .die 0, 0⟩] } } : State).setFlag
    (FLT_SRC_STAT_FENCING 7) true

/-- It is in order. -/
theorem ok_dieFencing : dieFencing.Ok := ⟨rfl, rfl, rfl, rfl⟩

/-- A fault of the die's chip enable, source 8, supersedes the die's fence action, whose FENCING falls (R413). -/
theorem srcStat_newFault_dieFencing : (dieFencing.newFault 8 (.ce 0) 0 false).reg (rFLT_SRC_STAT 7).off ≠
    dieFencing.reg (rFLT_SRC_STAT 7).off := by decide

/-- Refutes O11: the fault's unit lies inside no unit being fenced, but a unit being fenced lies inside it, and the
SRC_STAT of that unit's source changes. -/
theorem not_newFaultIsRecorded : ¬ Obligations.NewFaultIsRecorded := by
  unfold Obligations.NewFaultIsRecorded
  intro ⟨_, hrecorded⟩
  obtain ⟨-, -, -, hothers, -⟩ :=
    hrecorded 8 0 (.ce 0) false dieFencing ok_dieFencing (by decide) (by decide) (by decide) (by decide)
  exact srcStat_newFault_dieFencing (hothers 7 (by decide) (by decide))

end Sys2Proof.Machine
end

section
/-! PROOFS. A fault's cause, its action, its lull and its clear (R404, R409–R413, R420). -/

namespace Sys2Proof.Machine

/-! ## Causes and actions (R404, R413, R420) -/

section
variable {s : State} (src x syn : Nat) (hstep : s.bootStep ≠ 0)
include hstep

theorem execFaultDetected_real : execFaultDetected src x syn false s = .next (s.faultFull src x syn false) := by
  simp only [execFaultDetected, hstep, Bool.false_and, Bool.false_eq_true, if_false]

/-- An injected fault uses up a one-shot injection of its page. -/
theorem execFaultDetected_injected (hactive : s.flag (INJ_CTRL_ACTIVE (srcPage src)) = true) :
    execFaultDetected src x syn true s = .next ((s.faultFull src x syn true).injectDone (srcPage src)) := by
  simp only [execFaultDetected, hstep, hactive, Bool.and_self, if_false, if_true]

end

/-- The action of a source outside the processors' ends; its line stays up for a level cause that holds. -/
theorem State.actionDone_ends {s : State} {src : Nat} (holds : Bool)
    (hfences : s.flag (FLT_SRC_STAT_FENCING src) = true) (hother : src < 96 ∨ 100 < src) :
    s.actionDone src holds = (s.setFlag (FLT_SRC_STAT_FENCING src) false).setFlag (FLT_SRC_STAT_ASSERTED src)
      (srcLevel src && holds) := by
  have hnone : ¬ (96 ≤ src ∧ src ≤ 100) := by omega
  simp only [State.actionDone, hfences, hnone, Bool.not_true, Bool.false_eq_true, if_false]

/-! ## The lull (R410, R411) -/

/-- The recoveries that count in a source's window. -/
def State.windowCount (s : State) (src : Nat) : Nat :=
  if s.flt.windows.contains src then s.fld (FLT_SRC_STAT_WINDOW_CNT src) else 0

/-- The syndrome of the entry that a source's exit events tell of. -/
def State.exitSyndrome (s : State) (src : Nat) : Nat := (s.reg (histOff (s.histOf src) + 8)).toNat

/-- A source that recovers: it exits, is counted, and its window is open. -/
def State.recovers (s : State) (src : Nat) : State :=
  let t := ((s.exitSource src 2).bump (FLT_SRC_STAT_RECOVERIES src)).setFld (FLT_SRC_STAT_WINDOW_CNT src)
    (s.windowCount src + 1)
  if s.flt.windows.contains src then t else { t with flt := { t.flt with windows := t.flt.windows ++ [src] } }

/-- What a lull does that ends with the source still there, its cause gone and its action done. -/
theorem State.lullDone_exits {s : State} {src : Nat} (hsrc : src < 124) (hsafe : s.safe = false)
    (hstatus : s.flag (FLT_SRC_STAT_STATUS src) = true) (hlatched : s.flag (FLT_SRC_STAT_LATCHED src) = false)
    (hfences : s.flag (FLT_SRC_STAT_FENCING src) = false) (hexit : s.flag (FLT_SRC_CFG_EXIT src) = true)
    (hcause : s.causeNow src = false) :
    s.lullDone src =
      if s.fld FLT_LULL_CFG_LIMIT < s.windowCount src + 1 then
        (((s.setFlag (FLT_SRC_STAT_LATCHED src) true).setFlag (FLT_SRC_STAT_ASSERTED src) false).histClose src 3).fireD
          EV_FLT_LULL_LATCHED (fltDetail src (s.histOf src)) (s.exitSyndrome src)
      else s.restoreFreed ((s.recovers src).fireD EV_FLT_LULL_RECOVERED (fltDetail src (s.histOf src))
        (s.exitSyndrome src)) src := by
  simp only [State.lullDone, hsafe, hstatus, hlatched, hfences, hexit, hcause, Nat.not_le.mpr hsrc, decide_false,
    Bool.not_true, Bool.or_self, Bool.and_false, Bool.false_eq_true, if_false]
  rfl

theorem execLullWindowEnd_ends {s : State} {src : Nat} (hopen : s.flt.windows.contains src = true) :
    execLullWindowEnd src s = .next
      (({ s with flt := { s.flt with windows := s.flt.windows.filter (· != src) } } : State).setFld
        (FLT_SRC_STAT_WINDOW_CNT src) 0) := congrArg _ (if_pos hopen)

/-! ## The clear (R410) -/

/-- A source that software clears: it exits, unlatched and with its window ended. -/
def State.clears (s : State) (src : Nat) : State :=
  let t := ((s.exitSource src 1).setFlag (FLT_SRC_STAT_LATCHED src) false).setFld (FLT_SRC_STAT_WINDOW_CNT src) 0
  { t with flt := { t.flt with windows := t.flt.windows.filter (· != src) } }

section
variable {s : State} {src : Nat} (hsrc : src < 124) (hstatus : s.flag (FLT_SRC_STAT_STATUS src) = true)
include hsrc hstatus

/-- Its line down and its action done, a source is cleared outside the safe state. -/
theorem State.tryClear_clears (hsafe : s.safe = false) (hcause : s.causeNow src = false)
    (hfences : s.flag (FLT_SRC_STAT_FENCING src) = false) :
    s.tryClear src = s.restoreFreed ((s.clears src).fireD EV_FLT_FAULT_CLEARED (fltDetail src (s.histOf src))
      (s.exitSyndrome src)) src := by
  simp only [State.tryClear, hstatus, hsafe, hcause, hfences, Nat.not_le.mpr hsrc, Bool.not_true, or_self,
    Bool.false_eq_true, if_false]
  rfl

/-- Otherwise the clear is refused. -/
theorem State.tryClear_refuses
    (hline : s.safe = true ∨ s.causeNow src = true ∨ s.flag (FLT_SRC_STAT_FENCING src) = true) :
    s.tryClear src = s.fireD EV_FLT_CLEAR_REFUSED (fltDetail src (s.histOf src)) (s.exitSyndrome src) := by
  simp only [State.tryClear, hstatus, hline, Nat.not_le.mpr hsrc, false_or, Bool.not_true, Bool.false_eq_true, if_false,
    if_true]
  rfl

end

section
variable {s : State} (hup : s.up = true)
include hup

theorem execFltClearSource_tries {src : Nat} (hsrc : src < 124) :
    execFltClearSource 0x4C7E src s = .next ((s.touchPage pFLT).tryClear src) := by
  have hmod : src % 128 = src := Nat.mod_eq_of_lt (by omega)
  refine congrArg _ ((if_pos hup).trans ?_)
  rw [hmod]
  rfl

theorem execFltClearAll_tries :
    execFltClearAll 0x4C7E s = .next ((List.range 128).foldl State.tryClear (s.touchPage pFLT)) :=
  congrArg _ (if_pos hup)

end

/-- Settles O29: each command by its own lemma, a lull split by the limit and a clear by the source's line. -/
theorem faultCommands : Obligations.FaultCommands := by
  unfold Obligations.FaultCommands
  refine ⟨fun src x syn s hstep => ⟨execFaultDetected_real src x syn hstep,
      fun hactive => execFaultDetected_injected src x syn hstep hactive⟩,
    fun src holds s hfences hother => congrArg Host.Outcome.next (State.actionDone_ends holds hfences hother),
    fun src s hsrc hsafe hstatus hlatched hfences hexit hcause => ?_,
    fun src r hup hsrc hstatus => ⟨fun hsafe hcause hfences => ?_, fun hline => ?_⟩,
    fun s hup => execFltClearAll_tries hup, fun src s hopen => execLullWindowEnd_ends hopen⟩
  · have hexits := congrArg (Host.Outcome.next (φ := Fault) (ρ := Refusal))
      (State.lullDone_exits hsrc hsafe hstatus hlatched hfences hexit hcause)
    exact ⟨fun hpast => hexits.trans (congrArg _ (if_pos (Nat.lt_succ_of_le hpast))),
      fun hwithin => hexits.trans (congrArg _ (if_neg (Nat.not_lt.mpr hwithin)))⟩
  · exact (execFltClearSource_tries hup hsrc).trans
      (congrArg _ (State.tryClear_clears hsrc hstatus hsafe hcause hfences))
  · exact (execFltClearSource_tries hup hsrc).trans (congrArg _ (State.tryClear_refuses hsrc hstatus hline))

end Sys2Proof.Machine
end

section
/-! PROOFS. Idle gating, loss and relock of the PLL, the oscillators' measurement, and STOPPED (R424, R426–R428; logs 59
and 73). -/

namespace Sys2Proof.Machine

/-- An island whose gating is enabled is shown gated, and any island running (R424). -/
theorem execIslandIdleGate_shows {i : Nat} {gate : Bool} {s : State} (halive : s.alive = true) (hlo : 2 ≤ i)
    (hhi : i < 21) (hruns : islandRuns s.role i = true)
    (hmay : gate = false ∨ bitAt (s.reg rCLK_GATE_CFG.off).toNat i = true) :
    execIslandIdleGate i gate s =
      .next (s.setFld ⟨(rCLK_ISL_STAT (i / 8)).off, 4 * (i % 8), 4⟩ (if gate then 2 else 0)) := by
  have hgate : (!gate || bitAt (s.reg rCLK_GATE_CFG.off).toNat i) = true := by simpa using hmay
  simp only [execIslandIdleGate, halive, hlo, hhi, hruns, hgate, decide_true, Bool.and_self, if_true]

/-! ## The PLL (R427) -/

theorem execPllLockLoss_locked {s : State} (hlocked : s.flag CLK_PLL_STAT_LOCKED = true) :
    execPllLockLoss s = .next
      (((((s.setFlag CLK_PLL_STAT_LOCKED false).setFlag CLK_PLL_STAT_RELOCKING true).setFld CLK_PLL_STAT_ATTEMPT 0).bump
        CLK_CNT_PLL_LOSSES).fire EV_CLK_PLL_LOST) := congrArg _ (if_pos hlocked)

section
variable {s : State} (hrelocks : s.flag CLK_PLL_STAT_RELOCKING = true)
include hrelocks

/-- A lock lets the islands go on. -/
theorem execPllRelockResult_locks : execPllRelockResult true s = .next
    ((((((s.setFld CLK_PLL_STAT_ATTEMPT (s.fld CLK_PLL_STAT_ATTEMPT + 1)).setFlag CLK_PLL_STAT_RELOCKING false).setFlag
      CLK_PLL_STAT_LOCKED true).fire EV_CLK_PLL_LOCKED).drive 0).drive 1).pump := by
  simp only [execPllRelockResult, hrelocks, Bool.not_true, Bool.false_eq_true, if_false, if_true]

/-- A failure before the third is counted. -/
theorem execPllRelockResult_counts (hfew : s.fld CLK_PLL_STAT_ATTEMPT < 2) : execPllRelockResult false s = .next
    (s.setFld CLK_PLL_STAT_ATTEMPT (s.fld CLK_PLL_STAT_ATTEMPT + 1)) := by
  have hmore : s.fld CLK_PLL_STAT_ATTEMPT + 1 < 3 := Nat.succ_lt_succ hfew
  simp only [execPllRelockResult, hrelocks, hmore, Bool.not_true, Bool.false_eq_true, if_false, if_true]

/-- The third raises FLT_127. -/
theorem execPllRelockResult_fails (hlast : 2 ≤ s.fld CLK_PLL_STAT_ATTEMPT) : execPllRelockResult false s = .next
    (((s.setFld CLK_PLL_STAT_ATTEMPT (s.fld CLK_PLL_STAT_ATTEMPT + 1)).setFlag CLK_PLL_STAT_RELOCKING false).faultFull
      127 0 (islFLT + 256 * islMP) false) := by
  have hthird : ¬ s.fld CLK_PLL_STAT_ATTEMPT + 1 < 3 := Nat.not_lt.mpr (Nat.succ_le_succ hlast)
  simp only [execPllRelockResult, hrelocks, hthird, Bool.not_true, Bool.false_eq_true, if_false]

end

/-! ## The oscillators (R426) -/

/-- The two readings, and whether the reference is present. -/
def State.oscRead (s : State) (aon flt : Nat) (xin : Bool) : State :=
  ((s.setFld CLK_OSC_AON_KHZ aon).setFld CLK_OSC_FLT_100KHZ flt).setFlag CLK_PLL_STAT_REF_PRESENT xin

/-- An event that fires where a condition holds. -/
def State.fireIf (s : State) (b : Bool) (e : Ev) : State := if b then s.fire e else s

@[simp] theorem State.fireIf_true (s : State) (e : Ev) : s.fireIf true e = s.fire e := rfl

@[simp] theorem State.fireIf_false (s : State) (e : Ev) : s.fireIf false e = s := rfl

/-- What a measurement fires: the drift of each oscillator outside its band, then that of the reference. -/
theorem execOscMeasure_fires {s : State} (aon flt : Nat) (xin : Bool) (halive : s.alive = true) :
    execOscMeasure aon flt xin s = .next ((((s.oscRead aon flt xin).fireIf
      (decide (aon < 15200) || decide (16800 < aon)) EV_CLK_AON_OSC_DRIFT).fireIf
      (decide (flt < 900) || decide (1100 < flt)) EV_CLK_FLT_OSC_DRIFT).fireIf
      (decide (aon < 15200) && decide (flt < 900) || decide (16800 < aon) && decide (1100 < flt) || !xin)
      EV_CLK_REF_DRIFT) := by
  simp only [execOscMeasure, halive, Bool.not_true, Bool.false_eq_true, if_false]
  rfl

section
variable {s : State} {aon flt : Nat} (halive : s.alive = true)
include halive

/-- Inside both bands a measurement fires nothing while the reference is there, and its drift otherwise. -/
theorem execOscMeasure_inside (xin : Bool) (ha : 15200 ≤ aon) (hb : aon ≤ 16800) (hc : 900 ≤ flt) (hd : flt ≤ 1100) :
    execOscMeasure aon flt xin s = .next ((s.oscRead aon flt xin).fireIf (!xin) EV_CLK_REF_DRIFT) := by
  simp [execOscMeasure_fires aon flt xin halive, Nat.not_lt.mpr ha, Nat.not_lt.mpr hb, Nat.not_lt.mpr hc,
    Nat.not_lt.mpr hd]

/-- The oscillator of AON alone is outside its band. -/
theorem execOscMeasure_aonOut (hout : aon < 15200 ∨ 16800 < aon) (hc : 900 ≤ flt) (hd : flt ≤ 1100) :
    execOscMeasure aon flt true s = .next ((s.oscRead aon flt true).fire EV_CLK_AON_OSC_DRIFT) := by
  have hdrift : (decide (aon < 15200) || decide (16800 < aon)) = true := by simpa using hout
  simp [execOscMeasure_fires aon flt true halive, hdrift, Nat.not_lt.mpr hc, Nat.not_lt.mpr hd]

/-- That of FLT alone is. -/
theorem execOscMeasure_fltOut (ha : 15200 ≤ aon) (hb : aon ≤ 16800) (hout : flt < 900 ∨ 1100 < flt) :
    execOscMeasure aon flt true s = .next ((s.oscRead aon flt true).fire EV_CLK_FLT_OSC_DRIFT) := by
  have hdrift : (decide (flt < 900) || decide (1100 < flt)) = true := by simpa using hout
  simp [execOscMeasure_fires aon flt true halive, hdrift, Nat.not_lt.mpr ha, Nat.not_lt.mpr hb]

/-- Both are, in one sense: it is the reference that drifts. -/
theorem execOscMeasure_bothOut (xin : Bool) (hout : (aon < 15200 ∧ flt < 900) ∨ (16800 < aon ∧ 1100 < flt)) :
    execOscMeasure aon flt xin s = .next ((((s.oscRead aon flt xin).fire EV_CLK_AON_OSC_DRIFT).fire
      EV_CLK_FLT_OSC_DRIFT).fire EV_CLK_REF_DRIFT) := by
  rw [execOscMeasure_fires aon flt xin halive]
  obtain ⟨hlow, hlow'⟩ | ⟨hhigh, hhigh'⟩ := hout
  · simp [hlow, hlow']
  · simp [hhigh, hhigh']

end

theorem execClkstopAll_fires {s : State} (hup : s.up = true) (hrun : s.powerState = 0)
    (hstopped : s.allStopped = true) :
    execClkstopAll s = .next (s.fire EV_PWR_CLKSTOP_ALL) := by
  simp only [execClkstopAll, hup, hrun, hstopped, BEq.rfl, Bool.and_self, if_true]

/-- Settles O22: each command by its own lemma, a measurement by which oscillators are outside their bands. -/
theorem clockCommands : Obligations.ClockCommands := by
  unfold Obligations.ClockCommands
  refine ⟨fun i gate s halive hlo hhi hruns hmay => execIslandIdleGate_shows halive hlo hhi hruns hmay,
    fun s hlocked => execPllLockLoss_locked hlocked,
    fun s hrelocks => ⟨execPllRelockResult_locks hrelocks, fun hfew => execPllRelockResult_counts hrelocks hfew,
      fun hlast => execPllRelockResult_fails hrelocks hlast⟩,
    fun aon flt s halive => ⟨fun ha hb hc hd => ?_, fun hout hc hd => ?_, fun ha hb hout => ?_, fun hout x => ?_,
      fun ha hb hc hd => ?_⟩,
    fun s hup hrun hstopped => execClkstopAll_fires hup hrun hstopped⟩
  · exact execOscMeasure_inside halive true ha hb hc hd
  · exact execOscMeasure_aonOut halive hout hc hd
  · exact execOscMeasure_fltOut halive ha hb hout
  · exact execOscMeasure_bothOut halive x hout
  · exact execOscMeasure_inside halive false ha hb hc hd

end Sys2Proof.Machine
end

section
/-! PROOFS. The thermal sample, and into and out of DOZE (R430–R437; logs 67 and 70). -/

namespace Sys2Proof.Machine

/-- The four readings as the registers show them (R435). -/
def State.showSensors (s : State) (t0 t1 t2 t3 : BitVec 16) : State :=
  (((s.setFld THS_SENSOR_01_LOW t0.toNat).setFld THS_SENSOR_01_HIGH t1.toNat).setFld THS_SENSOR_23_LOW t2.toNat).setFld
    THS_SENSOR_23_HIGH t3.toNat

/-- What follows from a die temperature and the sensors that are excluded (R435–R437). -/
def State.takeTemp (s : State) (w : Nat) (off : Nat → Bool) : State :=
  ((((((s.setFld THS_TEMP_TEMP w).peak w).throttle (tempInt w)).overLimit (tempInt w)).tuneDelta 0
    (tempInt w)).tuneDelta 1 (tempInt w)).sensorFaults off

/-- With a sensor in use, the highest of those in use is the die temperature. -/
theorem execThsSample_takes {t0 t1 t2 t3 : BitVec 16} {s : State} {a : Nat} {l : List Nat} (halive : s.alive = true)
    (hused : ((List.range 4).filter (fun i => !sensorOff ([t0, t1, t2, t3].map (fun t => tempInt t.toNat)) i)).map
      (fun i => ([t0, t1, t2, t3].getD i 0).toNat) = a :: l) :
    execThsSample t0 t1 t2 t3 s = .next ((s.showSensors t0 t1 t2 t3).takeTemp (l.foldl tempMax a)
      (sensorOff ([t0, t1, t2, t3].map (fun t => tempInt t.toNat)))) := by
  simp only [execThsSample, halive, hused, Bool.not_true, Bool.false_eq_true, if_false]
  rfl

/-! ## PWR.CTRL (R431) -/

theorem execPwrCtrlDoze_writes {s : State} (word : Nat) (htakes : s.pageTakes pPWR = true) :
    execPwrCtrlDoze word s = .next ((s.touchPage pPWR).pwrCtrl word) := congrArg _ (if_pos htakes)

/-- A running dock that is asked for DOZE starts it when nothing is outstanding, and refuses otherwise. -/
theorem State.pwrCtrl_doze {s : State} (hdock : s.isDock = true) (hup : s.up = true) (hruns : s.powerState < 2) :
    s.pwrCtrl 0x1D02E = if s.dozeReady then s.startDoze else s.refuseDoze := by
  have hkey : (bitsOf 0x1D02E 0 16 != 0xD02E) = false := rfl
  have hbit : bitAt 0x1D02E 16 = true := rfl
  have hcard : s.isCard = false := by
    rw [State.isDock, beq_iff_eq] at hdock
    rw [State.isCard, hdock]
    rfl
  simp only [State.pwrCtrl, hkey, hbit, hcard, hup, Nat.not_le.mpr hruns, decide_false, Bool.not_true, Bool.or_self,
    Bool.false_eq_true, if_false]

/-! ## Into DOZE and out of it (R430, R432–R434) -/

/-- The islands on the PLL report that they are gated, or ungated. -/
def State.fireIslands (s : State) (e : Ev) : State := (pllIslands s.role).foldl (fun (t : State) i => t.fireD e i 0) s

/-- The entry ends once no flash operation is issued; a card rewrites its lifetime record first. -/
theorem execDozeEntryDone_ends {s : State} (ms : Nat) (henters : s.powerState = 2)
    (hidle : s.media.ops.any (·.issued) = false) :
    let u := if s.isCard && s.up then s.writeLife else s
    let t := (((u.setFld PWR_STAT_STATE 3).setFlag CLK_PLL_STAT_LOCKED false).bump PWR_DOZE_CNT_ENTRIES).setFld
      PWR_WAKE_TIME_ENTRY_MS ms
    execDozeEntryDone ms s = .next (((t.fireIslands EV_CLK_ISLAND_GATED).fire EV_CLK_ALL_STOPPED).fire
      EV_PWR_DOZE_ENTER) := by
  simp only [execDozeEntryDone, henters, hidle, ne_eq, not_true_eq_false, Bool.false_eq_true, or_self, if_false]
  rfl

section
variable {s : State} {cause : Nat} (hcause : wakeOf s.role cause = true)
include hcause

/-- A cause of the role ends an entry. -/
theorem State.wake_entering (henters : s.powerState = 2) : s.wake cause = s.setFld PWR_STAT_STATE 0 := by
  simp only [State.wake, hcause, henters, Bool.not_true, Bool.false_eq_true, if_false, if_true]

/-- From DOZE it starts the wake. -/
theorem State.wake_dozing (hdozes : s.powerState = 3) :
    s.wake cause = (s.setFld PWR_STAT_STATE 4).setFld PWR_STAT_WAKE_CAUSE cause := by
  have hin : ¬ (3 : Nat) = 2 := by decide
  simp only [State.wake, hcause, hdozes, hin, Bool.not_true, Bool.false_eq_true, if_false, if_true]

end

/-- A cause of the other role does nothing. -/
theorem State.wake_other {s : State} {cause : Nat} (hcause : wakeOf s.role cause = false) : s.wake cause = s := by
  simp only [State.wake, hcause, Bool.not_false, if_true]

/-- The wake ends in RUN, with the PLL locked. -/
theorem execDozeWakeDone_ends {s : State} (us : Nat) (hwakes : s.powerState = 4) :
    let t := ((s.setFld PWR_STAT_STATE 0).setFlag CLK_PLL_STAT_LOCKED true).setFld PWR_WAKE_TIME_WAKE_US us
    execDozeWakeDone us s = .next (((((t.fireIslands EV_CLK_ISLAND_UNGATED).fireD EV_PWR_DOZE_EXIT
      (s.fld PWR_STAT_WAKE_CAUSE) 0).drive 0).drive 1).pump) :=
  if_neg (not_not_intro hwakes)

/-- Settles O31: each command by its own lemma, a request for DOZE split by whether something is outstanding. -/
theorem thermalAndDozeCommands : Obligations.ThermalAndDozeCommands := by
  unfold Obligations.ThermalAndDozeCommands
  refine ⟨fun t0 t1 t2 t3 s a l halive hused => execThsSample_takes halive hused,
    fun s htakes hdock hup hruns => ?_, fun ms s henters hidle => execDozeEntryDone_ends ms henters hidle,
    fun cause s => ⟨fun hcause => ⟨fun henters => ?_, fun hdozes => ?_⟩, fun hother => ?_⟩,
    fun us s hwakes => execDozeWakeDone_ends us hwakes⟩
  · have hasks := (execPwrCtrlDoze_writes 0x1D02E htakes).trans (congrArg _ (State.pwrCtrl_doze hdock hup hruns))
    exact ⟨fun hready => hasks.trans (congrArg _ (if_pos hready)),
      fun hbusy => hasks.trans (congrArg _ (if_neg (Bool.eq_false_iff.mp hbusy)))⟩
  · exact congrArg Host.Outcome.next (State.wake_entering hcause henters)
  · exact congrArg Host.Outcome.next (State.wake_dozing hcause hdozes)
  · exact congrArg Host.Outcome.next (State.wake_other hother)

end Sys2Proof.Machine
end
